-- ==== Sys2Proof/Word.lean ====
section
/-! DEFINITION. The word type of Axhild and its plainest readings (00_scope R6, R12; 07_numbers R84). -/

namespace Sys2Proof

/-- A general register, a control register or a global address: 64 bits (R26, R84). -/
abbrev Word := BitVec 64

/-- The smallest addressable unit of memory. -/
abbrev Byte := BitVec 8

/-- A register field of an instruction: g0 to g127 (R57). -/
abbrev Reg := BitVec 7

/-- sv of R103: the two's-complement reading. -/
abbrev Word.sv (x : Word) : Int := x.toInt

/-- uv of R103: the unsigned reading. -/
abbrev Word.uv (x : Word) : Nat := x.toNat

/-- An integer stored modulo 2^64 (R84, R103). -/
abbrev Word.ofInt (i : Int) : Word := BitVec.ofInt 64 i

end Sys2Proof
end

