-- ==== Sys2Proof/Config.lean ====
section
/-! DEFINITION. What an implementation fixes and the free values: constants without a body, of which Lean can
prove no value (00_scope R9 "undefined value"; log entries 3 and 12). -/

namespace Sys2Proof.Config

/-- The undefined values of R9: the n-th draw of the run, for the destination numbered `what`.
Log entry 3 lists where it is read. Safe: nothing constrains it. -/
opaque freeWord (draw what : Nat) : Word

/-- The two 48-byte halves r || s of the identity key's signature of a digest (R322, R323). Log entry 12. -/
opaque identitySignature (digest : List Byte) : List Byte

/-- Byte i of the public point of the identity key, fused at manufacture (R322). Log entry 12. -/
opaque identityPoint (i : Nat) : Byte

/-- Firmware's cause code of a failed boot step (R326 "a firmware cause code"). Log entry 12. -/
opaque firmwareCause (bootCount step : Nat) : BitVec 32

/-- The signed firmware image that boot step 1 loads and measures (R322). Log entry 12. -/
opaque firmwareImage (bootCount : Nat) : List Byte

/-- The switch-measured and PCI-Express-measured latencies of discovery entries 6 and 7 on a device in a pod
(R24: "entry 6 holds values that the switch firmware measures at boot"); `field` 0 fsc, 1 fworst, 2 rtt, 3 ack, 4 agents.
Log entry 13. -/
opaque podMeasured (entry field : Nat) : Nat

end Sys2Proof.Config
end

