-- ==== Sys2Proof/Machine/Bits.lean ====
section
/-! DEFINITION. Bit fields, sign extension, byte order, sparse tables and sorting: the helpers that the other
files of the machine share (00_scope R6, R12). -/

namespace Sys2Proof.Machine

/-- x[hi:lo] of an unbounded unsigned integer (R12). -/
def fld (x hi lo : Nat) : Nat := x / 2 ^ lo % 2 ^ (hi - lo + 1)

/-- One bit of an unsigned integer. -/
def bitAt (x i : Nat) : Bool := x / 2 ^ i % 2 == 1

/-- x[hi:lo] of a 64-bit word. -/
def wfld (x : Word) (hi lo : Nat) : Nat := fld x.toNat hi lo

/-- The two's-complement reading of the low n bits of x (R84). -/
def signedOf (n x : Nat) : Int :=
  let v := x % 2 ^ n
  if v < 2 ^ (n - 1) then (v : Int) else (v : Int) - 2 ^ n

/-- sext of the low n bits to 64 bits (R78). -/
def sextW (n x : Nat) : Word := Word.ofInt (signedOf n x)

/-- zext of the low n bits to 64 bits (R78). -/
def zextW (n x : Nat) : Word := BitVec.ofNat 64 (x % 2 ^ n)

/-- A Boolean as one bit. -/
def b2n (b : Bool) : Nat := if b then 1 else 0

/-- The number of significant bits: 0 for 0. -/
def bitLength (m : Nat) : Nat := if m = 0 then 0 else Nat.log2 m + 1

/-- The n low bytes of v, least significant first (R6). -/
def bytesLE : Nat → Nat → List Byte
  | 0, _ => []
  | n + 1, v => BitVec.ofNat 8 v :: bytesLE n (v / 256)

/-- The unsigned value of a little-endian run of bytes (R6). -/
def ofBytesLE : List Byte → Nat
  | [] => 0
  | b :: r => b.toNat + 256 * ofBytesLE r

/-- Up rounding of a quotient. -/
def ceilDiv (a b : Nat) : Nat := (a + b - 1) / b

/-- The words of n bytes each in a run of bytes, in order. -/
def chunkNats (n : Nat) : Nat → List Byte → List Nat
  | 0, _ => []
  | k + 1, bs => ofBytesLE (bs.take n) :: chunkNats n k (bs.drop n)

/-- Insertion into an ascending list, without repeats. -/
def insertNat (x : Nat) : List Nat → List Nat
  | [] => [x]
  | y :: r => if x < y then x :: y :: r else if x = y then y :: r else y :: insertNat x r

/-- The distinct members of a list, ascending. -/
def sortedSet (l : List Nat) : List Nat := l.foldr insertNat []

/-- The place of x in a list, or its length. -/
def rankIn (x : Nat) : List Nat → Nat
  | [] => 0
  | y :: r => if x = y then 0 else rankIn x r + 1

/-- Replaces member i of a list. -/
def setAt {α : Type} (l : List α) (i : Nat) (v : α) : List α :=
  match l, i with
  | [], _ => []
  | _ :: r, 0 => v :: r
  | x :: r, i + 1 => x :: setAt r i v

/-- The first member that meets p, and the list without it. -/
def takeFirst {α : Type} (p : α → Bool) : List α → Option (α × List α)
  | [] => none
  | x :: r =>
    if p x then some (x, r)
    else
      match takeFirst p r with
      | none => none
      | some (y, r') => some (y, x :: r')

/-- A sparse table: key and value pairs, keys ascending. -/
abbrev Assoc (α : Type) := List (Nat × α)

/-- The entry of a key. -/
def aget {α : Type} : Assoc α → Nat → Option α
  | [], _ => none
  | (k, v) :: r, key => if k = key then some v else aget r key

/-- The entry of a key, or a default. -/
def agetD {α : Type} (t : Assoc α) (key : Nat) (dflt : α) : α := (aget t key).getD dflt

/-- Sets the entry of a key. -/
def aset {α : Type} : Assoc α → Nat → α → Assoc α
  | [], key, v => [(key, v)]
  | (k, w) :: r, key, v =>
    if key < k then (key, v) :: (k, w) :: r
    else if k = key then (key, v) :: r
    else (k, w) :: aset r key v

/-- Removes the entry of a key. -/
def aerase {α : Type} (t : Assoc α) (key : Nat) : Assoc α := t.filter (fun p => p.1 != key)

/-- Whether two runs of bytes of one space overlap. -/
def overlaps (a n b m : Nat) : Bool := decide (a < b + m) && decide (b < a + n) && n != 0 && m != 0

end Sys2Proof.Machine
end

