-- ==== Sys2Proof/Machine/Memory.lean ====
section
/-! DEFINITION. Byte memory in its one canonical form: addresses strictly rising, no entry zero, because an unlisted
address reads zero (25_system R324 step 6: "scrub both tiers: zero"; 21_fabric R301: "a zero scratchpad"). -/

namespace Sys2Proof.Machine

/-- The bytes of an address space that are not zero. -/
abbrev Memory := List Host.Cell

/-- What an unlisted address reads as (R324 step 6, R301; host memory: log entry 8). -/
def Memory.unlisted : Byte := 0

/-- The canonical form: addresses strictly rise and no entry equals what an unlisted address reads as. -/
def Memory.wf : Memory → Bool
  | [] => true
  | [c] => c.2 != Memory.unlisted
  | c :: d :: r => decide (c.1 < d.1) && c.2 != Memory.unlisted && Memory.wf (d :: r)

/-- Reads one byte. -/
def Memory.read : Memory → Nat → Byte
  | [], _ => Memory.unlisted
  | c :: r, a => if c.1 = a then c.2 else Memory.read r a

/-- Drops the entry of an address. -/
def Memory.drop : Memory → Nat → Memory
  | [], _ => []
  | c :: r, a => if c.1 = a then Memory.drop r a else c :: Memory.drop r a

/-- Puts an entry in its place among rising addresses. -/
def Memory.insert : Memory → Nat → Byte → Memory
  | [], a, b => [(a, b)]
  | c :: r, a, b => if a < c.1 then (a, b) :: c :: r else c :: Memory.insert r a b

/-- Writes one byte and keeps the canonical form. -/
def Memory.write (m : Memory) (a : Nat) (b : Byte) : Memory :=
  if b = Memory.unlisted then Memory.drop m a else Memory.insert (Memory.drop m a) a b

/-- Reads n bytes from a upward. -/
def Memory.readBytes (m : Memory) (a : Nat) : Nat → List Byte
  | 0 => []
  | n + 1 => Memory.read m a :: Memory.readBytes m (a + 1) n

/-- Writes a run of bytes from a upward. -/
def Memory.writeBytes (m : Memory) (a : Nat) : List Byte → Memory
  | [] => m
  | b :: r => Memory.writeBytes (Memory.write m a b) (a + 1) r

/-- An unsigned little-endian value of n bytes (R6). -/
def Memory.readLE (m : Memory) (a n : Nat) : Nat := ofBytesLE (Memory.readBytes m a n)

/-- Writes an unsigned value as n little-endian bytes (R6). -/
def Memory.writeLE (m : Memory) (a n v : Nat) : Memory := Memory.writeBytes m a (bytesLE n v)

/-- The 64-bit word at an address. -/
def Memory.readWord (m : Memory) (a : Nat) : Word := BitVec.ofNat 64 (Memory.readLE m a 8)

/-- Zeroes n bytes from a on, whatever n. -/
def Memory.clear (m : Memory) (a n : Nat) : Memory := m.filter (fun c => !(decide (a ≤ c.1) && decide (c.1 < a + n)))

/-- Writes listed cells. -/
def Memory.writeCells (m : Memory) : List Host.Cell → Memory
  | [] => m
  | c :: r => Memory.writeCells (Memory.write m c.1 c.2) r

/-- Copies n bytes from one place to another. -/
def Memory.copyRange (m : Memory) (src dst n : Nat) : Memory :=
  (m.clear dst n).writeCells
    ((m.filter (fun c => decide (src ≤ c.1) && decide (c.1 < src + n))).map (fun c => (c.1 - src + dst, c.2)))

end Sys2Proof.Machine
end

