-- ==== Sys2Proof/Syntax.lean ====
section
/-! DEFINITION. The instructions and steps of the opcode table, one constructor for each row, with their operand
bundles (05_encoding R56 to R65) and the data that a step without an encoding carries. -/

namespace Sys2Proof

/-- R format with rd, ra, rb (R56). -/
structure R3 where
  d : Reg
  a : Reg
  b : Reg
  deriving DecidableEq, Repr

/-- R format with rd, ra (R56). -/
structure R2 where
  d : Reg
  a : Reg
  deriving DecidableEq, Repr

/-- I format with an 11-bit immediate (R56, R57). -/
structure RI where
  d : Reg
  a : Reg
  imm : BitVec 11
  deriving DecidableEq, Repr

/-- Long form with a 32-bit immediate (R56, R64). -/
structure RL where
  d : Reg
  a : Reg
  imm : BitVec 32
  deriving DecidableEq, Repr

/-- Immediate shift: the amount of R107. -/
structure RS where
  d : Reg
  a : Reg
  n : BitVec 6
  deriving DecidableEq, Repr

/-- J format: 18-bit offset or immediate (R56, R57). -/
structure RJ where
  d : Reg
  off : BitVec 18
  deriving DecidableEq, Repr

/-- B format: two sources and an 11-bit word offset (R56, R57). -/
structure RB where
  a : Reg
  b : Reg
  off : BitVec 11
  deriving DecidableEq, Repr

/-- Bit field: position and length minus one, as R60 encodes them. -/
structure RF where
  d : Reg
  a : Reg
  pos : BitVec 6
  lenm1 : BitVec 6
  deriving DecidableEq, Repr

/-- Floating point with rd, ra, rb, size (true is `.d`) and rounding code (R61). -/
structure F3 where
  d : Reg
  a : Reg
  b : Reg
  dbl : Bool
  rm : BitVec 3
  deriving DecidableEq, Repr

/-- Floating point with rd, ra, size and rounding code (R61). -/
structure F2 where
  d : Reg
  a : Reg
  dbl : Bool
  rm : BitVec 3
  deriving DecidableEq, Repr

/-- Floating point with rd, ra, rb and size, no rounding field (R118 to R120). -/
structure FC where
  d : Reg
  a : Reg
  b : Reg
  dbl : Bool
  deriving DecidableEq, Repr

/-- fclass: rd, ra and size (R121). -/
structure FK where
  d : Reg
  a : Reg
  dbl : Bool
  deriving DecidableEq, Repr

/-- fcvt: destination type, source type and rounding code (R62, R122). -/
structure FV where
  d : Reg
  a : Reg
  dt : BitVec 4
  st : BitVec 4
  rm : BitVec 3
  deriving DecidableEq, Repr

/-- M format (R56 to R58): rt, ra, scaled offset, space, last-use hint, counter to wait for. -/
structure MemOp where
  t : Reg
  a : Reg
  off : BitVec 6
  sp : BitVec 2
  lu : Bool
  wk : BitVec 2
  deriving DecidableEq, Repr

/-- M format, atomic variant (R59): `wide` is op[0], the larger of the two sizes. -/
structure AmoOp where
  wide : Bool
  t : Reg
  a : Reg
  ord : BitVec 2
  sp : BitVec 2
  scope : BitVec 3
  deriving DecidableEq, Repr

/-- X format (R56, R65): the three register-field roles and the Chime line. -/
structure XC where
  c : Reg
  a : Reg
  b : Reg
  ev : BitVec 4
  deriving DecidableEq, Repr

/-- Long form of an X-format command (R64): the rb operand is a 32-bit immediate. -/
structure XL where
  c : Reg
  a : Reg
  ev : BitVec 4
  imm : BitVec 32
  deriving DecidableEq, Repr

/-- X format whose rc field is zero. -/
structure X2 where
  a : Reg
  b : Reg
  ev : BitVec 4
  deriving DecidableEq, Repr

/-- Long form of an X-format command whose rc field is zero. -/
structure X2L where
  a : Reg
  ev : BitVec 4
  imm : BitVec 32
  deriving DecidableEq, Repr

/-- A thread: its package core index (package station index times 8 plus core, R277) and its slot (R26). -/
structure ThreadId where
  core : Nat
  slot : Nat
  deriving DecidableEq, Repr

/-- The operation of an integer atomic (R63). -/
inductive AmoKind where
  | add | and | or | xor | min | max | minu | maxu | swap | cas
  deriving DecidableEq, Repr

/-- The operation of a floating-point atomic (R63). -/
inductive FamoKind where
  | fadd | fmin | fmax
  deriving DecidableEq, Repr

/-- What an access does at its owner (R148, R152, R155, R156). -/
inductive AccessKind where
  | load | store | ldfe | ldff | stfe | stf | fest
  | amo (k : AmoKind)
  | famo (k : FamoKind)
  deriving DecidableEq, Repr

/-- What an agent outside this device answers to a request that left over a link or over PCI Express
(R225, R288, R291). Ignored when the request was answered on the device. -/
structure ExtAnswer where
  /-- 0 for success, else the fault code of R218. -/
  fault : Nat
  /-- The sub field that goes with the fault. -/
  sub : Nat
  /-- The value read. -/
  data : Word
  /-- The bytes of a line or of rows, in request order. -/
  bytes : List Byte
  deriving DecidableEq, Repr

/-- An access that another device sends to this one (R225, R285, R287). -/
structure PodAccess where
  /-- The device that sends it, and the number under which it waits for the answer. -/
  device : Nat
  reqid : Nat
  kind : AccessKind
  ctx : Nat
  va : Nat
  n : Nat
  x : Word
  y : Word
  user : Bool
  deriving DecidableEq, Repr

/-- A message under way (R168 to R170). `payload` holds its words as a receiver sees them, narrowed and widened under w
(R100). -/
structure Message where
  src : BitVec 32
  dst : BitVec 32
  tag : BitVec 16
  w : BitVec 3
  payload : List Word
  returned : Bool
  ctx : Nat
  scope : Nat
  deriving DecidableEq, Repr

/-- A row request of another device (R214). -/
structure RowReq where
  srcdev : Nat
  dstdev : Nat
  ctx : Nat
  reqid : Nat
  tag : Word
  addr : Nat
  desc : Nat
  w : Nat
  rlog : Nat
  deriving DecidableEq, Repr

/-- A row response (R214): status, the merged request ids and the row narrowed under w. -/
structure RowResp where
  srcdev : Nat
  dstdev : Nat
  ctx : Nat
  status : Nat
  addr : Nat
  reqids : List Nat
  row : List Byte
  deriving DecidableEq, Repr

/-- A row update of another device (R285 kind 0x23): add selects scadd, else rowput; its row is narrowed under w (R100). -/
structure RowUpd where
  device : Nat
  reqid : Nat
  ctx : Nat
  addr : Nat
  add : Bool
  dbl : Bool
  w : Nat
  row : List Byte
  delta : Nat
  deriving DecidableEq, Repr

/-- A message on a link: its payload narrowed under w, in wire bytes (R100, R169). -/
structure WireMessage where
  src : BitVec 32
  dst : BitVec 32
  tag : BitVec 16
  w : BitVec 3
  wire : List Byte
  returned : Bool
  scope : Nat
  deriving DecidableEq, Repr

/-- The packets that the device receives (R285). -/
inductive PodPacket where
  | access (p : PodAccess)
  | message (m : WireMessage)
  | rowRequest (q : RowReq)
  | rowResponse (p : RowResp)
  | rowUpdate (u : RowUpd)
  | rowAck (reqid status : Nat)
  | timeLock
  deriving DecidableEq, Repr

/-- The packets that the device sends (R285), each with the context that its flit bears (R284). -/
inductive OutPacket where
  /-- Kinds 0x01, 0x03, 0x05 and 0x07: the access of a number. -/
  | access (device ctx id : Nat)
  /-- Kinds 0x02, 0x04, 0x06 and 0x08: the answer to a request of another device. -/
  | answer (device ctx : Nat) (kind : AccessKind) (reqid fault sub info : Nat) (value : Word)
  /-- Kind 0x10, with the number of the message. -/
  | message (id ctx : Nat) (m : WireMessage)
  /-- Kinds 0x21 and 0x22. -/
  | rowRequest (q : RowReq)
  | rowResponse (p : RowResp)
  /-- Kinds 0x23 and 0x24. -/
  | rowUpdate (device : Nat) (u : RowUpd)
  | rowAck (device ctx reqid status : Nat)
  | timeLock
  deriving DecidableEq, Repr

/-- A received flit (R284). `crcOk` and `tagOk` are the outcomes of the CRC-64 and AES-GCM checks. -/
structure Flit where
  port : Nat
  seq : BitVec 16
  ack : BitVec 16
  crq : Nat
  crs : Nat
  ctx : Nat
  crcOk : Bool
  tagOk : Bool
  packets : List PodPacket
  deriving DecidableEq, Repr

/-- What the environment lets happen at a boot (R324): for each step whether the normal way and the alternative
way work, and what they find. -/
structure BootInput where
  normalOk : List Bool
  altOk : List Bool
  /-- Package core indices that fail the test of step 3. -/
  badCores : List Nat
  /-- HBM stacks that train in the alternative way of step 4. -/
  goodStacks : BitVec 12
  /-- Ports that train in step 8. -/
  goodPorts : BitVec 24
  /-- Whether a switch answers at step 9, and the number it assigns. -/
  inPod : Bool
  device : BitVec 14
  /-- Physical lines that fail the scrub of step 6. -/
  badLines : List Nat
  deriving DecidableEq, Repr

/-- ONE constructor for each row of spec/opcode_table.json: first the words of Axhild, then the steps of the
engines, owners, firmware, debugger and host, which have no encoding. -/
inductive Instr where
  /-- ADD: Writes the 64-bit sum of two registers to rd. (R104) -/
  | add (r : R3)
  /-- SUB: Writes the 64-bit difference of two registers to rd. (R104) -/
  | sub (r : R3)
  /-- MUL: Writes the low 64 bits of the product to rd. (R104) -/
  | mul (r : R3)
  /-- MULH: Writes the high 64 bits of the signed product to rd. (R104) -/
  | mulh (r : R3)
  /-- MULHU: Writes the high 64 bits of the unsigned product to rd. (R104) -/
  | mulhu (r : R3)
  /-- MULHSU: Writes the high 64 bits of the signed-by-unsigned product to rd. (R104) -/
  | mulhsu (r : R3)
  /-- MADD: Adds the product of ra and rb to rd. (R104) -/
  | madd (r : R3)
  /-- DIV: Signed division rounded toward zero, with fixed results for the special cases. (R105) -/
  | div (r : R3)
  /-- DIVU: Unsigned division, all ones on division by zero. (R105) -/
  | divu (r : R3)
  /-- REM: Signed remainder taking the sign of the dividend. (R105) -/
  | rem (r : R3)
  /-- REMU: Unsigned remainder, the dividend on division by zero. (R105) -/
  | remu (r : R3)
  /-- AND: Bitwise AND of two registers. (R106) -/
  | and (r : R3)
  /-- OR: Bitwise OR of two registers. (R106) -/
  | or (r : R3)
  /-- XOR: Bitwise XOR of two registers. (R106) -/
  | xor (r : R3)
  /-- ANDN: ra AND NOT rb. (R106) -/
  | andn (r : R3)
  /-- ORN: ra OR NOT rb. (R106) -/
  | orn (r : R3)
  /-- SHL: Shift left by rb[5:0]. (R107) -/
  | shl (r : R3)
  /-- SHR: Logical shift right by rb[5:0]. (R107) -/
  | shr (r : R3)
  /-- SAR: Arithmetic shift right by rb[5:0]. (R107) -/
  | sar (r : R3)
  /-- ROTL: Rotate left by rb[5:0]. (R107) -/
  | rotl (r : R3)
  /-- MIN: Signed minimum. (R108) -/
  | min (r : R3)
  /-- MAX: Signed maximum. (R108) -/
  | max (r : R3)
  /-- MINU: Unsigned minimum. (R108) -/
  | minu (r : R3)
  /-- MAXU: Unsigned maximum. (R108) -/
  | maxu (r : R3)
  /-- SLT: Sets rd to 1 when ra is below rb, signed. (R108) -/
  | slt (r : R3)
  /-- SLTU: Sets rd to 1 when ra is below rb, unsigned. (R108) -/
  | sltu (r : R3)
  /-- SEL: Selects ra or rb by the old value of rd. (R108) -/
  | sel (r : R3)
  /-- CLZ: Counts leading zero bits. (R109) -/
  | clz (r : R2)
  /-- CTZ: Counts trailing zero bits. (R109) -/
  | ctz (r : R2)
  /-- POPC: Counts one bits. (R109) -/
  | popc (r : R2)
  /-- BSWAP: Reverses the byte order. (R109) -/
  | bswap (r : R2)
  /-- SEXT_B: Sign-extends the low byte. (R109) -/
  | sextB (r : R2)
  /-- SEXT_H: Sign-extends the low halfword. (R109) -/
  | sextH (r : R2)
  /-- SEXT_W: Sign-extends the low word. (R109) -/
  | sextW (r : R2)
  /-- ZEXT_B: Zero-extends the low byte. (R109) -/
  | zextB (r : R2)
  /-- ZEXT_H: Zero-extends the low halfword. (R109) -/
  | zextH (r : R2)
  /-- ZEXT_W: Zero-extends the low word. (R109) -/
  | zextW (r : R2)
  /-- HASHM: Hashes an identifier under a key. (R110) -/
  | hashm (r : R3)
  /-- ADDI: Adds a sign-extended 11-bit immediate. (R111) -/
  | addi (r : RI)
  /-- ANDI: ANDs a sign-extended 11-bit immediate. (R111) -/
  | andi (r : RI)
  /-- ORI: ORs a sign-extended 11-bit immediate. (R111) -/
  | ori (r : RI)
  /-- XORI: XORs a sign-extended 11-bit immediate. (R111) -/
  | xori (r : RI)
  /-- SLTI: Signed compare against an immediate. (R111) -/
  | slti (r : RI)
  /-- SLTIU: Unsigned compare against a sign-extended immediate. (R111) -/
  | sltiu (r : RI)
  /-- ADDI_LONG: Long-form addi with a 32-bit immediate. (R64) -/
  | addiLong (r : RL)
  /-- ANDI_LONG: Long-form andi with a 32-bit immediate. (R64) -/
  | andiLong (r : RL)
  /-- ORI_LONG: Long-form ori with a 32-bit immediate. (R64) -/
  | oriLong (r : RL)
  /-- XORI_LONG: Long-form xori with a 32-bit immediate. (R64) -/
  | xoriLong (r : RL)
  /-- SLTI_LONG: Long-form slti with a 32-bit immediate. (R64) -/
  | sltiLong (r : RL)
  /-- SLTIU_LONG: Long-form sltiu with a 32-bit immediate. (R64) -/
  | sltiuLong (r : RL)
  /-- LUI_H: Loads a 32-bit immediate into the upper half of rd. (R64) -/
  | luiH (d : Reg) (imm : BitVec 32)
  /-- SHLI: Shift left by an immediate amount. (R107) -/
  | shli (r : RS)
  /-- SHRI: Logical shift right by an immediate amount. (R107) -/
  | shri (r : RS)
  /-- SARI: Arithmetic shift right by an immediate amount. (R107) -/
  | sari (r : RS)
  /-- ROTLI: Rotate left by an immediate amount. (R107) -/
  | rotli (r : RS)
  /-- LUI: Writes an 18-bit immediate times 2,048 to rd. (R112) -/
  | lui (r : RJ)
  /-- ADDPC: Writes pc plus a word offset to rd. (R112) -/
  | addpc (r : RJ)
  /-- BFX: Extracts a bit field, sign-extended. (R113) -/
  | bfx (r : RF)
  /-- BFXU: Extracts a bit field, zero-extended. (R113) -/
  | bfxu (r : RF)
  /-- BFI: Inserts a bit field into rd. (R113) -/
  | bfi (r : RF)
  /-- FADD: Floating-point addition rounded once. (R116) -/
  | fadd (r : F3)
  /-- FSUB: Floating-point subtraction rounded once. (R116) -/
  | fsub (r : F3)
  /-- FMUL: Floating-point multiplication rounded once. (R116) -/
  | fmul (r : F3)
  /-- FMA: Fused multiply-add into rd, rounded once. (R116) -/
  | fma (r : F3)
  /-- FDIV: Floating-point division rounded once. (R116) -/
  | fdiv (r : F3)
  /-- FSQRT: Floating-point square root rounded once. (R116) -/
  | fsqrt (r : F2)
  /-- FMIN: Floating-point minimum. (R118) -/
  | fmin (r : FC)
  /-- FMAX: Floating-point maximum. (R118) -/
  | fmax (r : FC)
  /-- FSGN: Replaces the sign bit of ra by that of rb. (R119) -/
  | fsgn (r : FC)
  /-- FCMP: Floating-point comparison writing 1 or 0. (R120) -/
  | fcmp (r : FC) (cond : BitVec 3)
  /-- FCLASS: Writes a one-hot class mask of the operand. (R121) -/
  | fclass (r : FK)
  /-- FCVT: Converts between number types. (R122) -/
  | fcvt (r : FV)
  /-- FROUND: Rounds to an integral value in the same format. (R123) -/
  | fround (r : F2)
  /-- BL: Branches by a word offset and writes the link (b when rd is 0). (R124) -/
  | bl (r : RJ)
  /-- JR: Jumps to the address in ra. (R125) -/
  | jr (a : Reg)
  /-- JLR: Jumps to ra and writes the link to rd. (R125) -/
  | jlr (r : R2)
  /-- BEQ: Branches when equal. (R126) -/
  | beq (r : RB)
  /-- BNE: Branches when not equal. (R126) -/
  | bne (r : RB)
  /-- BLT: Branches when signed less. (R126) -/
  | blt (r : RB)
  /-- BGE: Branches when signed greater or equal. (R126) -/
  | bge (r : RB)
  /-- BLTU: Branches when unsigned less. (R126) -/
  | bltu (r : RB)
  /-- BGEU: Branches when unsigned greater or equal. (R126) -/
  | bgeu (r : RB)
  /-- XBORROW: Tries to borrow the window of an idle slot on the core. (R129) -/
  | xborrow (r : R2)
  /-- XRETURN: Returns a held window to its lender. (R130) -/
  | xreturn
  /-- XGET: Reads a register of the held window. (R131) -/
  | xget (r : R2)
  /-- XPUT: Writes a register of the held window. (R131) -/
  | xput (j a : Reg)
  /-- LD_B: Loads a signed byte. (R148) -/
  | ldB (m : MemOp)
  /-- LD_H: Loads a signed halfword. (R148) -/
  | ldH (m : MemOp)
  /-- LD_W: Loads a signed word. (R148) -/
  | ldW (m : MemOp)
  /-- LD_D: Loads a doubleword. (R148) -/
  | ldD (m : MemOp)
  /-- LD_BU: Loads an unsigned byte. (R148) -/
  | ldBu (m : MemOp)
  /-- LD_HU: Loads an unsigned halfword. (R148) -/
  | ldHu (m : MemOp)
  /-- LD_WU: Loads an unsigned word. (R148) -/
  | ldWu (m : MemOp)
  /-- ST_B: Stores a byte, posted for remote spaces. (R148) -/
  | stB (m : MemOp)
  /-- ST_H: Stores a halfword, posted for remote spaces. (R148) -/
  | stH (m : MemOp)
  /-- ST_W: Stores a word, posted for remote spaces. (R148) -/
  | stW (m : MemOp)
  /-- ST_D: Stores a doubleword, posted for remote spaces. (R148) -/
  | stD (m : MemOp)
  /-- LDFE: Loads a full word and leaves it empty, parking until full. (R152) -/
  | ldfe (m : MemOp)
  /-- LDFF: Loads a full word and leaves it full, parking until full. (R152) -/
  | ldff (m : MemOp)
  /-- STFE: Stores into an empty word and sets it full, parking until empty. (R152) -/
  | stfe (m : MemOp)
  /-- STF: Stores and sets the word full. (R152) -/
  | stf (m : MemOp)
  /-- FEST: Sets the full/empty bit from rt[0]. (R152) -/
  | fest (m : MemOp)
  /-- AMO_ADD: Atomic add at the owner returning the old value. (R155) -/
  | amoAdd (m : AmoOp)
  /-- AMO_AND: Atomic AND returning the old value. (R155) -/
  | amoAnd (m : AmoOp)
  /-- AMO_OR: Atomic OR returning the old value. (R155) -/
  | amoOr (m : AmoOp)
  /-- AMO_XOR: Atomic XOR returning the old value. (R155) -/
  | amoXor (m : AmoOp)
  /-- AMO_MIN: Atomic signed minimum returning the old value. (R155) -/
  | amoMin (m : AmoOp)
  /-- AMO_MAX: Atomic signed maximum returning the old value. (R155) -/
  | amoMax (m : AmoOp)
  /-- AMO_MINU: Atomic unsigned minimum returning the old value. (R155) -/
  | amoMinu (m : AmoOp)
  /-- AMO_MAXU: Atomic unsigned maximum returning the old value. (R155) -/
  | amoMaxu (m : AmoOp)
  /-- AMO_SWAP: Atomic swap returning the old value. (R155) -/
  | amoSwap (m : AmoOp)
  /-- CAS: Atomic compare-and-swap using a register pair. (R155) -/
  | cas (m : AmoOp)
  /-- FAMO_FADD: Floating-point add performed at the owner. (R156) -/
  | famoFadd (m : AmoOp)
  /-- FAMO_FMIN: Floating-point minimum performed at the owner. (R156) -/
  | famoFmin (m : AmoOp)
  /-- FAMO_FMAX: Floating-point maximum performed at the owner. (R156) -/
  | famoFmax (m : AmoOp)
  /-- FENCE: Release and acquire at a scope. (R157) -/
  | fence (scope : BitVec 3)
  /-- FENCE_SC: Fence plus a round trip to the scope's order point. (R176) -/
  | fenceSc (scope : BitVec 3)
  /-- WAITK: Waits until the selected posted-store counters are zero. (R157) -/
  | waitk (mask : BitVec 3)
  /-- SCOPE: Writes scope_of of two place words. (R157) -/
  | scope (r : R3)
  /-- SEMP: Waits for and takes a unit of a station semaphore. (R158) -/
  | semp (n : BitVec 6)
  /-- SEMV: Releases and gives a unit to a station semaphore. (R158) -/
  | semv (n : BitVec 6)
  /-- BAR: Releases, arrives at a barrier unit and waits for the phase. (R159) -/
  | bar (scope u : BitVec 3)
  /-- STEP: Increments the instance's step count within the drift bound. (R49) -/
  | step
  /-- RDTIME: Reads the Carillon count. (R161) -/
  | rdtime (d : Reg)
  /-- ATTIME: Waits until the Carillon count reaches a value. (R161) -/
  | attime (a : Reg)
  /-- WAITW: Drops any held task without retiring it and waits for a placement. (R162) -/
  | waitw
  /-- DONE: Releases at package scope, retires the task and waits for work. (R162) -/
  | done
  /-- TRIG: Releases and makes the instance's contribution early. (R162) -/
  | trig
  /-- POST: Enqueues a dynamic instance at the station dispenser. (R163) -/
  | post (a b : Reg)
  /-- EVWAIT: Waits on a Chime line and takes one completion or its failure. (R165) -/
  | evwait (a : Reg)
  /-- EVPOLL: Reads a Chime line's state without waiting. (R165) -/
  | evpoll (r : R2)
  /-- EVCLR: Clears a Chime line. (R165) -/
  | evclr (a : Reg)
  /-- POPR: Waits for and removes the oldest reply entry. (R167) -/
  | popr (d : Reg)
  /-- PEEKR: Reads the oldest reply entry without removing it. (R167) -/
  | peekr (d : Reg)
  /-- SEND: Releases and snapshots a message into the send queue. (R168) -/
  | send (a b : Reg) (w : BitVec 3)
  /-- RECV: Waits for and takes the oldest inbox message into scratchpad. (R170) -/
  | recv (r : R2)
  /-- TBLDEF: Reads, checks and distributes a table descriptor to every station. (R192) -/
  | tbldef (a b : Reg)
  /-- TBLINV: Invalidates a descriptor register at every station. (R193) -/
  | tblinv (a : Reg)
  /-- SHARDOF: Returns the device, station and shard of a row index. (R195) -/
  | shardof (r : R3)
  /-- GATHER: Looks up one row per list position into scratchpad. (R200) -/
  | gather (x : XC)
  /-- SCATTER: Replaces table rows from scratchpad rows. (R201) -/
  | scatter (x : XC)
  /-- SCADD: Adds scratchpad rows into table rows. (R201) -/
  | scadd (x : XC)
  /-- DEDUP: Writes sorted unique indices and an inverse map. (R202) -/
  | dedup (x : XC)
  /-- SEGRED: Reduces looked-up rows by segment. (R203) -/
  | segred (x : XC)
  /-- ISECT: Intersects two ascending index lists. (R204) -/
  | isect (x : XC)
  /-- GATHER_LONG: Long form of gather with an immediate count word. (R64) -/
  | gatherLong (x : XL)
  /-- SCATTER_LONG: Long form of scatter with an immediate count word. (R64) -/
  | scatterLong (x : XL)
  /-- SCADD_LONG: Long form of scadd with an immediate count word. (R64) -/
  | scaddLong (x : XL)
  /-- DEDUP_LONG: Long form of dedup with an immediate count word. (R64) -/
  | dedupLong (x : XL)
  /-- SEGRED_LONG: Long form of segred with an immediate count word. (R64) -/
  | segredLong (x : XL)
  /-- ISECT_LONG: Long form of isect with an immediate count word. (R64) -/
  | isectLong (x : XL)
  /-- ROWGET: Looks up one table row into own scratchpad. (R210) -/
  | rowget (x : XC)
  /-- ROWPUT: Replaces one table row from own scratchpad. (R210) -/
  | rowput (x : XC)
  /-- ROWADD: Element-wise sum of two rows. (R211) -/
  | rowadd (x : XC)
  /-- ROWAXPY: Element-wise a times x plus y into y. (R211) -/
  | rowaxpy (x : XC)
  /-- ROWSCALE: Scales a row by a scalar. (R211) -/
  | rowscale (x : XC)
  /-- ROWDOT: Dot product of two rows by a fixed tree into a register. (R212) -/
  | rowdot (x : XC)
  /-- ROWCVT: Converts a row to another element format. (R211) -/
  | rowcvt (x : X2)
  /-- ROWZERO: Zeroes a row. (R211) -/
  | rowzero (x : X2)
  /-- ROWCOPY: Copies a row's bytes unchanged. (R211) -/
  | rowcopy (x : X2)
  /-- ROWTOPK: Writes the k largest elements and their indices. (R213) -/
  | rowtopk (x : XC)
  /-- ROWGET_LONG: Long form of rowget with an immediate row word. (R64) -/
  | rowgetLong (x : XL)
  /-- ROWPUT_LONG: Long form of rowput with an immediate row word. (R64) -/
  | rowputLong (x : XL)
  /-- ROWADD_LONG: Long form of rowadd with an immediate row word. (R64) -/
  | rowaddLong (x : XL)
  /-- ROWAXPY_LONG: Long form of rowaxpy with an immediate row word. (R64) -/
  | rowaxpyLong (x : XL)
  /-- ROWSCALE_LONG: Long form of rowscale with an immediate row word. (R64) -/
  | rowscaleLong (x : XL)
  /-- ROWDOT_LONG: Long form of rowdot with an immediate row word. (R64) -/
  | rowdotLong (x : XL)
  /-- ROWCVT_LONG: Long form of rowcvt with an immediate row word. (R64) -/
  | rowcvtLong (x : X2L)
  /-- ROWZERO_LONG: Long form of rowzero with an immediate row word. (R64) -/
  | rowzeroLong (x : X2L)
  /-- ROWCOPY_LONG: Long form of rowcopy with an immediate row word. (R64) -/
  | rowcopyLong (x : X2L)
  /-- ROWTOPK_LONG: Long form of rowtopk with an immediate row word. (R64) -/
  | rowtopkLong (x : XL)
  /-- MCLAIM: Claims a free operand slot at the array. (R249) -/
  | mclaim (slot : Reg)
  /-- MREL: Releases an operand slot. (R249) -/
  | mrel (slot : Reg)
  /-- MLOAD: Loads an operand slot from slice containers. (R252) -/
  | mload (x : XC)
  /-- MSPLIT: Splits a floating-point block into S slice slots. (R251) -/
  | msplit (x : XC)
  /-- MMUL: Adds one slice-pair product into a tile. (R253) -/
  | mmul (x : XC)
  /-- MSLICE: Runs every slice pair of a split product into a tile. (R255) -/
  | mslice (x : XC)
  /-- MCOMB: Recombines a tile into own scratchpad. (R258) -/
  | mcomb (x : X2)
  /-- MZERO: Empties an accumulator tile. (R256) -/
  | mzero (tile : Reg)
  /-- MDRAIN: Recombines a tile into a core's scratchpad and may send a Gong. (R259) -/
  | mdrain (x : XC)
  /-- MLOAD_LONG: Long form of mload with an immediate control word. (R64) -/
  | mloadLong (x : XL)
  /-- MSPLIT_LONG: Long form of msplit with an immediate control word. (R64) -/
  | msplitLong (x : XL)
  /-- MMUL_LONG: Long form of mmul with an immediate control word. (R64) -/
  | mmulLong (x : XL)
  /-- MSLICE_LONG: Long form of mslice with an immediate control word. (R64) -/
  | msliceLong (x : XL)
  /-- MCOMB_LONG: Long form of mcomb with an immediate control word. (R64) -/
  | mcombLong (x : X2L)
  /-- MDRAIN_LONG: Long form of mdrain with an immediate control word. (R64) -/
  | mdrainLong (x : XL)
  /-- MRDACC: Reads part of an accumulator entry, retrying while the tile is locked. (R260) -/
  | mrdacc (d tile b : Reg)
  /-- MWRACC: Writes part of an accumulator entry. (R260) -/
  | mwracc (tile a b : Reg)
  /-- MSTAT: Requests a tile summary as an exposed-latency result. (R261) -/
  | mstat (d tile : Reg)
  /-- ECALL: Raises ECALL as a completed instruction. (R133) -/
  | ecall
  /-- ERET: Returns from a trap, restoring mode and interrupt enable. (R135) -/
  | eret
  /-- BRK: Raises BREAK. (R134) -/
  | brk
  /-- TRAPC: Raises BREAK when ra is nonzero. (R134) -/
  | trapc (a : Reg)
  /-- WFI: Waits until an interrupt is pending. (R136) -/
  | wfi
  /-- RDC: Reads a control register. (R137) -/
  | rdc (d : Reg) (n : BitVec 4)
  /-- WRC: Writes a control register. (R137) -/
  | wrc (a : Reg) (n : BitVec 4)
  /-- IINV: Invalidates instruction-cache lines of the core. (R140) -/
  | iinv (a b : Reg)
  /-- IFENCE: Discards the thread's fetch register. (R141) -/
  | ifence
  /-- XINV: Removes translation-station entries of the context. (R142) -/
  | xinv (a b : Reg)
  /-- TASK_PLACEMENT: The dispenser chooses an instance and places it on an eligible thread. (R45) -/
  | taskPlacement (station : Nat)
  /-- PRIORITY_AGING: A pending instance's effective priority rises after 2^20 running ticks. (R44) -/
  | priorityAging (ctx : Nat)
  /-- STEP_TIMEOUT: A STEP held beyond 2^24 ticks raises the STEP fault. (R50) -/
  | stepTimeout (t : ThreadId)
  /-- ROT_LENGTH_CHANGE: A written rotation length takes effect after position L-1. (R30) -/
  | rotLengthChange (core : Nat)
  /-- REMOTE_ACCESS_ARRIVAL: A peer or global request reaches its owner and is performed, parked or refused. (R145) -/
  | remoteAccessArrival (id : Nat)
  /-- REMOTE_ANSWER: An owner's answer arrives and completes the waiting access. (R79) -/
  | remoteAnswer (id : Nat) (ext : ExtAnswer)
  /-- POSTED_STORE_ACK: A store acknowledgement lowers its counter, recording any failure. (R221) -/
  | postedStoreAck (id : Nat) (ext : ExtAnswer)
  /-- PARK_RETRY: A refused synchronising request is sent again in the thread's own slot. (R146) -/
  | parkRetry (id : Nat)
  /-- PARK_CANCEL_ANSWER: The owner's answer to a cancel of a parked request returns. (R143) -/
  | parkCancelAnswer (id : Nat)
  /-- FETIMEOUT: A synchronising request past the retry limit is cancelled and faults. (R146) -/
  | fetimeout (id : Nat)
  /-- INTERRUPT_ENTRY: An eligible interrupt is taken between instructions or from a wait. (R215) -/
  | interruptEntry (t : ThreadId)
  /-- TIMER_EXPIRY: The Carillon count reaches the timer compare and TIMER becomes pending. (R220) -/
  | timerExpiry (ctx : Nat)
  /-- IFETCH_LINE_FILL: A missing instruction line arrives from its home slice. (R139) -/
  | ifetchLineFill (t : ThreadId) (ext : ExtAnswer)
  /-- SLICE_FILL: A DRAM fill returns and validates a line's unstored words. (R279) -/
  | sliceFill (station line : Nat)
  /-- REFRESH_WINDOW_END: The refresh window ends, releasing pinned lines and restarting counts. (R281) -/
  | refreshWindowEnd
  /-- SCADD_FOLD: A deferred accumulate is folded into its row within Δ ticks. (R186) -/
  | scaddFold (id : Nat)
  /-- REPLICA_UPDATE: A forwarded update is applied at a replica. (R187) -/
  | replicaUpdate (id : Nat)
  /-- MOVING_REWALK: A held access walks a MOVING page again every 1,024 ticks. (R229) -/
  | movingRewalk (id : Nat)
  /-- MOVING_TIMEOUT: An access held 76,000 ticks fails with XLATE reason 3. (R229) -/
  | movingTimeout (id : Nat)
  /-- MESSAGE_ARRIVAL: A message reaches its destination and lands, is refused, returned or falls out. (R169) -/
  | messageArrival (id : Nat)
  /-- MESSAGE_NOTICE: A refused sender receives its notice and resends at once. (R169) -/
  | messageNotice (id : Nat)
  /-- MESSAGE_RETRY: An unrecorded refused sender resends every 1,024 ticks. (R169) -/
  | messageRetry (id : Nat)
  /-- TIMED_COMMAND_START: A timed copy-engine command starts at its start tick. (R205) -/
  | timedCommandStart (station id : Nat)
  /-- COPY_ENGINE_COMPLETION: A copy-engine command writes its record, reply entry and Chime line. (R199) -/
  | copyEngineCompletion (station id : Nat) (ext : ExtAnswer)
  /-- SEGRED_COUNT_RESULT: The segred counted total is written to g[rc] when due. (R203) -/
  | segredCountResult (t : ThreadId) (id : Nat)
  /-- ROW_COMMAND_START: A queued row-unit command starts when the previous one completes. (R209) -/
  | rowCommandStart (core : Nat)
  /-- ROW_COMMAND_COMPLETION: A row-unit command completes, releasing locks and raising its line. (R209) -/
  | rowCommandCompletion (core : Nat) (ext : ExtAnswer)
  /-- ROW_REQUEST: A row request from another device reaches the holder, which reads and answers. (R214) -/
  | rowRequest (q : RowReq)
  /-- ROW_RESPONSE: A row response arrives and is written for each matching reqid. (R214) -/
  | rowResponse (p : RowResp)
  /-- ARRAY_COMMAND_START: An accepted slice-array command starts when its unit and names are free. (R244) -/
  | arrayCommandStart (station id : Nat)
  /-- ARRAY_COMMAND_COMPLETION: A slice-array command completes, releasing locks and raising its line. (R245) -/
  | arrayCommandCompletion (station id : Nat)
  /-- MSTAT_RESULT: The mstat summary is written to its register when due. (R261) -/
  | mstatResult (t : ThreadId) (id : Nat)
  /-- MCUR_ABORT: Writing 1 to mcur.abort requests a stop of the running mslice. (R265) -/
  | mcurAbort (station : Nat)
  /-- MSLICE_ABORT_STOP: The aborted mslice stops at a pair boundary with ENGINE 0x37. (R265) -/
  | msliceAbortStop (station : Nat)
  /-- HEARTBEAT: A core sends its router a heartbeat every 2^16 ticks. (R237) -/
  | heartbeat (core : Nat)
  /-- CORE_STATE_STOP: An uncorrectable core-state error logs a record and stops the core. (R233) -/
  | coreStateStop (core : Nat) (addr : Word)
  /-- CORE_LOST: Three missed heartbeats declare a core lost. (R237) -/
  | coreLost (core : Nat)
  /-- REMAP: A supervisor store to the remap field requests recovery of a lost core. (R239) -/
  | remap (ctx : Nat) (value : Word)
  /-- REMAP_COMPLETE: Firmware finishes the remap and rstat reads done or no spare. (R239) -/
  | remapComplete (ctx : Nat)
  /-- TIMER_WRITE: A write to the timer field sets the compare and may end TIMER pending. (R236) -/
  | timerWrite (ctx : Nat) (value : Word)
  /-- KNELL_READ: A read of the knell field removes the oldest Knell entry. (R236) -/
  | knellRead (ctx : Nat)
  /-- MIGRATE_READ: A read of the migrate field removes the oldest migration entry. (R236) -/
  | migrateRead (ctx : Nat)
  /-- HOST_READ: A read of the host field removes the oldest host mailbox value. (R236) -/
  | hostRead (ctx : Nat)
  /-- QTAIL_DOORBELL: A write of qtail rings the doorbell of a command queue. (R295) -/
  | qtailDoorbell (q : Nat) (value : Word)
  /-- QSTAT_READ: A read of qstat clears err and resumes the queue. (R295) -/
  | qstatRead (q : Nat)
  /-- QBASE_WRITE: A write of qbase sets and enables a queue, flagging a bad lsize. (R295) -/
  | qbaseWrite (q : Nat) (value : Word)
  /-- LAUNCH: A LAUNCH packet's graph is read, checked and accepted or rejected. (R297) -/
  | launch (q : Nat)
  /-- SIGNAL: A SIGNAL packet stores its value with a release at .sys once earlier packets finish. (R297) -/
  | signal (q : Nat)
  /-- WAIT: A WAIT packet reads its word and holds the queue until the condition holds. (R297) -/
  | wait (q : Nat)
  /-- WAIT_POLL: A held WAIT re-reads its word every 1,024 ticks. (R297) -/
  | waitPoll (q : Nat)
  /-- HALT: A DBG HALT stops a thread at its next instruction boundary. (R315) -/
  | halt (q : Nat)
  /-- RESUME: A DBG RESUME clears a thread's halt. (R313) -/
  | resume (q : Nat)
  /-- DBG_STEP: A DBG STEP lets a halted thread execute up to count instructions. (R316) -/
  | dbgStep (q : Nat)
  /-- RDREG: A DBG RDREG copies a halted thread's registers to a buffer. (R313) -/
  | rdreg (q : Nat)
  /-- WRREG: A DBG WRREG writes one register of a halted thread. (R313) -/
  | wrreg (q : Nat)
  /-- RDSPAD: A DBG RDSPAD copies scratchpad to a buffer. (R315) -/
  | rdspad (q : Nat)
  /-- WRSPAD: A DBG WRSPAD copies a buffer into scratchpad. (R315) -/
  | wrspad (q : Nat)
  /-- SETBP: A DBG SETBP sets a PC breakpoint unit. (R309) -/
  | setbp (q : Nat)
  /-- SETWP: A DBG SETWP sets a watch unit. (R310) -/
  | setwp (q : Nat)
  /-- COUNT: A DBG COUNT writes a core's barrel-accounting record and may clear it. (R304) -/
  | count (q : Nat)
  /-- TRACE: A DBG TRACE sets the context's trace buffer and sampling. (R307) -/
  | trace (q : Nat)
  /-- FLUSH: A DBG FLUSH waits until earlier trace records are performed. (R313) -/
  | flush (q : Nat)
  /-- TRACE_SAMPLE: At each sampling tick a sample record is written for each running core. (R306) -/
  | traceSample (core : Nat)
  /-- PARTITION_LOAD: A load request loads a context onto stations from a load image. (R299) -/
  | partitionLoad
  /-- PARTITION_SWITCH: A switch request schedules and broadcasts a Peal at tick T. (R235) -/
  | partitionSwitch
  /-- PARTITION_UNLOAD: An unload request saves and removes a context. (R299) -/
  | partitionUnload
  /-- PARTITION_UNPAUSE: An unpause request starts a resident switched-out context. (R299) -/
  | partitionUnpause
  /-- PEAL: At tick T the partition stops, drains, is saved and the incoming one restored. (R235) -/
  | peal (ctx : Nat)
  /-- MIGRATION_START: Writing mgcmd with go starts a migration channel copy. (R282) -/
  | migrationStart (channel : Nat) (value : Word)
  /-- MIGRATION_COMPLETE: A migration channel finishes and go reads 0. (R282) -/
  | migrationComplete (channel : Nat)
  /-- XINVREG_START: Writing xinvreg with go starts a translation invalidation. (R293) -/
  | xinvregStart (value : Word)
  /-- XINVREG_COMPLETE: Every translation station has removed the entries and go reads 0. (R293) -/
  | xinvregComplete
  /-- CNTCLR_ALL: A cntclr write with all set clears every access count. (R293) -/
  | cntclrAll
  /-- CNTCLR_PAGE: A cntclr write with all clear clears one page's access count. (R293) -/
  | cntclrPage (page : Nat)
  /-- HMAIL_WRITE: A write of hmail queues a value in the host mailbox. (R292) -/
  | hmailWrite (value : Word)
  /-- HKNELL_READ: A read of hknell removes the oldest Knell sent to the host. (R292) -/
  | hknellRead
  /-- BAR2ERR_READ: A read of bar2err returns and clears the mismatch record. (R293) -/
  | bar2errRead
  /-- ERRLOST_READ: A read of errlost returns and clears the dropped-record count. (R328) -/
  | errlostRead
  /-- REGISTER_WRITE: A write to a register with no behaviour of its own. (R11) -/
  | registerWrite (offset : Nat) (value : Word)
  /-- BAR2_READ: A host read of device memory through BAR2, checked against bar2tag. (R290) -/
  | bar2Read (offset n : Nat)
  /-- BAR2_WRITE: A host write of device memory through BAR2 under bar2tag. (R290) -/
  | bar2Write (offset : Nat) (bytes : List Byte)
  /-- ROUTER_POWER_DOWN: A router idle for 4,096 cycles powers down its routing logic. (R275) -/
  | routerPowerDown (station : Nat)
  /-- ROUTER_WAKE: A look-ahead or local packet wakes a router after 40 cycles. (R275) -/
  | routerWake (station : Nat)
  /-- LINK_FLIT: A Phomund flit is received, checked and accepted or replayed. (R284) -/
  | linkFlit (f : Flit)
  /-- PORT_FAILED: A port is declared failed and its traffic fails as the rule states. (R288) -/
  | portFailed (port : Nat)
  /-- TIME_LOCK: A time packet locks the Carillon reference frequency. (R288) -/
  | timeLock (port : Nat)
  /-- KEYSET: A KEYSET request makes a free tag live with a fresh key. (R317) -/
  | keyset
  /-- KEYKILL: A KEYKILL request destroys a tag's key and invalidates its lines. (R319) -/
  | keykill
  /-- SWEEP: A SWEEP request starts rewriting every line of a dead tag. (R320) -/
  | sweep
  /-- SWEEP_COMPLETE: The sweep scan ends and the tag becomes free. (R320) -/
  | sweepComplete
  /-- ATTEST: An ATTEST request writes a signed report for a nonce. (R323) -/
  | attest
  /-- POWER: A POWER request changes a reticle's supply and clock. (R329) -/
  | power
  /-- JCLR: A JCLR request clears the boot journal's effect for the next boot. (R325) -/
  | jclr
  /-- BOOT: A reset runs the ten journalled boot steps. (R324) -/
  | boot (b : BootInput)
  /-- RECOVERY_IMAGE: In recovery the mailbox takes a new image and the device reboots. (R325) -/
  | recoveryImage (b : BootInput)
  /-- THERMAL_THROTTLE: A reticle reaching 100 °C has its clock lowered in steps. (R330) -/
  | thermalThrottle (reticle : Nat)
  /-- THERMAL_RECOVER: A reticle below 90 °C has its clock raised back in steps. (R330) -/
  | thermalRecover (reticle : Nat)
  /-- ATTIME_REACHED: The Carillon count reaches the value an attime waits for, and the thread issues at its first own slot in or
  after that tick. (R161) -/
  | attimeReached (t : ThreadId)
  /-- POWER_CHANGE_COMPLETE: A reticle's supply and clock change finishes, pwr.state returns from changing to steady and firmware
  rewrites the discovery table. (R329) -/
  | powerChangeComplete (reticle : Nat)
  /-- TILE_REQUEST_RETRY: An mrdacc or mwracc answered with a retry because its tile is locked is sent to the array again in the
  thread's next own slot. (R260) -/
  | tileRequestRetry (t : ThreadId)
  deriving DecidableEq, Repr

/-- An upset or an eviction that no rule schedules (R231 to R233, R139, R228). -/
inductive Upset where
  /-- A register-file entry of a core takes bad parity (R233). -/
  | regParity (core entry : Nat)
  /-- A scratchpad doubleword of a core takes bad parity (R149). -/
  | spadParity (core word : Nat)
  /-- A DRAM line becomes uncorrectable (R231). -/
  | dramPoison (line : Nat)
  /-- A line of an instruction cache is evicted (R139). -/
  | icacheEvict (core : Nat) (line : Nat)
  /-- A translation station drops a cached entry (R228). -/
  | tlbDrop (station : Nat) (page : Nat)
  /-- The host writes its own memory (R171). -/
  | hostStore (addr : Nat) (bytes : List Byte)
  deriving DecidableEq, Repr

/-- Who acts in one step of the model (log entry 1). -/
inductive Actor where
  /-- One cycle of the barrel of a core (R29). -/
  | cycle (core : Nat)
  /-- A step of the table that has no encoding. -/
  | event (i : Instr)
  /-- One row access of a running copy-engine command (R177, R184). -/
  | copyRow (station id position : Nat)
  /-- A row update of such a command that is performed behind the command's completion (R179). -/
  | copyLate (station id position : Nat)
  /-- One scratchpad doubleword of such a command, by its number in the package: a pending write of it, else its read (R172,
  R177, R180). -/
  | copyWord (station id word : Nat)
  /-- Such a command goes on to its results or to its record (R199, R202 to R204). -/
  | copyTurn (station id : Nat)
  /-- One scratchpad doubleword of the running row-unit command, in the same way. -/
  | rowWord (core word : Nat)
  /-- The running row-unit command has read its sources (R209). -/
  | rowTurn (core : Nat)
  /-- Such a command reads the device-list entry of a position's row in a tick of its own (R172, R194). -/
  | copyDevice (station id position : Nat)
  /-- The same for the running row-unit command. -/
  | rowDevice (core : Nat)
  /-- The running rowput's update is performed behind the command's completion (R179). -/
  | rowLate (core : Nat)
  /-- A station applies an update of a descriptor register (R189). -/
  | descApply (id station : Nat)
  /-- A held row packet of another device is tried again (R229). -/
  | serveRow (id : Nat)
  /-- A time and frequency lock packet leaves by a port (R285). -/
  | timeSend (port : Nat)
  /-- A row update reaches its home slice behind its command's completion (R179). -/
  | lateWrite (id : Nat)
  /-- One scratchpad doubleword of a running slice-array command, by its number in the package, in the same way. -/
  | arrayWord (station id word : Nat)
  /-- Such a command has read its sources (R177, R250 to R259). -/
  | arrayTurn (station id : Nat)
  /-- One slice pair of a running mslice (R255, R265). -/
  | slicePair (station : Nat)
  /-- Firmware's next write to the discovery table (R23). -/
  | tableWrite
  /-- A refresh of a DRAM bank (R280). -/
  | refresh (bank : Nat)
  /-- A port sends its next flit, with up to so many of the packets that wait (R284). -/
  | linkSend (port packets : Nat)
  /-- A core's record at a sampling tick that would pass without it (R306). -/
  | sample (core : Nat)
  | upset (u : Upset)
  deriving DecidableEq, Repr

/-- One entry of the schedule: how many Carillon ticks pass, and who acts then. -/
structure Turn where
  ticks : Nat
  who : Actor
  deriving DecidableEq, Repr

end Sys2Proof
end

