-- ==== Sys2Proof/Machine/State.lean ====
section
/-! DEFINITION. The state of one Maelwidra package as plain data, and the state right after reset. Each field names
the rule that gives it; the model's own fields are marked with their log entry. -/

namespace Sys2Proof.Machine

/-! ### Threads -/

/-- The modes of a thread (R26, R216). -/
inductive Mode where
  | user | supervisor | machine
  deriving DecidableEq, Repr

/-- The window of a thread (R33); lent and held are its lending state (R35). -/
structure Window where
  wbase : Nat
  wsize : Nat
  lent : Bool
  held : Bool
  bslot : Nat
  deriving DecidableEq, Repr

/-- `status` without its pending bits, which are levels of their sources (R216, R220). -/
structure Status where
  mode : Mode
  pmode : Mode
  pie : Bool
  ie : Bool
  ien : BitVec 5
  deriving DecidableEq, Repr

/-- The trap registers (R216). -/
structure TrapRegs where
  tvec : Word
  tpc : Word
  tcause : Word
  tval : Word
  tinfo : Word
  deriving DecidableEq, Repr

/-- The five exception flags (R90, R114). -/
structure FpFlags where
  nv : Bool
  dz : Bool
  ovf : Bool
  uf : Bool
  nx : Bool
  deriving DecidableEq, Repr

/-- `fcsr` (R114). -/
structure Fcsr where
  rm : BitVec 3
  flags : FpFlags
  deriving DecidableEq, Repr

/-- `task` (R46). -/
structure TaskReg where
  inst : BitVec 24
  node : BitVec 16
  launch : BitVec 8
  eprio : BitVec 2
  dyn : Bool
  valid : Bool
  deriving DecidableEq, Repr

/-- The task a thread holds, as the controller knows it: which graph (its number in the model) and whether this
placement has contributed (R40), and keep of its node (R48). -/
structure HeldTask where
  graph : Option Nat
  contributed : Bool
  keep : Bool
  /-- The step count of a dynamic task (R49); a graph's instances keep theirs with the controller. -/
  steps : Nat
  /-- Whether its first instruction has issued (R45). -/
  begun : Bool
  deriving DecidableEq, Repr

/-- The first recorded store failure of a counter (R221). -/
structure StoreFailure where
  code : Nat
  addr : Word
  pc : Word
  more : Bool
  /-- The scopes that enclose the failed store, from this one up (R222). -/
  scope : Nat
  deriving DecidableEq, Repr

/-- One Chime line (R164). -/
structure Chime where
  pend : Nat
  fail : Bool
  ovf : Bool
  fault : Nat
  value : Word
  deriving DecidableEq, Repr

/-- A request of mrdacc or mwracc (R260): what it asks of which entry, and its register or value. -/
structure TileReq where
  write : Bool
  reg : Reg
  tile : Nat
  index : Nat
  half : Bool
  value : Word
  deriving DecidableEq, Repr

/-- What a thread waits for (R32, R143). -/
inductive Wait where
  /-- A placement, after waitw or done. -/
  | work
  /-- The counters of a mask to be zero: wk field or waitk. -/
  | counters (mask : Nat)
  /-- An acknowledgement, because the counter stands at 65,535 (R150). -/
  | counterRoom (k : Nat)
  /-- perform_at of a release or fence (R81, R144). -/
  | release (scope : Nat)
  /-- The answer to access `id` (R79). -/
  | answer (id : Nat)
  /-- An instruction line (R139), and since when its page is held (R229). -/
  | line (base : Nat) (held : Option Nat)
  | evwait (n : Nat)
  | popr
  | recv
  | attime (value : Word)
  | semp (n : Nat)
  | bar (unit : Nat)
  /-- A STEP held back since a tick, with the ticks since then that do not count, known up to tick `known` (R50). -/
  | step (since skipped known : Nat)
  /-- Room in the send queue (R168). -/
  | sendRoom
  /-- A free reply entry (R166). -/
  | replyRoom
  /-- So many free range-lock entries for a copy-engine or row-unit command (R178). -/
  | lockRoom (n : Nat)
  /-- So many free range-lock entries for a slice-array command (R248). -/
  | arrayRoom (n : Nat)
  /-- Room at the dispenser for a post (R163). -/
  | postRoom
  /-- A pending interrupt (R136). -/
  | interrupt
  /-- A locked tile (R260). -/
  | tile (q : TileReq)
  /-- A page of tbldef or shardof that is held since a tick (R192, R195, R229). -/
  | held (since : Nat)
  /-- Owed exposed-latency results, before a handler's first instruction (R217). -/
  | owed
  /-- An earlier posted store of the thread to the same doubleword: its space and number (R173). -/
  | behind (space word : Nat)
  /-- Accesses translated through entries that an xinv removed (R142). -/
  | xlat (ids : List Nat)
  /-- The array has decided a claim or served a request: its register and value, or the fault, as code, tval and sub, that the
  answer brings (R249, R260). -/
  | array (reg : Reg) (value : Word) (fault : Option (Nat × Word × Nat))
  /-- A unit or a phase that came while the thread was halted: its instruction completes when it is resumed (R143, R315). -/
  | granted
  /-- The stations of the partition to hold the update of a descriptor register that a tbldef or tblinv has sent (R189, R192). -/
  | spread (id : Nat)
  /-- The routers on the way of a fence.sc, a tbldef or a shardof to be awake (R271, R275). -/
  | way (path : List Nat)
  deriving DecidableEq, Repr

/-- The slot classes of R32. -/
inductive SlotClass where
  | issued | mem | msg | vacant
  deriving DecidableEq, Repr

/-- A fetch register: one 64-byte line (R139). -/
structure FetchLine where
  base : Nat
  bytes : List Byte
  deriving DecidableEq, Repr

/-- The commands that owe results to registers (R203, R212, R261). -/
inductive OwedKind where
  | segred | dot | mstat
  deriving DecidableEq, Repr

/-- An exposed-latency result owed to a register by command `id`; spoiled once the thread wrote the register
in between (R203). A segred's total is known once its lists have been read; an mstat's summary from the completion of
the last command that it reflects. -/
structure Owed where
  id : Nat
  kind : OwedKind
  reg : Reg
  value : Option Word
  spoiled : Bool
  deriving DecidableEq, Repr

/-- An mstat whose summary is owed: the tile and the earlier-accepted commands that name it (R261). -/
structure MstatOwed where
  id : Nat
  tile : Nat
  after : List Nat
  deriving DecidableEq, Repr

/-- `dbgctl` (R308). -/
structure DbgCtl where
  hcause : BitVec 3
  skip : Bool
  dbg : Bool
  ss : Bool
  tr : Bool
  wen : BitVec 2
  ben : BitVec 4
  deriving DecidableEq, Repr

/-- The inbox of a thread (R169): messages in arrival order, entries reserved for recorded senders' messages,
and the record of refused messages, oldest first. -/
structure Inbox where
  msgs : List Message
  reserved : List Nat
  refused : List Nat
  deriving DecidableEq, Repr

/-- A created thread (R26, R27). Its registers lie in its core's register file (R33). -/
structure Thread where
  pc : Word
  win : Window
  status : Status
  trap : TrapRegs
  fcsr : Fcsr
  task : TaskReg
  held : HeldTask
  ctxTag : BitVec 8
  ctxId : BitVec 6
  k1 : BitVec 16
  k2 : BitVec 16
  k3 : BitVec 16
  fail1 : Option StoreFailure
  fail2 : Option StoreFailure
  fail3 : Option StoreFailure
  chimes : Assoc Chime
  replies : List Word
  replyReserved : Nat
  inbox : Inbox
  /-- The messages of the send queue, by number (R168). -/
  sendq : List Nat
  fetch : Option FetchLine
  wait : Option Wait
  owed : List Owed
  mstats : List MstatOwed
  dbg : DbgCtl
  halted : Bool
  /-- The tick of the last halt (R315). -/
  haltedAt : Nat
  /-- Instructions left of a debug STEP (R316), and how many it has executed. -/
  stepsLeft : Option Nat
  stepsDone : Nat
  /-- The queue whose STEP request it executes (R314). -/
  stepOf : Option Nat
  /-- The first core cycle of its reticle in which its returned window lets it count as idle (R130). -/
  idleFrom : Nat
  /-- The entry PC of its creation (R239 step 2). -/
  entry : Word
  /-- The mode of its creation (R239 step 2). -/
  entryMode : Mode
  /-- The `tvec` of its creation (R239 step 2). -/
  entryTvec : Word
  deriving DecidableEq, Repr

/-! ### Cores -/

/-- One range-lock entry (R178): the command that holds it and the bytes it covers; `addr` counts from the
scratchpad of core 0 of the package, 256 KiB to a core. `freed` is its command's completion tick, in which it still locks. -/
structure RangeLock where
  id : Nat
  addr : Nat
  len : Nat
  freed : Option Nat
  deriving DecidableEq, Repr

/-- A line of an instruction cache (R139), with the context whose translation fetched it. -/
structure ICacheLine where
  ctx : Nat
  base : Nat
  bytes : List Byte
  deriving DecidableEq, Repr

/-- A PC breakpoint unit (R309, R313 op 8). -/
structure BreakUnit where
  on : Bool
  addr : Nat
  deriving DecidableEq, Repr

/-- A watch unit (R310, R313 op 9): kind 1 read, 2 write, 3 any. -/
structure WatchUnit where
  on : Bool
  addr : Nat
  sp : Nat
  kind : Nat
  g : Nat
  deriving DecidableEq, Repr

/-- The four counters of a slot (R302). -/
structure SlotCounts where
  issued : Nat
  mem : Nat
  msg : Nat
  vacant : Nat
  deriving DecidableEq, Repr

/-- The row-unit commands (R208). -/
inductive RowKind where
  | get | put | add | axpy | scale | dot | cvt | zero | copy | topk
  deriving DecidableEq, Repr

/-- A write to scratchpads that an engine command has still to make, whole or in doublewords (R177, R180): the position of its
command, the chiplet scratchpad address (R14) and the bytes. -/
structure SpadWrite where
  pos : Nat
  addr : Nat
  bytes : List Byte
  deriving DecidableEq, Repr

/-- What a row-unit command ends with: its result register's value, and its failure as a fault code and a value. -/
structure RowDone where
  result : Option Word
  failure : Option (Nat × Word)
  deriving DecidableEq, Repr

/-- A row-unit command (R208, R209): its operand words as read at issue, with the rounding mode resolved. -/
structure RowCmd where
  id : Nat
  thread : ThreadId
  kind : RowKind
  rc : Word
  addrs : Word
  word : Word
  rm : Nat
  desc : List Word
  ev : Nat
  rcReg : Reg
  user : Bool
  ctx : Nat
  tag : Nat
  issued : Nat
  started : Bool
  /-- rowget, rowput: since when its page is held (R229). -/
  heldSince : Option Nat
  /-- rowget, rowput of another device's row: the status and row of its response (R214, R285). -/
  answer : Option (Nat × List Byte)
  /-- The source doublewords that have been read, by their numbers in the package, with their parity (R177). -/
  seen : Assoc (Word × Bool)
  /-- The device of its row, where the device list has been read in a tick of its own (R172, R194). -/
  dev : Option Nat
  /-- What is still to be written, and what the command ends with, once its sources have been read (R209). -/
  out : List SpadWrite
  ending : Option RowDone
  deriving DecidableEq, Repr

/-- A lookup core (R2). -/
structure Core where
  rotLen : BitVec 2
  /-- `rot` as the loader set it (R239 step 2). -/
  loadRot : BitVec 2
  rotNext : Option (BitVec 2)
  position : Nat
  rf : Assoc Word
  rfBad : List Nat
  spad : Memory
  spadEmpty : List Nat
  spadBad : List Nat
  peersOpen : Bool
  park : List Nat
  locks : List RangeLock
  icache : List ICacheLine
  rows : List RowCmd
  breaks : Assoc BreakUnit
  watches : Assoc WatchUnit
  counts : Assoc SlotCounts
  bins : Assoc Nat
  threads : Assoc Thread
  /-- Tick of the last heartbeat, heartbeats missed since, and whether it has stopped, logged why and is lost. -/
  lastBeat : Nat
  stopped : Bool
  lost : Bool
  /-- A spare serves in this logical place (R20). -/
  spare : Bool
  deriving DecidableEq, Repr

/-! ### Stations -/

/-- A counting semaphore with its waiters in arrival order (R158). -/
structure Semaphore where
  count : Nat
  waiters : List ThreadId
  deriving DecidableEq, Repr

/-- A pending dynamic instance (R163, R259). -/
structure DynInst where
  prio : Nat
  wsize : Nat
  entry : Word
  g3 : Word
  node : BitVec 16
  inst : BitVec 24
  since : Nat
  /-- Its place in the turns of R43: enqueue tick, then enqueue order. -/
  key : Nat
  deriving DecidableEq, Repr

/-- The copy-engine commands (R197). -/
inductive CopyKind where
  | gather | scatter | scadd | dedup | segred | isect
  deriving DecidableEq, Repr

/-- What became of one position of a copy-engine command (R199). -/
inductive PosResult where
  | written | zeroed | skipped | defaulted | writtenDefault
  | failed (status : Nat)
  /-- Its page is held since a tick (R229). -/
  | held (since : Nat)
  /-- A row request has left for another device (R214). -/
  | requested
  deriving DecidableEq, Repr

/-- What a copy-engine command ends with (R199): status, lowest failed position, value of the reply entry, failed positions. -/
structure CopyEnd where
  status : Nat
  first : Nat
  value : Nat
  failed : List Nat
  deriving DecidableEq, Repr

/-- A copy-engine command (R197, R198): operand words, descriptor copy and lists as read, and its progress. -/
structure CopyCmd where
  id : Nat
  thread : ThreadId
  kind : CopyKind
  table : Word
  list : Word
  count : Word
  desc : List Word
  ev : Nat
  rcReg : Reg
  user : Bool
  ctx : Nat
  tag : Nat
  issued : Nat
  startAt : Option Nat
  started : Bool
  /-- Whether all of its lists has been read; the list as far as it has been read, and the positions whose words had bad parity. -/
  loaded : Bool
  entries : List Nat
  badEntries : List Nat
  /-- segred: the offsets; isect: list B; none where a word had bad parity. -/
  aux : Option (List Nat)
  results : Assoc PosResult
  /-- segred: the rows obtained so far, by position. -/
  rows : Assoc (List Byte)
  /-- The rows that lookups have returned, by list entry, and whether each was the default row (R200). -/
  kept : Assoc (List Byte × Bool)
  /-- segred: the segments whose row is on its way (R203). -/
  segs : List Nat
  /-- The devices of positions whose device-list entry has been read in a tick of its own (R172, R194). -/
  devs : Assoc Nat
  /-- The source doublewords that have been read, by their numbers in the package, with their parity (R177). -/
  seen : Assoc (Word × Bool)
  /-- What is still to be written (R177). -/
  out : List SpadWrite
  /-- segred, dedup, isect: the results are on their way; whether one of them found its area closed (R48). -/
  reduced : Bool
  closed : Bool
  /-- What the command ends with, once its record is on its way (R199). -/
  ending : Option CopyEnd
  deriving DecidableEq, Repr

/-- The state of an operand slot (R241, R249). -/
inductive SlotState where
  | empty | loaded | releasing
  deriving DecidableEq, Repr

/-- An operand slot (R241, R243). `data` holds 64 rows of slices. -/
structure OpSlot where
  claim : Option ThreadId
  state : SlotState
  sideB : Bool
  s : Nat
  j : Nat
  exps : List Int
  flags : List Bool
  scale : BitVec 32
  /-- N of a sparse A slot, 0 for a dense one, and its positions. -/
  sparse : Nat
  positions : List (List Nat)
  data : List (List Int)
  deriving DecidableEq, Repr

/-- The state of an accumulator tile (R242). -/
inductive TileState where
  | empty | opened | incomplete
  deriving DecidableEq, Repr

/-- An accumulator tile (R242): entry 64i + j holds row i and column j; unlisted entries are zero. -/
structure Tile where
  state : TileState
  key : Nat
  rowE : List Int
  colE : List Int
  rowF : List Bool
  colF : List Bool
  sA : BitVec 32
  sB : BitVec 32
  ovf : Bool
  ofl : Bool
  ufl : Bool
  nxl : Bool
  products : Nat
  entries : Assoc (BitVec 96)
  deriving DecidableEq, Repr

/-- The commands of the slice array (R247). -/
inductive ArrKind where
  | mload | msplit | mmul | mslice | mcomb | mzero | mdrain
  deriving DecidableEq, Repr

/-- A failure of an array command (R245): the fault, its subcode, the slot or tile that it concerns, and its detail. -/
structure ArrFail where
  fault : Nat
  sub : Nat
  unit : Nat
  detail : Nat
  deriving DecidableEq, Repr

/-- A command of the array queue (R244): operand words, the fields of its first word, and its progress. -/
structure ArrCmd where
  id : Nat
  thread : ThreadId
  kind : ArrKind
  tile : Nat
  slot : Nat
  rc : Word
  addrs : Word
  ctl : Nat
  ev : Nat
  rm : Nat
  /-- The tick in which the array accepted it (R260). -/
  issued : Nat
  started : Bool
  pair : Nat
  /-- mslice: its operands and tiles passed their checks. mdrain: its writes are done and its Gong waits for room. -/
  ready : Bool
  /-- The source doublewords that have been read, by their numbers in the package, with their parity (R177). -/
  seen : Assoc (Word × Bool)
  /-- What is still to be written, by scratchpad addresses that count in the package, and the failure or none that the command
  ends with, once its sources have been read. -/
  out : List SpadWrite
  ending : Option (Option ArrFail)
  /-- mdrain: a write found its destination closed or lost (R259). -/
  closed : Bool
  deriving DecidableEq, Repr

/-- `mcur` (R265). -/
structure Mcur where
  abort : Bool
  busy : Bool
  tslot : Nat
  tcore : Nat
  tile : Nat
  aslot : Nat
  bslot : Nat
  full : Bool
  s : Nat
  pair : Nat
  deriving DecidableEq, Repr

/-- A line of a cache slice (R279): valid bits of its eight doublewords, dirty, pinned, and whether its fill is under way. -/
structure SliceLine where
  line : Nat
  valid : BitVec 8
  dirty : Bool
  pinned : Bool
  fill : Bool
  deriving DecidableEq, Repr

/-- A router's power state (R275, R276); idle counts the core cycles without traffic, by their first tick. -/
inductive RouterPower where
  | awake (idleSince : Nat)
  | asleep
  | waking (since : Nat)
  deriving DecidableEq, Repr

/-- A station (R2). -/
structure Station where
  sems : Assoc Semaphore
  dyn : List DynInst
  copies : List CopyCmd
  descs : Assoc (List Word)
  slots : Assoc OpSlot
  tiles : Assoc Tile
  array : List ArrCmd
  mcur : Mcur
  slice : List SliceLine
  park : List Nat
  fallout : List Message
  router : RouterPower
  /-- Returned messages that wait for room in their sender's inbox (R169). -/
  returns : List Message
  /-- The model's own: the tick of the last read of `mcur`; what the array does later in that tick belongs to the next (R331). -/
  viewed : Option Nat
  deriving DecidableEq, Repr

/-! ### Accesses and messages under way -/

/-- Who issued an access. -/
inductive Issuer where
  | thread (t : ThreadId)
  /-- Another device, by a port, under a number of its own. -/
  | pod (port device reqid : Nat)
  /-- The front end of a queue, for a status write to a held page, with the station it starts from (R298). -/
  | front (queue station : Nat)
  /-- The station of a core, for the core's trace records (R307). -/
  | trace (core : Nat)
  /-- The fetch of a line of another device's memory for a thread (R139, R285). -/
  | fetch (t : ThreadId)
  deriving DecidableEq, Repr

/-- Why an owner is asked to give a parked request back (R143, R146). -/
inductive Cancel where
  | interrupt | timeout | peal
  deriving DecidableEq, Repr

/-- Where an access is (R145, R146, R153, R229, R279). -/
inductive Stage where
  | travelling
  | parked
  | refused
  | held (since : Nat)
  | filling
  | offDevice
  | answered (fault sub info : Nat) (value : Word)
  deriving DecidableEq, Repr

/-- A peer or global access under way, or an own full/empty request that is parked. -/
structure Access where
  id : Nat
  issuer : Issuer
  kind : AccessKind
  sp : Nat
  va : Nat
  /-- Where its owner found it: a physical address, or a scratchpad byte's number in the package. -/
  loc : Nat
  n : Nat
  x : Word
  y : Word
  rd : Reg
  sext : Bool
  counter : Nat
  pc : Word
  user : Bool
  ctx : Nat
  tag : Nat
  lu : Bool
  issued : Nat
  stage : Stage
  cancel : Option Cancel
  /-- The port by which it left for another device (R286, R288). -/
  port : Option Nat
  /-- The model's own: its place in the order in which packets are sent (R270). -/
  sent : Nat
  deriving DecidableEq, Repr

/-- Where a message is (R169). -/
inductive FlightStage where
  | travelling
  /-- Refused; recorded at the destination core. -/
  | recorded
  /-- Refused while the record was full; resends every 1,024 ticks. -/
  | unrecorded (since : Nat)
  /-- An inbox entry is reserved for it and its notice has been sent. -/
  | noticed
  /-- Left for another device. -/
  | offDevice
  deriving DecidableEq, Repr

/-- A message in its sender's send queue or on its way. -/
structure Flight where
  id : Nat
  sender : Option ThreadId
  msg : Message
  stage : FlightStage
  /-- The port by which it left for another device (R286, R288). -/
  port : Option Nat
  /-- The model's own: its place in the order in which packets are sent (R270). -/
  sent : Nat
  deriving DecidableEq, Repr

/-- A row request of this device that waits for its response (R214): the command and position, or a rowget. -/
structure RowWait where
  reqid : Nat
  station : Nat
  cmd : Nat
  position : Nat
  addr : Nat
  /-- Its merge tag (R214). -/
  tag : Word
  update : Bool
  /-- The port by which it left (R286, R288). -/
  port : Option Nat
  deriving DecidableEq, Repr

/-- An accumulate that a home slice holds unfolded (R186): physical row, element size, added row. -/
structure PendingFold where
  id : Nat
  pa : Nat
  dbl : Bool
  row : List Byte
  arrived : Nat
  delta : Nat
  deriving DecidableEq, Repr

/-- What can be held for a page in migration (R229): an access, a position of a copy-engine command, a row-unit command, the line
that a thread fetches, a thread's tbldef or shardof, a queue's packet, a forwarded update, or another device's row packet. -/
inductive HeldBy where
  | access (id : Nat)
  | position (station cmd p : Nat)
  | row (core id : Nat)
  | line (t : ThreadId)
  | table (t : ThreadId)
  | packet (queue : Nat)
  | replica (id : Nat)
  | serve (id : Nat)
  deriving DecidableEq, Repr

/-- A held access at the translation station of a package station, with its context and address (R229). -/
structure HeldAt where
  who : HeldBy
  station : Nat
  ctx : Nat
  va : Nat
  deriving DecidableEq, Repr

/-- Who asks for a row: the station it asks from, its context, key tag and mode, its place for error records, what is held where
a page is (R229), the row's device where its device list has been read already (R172, R194), and the tick in which its command
issued (R186). -/
structure RowAgent where
  station : Nat
  ctx : Nat
  tag : Nat
  user : Bool
  place : BitVec 32
  who : HeldBy
  dev : Option Nat
  issued : Nat
  deriving DecidableEq, Repr

/-- An update that the primary has applied and a replica has not (R187): its agent and address, its physical address once it
has been translated, since when its page is held (R229), and the command and position that it belongs to. -/
structure PendingReplica where
  id : Nat
  agent : RowAgent
  va : Nat
  pa : Option Nat
  heldSince : Option Nat
  add : Bool
  dbl : Bool
  row : List Byte
  applied : Nat
  delta : Nat
  cmd : Nat
  position : Nat
  /-- The status with which it failed, until its command takes it up (R199). -/
  failed : Option Nat
  deriving DecidableEq, Repr

/-- A row update outside its command's scope that is still on its way to its home slice (R179), with the position of its command,
its virtual address, and the tick in which its command has completed (R186). -/
structure LateUpdate where
  id : Nat
  cmd : Nat
  position : Nat
  agent : RowAgent
  va : Nat
  pa : Nat
  completed : Option Nat
  add : Bool
  dbl : Bool
  delta : Nat
  row : List Byte
  deriving DecidableEq, Repr

/-- What another device asks of a row here (R214, R285). -/
inductive RowAsk where
  | lookup (q : RowReq)
  | update (u : RowUpd)
  deriving DecidableEq, Repr

/-- A row packet of another device that has waited here since a tick, for its page (R229) or for a router (R271). -/
structure RowServe where
  id : Nat
  since : Nat
  ask : RowAsk
  deriving DecidableEq, Repr

/-- An update of a descriptor register on its way to the stations of a partition (R189): the image, or none to invalidate it, and
the stations that have not applied it. -/
structure DescUpdate where
  id : Nat
  ctx : Nat
  reg : Nat
  image : Option (List Word)
  todo : List Nat
  deriving DecidableEq, Repr

/-! ### Translation, DRAM -/

/-- A cached leaf translation (R225): the leaf entry with its level. -/
structure TlbEntry where
  ctx : Nat
  vpage : Nat
  level : Nat
  entry : Word
  deriving DecidableEq, Repr

/-- A translation station (R225, R230): cached entries, most recent first, and page access counts. -/
structure XlatStation where
  tlb : List TlbEntry
  counts : Assoc Nat
  deriving DecidableEq, Repr

/-- A line as DRAM still holds it while its slice holds it dirty (R279, R319). -/
structure OldLine where
  tag : Nat
  bytes : List Byte
  empty : List Nat
  deriving DecidableEq, Repr

/-- Global memory and what belongs to its lines; host memory behind the window (R171, R224, R231, R318, R291). -/
structure Phys where
  ram : Memory
  empty : List Nat
  tags : Assoc Nat
  poison : List Nat
  /-- Lines with an uncorrectable error that no read has found yet (R231, R232). -/
  uncorr : List Nat
  /-- What DRAM holds of the lines that are dirty in their slices (R319). -/
  old : Assoc OldLine
  host : Memory
  deriving DecidableEq, Repr

/-- Row state of the DRAM controllers (R280, R281): the open row of a bank, activations of a row in this window. -/
structure Dram where
  openRow : Assoc Nat
  activations : Assoc Nat
  windowStart : Nat
  deriving DecidableEq, Repr

/-! ### Contexts, graphs -/

/-- A barrier unit (R159): participants and the arrived threads with their scopes. -/
structure Barrier where
  p : Nat
  arrived : List (ThreadId × Nat)
  deriving DecidableEq, Repr

/-- The partition control page (R236), its queues oldest first with their lost flags. -/
structure ControlPage where
  rstat : Nat
  rplace : BitVec 32
  runits : BitVec 8
  timer : Word
  knell : List Word
  knellLost : Bool
  migrate : List Word
  migrateLost : Bool
  mailbox : List Word
  mailboxLost : Bool
  deriving DecidableEq, Repr

/-- A node image as read at launch (R37), with its argument words and successor list. -/
structure NodeImage where
  entry : Word
  nargs : Nat
  k : Nat
  deps : Nat
  prio : Nat
  wsize : Nat
  count : Nat
  keep : Bool
  aff : Nat
  affStation : Option Nat
  args : List Word
  succ : List Nat
  deriving DecidableEq, Repr

/-- A placed instance (R49): its thread, step count, and whether it has executed DONE. -/
structure Placed where
  inst : Nat
  thread : ThreadId
  steps : Nat
  finished : Bool
  abandoned : Bool
  contributed : Bool
  deriving DecidableEq, Repr

/-- An instance that a remap made pending again (R52): whether it has contributed, its priority and its tick. -/
structure Again where
  inst : Nat
  contributed : Bool
  prio : Nat
  since : Nat
  deriving DecidableEq, Repr

/-- A node under way (R39, R40, R42): dependences left, its release with its place in the turns of R43, the next instance
that has not been placed, instances pending again, and the priority of its pending instances with the tick since which
it stands (R44). -/
structure NodeState where
  image : NodeImage
  depsLeft : Nat
  released : Bool
  key : Nat
  next : Nat
  again : List Again
  placed : List Placed
  contributions : Nat
  dones : Nat
  triggered : Bool
  prio : Nat
  since : Nat
  deriving DecidableEq, Repr

/-- A launched graph (R40, R297): its queue, launch number, status address. -/
structure Graph where
  id : Nat
  queue : Nat
  launch : Nat
  status : Nat
  irq : Bool
  nodes : List NodeState
  deriving DecidableEq, Repr

/-- The trace buffer of a context (R307). -/
structure TraceBuf where
  on : Bool
  base : Nat
  b : Nat
  wrap : Bool
  s : Nat
  written : Nat
  dropped : Nat
  failedAt : Option Nat
  /-- The tick of each core's last sample. -/
  sampled : Assoc Nat
  deriving DecidableEq, Repr

/-- What a partition save keeps in firmware's own formats (R236). -/
structure Saved where
  tick : Nat
  cores : List (Nat × Core)
  stations : List (Nat × Station)
  deriving DecidableEq, Repr

/-- A scheduled Peal (R235): its tick, the context to come in, and whether the context is then removed. Until it is done
the management request that asked for it is busy. -/
structure Peal where
  tick : Nat
  incoming : Option Nat
  unload : Bool
  deriving DecidableEq, Repr

/-- A resident context (R51, R224). -/
structure Context where
  root : Nat
  retry : Nat
  thresh : Nat
  save : Nat
  tag : Nat
  stations : List Nat
  running : Bool
  stoppedAt : Nat
  barriers : Assoc Barrier
  page : ControlPage
  graphs : List Graph
  /-- The place in the turns that was served last (R43). -/
  served : Option Nat
  trace : TraceBuf
  falloutRegion : List Message
  saved : Option Saved
  peal : Option Peal
  /-- The context measurement (R322). -/
  measurement : List Byte
  deriving DecidableEq, Repr

/-! ### Host interface, security -/

/-- A command queue (R295) with the packet it is at and the packets that have not finished (R297). -/
structure CmdQueue where
  base : Nat
  ctx : Nat
  lsize : Nat
  en : Bool
  tail : BitVec 32
  head : BitVec 32
  seq : BitVec 16
  err : Nat
  /-- Launched graphs of this queue that have not completed. -/
  openGraphs : List Nat
  /-- The packet at head once it has been read, and none before. -/
  packet : Option (List Word)
  /-- Tick of the last read of a WAIT word, while a WAIT holds the queue; or since when a DBG STEP runs. -/
  waiting : Option Nat
  /-- Since when an access of the packet meets a held page, and its address (R229). -/
  heldSince : Option Nat
  heldVa : Nat
  /-- The addresses of a LAUNCH's affinities whose page was held too long: these translations have failed (R37, R229). -/
  givenUp : List Nat
  /-- The instructions that a STEP of this queue has executed, once its thread has halted again (R314). -/
  stepDone : Option Nat
  /-- An error raised behind the head: the queue stops before the packet at head (R298). -/
  statusFailed : Bool
  deriving DecidableEq, Repr

/-- A migration channel (R282). -/
structure Channel where
  src : Nat
  dst : Nat
  go : Bool
  status : Nat
  sz : Bool
  count : Nat
  /-- Started while a sweep ran (R320). -/
  waits : Bool
  deriving DecidableEq, Repr

/-- The partition management block (R300). -/
structure PmBlock where
  go : Bool
  status : Nat
  cause : Nat
  kind : Nat
  req : Word
  sta : Word
  stb : Word
  ctx : Word
  tick : Word
  img : Word
  deriving DecidableEq, Repr

/-- A Phomund port (R284): failed, expected and last acknowledged sequence numbers, replays, credits; the packets that wait
for a flit, the flits sent and not acknowledged with their ticks, and the next flit's sequence number. -/
structure Port where
  out : List OutPacket
  replay : List (BitVec 16 × Nat × List OutPacket)
  sendSeq : BitVec 16
  failed : Bool
  expect : BitVec 16
  acked : BitVec 16
  badFlits : Nat
  crq : Nat
  crs : Nat
  lastAck : Nat
  locked : Bool
  deriving DecidableEq, Repr

/-- BAR0 (R292 to R295, R300) and what belongs to it. -/
structure HostIf where
  ctxtab : Nat
  hwin : Word
  bar2tag : Nat
  bar2err : Word
  podpair : Word
  nodown : Bool
  xinvva : Word
  xinvGo : Bool
  xinvCount : Nat
  /-- Accesses translated through the entries that the last write of `xinvreg` removed (R142, R293). -/
  xinvIds : List Nat
  queues : Assoc CmdQueue
  channels : Assoc Channel
  pm : PmBlock
  porttab : Assoc Nat
  ports : Assoc Port
  hknell : List Word
  hknellLost : Bool
  /-- The MSI-X table's doublewords (R289, R292; log entry 43), the vectors that are pending, and those raised so far, oldest
  first. -/
  msixTable : Assoc Word
  msixPending : List Nat
  msix : List Nat
  deriving DecidableEq, Repr

/-- The states of a key tag (R317). -/
inductive TagState where
  | free | live | dead
  deriving DecidableEq, Repr

/-- `pwr` of a reticle (R329). -/
structure PwrReg where
  mhz : Nat
  mv : Nat
  state : Nat
  /-- A POWER request is changing the reticle; a thermally limited one shows state 2 meanwhile (R330). -/
  changing : Bool
  targetMhz : Nat
  targetMv : Nat
  deriving DecidableEq, Repr

/-- An entry of the boot journal (R326). -/
structure JournalEntry where
  boot : BitVec 16
  step : Nat
  outcome : Nat
  cause : BitVec 32
  detail : Word
  deriving DecidableEq, Repr

/-- An error record (R234). -/
structure ErrorRecord where
  kind : Nat
  sub : Nat
  ctx : Nat
  place : BitVec 32
  addr : Word
  time : Word
  deriving DecidableEq, Repr

/-- Keys, requests, boot and error log (25_system). -/
structure Security where
  tags : Assoc TagState
  go : Bool
  status : Nat
  kind : Nat
  arg : Word
  addr : Nat
  res : Word
  sweeping : Option Nat
  /-- The migration channels that were busy when a KEYKILL arrived (R319). -/
  killWaits : List Nat
  journal : Assoc JournalEntry
  jtail : Nat
  bootCount : BitVec 16
  failedSteps : List Nat
  jclr : Bool
  recovery : Bool
  booted : Bool
  memStacks : BitVec 12
  memCap : Bool
  errlog : Assoc ErrorRecord
  errtail : Nat
  errhead : Nat
  errlost : Nat
  pwr : Assoc PwrReg
  fwMeasure : List Byte
  cfgMeasure : List Byte
  deriving DecidableEq, Repr

/-- What a discovery entry was last written from (R22 to R24): the places where a spare serves, the lost places without a
spare, the clock of each reticle in MHz, and the draw of the values that the spec leaves open (log entry 38). -/
structure TableEntry where
  spares : List Nat
  dead : List Nat
  mhz : List Nat
  draw : Nat
  deriving DecidableEq, Repr

/-- The package's place in its pod and its discovery table (R15, R22 to R24). -/
structure Package where
  device : BitVec 14
  inPod : Bool
  gen : Word
  spares : Assoc Nat
  /-- Lost places without a spare (R21). -/
  deadPlaces : List Nat
  /-- Discovery entries by code, as firmware last wrote them. -/
  table : Assoc TableEntry
  /-- While firmware rewrites the table: the next entry that it writes (R23). -/
  rewriting : Option Nat
  deriving DecidableEq, Repr

/-- The whole machine. -/
structure State where
  /-- The model's own: who acts next (log entry 1). -/
  schedule : List Turn
  /-- The model's own: what has acted in this tick: 0 only cycles of barrels, 1 something else, 2 a view from outside (R331;
  log entry 1). -/
  phase : Nat
  /-- The model's own: the core cycles of each reticle so far, in ticks times MHz (R8). -/
  cycles : Assoc Nat
  /-- The model's own: the core whose cycle comes when the schedule is empty (log entry 1). -/
  focus : Nat
  /-- The model's own: the thread that executes (log entry 1). -/
  cur : ThreadId
  /-- The model's own: counter of the free values drawn (log entry 3). -/
  free : Nat
  /-- The model's own: the next number of an access, message or command (log entry 1). -/
  nextId : Nat
  /-- The model's own: the data of the last host read (log entry 22). -/
  hostData : List Byte
  /-- The model's own: the slot classes of the threads of a station or core, as `step` finds them before a placement or a sample
(R45, R306). -/
  classes : List (ThreadId × SlotClass)
  /-- The Carillon count (R160). -/
  time : Word
  phys : Phys
  cores : Assoc Core
  stations : Assoc Station
  xlats : Assoc XlatStation
  dram : Dram
  accesses : List Access
  flights : List Flight
  rowWaits : List RowWait
  folds : List PendingFold
  replicas : List PendingReplica
  lates : List LateUpdate
  /-- Row packets of other devices that are held (R229), and descriptor updates under way (R189). -/
  serves : List RowServe
  descs : List DescUpdate
  /-- What is held at the translation stations, in arrival order (R229). -/
  held : List HeldAt
  ctxs : Assoc Context
  host : HostIf
  sec : Security
  pkg : Package
  deriving DecidableEq, Repr

/-- What stops the machine. -/
inductive Fault where
  /-- An instruction word is executed while `cur` names no created thread. Raised by the meanings of instruction
  words; `step` never asks for it. Safe: no slot issues an instruction without a thread (R29). -/
  | noThread
  deriving DecidableEq, Repr

/-- Why the model gives no meaning. -/
inductive Refusal where
  /-- An instruction without a meaning yet, by its mnemonic. Raised by exec's arms only. Safe. -/
  | notModelled (mnemonic : String)
  deriving DecidableEq, Repr

/-! ### Resets -/

def FpFlags.none : FpFlags := { nv := false, dz := false, ovf := false, uf := false, nx := false }
/-- R114: 0 when the loader creates the thread. -/
def Fcsr.reset : Fcsr := { rm := 0, flags := FpFlags.none }
/-- R46: every field 0. -/
def TaskReg.reset : TaskReg := { inst := 0, node := 0, launch := 0, eprio := 0, dyn := false, valid := false }
def HeldTask.none : HeldTask := { graph := Option.none, contributed := false, keep := false, steps := 0, begun := false }
/-- R164: zero when the thread is created. -/
def Chime.reset : Chime := { pend := 0, fail := false, ovf := false, fault := 0, value := 0 }
/-- R308. -/
def DbgCtl.reset : DbgCtl :=
  { hcause := 0, skip := false, dbg := false, ss := false, tr := false, wen := 0, ben := 0 }
def Inbox.reset : Inbox := { msgs := [], reserved := [], refused := [] }

/-- A thread as the loader creates it (R27, R114, R216, R301). -/
def Thread.create (wbase wsize : Nat) (mode : Mode) (entry tvec : Word) (tag : BitVec 8) (ctx : BitVec 6) : Thread :=
  { pc := entry
    win := { wbase := wbase, wsize := wsize, lent := false, held := false, bslot := 0 }
    status := { mode := mode, pmode := .user, pie := false, ie := false, ien := 0 }
    trap := { tvec := tvec, tpc := 0, tcause := 0, tval := 0, tinfo := 0 }
    fcsr := Fcsr.reset, task := TaskReg.reset, held := HeldTask.none, ctxTag := tag, ctxId := ctx
    k1 := 0, k2 := 0, k3 := 0, fail1 := none, fail2 := none, fail3 := none
    chimes := [], replies := [], replyReserved := 0, inbox := Inbox.reset, sendq := [], fetch := none, wait := none
    owed := [], mstats := [], dbg := DbgCtl.reset, halted := false, haltedAt := 0, stepsLeft := none
    stepsDone := 0, stepOf := none, idleFrom := 0, entry := entry, entryMode := mode, entryTvec := tvec }

/-- A core before a partition is loaded on it (R48: closed; R301: zero scratchpad, every word full). -/
def Core.reset : Core :=
  { rotLen := 0, loadRot := 0, rotNext := none, position := 0, rf := [], rfBad := [], spad := [], spadEmpty := [], spadBad := []
    peersOpen := false, park := [], locks := [], icache := [], rows := [], breaks := [], watches := [], counts := []
    bins := [], threads := [], lastBeat := 0, stopped := false, lost := false, spare := false }

def SlotCounts.reset : SlotCounts := { issued := 0, mem := 0, msg := 0, vacant := 0 }
def Semaphore.reset : Semaphore := { count := 0, waiters := [] }
/-- R241: empty, and free (R249). -/
def OpSlot.reset : OpSlot :=
  { claim := none, state := .empty, sideB := false, s := 0, j := 0, exps := [], flags := [], scale := 0, sparse := 0
    positions := [], data := [] }
/-- R242: empty, with all entries zero. -/
def Tile.reset : Tile :=
  { state := .empty, key := 0, rowE := [], colE := [], rowF := [], colF := [], sA := 0, sB := 0, ovf := false
    ofl := false, ufl := false, nxl := false, products := 0, entries := [] }
/-- R265. -/
def Mcur.reset : Mcur :=
  { abort := false, busy := false, tslot := 0, tcore := 0, tile := 0, aslot := 0, bslot := 0, full := false, s := 0
    pair := 0 }
def Station.reset : Station :=
  { sems := [], dyn := [], copies := [], descs := [], slots := [], tiles := [], array := [], mcur := Mcur.reset
    slice := [], park := [], fallout := [], router := .awake 0, returns := [], viewed := none }
def XlatStation.reset : XlatStation := { tlb := [], counts := [] }
def Barrier.reset : Barrier := { p := 0, arrived := [] }
/-- R236. -/
def ControlPage.reset : ControlPage :=
  { rstat := 0, rplace := 0, runits := 0, timer := 0, knell := [], knellLost := false, migrate := []
    migrateLost := false, mailbox := [], mailboxLost := false }
def TraceBuf.reset : TraceBuf :=
  { on := false, base := 0, b := 12, wrap := false, s := 0, written := 0, dropped := 0, failedAt := none, sampled := [] }
/-- R295. -/
def CmdQueue.reset : CmdQueue :=
  { base := 0, ctx := 0, lsize := 0, en := false, tail := 0, head := 0, seq := 0, err := 0, openGraphs := []
    packet := none, waiting := none, heldSince := none, heldVa := 0, givenUp := [], stepDone := none, statusFailed := false }
/-- R282. -/
def Channel.reset : Channel := { src := 0, dst := 0, go := false, status := 0, sz := false, count := 0, waits := false }
/-- R300. -/
def PmBlock.reset : PmBlock :=
  { go := false, status := 0, cause := 0, kind := 0, req := 0, sta := 0, stb := 0, ctx := 0, tick := 0, img := 0 }
def Port.reset : Port :=
  { out := [], replay := [], sendSeq := 0, failed := false, expect := 0, acked := 0, badFlits := 0, crq := 0, crs := 0
    lastAck := 0, locked := false }
/-- R292, R293. -/
def HostIf.reset : HostIf :=
  { ctxtab := 0, hwin := 0, bar2tag := 0, bar2err := 0, podpair := 0, nodown := false, xinvva := 0, xinvGo := false
    xinvCount := 0, xinvIds := [], queues := [], channels := [], pm := PmBlock.reset, porttab := [], ports := [], hknell := []
    hknellLost := false, msixTable := [], msixPending := [], msix := [] }
/-- R317: every tag free at boot; R321, R328, R329. -/
def Security.reset : Security :=
  { tags := [], go := false, status := 0, kind := 0, arg := 0, addr := 0, res := 0, sweeping := none, killWaits := [], journal := []
    jtail := 0, bootCount := 0, failedSteps := [], jclr := false, recovery := false, booted := false, memStacks := 0
    memCap := false, errlog := [], errtail := 0, errhead := 0, errlost := 0, pwr := [], fwMeasure := []
    cfgMeasure := [] }
def PwrReg.reset : PwrReg := { mhz := 0, mv := 0, state := 0, changing := false, targetMhz := 0, targetMv := 0 }
/-- R15, R22: gen 0; the fields that boot loads are 0 before it (log entry 9). -/
def Package.reset : Package :=
  { device := 0, inPod := false, gen := 0, spares := [], deadPlaces := [], table := [], rewriting := none }
def Phys.reset : Phys := { ram := [], empty := [], tags := [], poison := [], uncorr := [], old := [], host := [] }
def Dram.reset : Dram := { openRow := [], activations := [], windowStart := 0 }

/-- The machine right after reset, before the boot steps of R324: every register at its Reset column, no context
resident, no thread created. Log entries 2, 5, 8 and 9 name the values that the spec does not state. -/
def State.reset : State :=
  { schedule := [], phase := 0, cycles := [], focus := 0, cur := { core := 0, slot := 0 }, free := 0, nextId := 0, hostData := [], classes := [], time := 0
    phys := Phys.reset, cores := [], stations := [], xlats := [], dram := Dram.reset, accesses := [], flights := []
    rowWaits := [], folds := [], replicas := [], lates := [], serves := [], descs := [], held := [], ctxs := [], host := HostIf.reset, sec := Security.reset
    pkg := Package.reset }

end Sys2Proof.Machine
end

