-- ==== Sys2Proof/Machine/Numbers.lean ====
section
/-! DEFINITION. Number formats, rounding, conversion, microscaling blocks and slices (07_numbers R84 to R101,
05_encoding R82, R83). Encodings are unsigned integers; exact values are a sign, a Nat significand and an Int
exponent, as R86 decodes them. -/

namespace Sys2Proof.Machine

/-- The Specials column of R85. -/
inductive Specials where
  | ieee | nanOnly | none
  deriving DecidableEq, Repr

/-- A floating-point format (R85): exponent width, fraction width, bias. -/
structure Fmt where
  ew : Nat
  p : Nat
  bias : Nat
  specials : Specials
  deriving DecidableEq, Repr

def Fmt.fp64 : Fmt := { ew := 11, p := 52, bias := 1023, specials := .ieee }
def Fmt.fp32 : Fmt := { ew := 8, p := 23, bias := 127, specials := .ieee }
def Fmt.fp16 : Fmt := { ew := 5, p := 10, bias := 15, specials := .ieee }
def Fmt.bf16 : Fmt := { ew := 8, p := 7, bias := 127, specials := .ieee }
def Fmt.e5m2 : Fmt := { ew := 5, p := 2, bias := 15, specials := .ieee }
def Fmt.e4m3 : Fmt := { ew := 4, p := 3, bias := 7, specials := .nanOnly }
def Fmt.e3m2 : Fmt := { ew := 3, p := 2, bias := 3, specials := .none }
def Fmt.e2m1 : Fmt := { ew := 2, p := 1, bias := 1, specials := .none }

/-- FP64 or FP32, by a size bit (R61). -/
def Fmt.ofDbl (dbl : Bool) : Fmt := if dbl then .fp64 else .fp32

/-- The width of an encoding (R85). -/
def Fmt.width (f : Fmt) : Nat := 1 + f.ew + f.p

/-- The sign bit of an encoding, as a value. -/
def Fmt.signBit (f : Fmt) : Nat := 2 ^ (f.ew + f.p)

/-- The exponent of the least subnormal, 1 - bias - p (R86). -/
def Fmt.emin (f : Fmt) : Int := 1 - (f.bias : Int) - (f.p : Int)

/-- The encoding of the largest finite magnitude (R87). -/
def Fmt.maxCode (f : Fmt) : Nat :=
  match f.specials with
  | .ieee => (2 ^ f.ew - 1) * 2 ^ f.p - 1
  | .nanOnly => 2 ^ (f.ew + f.p) - 2
  | .none => 2 ^ (f.ew + f.p) - 1

/-- The encoding of +infinity in an IEEE format (R87). -/
def Fmt.infCode (f : Fmt) : Nat := (2 ^ f.ew - 1) * 2 ^ f.p

/-- Whether the format has infinities. -/
def Fmt.hasInf (f : Fmt) : Bool := f.specials == .ieee

/-- The canonical NaN (R87); a format without NaN never asks for one. -/
def Fmt.canon (f : Fmt) : Nat :=
  match f.specials with
  | .ieee => f.infCode + 2 ^ (f.p - 1)
  | .nanOnly => 2 ^ (f.ew + f.p) - 1
  | .none => 0

/-- The classes of R86. -/
inductive FClass where
  | zero | finite | inf | qnan | snan
  deriving DecidableEq, Repr

/-- A decoded operand (R86): value (-1)^neg times m times 2^e. -/
structure FVal where
  cls : FClass
  neg : Bool
  m : Nat
  e : Int
  deriving DecidableEq, Repr

def FVal.isNan (v : FVal) : Bool := v.cls == .qnan || v.cls == .snan

/-- decode of R86. -/
def decodeF (f : Fmt) (x : Nat) : FVal :=
  let neg := bitAt x (f.ew + f.p)
  let E := fld x (f.ew + f.p - 1) f.p
  let F := x % 2 ^ f.p
  if f.specials == .ieee && E == 2 ^ f.ew - 1 then
    if F = 0 then { cls := .inf, neg := neg, m := 0, e := 0 }
    else if bitAt F (f.p - 1) then { cls := .qnan, neg := neg, m := 0, e := 0 }
    else { cls := .snan, neg := neg, m := 0, e := 0 }
  else if f.specials == .nanOnly && E == 2 ^ f.ew - 1 && F == 2 ^ f.p - 1 then
    { cls := .qnan, neg := neg, m := 0, e := 0 }
  else if E = 0 then
    if F = 0 then { cls := .zero, neg := neg, m := 0, e := 0 }
    else { cls := .finite, neg := neg, m := F, e := f.emin }
  else { cls := .finite, neg := neg, m := 2 ^ f.p + F, e := (E : Int) - f.bias - f.p }

def FpFlags.or (a b : FpFlags) : FpFlags :=
  { nv := a.nv || b.nv, dz := a.dz || b.dz, ovf := a.ovf || b.ovf, uf := a.uf || b.uf, nx := a.nx || b.nx }
def FpFlags.invalid : FpFlags := { FpFlags.none with nv := true }
def FpFlags.divZero : FpFlags := { FpFlags.none with dz := true }

/-- An encoding with the flags of its computation. -/
structure FRes where
  bits : Nat
  flags : FpFlags
  deriving DecidableEq, Repr

def FRes.exact (bits : Nat) : FRes := { bits := bits, flags := .none }

/-- Puts a sign on the encoding of a magnitude. -/
def Fmt.signed (f : Fmt) (neg : Bool) (code : Nat) : Nat := code + b2n neg * f.signBit

/-- The rounding of m / 2^s to an integer under a mode of R89. -/
def roundShift (neg : Bool) (m s rm : Nat) : Nat :=
  let q := m / 2 ^ s
  let r := m % 2 ^ s
  if r = 0 then q
  else
    match rm with
    | 0 => if 2 * r < 2 ^ s then q else if 2 * r > 2 ^ s then q + 1 else q + q % 2
    | 1 => if 2 * r < 2 ^ s then q else q + 1
    | 2 => q
    | 3 => if neg then q else q + 1
    | _ => if neg then q + 1 else q

/-- m times 2^k for k at least zero, and the rounded quotient otherwise. -/
def scaleRound (neg : Bool) (m : Nat) (k : Int) (rm : Nat) : Nat :=
  if 0 ≤ k then m * 2 ^ k.toNat else roundShift neg m (-k).toNat rm

/-- Whether m times 2^k is an integer. -/
def scaleExact (m : Nat) (k : Int) : Bool := decide (0 ≤ k) || m % 2 ^ (-k).toNat == 0

/-- What an overflow gives (R82). -/
def overflowCode (f : Fmt) (neg : Bool) (rm : Nat) (sat : Bool) : Nat :=
  if sat || rm == 2 || (rm == 4 && !neg) || (rm == 3 && neg) then f.signed neg f.maxCode
  else if f.hasInf then f.signed neg f.infCode
  else f.canon

/-- round of R82, with its flags. -/
def roundF (f : Fmt) (neg : Bool) (m : Nat) (e : Int) (rm : Nat) (sat : Bool) : FRes :=
  if m = 0 then .exact (f.signed neg 0)
  else
    let qn := (bitLength m : Int) + e - (f.p + 1)
    let q := max qn f.emin
    let n := scaleRound neg m (e - q) rm
    let exact := scaleExact m (e - q)
    let code := (q - f.emin).toNat * 2 ^ f.p + n
    let un := scaleRound neg m (e - qn) rm
    let tiny := decide (qn < f.emin) && (decide (un < 2 ^ (f.p + 1)) || decide (qn + 1 < f.emin))
    if f.maxCode < code then
      { bits := overflowCode f neg rm sat, flags := { FpFlags.none with ovf := true, nx := true } }
    else
      { bits := f.signed neg code
        flags := { FpFlags.none with nx := !exact, uf := tiny && !exact } }

/-- The signed integer of a value times 2^k, for k no less than -e. -/
def FVal.scaled (v : FVal) (base : Int) : Int :=
  let n : Int := (v.m * 2 ^ (v.e - base).toNat : Nat)
  if v.neg then -n else n

/-- The exact sum of two finite or zero values, rounded once; an exact zero takes its sign by R89. -/
def sumRound (f : Fmt) (a b : FVal) (rm : Nat) (sat : Bool) : FRes :=
  let base := min (if a.m = 0 then b.e else a.e) (if b.m = 0 then a.e else b.e)
  let t := (if a.m = 0 then 0 else a.scaled base) + (if b.m = 0 then 0 else b.scaled base)
  if t = 0 then
    if a.m = 0 && b.m = 0 && a.neg == b.neg then .exact (f.signed a.neg 0)
    else .exact (f.signed (rm == 4) 0)
  else roundF f (decide (t < 0)) t.natAbs base rm sat

/-- The NaN results of R116: canonical NaN, invalid when an operand signals. -/
def nanResult (f : Fmt) (ops : List FVal) : FRes :=
  { bits := f.canon, flags := if ops.any (fun v => v.cls == .snan) then .invalid else .none }

/-- The canonical NaN with nv. -/
def invalidResult (f : Fmt) : FRes := { bits := f.canon, flags := .invalid }

/-- a + b of decoded operands (R116, R117). -/
def addVals (f : Fmt) (a b : FVal) (rm : Nat) (sat : Bool) : FRes :=
  if a.isNan || b.isNan then nanResult f [a, b]
  else if a.cls == .inf && b.cls == .inf && a.neg != b.neg then invalidResult f
  else if a.cls == .inf then .exact (f.signed a.neg f.infCode)
  else if b.cls == .inf then .exact (f.signed b.neg f.infCode)
  else sumRound f a b rm sat

/-- The negation of a decoded operand; a NaN stays one. -/
def FVal.negate (v : FVal) : FVal := { v with neg := !v.neg }

/-- fadd of R116. -/
def fpAdd (f : Fmt) (x y rm : Nat) : FRes := addVals f (decodeF f x) (decodeF f y) rm false

/-- fsub of R116. -/
def fpSub (f : Fmt) (x y rm : Nat) : FRes := addVals f (decodeF f x) (decodeF f y).negate rm false

/-- fmul of R116. -/
def fpMul (f : Fmt) (x y rm : Nat) : FRes :=
  let a := decodeF f x
  let b := decodeF f y
  let neg := a.neg != b.neg
  if a.isNan || b.isNan then nanResult f [a, b]
  else if (a.cls == .zero && b.cls == .inf) || (a.cls == .inf && b.cls == .zero) then invalidResult f
  else if a.cls == .inf || b.cls == .inf then .exact (f.signed neg f.infCode)
  else roundF f neg (a.m * b.m) (a.e + b.e) rm false

/-- fma of R116: a times b plus c, rounded once. -/
def fpFma (f : Fmt) (x y z rm : Nat) : FRes :=
  let a := decodeF f x
  let b := decodeF f y
  let c := decodeF f z
  let neg := a.neg != b.neg
  if a.cls == .snan || b.cls == .snan || c.cls == .snan then invalidResult f
  else if (a.cls == .zero && b.cls == .inf) || (a.cls == .inf && b.cls == .zero) then invalidResult f
  else if a.isNan || b.isNan || c.isNan then .exact f.canon
  else if a.cls == .inf || b.cls == .inf then
    if c.cls == .inf && c.neg != neg then invalidResult f else .exact (f.signed neg f.infCode)
  else if c.cls == .inf then .exact (f.signed c.neg f.infCode)
  else sumRound f { cls := .finite, neg := neg, m := a.m * b.m, e := a.e + b.e } c rm false

/-- fdiv of R116. The quotient carries enough bits, the last one sticky, to round as the exact value does. -/
def fpDiv (f : Fmt) (x y rm : Nat) : FRes :=
  let a := decodeF f x
  let b := decodeF f y
  let neg := a.neg != b.neg
  if a.isNan || b.isNan then nanResult f [a, b]
  else if (a.cls == .zero && b.cls == .zero) || (a.cls == .inf && b.cls == .inf) then invalidResult f
  else if a.cls == .inf then .exact (f.signed neg f.infCode)
  else if b.cls == .inf || a.cls == .zero then .exact (f.signed neg 0)
  else if b.cls == .zero then { bits := f.signed neg f.infCode, flags := .divZero }
  else
    let k := f.p + 3 + bitLength b.m
    let n := a.m * 2 ^ k
    roundF f neg (2 * (n / b.m) + b2n (n % b.m != 0)) (a.e - b.e - k - 1) rm false

/-- The integer square root of n below 2^(2k), bit by bit. -/
def isqrtBits (n : Nat) : Nat → Nat → Nat
  | 0, r => r
  | k + 1, r => if (r + 2 ^ k) * (r + 2 ^ k) ≤ n then isqrtBits n k (r + 2 ^ k) else isqrtBits n k r

/-- The integer square root. -/
def isqrt (n : Nat) : Nat := isqrtBits n (bitLength n / 2 + 1) 0

/-- fsqrt of R116. -/
def fpSqrt (f : Fmt) (x rm : Nat) : FRes :=
  let a := decodeF f x
  if a.isNan then nanResult f [a]
  else if a.cls == .zero then .exact (f.signed a.neg 0)
  else if a.neg then invalidResult f
  else if a.cls == .inf then .exact f.infCode
  else
    let odd := (a.e % 2).toNat
    let m := a.m * 2 ^ odd * 2 ^ (2 * (f.p + 3))
    let r := isqrt m
    roundF f false (2 * r + b2n (r * r != m)) ((a.e - odd) / 2 - (f.p + 3) - 1) rm false

/-- Whether a lies below b, for operands that are no NaN; -0 equals +0. -/
def FVal.lt (a b : FVal) : Bool :=
  if a.cls == .inf then a.neg && !(b.cls == .inf && b.neg)
  else if b.cls == .inf then !b.neg
  else
    let base := min a.e b.e
    decide (a.scaled base < b.scaled base)

/-- Whether a equals b, for operands that are no NaN. -/
def FVal.eq (a b : FVal) : Bool := !a.lt b && !b.lt a

/-- fmin and fmax of R118: -0 counts as below +0; a numeric result is the operand's encoding. -/
def fpMinMax (f : Fmt) (wantMax : Bool) (x y : Nat) : FRes :=
  let a := decodeF f x
  let b := decodeF f y
  if a.cls == .snan || b.cls == .snan then invalidResult f
  else if a.isNan && b.isNan then .exact f.canon
  else if a.isNan then .exact y
  else if b.isNan then .exact x
  else
    let below := a.lt b || (a.eq b && a.neg && !b.neg)
    .exact (if below != wantMax then x else y)

/-- fcmp of R120: condition code 0 eq, 1 lt, 2 le, 3 un. -/
def fpCompare (f : Fmt) (cond x y : Nat) : Bool × FpFlags :=
  let a := decodeF f x
  let b := decodeF f y
  let nan := a.isNan || b.isNan
  let sig := a.cls == .snan || b.cls == .snan
  let flag (raise : Bool) : FpFlags := if raise then .invalid else .none
  match cond with
  | 0 => (!nan && a.eq b, flag sig)
  | 1 => (!nan && a.lt b, flag nan)
  | 2 => (!nan && !b.lt a, flag nan)
  | _ => (nan, flag sig)

/-- fclass of R121: the number of the bit that is set. -/
def fpClassBit (f : Fmt) (x : Nat) : Nat :=
  let a := decodeF f x
  let normal := decide (2 ^ f.p ≤ a.m)
  match a.cls with
  | .inf => if a.neg then 0 else 7
  | .snan => 8
  | .qnan => 9
  | .zero => if a.neg then 3 else 4
  | .finite =>
    if a.neg then (if normal then 1 else 2) else (if normal then 6 else 5)

/-- fround of R123. -/
def fpRoundInt (f : Fmt) (x rm : Nat) : FRes :=
  let a := decodeF f x
  match a.cls with
  | .snan => invalidResult f
  | .qnan => .exact f.canon
  | .zero => .exact x
  | .inf => .exact x
  | .finite =>
    let n := scaleRound a.neg a.m a.e rm
    let r := roundF f a.neg n 0 rm false
    { bits := r.bits, flags := { FpFlags.none with nx := !scaleExact a.m a.e } }

/-! ### Conversion (R92, R93) -/

/-- to_int of R93 for the integer range lo to hi. -/
def toIntF (v : FVal) (lo hi : Int) (rm : Nat) : Int × FpFlags :=
  if v.isNan then (0, .invalid)
  else if v.cls == .zero then (0, .none)
  else
    let n : Int := scaleRound v.neg v.m v.e rm
    let r := if v.cls == .inf then (if v.neg then lo - 1 else hi + 1) else (if v.neg then -n else n)
    if r < lo then (lo, .invalid)
    else if r > hi then (hi, .invalid)
    else (r, { FpFlags.none with nx := !scaleExact v.m v.e })

/-- convert of R92 between floating-point formats, from a decoded source. -/
def convertVal (b : Fmt) (v : FVal) (rm : Nat) (sat : Bool) : FRes :=
  match v.cls with
  | .snan => invalidResult b
  | .qnan => .exact b.canon
  | .zero => .exact (b.signed v.neg 0)
  | .inf =>
    if b.hasInf then .exact (b.signed v.neg b.infCode)
    else if sat then
      { bits := b.signed v.neg b.maxCode, flags := { FpFlags.none with ovf := true, nx := true } }
    else invalidResult b
  | .finite => roundF b v.neg v.m v.e rm sat

/-- convert of R92 between floating-point formats. -/
def convertF (a b : Fmt) (x rm : Nat) (sat : Bool) : FRes := convertVal b (decodeF a x) rm sat

/-- The decoding of an integer source (R92). -/
def FVal.ofInt (i : Int) : FVal :=
  if i = 0 then { cls := .zero, neg := false, m := 0, e := 0 }
  else { cls := .finite, neg := decide (i < 0), m := i.natAbs, e := 0 }

/-! ### Floating-point types of fcvt (R62) -/

/-- The formats of codes 0 to 3 and 8 to 11 of R62; codes 4 to 7 are integers. -/
def cvtFmt (code : Nat) : Fmt :=
  match code with
  | 0 => .fp32
  | 1 => .fp64
  | 2 => .fp16
  | 3 => .bf16
  | 8 => .e4m3
  | 10 => .e4m3
  | _ => .e5m2

/-- fcvt of R122 on the register value x: the value written to rd and the flags. -/
def fcvtValue (dt st rm : Nat) (x : Word) : Word × FpFlags :=
  let v : FVal :=
    match st with
    | 4 => FVal.ofInt (signedOf 32 x.toNat)
    | 5 => FVal.ofInt ((x.toNat % 2 ^ 32 : Nat) : Int)
    | 6 => FVal.ofInt x.sv
    | 7 => FVal.ofInt (x.toNat : Int)
    | _ => decodeF (cvtFmt st) (x.toNat % 2 ^ (cvtFmt st).width)
  let int (lo hi : Int) : Word × FpFlags :=
    let r := toIntF v lo hi rm
    (Word.ofInt r.1, r.2)
  match dt with
  | 4 => int (-2 ^ 31) (2 ^ 31 - 1)
  | 5 => int 0 (2 ^ 32 - 1)
  | 6 => int (-2 ^ 63) (2 ^ 63 - 1)
  | 7 => int 0 (2 ^ 64 - 1)
  | _ =>
    let r := convertVal (cvtFmt dt) v rm (dt == 10 || dt == 11)
    (BitVec.ofNat 64 r.bits, r.flags)

/-! ### Wire formats (R100) -/

/-- The wide format of a wire code; codes 1 to 4 are FP32, 5 and 6 FP64. -/
def wireWide (w : Nat) : Fmt := if w ≤ 4 then .fp32 else .fp64

/-- The narrow format of a wire code. -/
def wireNarrow (w : Nat) : Fmt :=
  match w with
  | 1 => .bf16
  | 2 => .fp16
  | 3 => .e4m3
  | 4 => .e5m2
  | 5 => .fp32
  | _ => .bf16

/-- Bytes of a wide element. -/
def wireWideBytes (w : Nat) : Nat := if w ≤ 4 then 4 else 8

/-- Bytes of a narrow element. -/
def wireNarrowBytes (w : Nat) : Nat := (wireNarrow w).width / 8

/-- One wide element as it arrives: narrowed with saturation, then widened exactly (R100). -/
def wireRound (w x : Nat) : Nat :=
  let n := (convertF (wireWide w) (wireNarrow w) x 0 true).bits
  (convertF (wireNarrow w) (wireWide w) n 0 true).bits

/-- Wide bytes narrowed under a wire code (R100). -/
def wireShrink (w : Nat) (bs : List Byte) : List Byte :=
  if w = 0 then bs
  else ((chunkNats (wireWideBytes w) (bs.length / wireWideBytes w) bs).map (fun x =>
    bytesLE (wireNarrowBytes w) (convertF (wireWide w) (wireNarrow w) x 0 true).bits)).flatten

/-- Narrow bytes widened under a wire code (R100). -/
def wireWiden (w : Nat) (bs : List Byte) : List Byte :=
  if w = 0 then bs
  else ((chunkNats (wireNarrowBytes w) (bs.length / wireNarrowBytes w) bs).map (fun x =>
    bytesLE (wireWideBytes w) (convertF (wireNarrow w) (wireWide w) x 0 true).bits)).flatten

/-! ### Microscaling blocks (R96 to R98) -/

/-- The bias of an element kind's largest exponent: emax of R98. -/
def mxEmax (kind : Fmt) : Int := if kind.specials == .ieee then 15 else if kind.p == 3 then 8 else if kind.p == 2 then 4 else 2

/-- Element i of a block under scale c (R97), exactly. -/
def decodeMx (kind : Fmt) (c elem : Nat) : FVal :=
  if c = 255 then { cls := .qnan, neg := false, m := 0, e := 0 }
  else
    let v := decodeF kind elem
    if v.cls == .finite then { v with e := v.e + (c : Int) - 127 } else v

/-- floor(log2 v) of a finite nonzero value. -/
def FVal.log2 (v : FVal) : Int := (bitLength v.m : Int) - 1 + v.e

/-- encode_mx of R98 on decoded values: the scale and the elements. -/
def encodeMx (kind : Fmt) (vs : List FVal) (rm : Nat) (sat : Bool) : Nat × List Nat :=
  if vs.any (fun v => v.isNan || v.cls == .inf) then (255, vs.map (fun _ => 0))
  else
    let logs := (vs.filter (fun v => v.cls == .finite)).map FVal.log2
    let x : Int := match logs with
      | [] => -127
      | l :: r => r.foldl max l - mxEmax kind
    let c := (min (max (x + 127) 0) 254).toNat
    let rs := vs.map (fun v =>
      if v.cls == .zero then FRes.exact (kind.signed v.neg 0) else roundF kind v.neg v.m (v.e - ((c : Int) - 127)) rm sat)
    if kind.specials == .none && !sat && rs.any (fun r => r.flags.ovf) then (255, vs.map (fun _ => 0))
    else (c, rs.map FRes.bits)

/-! ### Slices (R83, R94) -/

/-- split of R83 as the signed slice value, before its 16-bit container. -/
def splitSlice (neg : Bool) (m : Nat) (e E : Int) (S j : Nat) : Int :=
  let k := e + 8 * S - E
  let t := if 0 ≤ k then m * 2 ^ k.toNat else m / 2 ^ (-k).toNat
  let d : Int := (t / 256 ^ (S - j) % 256 : Nat)
  if neg then -d else d

/-- A slice in its 16-bit container (R94). -/
def sliceContainer (d : Int) : Nat := (d % 65536).toNat

/-- Whether a container is well formed (R94): bits [15:9] copy bit 8, and the value is not -256. -/
def sliceWf (x : Nat) : Bool :=
  (fld x 15 9 == if bitAt x 8 then 127 else 0) && x % 512 != 256

/-- The slice that a well-formed container holds. -/
def sliceOf (x : Nat) : Int := signedOf 9 x

/-- The 96-bit entry as 16 little-endian bytes, bits [127:96] copying bit 95 (R95). -/
def entryBytes (x : BitVec 96) : List Byte := bytesLE 16 (x.signExtend 128).toNat

end Sys2Proof.Machine
end

