-- ==== Sys2Proof/Machine/Place.lean ====
section
/-! DEFINITION. Access to the parts of the state by number, the places of the build and the scopes between them
(01_build R14 to R21, 21_fabric R277, R278). -/

namespace Sys2Proof.Machine

/-- The answer of a step. -/
abbrev Res := Host.Outcome State Fault Refusal

/-! ### Parts of the state -/

def State.coreAt (s : State) (c : Nat) : Core := agetD s.cores c Core.reset
def State.setCore (s : State) (c : Nat) (k : Core) : State := { s with cores := aset s.cores c k }
def State.modCore (s : State) (c : Nat) (f : Core → Core) : State := s.setCore c (f (s.coreAt c))

def State.stationAt (s : State) (n : Nat) : Station := agetD s.stations n Station.reset
def State.setStation (s : State) (n : Nat) (k : Station) : State := { s with stations := aset s.stations n k }
def State.modStation (s : State) (n : Nat) (f : Station → Station) : State := s.setStation n (f (s.stationAt n))

def State.threadAt (s : State) (t : ThreadId) : Option Thread := aget (s.coreAt t.core).threads t.slot
def State.setThread (s : State) (t : ThreadId) (th : Thread) : State :=
  s.modCore t.core (fun k => { k with threads := aset k.threads t.slot th })
/-- Changes a created thread; a vacant slot stays vacant. -/
def State.modThread (s : State) (t : ThreadId) (f : Thread → Thread) : State :=
  match s.threadAt t with
  | none => s
  | some th => s.setThread t (f th)

def State.ctxAt (s : State) (c : Nat) : Option Context := aget s.ctxs c
def State.setCtx (s : State) (c : Nat) (x : Context) : State := { s with ctxs := aset s.ctxs c x }
def State.modCtx (s : State) (c : Nat) (f : Context → Context) : State :=
  match s.ctxAt c with
  | none => s
  | some x => s.setCtx c (f x)

def State.xlatAt (s : State) (n : Nat) : XlatStation := agetD s.xlats n XlatStation.reset
def State.modXlat (s : State) (n : Nat) (f : XlatStation → XlatStation) : State :=
  { s with xlats := aset s.xlats n (f (s.xlatAt n)) }

def State.queueAt (s : State) (q : Nat) : CmdQueue := agetD s.host.queues q CmdQueue.reset
def State.setQueue (s : State) (q : Nat) (k : CmdQueue) : State :=
  { s with host := { s.host with queues := aset s.host.queues q k } }

def State.modPhys (s : State) (f : Phys → Phys) : State := { s with phys := f s.phys }

/-! ### Places (R14 to R16) -/

/-- The package station of a core. -/
def stationOfCore (core : Nat) : Nat := core / 8

/-- The logical core index within the chiplet (R14): layer x 48 + station x 8 + core. -/
def coreInChiplet (core : Nat) : Nat := core % 96

/-- The core that a peer address of logical index k names, seen from a core of its chiplet. -/
def peerCore (core k : Nat) : Nat := core / 96 * 96 + k

/-- The place word of R15. -/
def placeOf (device : Nat) (t : ThreadId) : Nat :=
  let st := stationOfCore t.core
  device * 2 ^ 18 + st / 24 * 2 ^ 16 + st % 24 / 12 * 2 ^ 15 + st % 12 / 6 * 2 ^ 14 + st % 6 * 2 ^ 11 +
    t.core % 8 * 2 ^ 8 + t.slot

/-- `place` of a thread of this device. -/
def State.place (s : State) (t : ThreadId) : Nat := placeOf s.pkg.device.toNat { t with slot := t.slot % 64 }

/-- The station index of the fields of a place word (R37). -/
def stationOfPlace (w : Nat) : Nat := fld w 17 16 * 24 + fld w 15 15 * 12 + fld w 14 14 * 6 + fld w 13 11

/-- The thread that a place word names on its device. -/
def threadOfPlace (w : Nat) : ThreadId := { core := stationOfPlace w * 8 + fld w 10 8, slot := w % 64 }

/-- Whether a place word has a reserved bit set or names no station (R15, R168). -/
def placeBad (dst : Nat) : Bool := fld dst 7 6 != 0 || decide (6 ≤ fld dst 13 11)

/-- scope_of of R19. -/
def scopeOf (a b : Nat) : Nat :=
  if fld a 31 18 ≠ fld b 31 18 then 6
  else if fld a 17 16 ≠ fld b 17 16 then 5
  else if fld a 15 15 ≠ fld b 15 15 then 4
  else if fld a 14 14 ≠ fld b 14 14 then 3
  else if fld a 13 8 ≠ fld b 13 8 then 2
  else if fld a 5 0 ≠ fld b 5 0 then 1
  else 0

/-- Torus column and row of a station (R16). -/
def stationX (st : Nat) : Nat := st % 24 / 12 * 4 + st % 12 / 6 * 2 + st % 6 % 2
def stationY (st : Nat) : Nat := st / 24 * 3 + st % 6 / 2

def absDiff (a b : Nat) : Nat := (a - b) + (b - a)

/-- Hops between two stations (R16). -/
def hops (a b : Nat) : Nat :=
  let dx := absDiff (stationX a) (stationX b)
  let dy := absDiff (stationY a) (stationY b)
  min dx (8 - dx) + min dy (12 - dy)

/-- The die layer of a station, 0 to 15 (R22). -/
def layerOf (st : Nat) : Nat := st / 6

/-! ### Physical addresses (R224, R277, R278) -/

/-- Bytes of one HBM stack: 48 GiB. -/
def stackBytes : Nat := 0xC00000000

/-- Whether an address lies in the fast tier of R224. -/
def inFast (pa : Nat) : Bool := decide (pa < 0x9000000000)

/-- Whether an address lies in the capacity tier of R224. -/
def inCapacity (pa : Nat) : Bool := decide (0x10000000000 ≤ pa) && decide (pa < 0x30000000000)

/-- The map of R224, with the stacks and the tier that `memmap` reports present (R327). -/
def State.inMap (s : State) (pa : Nat) : Bool :=
  (inFast pa && bitAt s.sec.memStacks.toNat (pa / stackBytes)) || (inCapacity pa && s.sec.memCap)

/-- The station of the home slice of a physical address (R278). -/
def homeStation (pa : Nat) : Nat :=
  let h := Nat.xor (Nat.xor (fld pa 14 12) (fld pa 17 15)) (Nat.xor (fld pa 20 18) (fld pa 23 21))
  if inFast pa then 8 * (pa / stackBytes) + h else 8 * (fld pa 41 16 % 12) + h

/-- The translation station that holds a page's access count (R230). -/
def countStation (pa : Nat) : Nat := if inFast pa then pa / stackBytes else fld pa 41 16 % 12

/-! ### Fixed virtual ranges (R22, R236, R291) -/

/-- What a global virtual address names before any translation (R225). -/
inductive Region where
  | discovery | control | hostWindow | remote (device : Nat) | outside | paged
  deriving DecidableEq, Repr

def discoveryBase : Nat := 0x00FFFFFFFFFF0000
def controlBase : Nat := 0x00FFFFFFFFFE0000

/-- R225: the fixed ranges first, then another device, then the range outside. -/
def State.region (s : State) (va : Nat) : Region :=
  if discoveryBase ≤ va && va < discoveryBase + 0x10000 then .discovery
  else if controlBase ≤ va && va < controlBase + 0x10000 then .control
  else if 0x00FFFE0000000000 ≤ va && va ≤ 0x00FFFEFFFFFFFFFF then .hostWindow
  else if s.pkg.inPod && fld va 55 42 ≠ s.pkg.device.toNat then .remote (fld va 55 42)
  else if !s.pkg.inPod && fld va 55 42 ≠ 0 then .outside
  else .paged

/-! ### Links (R286, R288) -/

/-- Whether some enabled port towards a device has not failed (R286, R288). -/
def State.linked (s : State) (device : Nat) : Bool :=
  (List.range 24).any (fun q => bitAt (agetD s.host.porttab device 0) q &&
    !((aget s.host.ports q).map Port.failed).getD false)

/-! ### Partitions -/

/-- Whether a context's partition runs: it is not switched out and its Peal tick has not come (R51, R235). -/
def Context.active (x : Context) (now : Word) : Bool :=
  x.running && (match x.peal with
    | none => true
    | some p => decide (now.toNat < p.tick))

/-- The context whose running partition holds a station (R51). -/
def State.ctxOfStation (s : State) (st : Nat) : Option Nat :=
  (s.ctxs.find? (fun c => c.2.active s.time && c.2.stations.contains st)).map Prod.fst

/-- Whether the partition of a thread runs. -/
def State.threadRuns (s : State) (t : ThreadId) : Bool := (s.ctxOfStation (stationOfCore t.core)).isSome

/-- The lowest-numbered station of a partition. -/
def lowestStation (stations : List Nat) : Nat := (sortedSet stations).headD 0

/-- The supervisor thread of a context (R28). -/
def Context.supervisor (x : Context) : ThreadId := { core := lowestStation x.stations * 8, slot := 0 }

/-- Whether a thread is its partition's supervisor thread. -/
def State.isSupervisor (s : State) (t : ThreadId) : Bool :=
  match s.ctxOfStation (stationOfCore t.core) with
  | none => false
  | some c =>
    match s.ctxAt c with
    | none => false
    | some x => x.supervisor == t

/-- The length of a rotation (R30). -/
def rotLength (code : BitVec 2) : Nat := 8 * 2 ^ code.toNat

/-- Whether a slot lies inside its core's rotation (R29). -/
def State.inRotation (s : State) (t : ThreadId) : Bool := decide (t.slot < rotLength (s.coreAt t.core).rotLen)

/-- Appends to a bounded queue of the control page; a full queue drops the entry and sets its lost flag (R236). -/
def pushBounded (cap : Nat) (q : List Word) (lost : Bool) (v : Word) : List Word × Bool :=
  if q.length < cap then (q ++ [v], lost) else (q, true)

/-- A number that nothing else in the state bears. -/
def State.takeId (s : State) : Nat × State := (s.nextId, { s with nextId := s.nextId + 1 })

/-- A free value (log entry 3). -/
def State.undefined (s : State) (what : Nat) : Word := Config.freeWord s.free what

/-- One of several things that a fault could name: which one is free (log entry 6). -/
def State.anyOf {α : Type} (s : State) (l : List α) : Option α :=
  match l with
  | [] => none
  | [x] => some x
  | x :: y :: r => (x :: y :: r)[(s.undefined (2 ^ 62)).toNat % (r.length + 2)]?

end Sys2Proof.Machine
end

