-- ==== Sys2Proof/Machine/Phys.lean ====
section
/-! DEFINITION. Global memory at its physical addresses: key tags, poison, cache slices, DRAM rows and pending
accumulates (13_consistency R186, 17_traps R231 to R234, 21_fabric R277 to R281, 25_system R318, R328). -/

namespace Sys2Proof.Machine

/-- The 64-byte lines that n bytes from a upward touch. -/
def linesOf (a n : Nat) : List Nat :=
  if n = 0 then [] else (List.range ((a + n - 1) / 64 - a / 64 + 1)).map (fun i => a / 64 + i)

/-- The state of a tag; tag 0 is always live (R317). -/
def Security.tagState (c : Security) (tag : Nat) : TagState := if tag = 0 then .live else agetD c.tags tag .free

/-- A line's key tag (R318). -/
def Phys.lineTag (p : Phys) (line : Nat) : Nat := agetD p.tags line 0

/-- A doubleword of the MSI-X table: two for each vector, the second with the vector's mask bit at 32, which is set at reset
(log entry 43). -/
def HostIf.msixWord (h : HostIf) (i : Nat) : Word := agetD h.msixTable i (if i % 2 = 1 then 1#64 <<< 32 else 0)

/-- Whether a vector is masked. -/
def HostIf.masked (h : HostIf) (v : Nat) : Bool := (h.msixWord (2 * v + 1)).getLsbD 32

/-- Raises an MSI-X vector (R289): it is sent, or becomes pending while it is masked (log entry 43). -/
def State.msix (s : State) (v : Nat) : State :=
  if s.host.masked v then { s with host := { s.host with msixPending := insertNat v s.host.msixPending } }
  else { s with host := { s.host with msix := s.host.msix ++ [v] } }

/-- A write of the MSI-X table; a pending vector that it unmasks is sent. -/
def State.writeMsix (s : State) (i : Nat) (w : Word) : State :=
  let h : HostIf := { s.host with msixTable := aset s.host.msixTable i w }
  if h.msixPending.contains (i / 2) && !h.masked (i / 2) then
    { s with host := { h with msixPending := h.msixPending.filter (· != i / 2), msix := h.msix ++ [i / 2] } }
  else { s with host := h }

/-- The pending bits of the vectors. -/
def HostIf.pendingBits (h : HostIf) : Word := BitVec.ofNat 64 ((h.msixPending.map (fun v => 2 ^ v)).foldl (· + ·) 0)

/-- Appends an error record to the ring of R328; a full ring drops it and counts it (log entry 14). -/
def State.logError (s : State) (kind sub ctx : Nat) (place : BitVec 32) (addr : Nat) : State :=
  let r : ErrorRecord :=
    { kind := kind, sub := sub, ctx := ctx, place := place, addr := BitVec.ofNat 64 addr, time := s.time }
  if (s.sec.errtail + 1) % 1024 = s.sec.errhead then
    { s with sec := { s.sec with errlost := s.sec.errlost + 1 } }
  else
    { s with sec := { s.sec with errlog := aset s.sec.errlog s.sec.errtail r, errtail := (s.sec.errtail + 1) % 1024 } }.msix 0

/-! ### Pending accumulates (R186) -/

/-- Element-wise sums of two rows, each rounded once to nearest even (R91). -/
def rowSum (dbl : Bool) (old delta : List Byte) : List Byte :=
  let n := if dbl then 8 else 4
  let f := Fmt.ofDbl dbl
  (List.zipWith (fun x y => bytesLE n (fpAdd f x y 0).bits)
    (chunkNats n (old.length / n) old) (chunkNats n (delta.length / n) delta)).flatten

/-- Adds a row into memory (R184, R201). -/
def Phys.addRow (p : Phys) (pa : Nat) (dbl : Bool) (row : List Byte) : Phys :=
  { p with ram := p.ram.writeBytes pa (rowSum dbl (p.ram.readBytes pa row.length) row) }

/-- Folds pending accumulates, oldest first. -/
def foldAll (p : Phys) : List PendingFold → Phys
  | [] => p
  | f :: r => foldAll (p.addRow f.pa f.dbl f.row) r

/-- Folds every pending accumulate of the rows that n bytes from pa touch, as every access but a lookup does first. -/
def State.foldRange (s : State) (pa n : Nat) : State :=
  let hit (f : PendingFold) : Bool := overlaps f.pa f.row.length (pa / 64 * 64) (((pa + n - 1) / 64 - pa / 64 + 1) * 64)
  { s with phys := foldAll s.phys (s.folds.filter hit), folds := s.folds.filter (fun f => !hit f) }

/-! ### Cache slices and DRAM rows (R279 to R281) -/

/-- The DRAM row of an address: the number of its 1 KiB block, or 2 KiB block in the capacity tier (R277). -/
def dramRow (pa : Nat) : Nat := if inFast pa then pa / 1024 else 2 ^ 32 + pa / 2048

/-- The bank of an address (R277). -/
def dramBank (pa : Nat) : Nat :=
  if inFast pa then (pa / stackBytes * 64 + fld pa 21 16) * 16 + fld pa 13 10
  else 2 ^ 16 + (pa / 4096 % 32) * 16 + fld pa 11 11 * 8 + fld pa 19 17

/-- The bytes of a DRAM row. -/
def dramRowBytes (pa : Nat) : Nat := if inFast pa then 1024 else 2048

/-- The valid bits of the doublewords that n bytes from pa touch in one line (R279; log entry 15). -/
def wordMask (line pa n : Nat) : BitVec 8 :=
  (List.range 8).foldl (fun m i => if overlaps (line * 64 + 8 * i) 8 pa n then m ||| (1#8 <<< i) else m) 0

/-- The lines of a slice that lie in a set. -/
def setLines (l : List SliceLine) (set : Nat) : List SliceLine := l.filter (fun x => x.line % 8192 == set)

/-- The victim of a full set, the least recently used line that is not pinned, and the slice without it (R279). A fill of the
victim that is under way returns first, and the accesses that waited for it come to the slice again. -/
def takeVictim (l : List SliceLine) (line : Nat) : Option (SliceLine × List SliceLine) :=
  if (setLines l (line % 8192)).length < 16 then none
  else (takeFirst (fun x => x.line % 8192 == line % 8192 && !x.pinned) l.reverse).map (fun r => (r.1, r.2.reverse))

/-- Whether the doublewords that an access reads are valid in the home slice. -/
def State.sliceHit (s : State) (pa n : Nat) : Bool :=
  (linesOf pa n).all (fun line =>
    match (s.stationAt (homeStation (line * 64))).slice.find? (fun x => x.line == line) with
    | none => false
    | some x => x.valid &&& wordMask line pa n == wordMask line pa n)

/-- A line as an access leaves it at the front of its slice. -/
def SliceLine.touch (x : SliceLine) (valid : BitVec 8) (pin fill : Bool) : SliceLine :=
  { x with valid := x.valid ||| valid, pinned := x.pinned || pin, fill := x.fill || fill }

/-- A line leaves its slice: a dirty one is written back to DRAM, with the accumulates pending on it folded first (R186,
R279). -/
def State.writeBack (s : State) (x : SliceLine) : State :=
  if x.dirty then
    let s1 := s.foldRange (x.line * 64) 64
    { s1 with phys := { s1.phys with old := aerase s1.phys.old x.line } }
  else s

/-- A DRAM request: an address, and whether it carries lu (R280). -/
abbrev DramReq := Nat × Bool

/-- Puts a line at the front of its slice. A missing one takes a way, and the victim's write-back is the DRAM request that
follows (R279); a set always has a way that is not pinned (R281). -/
def State.useLine (s : State) (line : Nat) (valid : BitVec 8) (pin fill : Bool) : State × List DramReq :=
  let st := homeStation (line * 64)
  let l := (s.stationAt st).slice
  match takeFirst (fun x => x.line == line) l with
  | some (x, r) => (s.modStation st (fun k => { k with slice := x.touch valid pin fill :: r }), [])
  | none =>
    let x : SliceLine := { line := line, valid := valid, dirty := false, pinned := pin, fill := fill }
    match takeVictim l line with
    | some (v, r) =>
      ((s.writeBack v).modStation st (fun k => { k with slice := x :: r }), if v.dirty then [(v.line * 64, false)] else [])
    | none => (s.modStation st (fun k => { k with slice := x :: l }), [])

/-- The lines of the DRAM row of an address. -/
def rowLines (pa : Nat) : List Nat :=
  (List.range (dramRowBytes pa / 64)).map (fun i => pa / dramRowBytes pa * (dramRowBytes pa / 64) + i)

/-- Whether a slice cannot pin a row: more than 16,384 lines, or the last unpinned way of a set (R279, R281). -/
def captureFull (l : List SliceLine) (lines : List Nat) : Bool :=
  decide (16384 < (l.filter SliceLine.pinned).length + lines.length) ||
    lines.any (fun n => decide (15 ≤ ((setLines l (n % 8192)).filter (fun x => x.pinned && x.line != n)).length))

/-- Pins a line of a captured row; the words of it that are not valid are filled, as at an allocation (R279, R281). -/
def State.captureLine (s : State) (line : Nat) : State × List DramReq :=
  let asks := match (s.stationAt (homeStation (line * 64))).slice.find? (fun x => x.line == line) with
    | none => true
    | some x => !x.fill && x.valid != 0xFF
  let u := s.useLine line 0 true asks
  (u.1, u.2 ++ (if asks then [(line * 64, false)] else []))

/-- A row past 512 activations: its lines are pinned into their slice, with the fills and write-backs that this asks for; where the
slice is full, its neighbours are refreshed and its count restarts (R281). -/
def State.captureRow (s : State) (pa : Nat) : State × List DramReq :=
  if captureFull (s.stationAt (homeStation pa)).slice (rowLines pa) then
    ({ s with dram := { s.dram with activations := aset s.dram.activations (dramRow pa) 0 } }, [])
  else
    (rowLines pa).foldl (fun r line =>
      let u := r.1.captureLine line
      (u.1, r.2 ++ u.2)) (s, [])

/-- A request at a DRAM controller: it opens its row, which counts as an activation unless the row is open; one with lu
closes it (R280, R281). Whether the row now passes 512 activations, and the controllers behind the request. -/
def State.dramOpen (s : State) (r : DramReq) : Bool × State :=
  let row := dramRow r.1
  let bank := dramBank r.1
  let isOpen := aget s.dram.openRow bank == some row
  let n := agetD s.dram.activations row 0 + 1
  let opened := if r.2 then aerase s.dram.openRow bank else aset s.dram.openRow bank row
  (!isOpen && decide (512 < n),
    { s with dram := { s.dram with
        openRow := opened, activations := if isOpen then s.dram.activations else aset s.dram.activations row n } })

/-- DRAM requests one after the other, with the captures and write-backs that follow from them, up to `fuel` of them. -/
def State.dramRun : Nat → List DramReq → State → State
  | 0, _, s => s
  | _ + 1, [], s => s
  | fuel + 1, r :: l, s =>
    match s.dramOpen r with
    | (false, s1) => s1.dramRun fuel l
    | (true, s1) => (s1.captureRow r.1).1.dramRun fuel (l ++ (s1.captureRow r.1).2)

/-- A DRAM request and what follows from it: each capture fills and writes back at most 32 lines. -/
def State.dramRequest (s : State) (l : List DramReq) : State := s.dramRun 1024 l

/-- Marks the lines of a write dirty; what DRAM holds of a line that was clean is kept (R279, R319). -/
def State.sliceDirty (s : State) (pa n : Nat) : State :=
  (linesOf pa n).foldl (fun s line =>
    let st := homeStation (line * 64)
    if (s.stationAt st).slice.any (fun x => x.line == line && !x.dirty) then
      let o : OldLine := { tag := s.phys.lineTag line, bytes := s.phys.ram.readBytes (line * 64) 64
                           empty := s.phys.empty.filter (fun w => w / 8 == line) }
      ({ s with phys := { s.phys with old := aset s.phys.old line o } } : State).modStation st (fun k =>
        { k with slice := k.slice.map (fun x => if x.line == line then { x with dirty := true } else x) })
    else s) s

/-- One line of an access to its slice. A read of words that are not valid fills the line within the access; a store makes its own
words valid, and where it allocates the line the fill is under way behind it (R279). -/
def State.touchLine (s : State) (pa n : Nat) (store lu : Bool) (line : Nat) : State :=
  let need := wordMask line pa n
  let st := homeStation (line * 64)
  let present := (s.stationAt st).slice.find? (fun x => x.line == line)
  let asks := match present with
    | none => true
    | some x => !store && !x.fill && x.valid &&& need != need
  let u := s.useLine line (if store then need else 0xFF) false (store && present.isNone)
  u.1.dramRequest (u.2 ++ (if asks then [(line * 64, lu)] else []))

/-- The slices of an access. -/
def State.sliceTouch (s : State) (pa n : Nat) (store lu : Bool) : State :=
  let t := (linesOf pa n).foldl (fun s line => s.touchLine pa n store lu line) s
  if store then t.sliceDirty pa n else t

/-- A miss of a thread's access allocates the line and asks DRAM for it, unless its fill is under way already (R279). -/
def State.startFill (s : State) (pa : Nat) (lu : Bool) : State :=
  let line := pa / 64
  let under := (s.stationAt (homeStation pa)).slice.any (fun x => x.line == line && x.fill)
  let u := s.useLine line 0 false true
  u.1.dramRequest (u.2 ++ (if under then [] else [(line * 64, lu)]))

/-! ### Reads and writes by tag -/

/-- R231: a read that finds an uncorrectable error poisons the line and logs it. -/
def State.findErrors (s : State) (pa n ctx : Nat) (place : BitVec 32) : State :=
  ((linesOf pa n).filter (fun l => s.phys.uncorr.contains l)).foldl (fun s l =>
    ({ s with phys := { s.phys with uncorr := s.phys.uncorr.filter (· != l), poison := l :: s.phys.poison } } : State).logError
      10 3 ctx place (l * 64)) s

/-- What a tagged reader sees of one byte: a line of tag 0 reads as zeros (R318). -/
def Phys.byteFor (p : Phys) (tag a : Nat) : Byte :=
  if tag ≠ 0 ∧ p.lineTag (a / 64) = 0 then 0 else p.ram.read a

def Phys.bytesFor (p : Phys) (tag a : Nat) : Nat → List Byte
  | 0 => []
  | n + 1 => p.byteFor tag a :: p.bytesFor tag (a + 1) n

/-- The fault of a tagged read: KEYTAG for another tag, then POISON (R231, R318; log entry 16). -/
def Phys.readFault (p : Phys) (tag pa n : Nat) : Option Nat :=
  if (linesOf pa n).any (fun l => p.lineTag l != tag && p.lineTag l != 0) then some 11
  else if (linesOf pa n).any (fun l => p.poison.contains l) then some 10
  else none

/-- What a tagged reader sees of a run of bytes: a line of its own tag whose key has been destroyed shows only ciphertext, a free
value (R319; log entry 25). -/
def State.seenBytes (s : State) (tag pa n : Nat) : List Byte :=
  if s.sec.tagState tag = .dead then
    (List.range n).map (fun i =>
      if s.phys.lineTag ((pa + i) / 64) = tag then BitVec.ofNat 8 (s.undefined (2 ^ 58 + pa + i)).toNat
      else s.phys.byteFor tag (pa + i))
  else s.phys.bytesFor tag pa n

/-- A read by an agent that carries a tag (R318): its fault code, or the bytes. -/
def State.tagRead (s : State) (tag pa n : Nat) : Except Nat (List Byte) :=
  match s.phys.readFault tag pa n with
  | some c => .error c
  | none => .ok (s.seenBytes tag pa n)

/-- What a read by an agent without a tag gives: page-table walks, the queue front end and firmware's read of a context record
(R318). Pending accumulates are folded first (R186), and a line with an uncorrectable error reads as poison (R231). -/
def State.bareRead (s : State) (pa n : Nat) : Except Nat (List Byte) :=
  if !s.inMap pa then .error 0
  else if (linesOf pa n).any (fun l => s.sec.tagState (s.phys.lineTag l) == .dead) then .error 11
  else if (linesOf pa n).any (fun l => s.phys.poison.contains l || s.phys.uncorr.contains l) then .error 10
  else .ok ((foldAll s.phys s.folds).ram.readBytes pa n)

/-- What such a read leaves behind at the home slices (R186, R231, R279). -/
def State.bareTouch (s : State) (pa n ctx : Nat) : State :=
  if !s.inMap pa then s else ((s.foldRange pa n).findErrors pa n ctx 0xFFFFFFFF#32).sliceTouch pa n false false

/-- Zeroes a run of bytes. -/
def Memory.zero (m : Memory) (a n : Nat) : Memory := m.writeBytes a (List.replicate n 0)

/-- A line of tag 0 takes the writer's tag, and the bytes that the write does not cover become zero (R318). -/
def Phys.adopt (p : Phys) (tag line : Nat) : Phys :=
  if tag ≠ 0 ∧ p.lineTag line = 0 then
    { p with ram := p.ram.zero (line * 64) 64, tags := aset p.tags line tag }
  else p

/-- Whether a write covers a whole line. -/
def coversLine (pa n line : Nat) : Bool := decide (pa ≤ line * 64) && decide (line * 64 + 64 ≤ pa + n)

/-- R231, R232: a whole-line write clears poison; a partial write to a bad line poisons it and is logged. -/
def State.writeErrors (s : State) (pa n ctx : Nat) (place : BitVec 32) : State :=
  (linesOf pa n).foldl (fun s l =>
    if coversLine pa n l then
      { s with phys := { s.phys with poison := s.phys.poison.filter (· != l), uncorr := s.phys.uncorr.filter (· != l) } }
    else if s.phys.uncorr.contains l then
      ({ s with phys := { s.phys with uncorr := s.phys.uncorr.filter (· != l), poison := l :: s.phys.poison } } : State).logError
        10 2 ctx place (l * 64)
    else s) s

/-- A write by an agent that carries a tag: KEYTAG where a line has another tag and then nothing is written. -/
def State.tagWrite (s : State) (tag pa : Nat) (bs : List Byte) (ctx : Nat) (place : BitVec 32) : Except Nat State :=
  if (linesOf pa bs.length).any (fun l => s.phys.lineTag l != tag && s.phys.lineTag l != 0) then .error 11
  else
    let s1 := s.writeErrors pa bs.length ctx place
    let p := (linesOf pa bs.length).foldl (fun p l => p.adopt tag l) s1.phys
    .ok { s1 with phys := { p with ram := p.ram.writeBytes pa bs } }

/-- Full/empty bits of global doublewords: full unless listed (R152). -/
def Phys.isFull (p : Phys) (pa : Nat) : Bool := !p.empty.contains (pa / 8)
def Phys.setFull (p : Phys) (pa : Nat) (full : Bool) : Phys :=
  { p with empty := if full then p.empty.filter (· != pa / 8) else insertNat (pa / 8) p.empty }

end Sys2Proof.Machine
end

