-- ==== Sys2Proof/Machine/Translate.lean ====
section
/-! DEFINITION. Translation of global addresses, permissions and page access counts (17_traps R225 to R230). -/

namespace Sys2Proof.Machine

/-- What an access needs of its page (R227). -/
structure Need where
  rd : Bool
  wr : Bool
  ex : Bool
  deriving DecidableEq, Repr

def Need.load : Need := { rd := true, wr := false, ex := false }
def Need.store : Need := { rd := false, wr := true, ex := false }
def Need.both : Need := { rd := true, wr := true, ex := false }
def Need.fetch : Need := { rd := false, wr := false, ex := true }

/-- What a walk finds (R225). -/
inductive Walked where
  | leaf (level entry : Nat)
  | moving
  | bad (reason level : Nat)
  deriving DecidableEq, Repr

/-- The outcome of a translation. -/
inductive Xlated where
  | pa (a : Nat)
  | held
  | fault (code sub info : Nat)
  deriving DecidableEq, Repr

/-- A leaf entry's place checks (R225). -/
def leafBad (level e : Nat) : Bool :=
  decide (level < 3) || (level == 3 && fld e 25 13 != 0) || (level == 4 && fld e 15 13 != 0)

/-- Where a walk reads an entry: the level's table and ten bits of the address. -/
def walkAddr (va table level : Nat) : Nat := table + 8 * fld va (65 - 10 * level) (56 - 10 * level)

/-- The walk of R225 from a table, over `fuel` more levels. -/
def State.walk (s : State) (va : Nat) : Nat → Nat → Nat → Walked
  | 0, _, level => .bad 2 level
  | fuel + 1, table, level =>
    match s.bareRead (walkAddr va table level) 8 with
    | .error _ => .bad 5 0
    | .ok bs =>
      let e := ofBytesLE bs
      if !bitAt e 0 then .bad 1 level
      else if fld e 63 42 ≠ 0 ∨ fld e 12 7 ≠ 0 then .bad 2 level
      else if !bitAt e 1 then
        if level = 4 then .bad 2 level else s.walk va fuel (fld e 41 13 * 8192) (level + 1)
      else if leafBad level e then .bad 2 level
      else if bitAt e 6 then .moving
      else .leaf level e

/-- The entries that the walk reads. -/
def State.walkReads (s : State) (va : Nat) : Nat → Nat → Nat → List Nat
  | 0, _, _ => []
  | fuel + 1, table, level =>
    walkAddr va table level ::
      match s.bareRead (walkAddr va table level) 8 with
      | .error _ => []
      | .ok bs =>
        let e := ofBytesLE bs
        if !bitAt e 0 || fld e 63 42 != 0 || fld e 12 7 != 0 || bitAt e 1 || level == 4 then []
        else s.walkReads va fuel (fld e 41 13 * 8192) (level + 1)

/-- The level-1 table of a context: as copied at its load, else as its record in the context table holds it. -/
def State.rootOf (s : State) (ctx : Nat) : Nat :=
  match s.ctxAt ctx with
  | some x => x.root
  | none => fld (s.phys.ram.readLE (s.host.ctxtab + 64 * ctx) 8) 41 13

/-- The page that a leaf of a level maps: the address bits below it (R225). -/
def pageBits (level : Nat) : Nat := if level = 3 then 26 else 16

/-- The cached entry of a translation station, if it holds one (R225). -/
def XlatStation.find (x : XlatStation) (ctx va : Nat) : Option TlbEntry :=
  x.tlb.find? (fun t => t.ctx == ctx && t.vpage == va / 2 ^ pageBits t.level)

/-- Caches a leaf in front of the others; the least recently used of 4,096 goes. -/
def XlatStation.use (x : XlatStation) (t : TlbEntry) : XlatStation :=
  { x with tlb := (t :: x.tlb.filter (fun o => o != t)).take 4096 }

/-- The level of the leaf that maps an address, one in migration included (R225, R229). -/
def State.leafLevelAt (s : State) (va : Nat) : Nat → Nat → Nat → Option Nat
  | 0, _, _ => none
  | fuel + 1, table, level =>
    match s.bareRead (walkAddr va table level) 8 with
    | .error _ => none
    | .ok bs =>
      let e := ofBytesLE bs
      if !bitAt e 0 then none
      else if bitAt e 1 then some level
      else if level = 4 then none else s.leafLevelAt va fuel (fld e 41 13 * 8192) (level + 1)

/-- What a walk's reads leave at the home slices of the tables (R231, R269, R279). -/
def State.walkTouch (s : State) (ctx va : Nat) : State :=
  (s.walkReads va 4 (s.rootOf ctx * 8192) 1).foldl (fun t a => t.bareTouch a 8 ctx) s

/-- The leaf that a translation station uses for an address: a cached entry, or the one that the walk finds. -/
def State.leafFor (s : State) (n ctx va : Nat) : Walked × State :=
  match (s.xlatAt n).find ctx va with
  | some t => (.leaf t.level t.entry.toNat, s.modXlat n (fun x => x.use t))
  | none =>
    match s.walk va 4 (s.rootOf ctx * 8192) 1 with
    | .leaf level e =>
      (.leaf level e, (s.walkTouch ctx va).modXlat n (fun x =>
        x.use { ctx := ctx, vpage := va / 2 ^ pageBits level, level := level, entry := BitVec.ofNat 64 e }))
    | w => (w, s.walkTouch ctx va)

/-- The sub of the first missing permission, in the order rd, w, x, u (R227). -/
def missingPermission (e : Nat) (need : Need) (user : Bool) : Option Nat :=
  if need.rd && !bitAt e 2 then some 1
  else if need.wr && !bitAt e 3 then some 2
  else if need.ex && !bitAt e 4 then some 3
  else if user && !bitAt e 5 then some 4
  else none

/-- The physical address that a leaf gives. -/
def leafAddress (level e va : Nat) : Nat :=
  if level = 3 then fld e 41 26 * 2 ^ 26 + va % 2 ^ 26 else fld e 41 16 * 2 ^ 16 + va % 2 ^ 16

/-- Adds one to a page's access count and tells the context when it reaches its threshold (R230, R236). -/
def State.countAccess (s : State) (ctx pa : Nat) : State :=
  let n := countStation pa
  let page := pa / 65536
  let c := agetD (s.xlatAt n).counts page 0
  if c = 65535 then s
  else
    let s1 := s.modXlat n (fun x => { x with counts := aset x.counts page (c + 1) })
    match s1.ctxAt ctx with
    | none => s1
    | some x =>
      if x.thresh ≠ 0 ∧ c + 1 = x.thresh then
        let q := pushBounded 256 x.page.migrate x.page.migrateLost (BitVec.ofNat 64 (ctx * 2 ^ 48 + page * 65536 + (c + 1)))
        s1.setCtx ctx { x with page := { x.page with migrate := q.1, migrateLost := q.2 } }
      else s1

/-- The level of the leaf that a translation station finds for an address. -/
def State.leafLevel (s : State) (st ctx va : Nat) : Option Nat :=
  match (s.xlatAt (st / 8)).find ctx va with
  | some t => some t.level
  | none => s.leafLevelAt va 4 (s.rootOf ctx * 8192) 1

/-- A translation and its checks without an access: a physical address, a held page or the fault (R225, R227). -/
def State.locate (s : State) (st ctx va : Nat) (need : Need) (user host : Bool) : Xlated × State :=
  match s.leafFor (st / 8) ctx va with
  | (.bad reason level, s1) => (.fault 5 reason level, s1)
  | (.moving, s1) => (.held, s1)
  | (.leaf level e, s1) =>
    match missingPermission e need user with
    | some sub => (.fault 6 sub 0, s1)
    | none =>
      let pa := leafAddress level e va
      if host || s1.inMap pa then (.pa pa, s1) else (.fault 5 2 level, s1)

/-- Translates an address at the translation station of package station `st` (R225), for an access of context `ctx`
that needs `need`; the host window's result is not held against the map (R291). -/
def State.translate (s : State) (st ctx va : Nat) (need : Need) (user host : Bool) : Xlated × State :=
  match s.locate st ctx va need user host with
  | (.pa pa, s1) => (.pa pa, if host then s1 else s1.countAccess ctx pa)
  | r => r

/-- A translation that changes nothing: for questions about where an address lives. -/
def State.whereIs (s : State) (st ctx va : Nat) : Option Nat :=
  match s.leafFor (st / 8) ctx va with
  | (.leaf level e, _) => if s.inMap (leafAddress level e va) then some (leafAddress level e va) else none
  | _ => none

/-- Removes a context's entries over `pages` pages of 64 KiB from a page number on, or all of them (R142). -/
def XlatStation.invalidate (x : XlatStation) (ctx page pages : Nat) : XlatStation :=
  { x with tlb := x.tlb.filter (fun t => t.ctx != ctx || !(pages == 0 ||
      overlaps (t.vpage * 2 ^ (pageBits t.level - 16)) (2 ^ (pageBits t.level - 16)) page pages)) }

/-- xinv at all 12 translation stations (R142, R293). -/
def State.invalidate (s : State) (ctx va pages : Nat) : State :=
  { s with xlats := s.xlats.map (fun p => (p.1, p.2.invalidate ctx (va / 65536) pages)) }

/-- Whether an access has been translated and waits at its home slice, so that it was translated through an entry that covers
its page. -/
def Access.inSlice (x : Access) : Bool := x.sp == 2 && (x.stage == .filling || x.stage == .parked)

/-- Whether an address of a context is translated through its entries over `pages` pages of 64 KiB from a page number on, or
through any of them. -/
def State.through (s : State) (ctx page pages va : Nat) : Bool :=
  pages == 0 || overlaps (va / 65536) 1 page pages ||
    (overlaps (va / 2 ^ 26 * 1024) 1024 page pages &&
      s.xlats.any (fun p => p.2.tlb.any (fun t => t.ctx == ctx && t.level == 3 && t.vpage == va / 2 ^ 26)))

/-- The accesses that the stations have translated through the entries of a context over `pages` pages of 64 KiB from a page
number on, or through all of them, and that are not complete; the engines' updates on their way to their rows among them (R142,
R293). -/
def State.translatedThrough (s : State) (ctx page pages : Nat) : List Nat :=
  (s.accesses.filter (fun x => x.ctx == ctx && x.inSlice && s.through ctx page pages x.va)).map Access.id ++
    (s.lates.filter (fun l => l.agent.ctx == ctx && s.through ctx page pages l.va)).map LateUpdate.id ++
      (s.replicas.filter (fun r => r.agent.ctx == ctx && r.pa.isSome && r.failed.isNone &&
        s.through ctx page pages r.va)).map PendingReplica.id

/-! ### Pages in migration (R229) -/

/-- The leaf of a page as far as held accesses are told apart: its level's page number, by the walk's own finding (R225). -/
def State.pageOf (s : State) (st ctx va : Nat) : Nat × Nat :=
  match s.leafLevel st ctx va with
  | some level => (level, va / 2 ^ pageBits level)
  | none => (4, va / 65536)

/-- Whether a held access is still held: it has not been given up meanwhile. -/
def State.heldStill (s : State) : HeldBy → Bool
  | .access id => s.accesses.any (fun x => x.id == id && (match x.stage with | .held _ => true | _ => false))
  | .position st cmd p =>
    (s.stationAt st).copies.any (fun c => c.id == cmd && (match aget c.results p with | some (.held _) => true | _ => false))
  | .row core id => (s.coreAt core).rows.any (fun c => c.id == id && c.heldSince.isSome)
  | .line t => match (s.threadAt t).bind Thread.wait with | some (.line _ (some _)) => true | _ => false
  | .table t => match (s.threadAt t).bind Thread.wait with | some (.held _) => true | _ => false
  | .packet q => (s.queueAt q).heldSince.isSome
  | .replica id => s.replicas.any (fun r => r.id == id && r.heldSince.isSome)
  | .serve id => s.serves.any (fun r => r.id == id)

/-- Whether a held access is for the same page at the same translation station. -/
def State.samePage (s : State) (e : HeldAt) (st ctx va : Nat) : Bool :=
  e.ctx == ctx && e.station / 8 == st / 8 && s.pageOf e.station e.ctx e.va == s.pageOf st ctx va

/-- Whether an access that arrived earlier is held for the same page (R229). -/
def State.behindHeld (s : State) (who : HeldBy) (st ctx va : Nat) : Bool :=
  (s.held.takeWhile (fun e => e.who != who)).any (fun e => s.samePage e st ctx va && s.heldStill e.who)

/-- An access is held: it keeps its place among those of its page, or takes the last. -/
def State.hold (s : State) (who : HeldBy) (st ctx va : Nat) : State :=
  if s.held.any (fun e => e.who == who && s.samePage e st ctx va) then s
  else { s with held := s.held.filter (fun e => e.who != who) ++ [{ who := who, station := st, ctx := ctx, va := va }] }

/-- An access is not held any more for a page. -/
def State.unhold (s : State) (who : HeldBy) (st ctx va : Nat) : State :=
  { s with held := s.held.filter (fun e => !(e.who == who && s.samePage e st ctx va)) }

/-- What a translation comes to in arrival order among what is held for its page (R229): none where an earlier access is held. -/
def State.inTurn (s : State) (who : HeldBy) (st ctx va : Nat) (r : Xlated × State) : Xlated × State :=
  if s.behindHeld who st ctx va then (.held, s.hold who st ctx va)
  else
    match r with
    | (.held, s1) => (.held, s1.hold who st ctx va)
    | (x, s1) => (x, s1.unhold who st ctx va)

/-- A translation in arrival order among what is held for its page (R225, R229). -/
def State.translateIn (s : State) (who : HeldBy) (st ctx va : Nat) (need : Need) (user host : Bool) : Xlated × State :=
  s.inTurn who st ctx va (s.translate st ctx va need user host)

end Sys2Proof.Machine
end

