-- ==== Sys2Proof/Machine/Flags.lean ====
section
/-! DEFINITION. The flags and the words of the control registers (01_build R15, 03_execution R30, R33, R46,
09_scalar R114, R137, R138, 11_memory_isa R150, 17_traps R216, R220, R223, 19_matrix R265, 23_observe R308). -/

namespace Sys2Proof.Machine

/-! ### fcsr (R114) -/

def FpFlags.bits (f : FpFlags) : Nat := b2n f.nv + 2 * b2n f.dz + 4 * b2n f.ovf + 8 * b2n f.uf + 16 * b2n f.nx

def FpFlags.ofBits (n : Nat) : FpFlags :=
  { nv := bitAt n 0, dz := bitAt n 1, ovf := bitAt n 2, uf := bitAt n 3, nx := bitAt n 4 }

def Fcsr.word (f : Fcsr) : Word := BitVec.ofNat 64 (f.rm.toNat * 256 + f.flags.bits)

/-- A wrc of fcsr: rm and the five flags take the value (R114). -/
def Fcsr.ofWord (w : Word) : Fcsr := { rm := BitVec.ofNat 3 (wfld w 10 8), flags := .ofBits (wfld w 4 0) }

/-- An instruction that sets a flag ORs it into the field (R114). -/
def Fcsr.raise (f : Fcsr) (r : FpFlags) : Fcsr := { f with flags := f.flags.or r }

/-- The rounding mode of an instruction's rounding field: 7 takes fcsr.rm (R61, R115). -/
def roundingMode (f : Fcsr) (rm : BitVec 3) : Nat := if rm = 7 then f.rm.toNat else rm.toNat

/-- R66: a dynamic rounding field while fcsr.rm holds 5, 6 or 7. -/
def roundingBad (f : Fcsr) (rm : BitVec 3) : Bool := rm == 7 && decide (5 ≤ f.rm.toNat)

/-! ### Modes and status (R216) -/

def Mode.code : Mode → Nat
  | .user => 0
  | .supervisor => 1
  | .machine => 2

def Mode.ofCode (n : Nat) : Mode := if n = 0 then .user else if n = 1 then .supervisor else .machine

/-- An entry of a control-page queue as a read shows it: valid, lost, contents (R236). -/
def pageView (q : List Word) (lost : Bool) : Word :=
  match q with
  | [] => 0
  | w :: _ => 1#64 <<< 63 ||| (if lost then 1#64 <<< 62 else 0) ||| w

/-- TIMER is pending while compare is nonzero and reached (R220). -/
def ControlPage.timerPending (p : ControlPage) (time : Word) : Bool := p.timer != 0 && decide (p.timer.toNat ≤ time.toNat)

/-- `status.ip` (R220): the levels of a thread's sources. -/
def State.pending (s : State) (t : ThreadId) (th : Thread) : BitVec 5 :=
  let msg := b2n (!th.inbox.msgs.isEmpty) * 2
  let page : Nat :=
    if s.isSupervisor t then
      match s.ctxAt th.ctxId.toNat with
      | none => 0
      | some x => b2n (x.page.timerPending s.time) + 4 * b2n (!x.page.knell.isEmpty) +
          8 * b2n (!x.page.migrate.isEmpty) + 16 * b2n (!x.page.mailbox.isEmpty)
    else 0
  BitVec.ofNat 5 (page + msg)

/-- `status` with its pending bits (R216). -/
def Status.word (st : Status) (ip : BitVec 5) : Word :=
  BitVec.ofNat 64 (st.ien.toNat * 2 ^ 24 + ip.toNat * 2 ^ 16 + b2n st.pie * 128 + b2n st.ie * 64 +
    st.pmode.code * 4 + st.mode.code)

/-- A wrc of status by a writer of mode `by`: the RW fields; a pmode of 3 or above the writer's mode is discarded. -/
def Status.write (st : Status) (writer : Mode) (w : Word) : Status :=
  { st with
    ien := BitVec.ofNat 5 (wfld w 28 24), pie := bitAt w.toNat 7, ie := bitAt w.toNat 6
    pmode := if wfld w 3 2 ≤ writer.code then Mode.ofCode (wfld w 3 2) else st.pmode }

/-! ### The other control registers -/

/-- `win` (R33). -/
def Window.word (w : Window) : Word :=
  BitVec.ofNat 64 (b2n w.lent * 2 ^ 23 + b2n w.held * 2 ^ 22 + w.bslot % 64 * 2 ^ 16 + w.wsize % 32 * 2 ^ 8 + w.wbase % 256)

/-- `task` (R46). -/
def TaskReg.word (k : TaskReg) : Word :=
  BitVec.ofNat 64 (k.inst.toNat * 2 ^ 32 + k.node.toNat * 2 ^ 16 + k.launch.toNat * 16 + k.eprio.toNat * 4 +
    b2n k.dyn * 2 + b2n k.valid)

/-- `ctx` (R223). -/
def Thread.ctxWord (th : Thread) : Word := BitVec.ofNat 64 (th.ctxTag.toNat * 256 + th.ctxId.toNat)

/-- `kcnt` (R150). -/
def Thread.kcnt (th : Thread) : Word :=
  BitVec.ofNat 64 (th.k3.toNat * 2 ^ 32 + th.k2.toNat * 2 ^ 16 + th.k1.toNat)

/-- `mcur` (R265). -/
def Mcur.word (m : Mcur) : Word :=
  BitVec.ofNat 64 (b2n m.abort * 2 ^ 63 + b2n m.busy * 2 ^ 62 + m.tslot % 64 * 2 ^ 50 + m.tcore % 8 * 2 ^ 47 +
    m.tile % 16 * 2 ^ 36 + m.aslot % 64 * 2 ^ 30 + m.bslot % 64 * 2 ^ 24 + b2n m.full * 2 ^ 19 + m.s % 8 * 2 ^ 16 +
    m.pair % 64)

/-- `dbgctl` (R308). -/
def DbgCtl.word (d : DbgCtl) : Word :=
  BitVec.ofNat 64 (d.hcause.toNat * 2 ^ 12 + b2n d.skip * 512 + b2n d.dbg * 256 + b2n d.ss * 128 + b2n d.tr * 64 +
    d.wen.toNat * 16 + d.ben.toNat)

/-- A wrc of dbgctl: hcause keeps its value (R308). -/
def DbgCtl.write (d : DbgCtl) (w : Word) : DbgCtl :=
  { d with skip := bitAt w.toNat 9, dbg := bitAt w.toNat 8, ss := bitAt w.toNat 7, tr := bitAt w.toNat 6
           wen := BitVec.ofNat 2 (wfld w 5 4), ben := BitVec.ofNat 4 (wfld w 3 0) }

/-- Register masks of tvec, tpc, tcause (R216). -/
def tvecMask : Word := 0x00FFFFFFFFFFFFFC#64
def tpcMask : Word := 0x00FFFFFFFFFFFFFF#64
def tcauseMask : Word := 0x80000000000001FF#64

/-- The control registers of R70. -/
inductive ControlReg where
  | place | win | rot | task | ctx | time | status | fcsr | tvec | tpc | tcause | tval | tinfo | kcnt | mcur | dbgctl
  deriving DecidableEq, Repr

/-- The register of a number (R70). -/
def ControlReg.ofNumber (n : BitVec 4) : ControlReg :=
  match n.toNat with
  | 0 => .place
  | 1 => .win
  | 2 => .rot
  | 3 => .task
  | 4 => .ctx
  | 5 => .time
  | 6 => .status
  | 7 => .fcsr
  | 8 => .tvec
  | 9 => .tpc
  | 10 => .tcause
  | 11 => .tval
  | 12 => .tinfo
  | 13 => .kcnt
  | 14 => .mcur
  | _ => .dbgctl

/-- Whether a mode may read a control register (R138). -/
def ControlReg.readable (c : ControlReg) (m : Mode) : Bool :=
  match c with
  | .status | .tvec | .tpc | .tcause | .tval | .tinfo | .dbgctl => m != .user
  | _ => true

/-- Whether a mode may write a control register (R138). -/
def ControlReg.writable (c : ControlReg) (m : Mode) : Bool :=
  match c with
  | .place | .win | .task | .time => false
  | .ctx | .kcnt => m == .machine
  | .fcsr => true
  | _ => m != .user

/-- What an rdc of a control register returns (R137). -/
def State.readControl (s : State) (t : ThreadId) (th : Thread) (c : ControlReg) : Word :=
  match c with
  | .place => BitVec.ofNat 64 (s.place t)
  | .win => th.win.word
  | .rot => BitVec.ofNat 64 (s.coreAt t.core).rotLen.toNat
  | .task => th.task.word
  | .ctx => th.ctxWord
  | .time => s.time
  | .status => th.status.word (s.pending t th)
  | .fcsr => th.fcsr.word
  | .tvec => th.trap.tvec
  | .tpc => th.trap.tpc
  | .tcause => th.trap.tcause
  | .tval => th.trap.tval
  | .tinfo => th.trap.tinfo
  | .kcnt => th.kcnt
  | .mcur => (s.stationAt (stationOfCore t.core)).mcur.word
  | .dbgctl => th.dbg.word

/-- What a wrc of a thread's own register changes in the thread (R137, R216, R223, R150, R308); `writer` is the
mode of the writer. -/
def Thread.writeControl (th : Thread) (writer : Mode) (c : ControlReg) (w : Word) : Thread :=
  match c with
  | .ctx => { th with ctxTag := BitVec.ofNat 8 (wfld w 15 8), ctxId := BitVec.ofNat 6 (wfld w 5 0) }
  | .status => { th with status := th.status.write writer w }
  | .fcsr => { th with fcsr := .ofWord w }
  | .tvec => { th with trap := { th.trap with tvec := w &&& tvecMask } }
  | .tpc => { th with trap := { th.trap with tpc := w &&& tpcMask } }
  | .tcause => { th with trap := { th.trap with tcause := w &&& tcauseMask } }
  | .tval => { th with trap := { th.trap with tval := w } }
  | .tinfo => { th with trap := { th.trap with tinfo := w } }
  | .kcnt => { th with k1 := BitVec.ofNat 16 (wfld w 15 0), k2 := BitVec.ofNat 16 (wfld w 31 16)
                       k3 := BitVec.ofNat 16 (wfld w 47 32) }
  | .dbgctl => { th with dbg := th.dbg.write w }
  | _ => th

/-- Writing 1 to mcur.abort while an mslice runs requests a stop (R265). -/
def Mcur.requestAbort (m : Mcur) (w : Word) : Mcur := if bitAt w.toNat 63 && m.busy then { m with abort := true } else m

/-- A wrc of a control register, its access having been checked (R137). -/
def State.writeControl (s : State) (t : ThreadId) (writer : Mode) (c : ControlReg) (w : Word) : State :=
  match c with
  | .rot => s.modCore t.core (fun k => { k with rotNext := some (BitVec.ofNat 2 w.toNat) })
  | .mcur => s.modStation (stationOfCore t.core) (fun k => { k with mcur := k.mcur.requestAbort w })
  | _ => s.modThread t (fun th => th.writeControl writer c w)

end Sys2Proof.Machine
end

