-- ==== Sys2Proof/Machine/Ops.lean ====
section
/-! DEFINITION. The named operations that the meanings share: registers, taking a trap and returning from one,
completing an instruction, waiting, trace records, range locks and scratchpad access. -/

namespace Sys2Proof.Machine

/-! ### Trace records (R305 to R307) -/

/-- The doublewords of a record: kind, info, mode and place; the pc; the time; the task (R305). -/
def traceRecord (kind info : Nat) (place pc : Nat) (mode : Mode) (time task : Word) : List Word :=
  [BitVec.ofNat 64 (kind * 2 ^ 56 + info % 256 * 2 ^ 48 + mode.code * 2 ^ 32 + place), BitVec.ofNat 64 (pc % 2 ^ 56), time, task]

/-- Sends doublewords as posted writes of a core's station, in supervisor mode under a context's key tag (R307). -/
def State.sendTrace (s : State) (core ctx tag va : Nat) : List Word → State
  | [] => s
  | w :: r =>
    let x : Access :=
      { id := s.nextId, issuer := .trace core, kind := .store, sp := 2, va := va, loc := 0, n := 8, x := w, y := 0, rd := 0
        sext := false, counter := 0, pc := 0, user := false, ctx := ctx, tag := tag, lu := false, issued := s.time.toNat
        stage := .travelling, cancel := none, port := none, sent := s.nextId }
    ({ s with accesses := s.accesses ++ [x], nextId := s.nextId + 1 } : State).sendTrace core ctx tag (va + 8) r

/-- A trace that has stopped because a record's write failed (R307). -/
def TraceBuf.fail (b : TraceBuf) (va : Nat) : TraceBuf := { b with on := false, failedAt := some (b.failedAt.getD va) }

/-- Writes a record into a context's trace buffer (R307): dropped and counted when it is full without wrap. One that would end
past the address space fails (log entry 36). -/
def State.emitTrace (s : State) (core ctx : Nat) (record : List Word) : State :=
  match s.ctxAt ctx with
  | none => s
  | some x =>
    if !x.trace.on then s
    else
      let room := 2 ^ (x.trace.b - 5)
      if room ≤ x.trace.written && !x.trace.wrap then
        s.setCtx ctx { x with trace := { x.trace with dropped := x.trace.dropped + 1 } }
      else
        let a := x.trace.base + x.trace.written % room * 32
        if 2 ^ 56 < a + 32 then s.setCtx ctx { x with trace := x.trace.fail a }
        else
          (s.setCtx ctx { x with trace := { x.trace with written := x.trace.written + 1 } }).sendTrace core ctx x.tag a record

/-- A record of kinds 2 to 6, for a thread whose dbgctl.tr is 1 (R306). -/
def State.traceEvent (s : State) (t : ThreadId) (kind info : Nat) (pc : Word) : State :=
  match s.threadAt t with
  | none => s
  | some th =>
    if !th.dbg.tr then s
    else
      s.emitTrace t.core th.ctxId.toNat
        (traceRecord kind info (s.place t) pc.toNat th.status.mode s.time th.task.word)

/-! ### Halting (R308, R315, R316) -/

/-- A debug step that ends: its request takes the number of instructions executed (R314, R316). -/
def State.endStep (s : State) (t : ThreadId) : State :=
  match s.threadAt t with
  | none => s
  | some th =>
    match th.stepsLeft, th.stepOf with
    | some _, some q => s.setQueue q { s.queueAt q with stepDone := some th.stepsDone }
    | _, _ => s

/-- Halts a thread with a cause and ends a debug step. -/
def State.halt (s : State) (t : ThreadId) (cause : BitVec 3) : State :=
  let s1 := (s.endStep t).modThread t (fun th =>
    { th with halted := true, haltedAt := s.time.toNat, stepsLeft := none, dbg := { th.dbg with hcause := cause } })
  match s1.threadAt t with
  | none => s1
  | some th => s1.traceEvent t 5 cause.toNat th.pc

/-! ### Taking a trap (R215 to R219) -/

/-- What a trap writes: cause code, tval, tinfo sub and info, rec of R219, whether it is an interrupt, and whether the
instruction counts as completed (ECALL). -/
structure TrapCause where
  code : Nat
  tval : Word
  sub : Nat
  info : Nat
  delivered : Bool
  intr : Bool
  completed : Bool
  deriving DecidableEq, Repr

/-- A precise fault (R218). -/
def precise (code : Nat) (tval : Word) (sub info : Nat) : TrapCause :=
  { code := code, tval := tval, sub := sub, info := info, delivered := false, intr := false, completed := false }

/-- The trap registers after entry (R215). -/
def TrapCause.regs (c : TrapCause) (tvec pc : Word) : TrapRegs :=
  { tvec := tvec
    tpc := (if c.completed then pc + 4 else pc) &&& tpcMask
    tcause := BitVec.ofNat 64 (b2n c.intr * 2 ^ 63 + b2n c.delivered * 256 + c.code % 256)
    tval := c.tval
    tinfo := BitVec.ofNat 64 (c.sub % 256 * 2 ^ 56 + c.info % 2 ^ 56) }

/-- `status` after entry: user traps enter supervisor, machine stays machine (R215). -/
def Status.enter (st : Status) : Status :=
  { st with pmode := st.mode, pie := st.ie, ie := false, mode := if st.mode = .user then .supervisor else st.mode }

/-- What a thread waits for at a handler's first instruction: the results owed to it (R217). -/
def Thread.owedWait (th : Thread) : Option Wait := if th.owed.isEmpty && th.mstats.isEmpty then none else some .owed

/-- Trap entry (R215): one step that saves pc and status, changes the mode and goes to the handler. An instruction that counts as
completed is one more of a debug step (R133, R314). -/
def Thread.enterTrap (th : Thread) (c : TrapCause) : Thread :=
  { th with trap := c.regs th.trap.tvec th.pc, status := th.status.enter, pc := th.trap.tvec, wait := th.owedWait
            stepsDone := th.stepsDone + b2n (c.completed && th.stepsLeft.isSome) }

/-- A thread that stops waiting leaves the queue of the semaphore it waited at (R143, R158). -/
def State.leaveQueues (s : State) (t : ThreadId) : State :=
  match s.threadAt t with
  | some th =>
    match th.wait with
    | some (.semp n) =>
      s.modStation (stationOfCore t.core) (fun k =>
        { k with sems := aset k.sems n { agetD k.sems n Semaphore.reset with
            waiters := (agetD k.sems n Semaphore.reset).waiters.filter (· != t) } })
    | _ => s
  | none => s

/-- Taking an exception: entry by R215, the trace record of R306, and the end of a debug step (R316). -/
def State.takeTrap (s : State) (t : ThreadId) (c : TrapCause) : State :=
  match (s.leaveQueues t).threadAt t with
  | none => s
  | some th =>
    let s1 := (s.leaveQueues t).setThread t (th.enterTrap c)
    let s2 := s1.traceEvent t 4 (b2n c.intr * 128 + c.code % 128) (c.regs th.trap.tvec th.pc).tpc
    if th.stepsLeft.isSome then s2.halt t 5 else s2

/-- eret's change of a thread (R216). -/
def Thread.leaveTrap (th : Thread) : Thread :=
  { th with pc := th.trap.tpc, wait := none
            status := { th.status with mode := th.status.pmode, ie := th.status.pie, pmode := .user, pie := false } }

/-! ### Completing an instruction -/

/-- What follows an instruction that completed at `pc0` in mode `mode`: the debug step count (R316), then the single
step of R311 or its halt (R312). -/
def State.afterInstr (s : State) (t : ThreadId) (mode : Mode) (pc0 : Word) : State :=
  match s.threadAt t with
  | none => s
  | some th =>
    let left := th.stepsLeft.map (· - 1)
    let s1 := if th.stepsLeft.isSome then s.setThread t { th with stepsLeft := left, stepsDone := th.stepsDone + 1 } else s
    if th.dbg.ss && mode == .user then
      if th.dbg.dbg then s1.halt t 2 else s1.takeTrap t (precise 14 pc0 2 0)
    else if left == some 0 then s1.halt t 2
    else s1

/-- Completes the instruction of a thread: the next pc, and no wait. -/
def State.complete (s : State) (t : ThreadId) (next : Word) : State :=
  match s.threadAt t with
  | none => s
  | some th => (s.setThread t { th with pc := next, wait := none }).afterInstr t th.status.mode th.pc

/-- Completes an instruction of n bytes that goes on behind itself. -/
def State.finish (s : State) (t : ThreadId) (n : Nat) : State :=
  match s.threadAt t with
  | none => s
  | some th => s.complete t (th.pc + BitVec.ofNat 64 n)

/-- Makes a thread wait at its instruction (R32, R143). -/
def State.waitFor (s : State) (t : ThreadId) (w : Wait) : State := s.modThread t (fun th => { th with wait := some w })

/-! ### General registers (R33, R34, R233) -/

/-- The register-file entry of register i of a thread's window (R33). -/
def Thread.rfEntry (th : Thread) (i : Nat) : Nat := 8 * th.win.wbase + i

/-- Whether an exposed-latency result is owed to a register. -/
def Thread.owes (th : Thread) (r : Reg) : Bool := th.owed.any (fun o => o.reg == r)

/-- A write to an owed register spoils the result (R203). -/
def Thread.spoil (th : Thread) (r : Reg) : Thread :=
  { th with owed := th.owed.map (fun o => if o.reg == r then { o with spoiled := true } else o) }

/-- The value of register r: g0 is zero; a register to which a result is owed reads an undefined value (R33, R203). -/
def State.reg (s : State) (t : ThreadId) (r : Reg) : Word :=
  match s.threadAt t with
  | none => 0
  | some th =>
    if r = 0 then 0
    else if th.owes r then s.undefined r.toNat
    else agetD (s.coreAt t.core).rf (th.rfEntry r.toNat) 0

/-- Writes an entry of a core's register file; the write clears a parity error (R233). -/
def Core.setEntry (k : Core) (i : Nat) (v : Word) : Core :=
  { k with rf := aset k.rf i v, rfBad := k.rfBad.filter (· != i) }

/-- Writes register r; g0 discards the write (R33, R69). -/
def State.setReg (s : State) (t : ThreadId) (r : Reg) (v : Word) : State :=
  if r = 0 then s
  else
    match s.threadAt t with
    | none => s
    | some th => (s.modCore t.core (fun k => k.setEntry (th.rfEntry r.toNat) v)).setThread t (th.spoil r)

/-- Steps 5 and 7 of R67 on registers: REGWIN over every register field used, then parity of those read. Where several
registers fail, which of them is named is free (log entry 6). -/
def State.regFault (s : State) (t : ThreadId) (th : Thread) (uses reads : List Reg) : Option TrapCause :=
  match s.anyOf (uses.filter (fun r => decide (8 * th.win.wsize ≤ r.toNat))) with
  | some r => some (precise 3 (BitVec.ofNat 64 r.toNat) 0 0)
  | none =>
    match s.anyOf (reads.filter (fun r => r != 0 && (s.coreAt t.core).rfBad.contains (th.rfEntry r.toNat))) with
    | some r => some (precise 20 (BitVec.ofNat 64 r.toNat) 2 0)
    | none => none

/-! ### The executing thread -/

/-- Runs an operation of the executing thread. -/
def State.onThread (s : State) (op : Thread → State) : Res :=
  match s.threadAt s.cur with
  | none => .fault .noThread
  | some th => .next (op th)

/-- Takes a fault of the executing instruction. -/
def State.trapNow (s : State) (c : TrapCause) : State := s.takeTrap s.cur c

/-- The register checks of the executing instruction, then the rest of it. -/
def State.gate (s : State) (th : Thread) (uses reads : List Reg) (rest : State) : State :=
  match s.regFault s.cur th uses reads with
  | some c => s.trapNow c
  | none => rest

/-- Writes rd and completes an instruction of n bytes. -/
def State.finishWith (s : State) (n : Nat) (d : Reg) (v : Word) : State := (s.setReg s.cur d v).finish s.cur n

/-- The value of a register of the executing thread. -/
def State.g (s : State) (r : Reg) : Word := s.reg s.cur r

/-! ### Scratchpads and range locks (R78, R149, R178) -/

/-- A scratchpad byte's number in the package: 256 KiB to a core. Space 0 is the core's own scratchpad, space 1
the chiplet's (R14, R178). -/
def spadNumber (core sp a : Nat) : Nat :=
  if sp = 0 then core * 2 ^ 18 + a else peerCore core (a / 2 ^ 18) * 2 ^ 18 + a % 2 ^ 18

/-- Whether an entry of the range-lock table still locks in a tick: its command's completion tick included (R178). -/
def RangeLock.holds (l : RangeLock) (now : Nat) : Bool := (l.freed.map (fun t => decide (now ≤ t))).getD true

/-- locked of R78: whether bytes overlap a range in the core's range-lock table. -/
def Core.locked (k : Core) (now number n : Nat) : Bool :=
  k.locks.any (fun l => l.holds now && overlaps l.addr l.len number n)

/-- Whether a doubleword that the bytes touch has bad parity (R149). -/
def Core.badParity (k : Core) (a n : Nat) : Bool := k.spadBad.any (fun w => overlaps (8 * w) 8 a n)

/-- Writes scratchpad bytes; doublewords that the write covers take fresh parity (R149). -/
def Core.spadWrite (k : Core) (a : Nat) (bs : List Byte) : Core :=
  { k with spad := k.spad.writeBytes a bs
           spadBad := k.spadBad.filter (fun w => !(decide (a ≤ 8 * w) && decide (8 * w + 8 ≤ a + bs.length))) }

/-- Full/empty bit of a scratchpad doubleword (R152). -/
def Core.isFull (k : Core) (a : Nat) : Bool := !k.spadEmpty.contains (a / 8)
def Core.setFull (k : Core) (a : Nat) (full : Bool) : Core :=
  { k with spadEmpty := if full then k.spadEmpty.filter (· != a / 8) else insertNat (a / 8) k.spadEmpty }

/-- The free range-lock entries of a core, of 16 (R178). -/
def Core.lockRoom (k : Core) : Nat := 16 - (k.locks.filter (fun l => l.freed.isNone)).length

/-- Releases the locks of a command in its completion tick (R178). -/
def Core.unlock (k : Core) (now id : Nat) : Core :=
  { k with locks := (k.locks.filter (fun l => l.holds now)).map (fun l => if l.id = id then { l with freed := some now } else l) }

/-! ### Doublewords that an engine reads one by one (R172, R177) -/

/-- A doubleword of a core's scratchpad, with its parity. -/
def Core.wordAt (k : Core) (w : Nat) : Word × Bool := (k.spad.readWord (8 * w), k.spadBad.contains w)

/-- A core's scratchpad as an engine has read it: the doublewords that it has read already, and the others as they stand. Their
numbers count in the package, 32,768 to a core. -/
def Core.overlay (k : Core) (core : Nat) (seen : Assoc (Word × Bool)) : Core :=
  let mine := seen.filter (fun p => p.1 / 2 ^ 15 == core)
  { k with
    spad := mine.foldl (fun m p => m.writeBytes (8 * (p.1 % 2 ^ 15)) (bytesLE 8 p.2.1.toNat)) k.spad
    spadBad := mine.foldl (fun l p => if p.2.2 then insertNat (p.1 % 2 ^ 15) l else l.filter (· != p.1 % 2 ^ 15)) k.spadBad }

/-- Whether a pending write covers part of a doubleword, by its chiplet number. -/
def SpadWrite.covers (x : SpadWrite) (word : Nat) : Bool := overlaps x.addr x.bytes.length (8 * word) 8

/-- The part of a pending write within a doubleword, and what is left of it. -/
def SpadWrite.cut (x : SpadWrite) (word : Nat) : SpadWrite × List SpadWrite :=
  let lo := 8 * word - x.addr
  let hi := 8 * word + 8 - x.addr
  ({ x with addr := x.addr + lo, bytes := (x.bytes.drop lo).take (hi - lo) },
    ([{ x with bytes := x.bytes.take lo }, { x with addr := x.addr + hi, bytes := x.bytes.drop hi }] : List SpadWrite).filter
      (fun y => y.bytes != []))

/-! ### Chime lines and reply entries (R164, R166) -/

def Thread.chime (th : Thread) (n : Nat) : Chime := agetD th.chimes n Chime.reset

/-- A completion raises its line; the first failure fills the failure record (R164). -/
def Chime.raise (c : Chime) (failure : Option (Nat × Word)) : Chime :=
  let c1 := if c.pend = 255 then { c with ovf := true } else { c with pend := c.pend + 1 }
  match failure with
  | some (fault, value) => if c.fail then c1 else { c1 with fail := true, fault := fault, value := value }
  | none => c1

/-- Raises a Chime line of a thread. -/
def State.raiseChime (s : State) (t : ThreadId) (n : Nat) (failure : Option (Nat × Word)) : State :=
  s.modThread t (fun th => { th with chimes := aset th.chimes n ((th.chime n).raise failure) })

/-- A reply entry (R166). -/
def replyEntry (line status major value : Nat) : Word :=
  BitVec.ofNat 64 (2 ^ 63 + line % 16 * 2 ^ 56 + status % 256 * 2 ^ 48 + major % 256 * 2 ^ 40 + value % 2 ^ 32)

/-- Writes a reserved reply entry (R166). -/
def State.pushReply (s : State) (t : ThreadId) (e : Word) : State :=
  s.modThread t (fun th => { th with replies := th.replies ++ [e], replyReserved := th.replyReserved - 1 })

end Sys2Proof.Machine
end

