-- ==== Sys2Proof/Machine/Operands.lean ====
section
/-! DEFINITION. Operand forms: immediates, effective addresses and their checks, watch units, counter and release
waits, and how an access leaves its thread (05_encoding R56 to R59, R78 to R81; 11_memory_isa R143 to R150;
13_consistency R174; 17_traps R221, R222; 23_observe R310). -/

namespace Sys2Proof.Machine

/-! ### Immediates and offsets -/

/-- sext(imm[10:0]) (R111). -/
def imm11 (i : BitVec 11) : Word := i.signExtend 64
/-- sext(imm32) of a long form (R111). -/
def imm32s (i : BitVec 32) : Word := i.signExtend 64
/-- zext(imm32) of an engine command's long form (R64, R197). -/
def imm32z (i : BitVec 32) : Word := i.zeroExtend 64
/-- sext(off[17:0]) (R112, R124). -/
def imm18 (i : BitVec 18) : Word := i.signExtend 64

/-- The effective address of the M format: (g[ra] + sext(off) * n) mod 2^64 (R148). -/
def effAddr (base : Word) (off : BitVec 6) (n : Nat) : Word := base + off.signExtend 64 * BitVec.ofNat 64 n

/-! ### Address checks (R79, R80) -/

/-- The address, alignment and lock checks of mem_read and mem_write, in their order. -/
def State.addrFault (s : State) (t : ThreadId) (sp : Nat) (a : Word) (n : Nat) : Option TrapCause :=
  if a.toNat % n ≠ 0 then some (precise 4 a 0 0)
  else if sp = 0 ∧ 0x3FFFF < a.toNat then some (precise 6 a 5 0)
  else if sp = 1 ∧ 95 < a.toNat / 2 ^ 18 then some (precise 6 a 5 0)
  else if sp = 2 ∧ wfld a 63 56 ≠ 0 then some (precise 5 a 4 0)
  else if sp ≠ 2 ∧ (s.coreAt t.core).locked s.time.toNat (spadNumber t.core sp a.toNat) n then some (precise 7 a 0 0)
  else none

/-- How an access counts for a watch unit: 1 read, 2 write, 3 both (R310). -/
def AccessKind.watchKind : AccessKind → Nat
  | .load | .ldff => 1
  | .store | .stf | .fest => 2
  | _ => 3

/-- Whether a watch unit matches (R310). -/
def WatchUnit.hits (u : WatchUnit) (sp a n kind : Nat) : Bool :=
  let g := 2 ^ (u.g + 3)
  u.on && u.sp == sp && overlaps (u.addr / g * g) g a n && (u.kind == 3 || kind == 3 || u.kind == kind)

/-- R310, R312: the state in which a watch match stops the instruction, if a unit matches. -/
def State.watchStop (s : State) (t : ThreadId) (th : Thread) (sp : Nat) (a : Word) (n kind : Nat) : Option State :=
  if th.status.mode != .user then none
  else
    match (List.range 2).find? (fun u => th.dbg.wen.getLsbD u &&
        ((aget (s.coreAt t.core).watches u).map (fun w => w.hits sp a.toNat n kind)).getD false) with
    | none => none
    | some u => if th.dbg.dbg then some (s.halt t 4) else some (s.takeTrap t (precise 21 a kind u))

/-! ### Posted-store counters (R150, R221, R222) -/

def Thread.counter (th : Thread) (k : Nat) : BitVec 16 := if k = 1 then th.k1 else if k = 2 then th.k2 else th.k3
def Thread.setCounter (th : Thread) (k : Nat) (v : BitVec 16) : Thread :=
  if k = 1 then { th with k1 := v } else if k = 2 then { th with k2 := v } else { th with k3 := v }
def Thread.failure (th : Thread) (k : Nat) : Option StoreFailure :=
  if k = 1 then th.fail1 else if k = 2 then th.fail2 else th.fail3
def Thread.setFailure (th : Thread) (k : Nat) (f : Option StoreFailure) : Thread :=
  if k = 1 then { th with fail1 := f } else if k = 2 then { th with fail2 := f } else { th with fail3 := f }

/-- Each counter keeps the first failure; a second sets only the more flag (R221). -/
def Thread.recordFailure (th : Thread) (k : Nat) (f : StoreFailure) : Thread :=
  match th.failure k with
  | none => th.setFailure k (some f)
  | some g => th.setFailure k (some { g with more := true })

/-- The report of a recorded failure (R222): DEFSTORE, with the record cleared. -/
def State.reportFailure (s : State) (t : ThreadId) (k : Nat) (f : StoreFailure) : State :=
  (s.modThread t (fun th => th.setFailure k none)).takeTrap t
    (precise 13 f.addr f.code (f.pc.toNat / 4 * 4 + b2n f.more))

/-- Whether counter k is selected by a mask of K1, K2 and K3 in bits 0 to 2. -/
def selected (mask k : Nat) : Bool := bitAt mask (k - 1)

/-- A wait for counters (R58, R157, R222): not over, or over with a failure to report, or over. DESIGN CHOICE: of several
counters that hold a failure, the lowest-numbered is reported first; the spec gives no order. -/
def State.counterStop (s : State) (t : ThreadId) (th : Thread) (mask : Nat) : Option State :=
  if [1, 2, 3].any (fun k => selected mask k && th.counter k != 0) then some (s.waitFor t (.counters mask))
  else
    match [1, 2, 3].find? (fun k => selected mask k && (th.failure k).isSome) with
    | none => none
    | some k =>
      match th.failure k with
      | none => none
      | some f => some (s.reportFailure t k f)

/-- The mask of a wk field: 0 waits for none (R58). -/
def wkMask (wk : BitVec 2) : Nat := if wk = 0 then 0 else 2 ^ (wk.toNat - 1)

/-- The lowest scope of a thread that encloses a core's scratchpad (R19, R174). -/
def State.coreScope (s : State) (t : ThreadId) (core : Nat) : Nat :=
  if core = t.core then 1 else scopeOf (s.place t) (s.place { core := core, slot := 0 })

/-- The lowest scope of a thread that encloses a station's cache slice: .chiplet at least (R174). -/
def State.sliceScope (s : State) (t : ThreadId) (st : Nat) : Nat :=
  max 3 (scopeOf (s.place t) (s.place { core := st * 8, slot := 0 }))

/-- Whether a write under a tag would be refused (R318). -/
def State.writeRefused (s : State) (tag pa n : Nat) : Bool :=
  (linesOf pa n).any (fun l => s.phys.lineTag l != tag && s.phys.lineTag l != 0)

/-- The scope that encloses a failed store (R222): its owner's core, .chiplet, .pod or .sys. -/
def State.failScope (s : State) (t : ThreadId) (x : Access) : Nat :=
  if x.sp = 1 then s.coreScope t (peerCore t.core (x.va / 2 ^ 18))
  else
    match s.region x.va with
    | .hostWindow => 7
    | .remote _ => 6
    | .outside => 6
    | _ => 3

/-- Whether an access has been answered with a fault. -/
def Access.hasFailed (x : Access) : Bool :=
  match x.stage with
  | .answered f _ _ _ => f != 0
  | _ => false

/-- The lowest scope that encloses a posted store of a thread (R174, R222): its owner where it is performed, that of a
failed store where it has failed, and .chiplet where it will fail. -/
def State.storeScope (s : State) (t : ThreadId) (x : Access) : Nat :=
  if x.hasFailed then s.failScope t x
  else if x.sp = 1 then s.coreScope t (peerCore t.core (x.va / 2 ^ 18))
  else
    match s.region x.va with
    | .hostWindow => 7
    | .remote _ => 6
    | .outside => 6
    | .discovery => 3
    | .control =>
      if x.user || x.n != 8 || x.kind != .store then 3
      else s.sliceScope t (lowestStation (((s.ctxAt x.ctx).map Context.stations).getD []))
    | .paged =>
      match (s.translate (stationOfCore t.core) x.ctx x.va .store x.user false).1 with
      | .pa pa => if s.writeRefused x.tag pa x.n then 3 else s.sliceScope t (homeStation pa)
      | _ => 3

/-- Whether an access is a posted store of a thread. -/
def Access.postedBy (x : Access) (t : ThreadId) : Bool := x.issuer == .thread t && x.counter != 0

/-- perform_at and the reports of a release at a scope (R81, R144, R174, R221): a wait, a DEFSTORE, or nothing left. DESIGN
CHOICE: of several counters whose recorded failure the release covers, the lowest-numbered is reported first; the spec gives no
order. -/
def State.releaseStop (s : State) (t : ThreadId) (th : Thread) (scope : Nat) : Option State :=
  if s.accesses.any (fun x => x.postedBy t && decide (s.storeScope t x ≤ scope)) then
    some (s.waitFor t (.release scope))
  else
    match [1, 2, 3].find? (fun k => ((th.failure k).map (fun f => decide (f.scope ≤ scope))).getD false) with
    | none => none
    | some k =>
      match th.failure k with
      | none => none
      | some f => some (s.reportFailure t k f)

/-- A step of an instruction that may stop it, then the rest of it. -/
def State.orElse (stop : Option State) (rest : State) : State :=
  match stop with
  | some s => s
  | none => rest

/-- A check that may trap the executing instruction, then the rest of it. -/
def State.orTrap (s : State) (c : Option TrapCause) (rest : State) : State :=
  match c with
  | some c => s.trapNow c
  | none => rest

/-! ### Accesses that leave the thread (R79, R80, R152, R155) -/

/-- The counter of a posted store (R80): K1 for peer space, K2 within the package and for the fixed ranges, K3 else. -/
def State.counterOf (s : State) (sp va : Nat) : Nat :=
  if sp = 1 then 1
  else
    match s.region va with
    | .discovery | .control | .hostWindow => 2
    | _ => if fld va 55 42 = s.pkg.device.toNat then 2 else 3

/-- An access of the executing thread, before it has a number. -/
def Access.make (t : ThreadId) (th : Thread) (kind : AccessKind) (sp va n : Nat) (x y : Word) (rd : Reg) (sext lu : Bool)
    (counter : Nat) (time : Word) : Access :=
  { id := 0, issuer := .thread t, kind := kind, sp := sp, va := va, loc := 0, n := n, x := x, y := y, rd := rd, sext := sext
    counter := counter, pc := th.pc, user := th.status.mode == .user, ctx := th.ctxId.toNat, tag := th.ctxTag.toNat
    lu := lu, issued := time.toNat, stage := .travelling, cancel := none, port := none, sent := 0 }

/-- Sends an access on its way. -/
def State.sendAccess (s : State) (x : Access) : State :=
  { s with accesses := s.accesses ++ [{ x with id := s.nextId, sent := s.nextId }], nextId := s.nextId + 1 }

/-- A waiting access: the thread is not ready on memory until the owner answers (R79). -/
def State.request (s : State) (t : ThreadId) (x : Access) : State :=
  (s.sendAccess x).waitFor t (.answer s.nextId)

/-- A posted store (R80, R150): waits while its counter stands at 65,535, else raises the counter, sends the write
and completes the instruction. -/
def State.post (s : State) (t : ThreadId) (th : Thread) (x : Access) : State :=
  let k := s.counterOf x.sp x.va
  if th.counter k = 0xFFFF then s.waitFor t (.counterRoom k)
  else ((s.modThread t (fun th => th.setCounter k (th.counter k + 1))).sendAccess { x with counter := k }).finish t 4

end Sys2Proof.Machine
end

