-- ==== Sys2Proof/Machine/Interrupt.lean ====
section
/-! DEFINITION. Taking interrupts, between instructions and from waits (11_memory_isa R143, 17_traps R215, R220). -/

namespace Sys2Proof.Machine

/-- Removes an access under way. -/
def State.dropAccess (s : State) (id : Nat) : State := { s with accesses := s.accesses.filter (fun x => x.id != id) }

def State.accessAt (s : State) (id : Nat) : Option Access := s.accesses.find? (fun x => x.id == id)

/-- Changes an access under way. -/
def State.modAccess (s : State) (id : Nat) (f : Access → Access) : State :=
  { s with accesses := s.accesses.map (fun x => if x.id == id then f x else x) }

/-- The kinds that an owner may park (R153). -/
def AccessKind.parks : AccessKind → Bool
  | .ldfe | .ldff | .stfe => true
  | _ => false

/-- The interrupt that a thread takes: KNELL, then MIGRATE, HOST, TIMER and MSG (R220). -/
def State.interruptFor (s : State) (t : ThreadId) (th : Thread) : Option TrapCause :=
  let on := s.pending t th &&& th.status.ien
  if !th.status.ie || th.halted || on == 0 || (s.ctxOfStation (stationOfCore t.core)).isNone then none
  else
    let cause (code : Nat) (tval : Word) : Option TrapCause := some { precise code tval 0 0 with intr := true }
    let page := ((s.ctxAt th.ctxId.toNat).map Context.page).getD ControlPage.reset
    if on.getLsbD 2 then cause 2 (pageView page.knell page.knellLost)
    else if on.getLsbD 3 then cause 3 (pageView page.migrate page.migrateLost)
    else if on.getLsbD 4 then cause 4 (pageView page.mailbox page.mailboxLost)
    else if on.getLsbD 0 then cause 0 page.timer
    else cause 1 0

/-- What an interrupt does to a wait (R143). -/
inductive Abandon where
  /-- The wait is abandoned with no effect. -/
  | atOnce
  /-- A request retrying after a refusal is held nowhere. -/
  | drop (id : Nat)
  /-- A cancel is sent to the owner of a parked request. -/
  | cancel (id : Nat)
  /-- Taken after the instruction completes, or deferred. -/
  | later
  deriving DecidableEq, Repr

/-- The column "Enabled interrupt during the wait" of R143. -/
def State.abandonment (s : State) : Option Wait → Abandon
  | some (.answer id) =>
    match s.accessAt id with
    | none => .later
    | some x =>
      if !AccessKind.parks x.kind || x.cancel.isSome then .later
      else if x.stage == .refused then .drop id
      else if x.stage == .parked || x.stage == .offDevice then .cancel id
      else .later
  | some (.bar _) => .later
  | some .interrupt => .later
  | some .owed => .later
  | some (.held _) => .later
  | some (.xlat _) => .later
  | some (.array _ _ _) => .later
  | some .granted => .later
  | some (.spread _) => .later
  | _ => .atOnce

/-- Takes an eligible interrupt if the thread's wait allows it now: the new state, or nothing (R143, R215). -/
def State.tryInterrupt (s : State) (t : ThreadId) (th : Thread) : Option State :=
  if th.win.lent then none
  else
    match s.interruptFor t th with
    | none => none
    | some c =>
      match s.abandonment th.wait with
      | .atOnce => some (s.takeTrap t c)
      | .drop id => some ((s.dropAccess id).takeTrap t c)
      | .cancel id => some (s.modAccess id (fun x => { x with cancel := some .interrupt }))
      | .later => none

/-- INTERRUPT_ENTRY: an eligible interrupt is taken between instructions or from a wait (R215); nothing where none is. -/
def execInterruptEntry (t : ThreadId) (s : State) : Res :=
  match s.threadAt t with
  | none => .next s
  | some th => .next ((s.tryInterrupt t th).getD s)

/-- TIMER_EXPIRY: the count has reached the timer compare (R220); a thread in wfi completes in that tick (R136). -/
def execTimerExpiry (ctx : Nat) (s : State) : Res :=
  match s.ctxAt ctx with
  | none => .next s
  | some x =>
    match s.threadAt x.supervisor with
    | none => .next s
    | some th =>
      if x.active s.time && x.page.timerPending s.time && th.wait == some .interrupt && !th.halted then
        .next (s.finish x.supervisor 4)
      else .next s

/-- ATTIME_REACHED: the count has reached the value that an attime waits for (R161). -/
def execAttimeReached (t : ThreadId) (s : State) : Res :=
  match s.threadAt t with
  | none => .next s
  | some th =>
    match th.wait with
    | some (.attime v) =>
      if v.toNat ≤ s.time.toNat ∧ s.threadRuns t ∧ th.halted = false then .next (s.finish t 4) else .next s
    | _ => .next s

end Sys2Proof.Machine
end

