-- ==== Sys2Proof/Machine/Discovery.lean ====
section
/-! DEFINITION. The discovery page: its header, its entries and how firmware rewrites them (01_build R13, R20 to R25,
17_traps R238, 21_fabric R274, 25_system R329). -/

namespace Sys2Proof.Machine

/-! ### What an entry says (R22, R24, R274) -/

/-- Whether a core's place lies in the boundary of a reading thread at a scope. -/
def State.inBoundary (s : State) (t : ThreadId) (code core : Nat) : Bool := decide (s.coreScope t core ≤ code)

/-- The stations of a thread's boundary at a scope. -/
def State.boundaryStations (s : State) (t : ThreadId) (code : Nat) : List Nat :=
  (List.range 96).filter (fun st => s.inBoundary t code (st * 8))

/-- The largest of some numbers, at least a first one. -/
def maxFrom (a : Nat) (l : List Nat) : Nat := l.foldl max a

/-- The round trip of R24 in core cycles without a spare. -/
def plainTrip (code : Nat) : Nat := [2, 2, 24, 68, 76, 108].getD code 0

/-- The round trip to the farthest owner of the boundary, in core cycles: a peer access in the layer, a home-slice hit above
it; every path from a spare takes 8 more (R21, R22, R25). -/
def State.tripCycles (s : State) (e : TableEntry) (t : ThreadId) (code : Nat) : Nat :=
  let spares := e.spares.filter (s.inBoundary t code)
  if code < 2 then plainTrip code
  else if code = 2 then (if spares.isEmpty then 24 else 32)
  else
    let sts := s.boundaryStations t code
    maxFrom (plainTrip code) (spares.map (fun c => maxFrom 0 (sts.map (fun b => 36 + 8 * hops (stationOfCore c) b))))

/-- The cost of fence.sc in core cycles: the round trip from the farthest place to the order point of R176; none at .lane and
.core (R22, R24; log entry 38). -/
def State.fenceCycles (s : State) (e : TableEntry) (t : ThreadId) (code : Nat) : Nat :=
  let spares := e.spares.filter (s.inBoundary t code)
  if code < 2 then 0
  else if code = 2 then (if spares.isEmpty then 24 else 32)
  else
    maxFrom (plainTrip code) (spares.map (fun c => 36 + 8 * hops (stationOfCore c) ((s.boundaryStations t code).headD 0)))

/-- The worst case of fence.sc in core cycles (R274). -/
def State.worstCycles (s : State) (e : TableEntry) (t : ThreadId) (code : Nat) : Nat :=
  if code < 2 then 0
  else s.fenceCycles e t code + 144 * [0, 0, 3, 5, 6, 10].getD code 0 + (if code = 2 then 64 else 512)

/-- Core cycles as Carillon ticks, at the clocks of the boundary's reticles (R8): exact where they agree and it divides; the
rounding of a quotient, and all of it where the clocks differ, is free (log entry 38). -/
def TableEntry.ticks (e : TableEntry) (reticle code fieldNo cycles : Nat) : Nat :=
  let f := if code ≤ 4 then e.mhz.getD reticle 0 else e.mhz.headD 0
  let free := (Config.freeWord e.draw (code * 8 + fieldNo)).toNat
  if f = 0 ∨ (code = 5 ∧ e.mhz.any (fun x => x != f)) then free % 2 ^ 32
  else if cycles * 1900 % f = 0 then cycles * 1900 / f
  else cycles * 1900 / f + free % 2

/-- Thread slots of in-service cores in the scope of a code that encloses a reader: 64 fewer for each place without a core (R21,
R22). DESIGN CHOICE: a lost core that still awaits its spare counts as in service, as R21 lets the counts drop only for a place
that stays dead; R22 does not say what counts meanwhile. -/
def State.agents (s : State) (e : TableEntry) (t : ThreadId) (code : Nat) : Nat :=
  let nominal : Nat := [1, 64, 3072, 6144, 12288, 49152].getD code 0
  nominal - 64 * (e.dead.filter (fun c => decide (2 ≤ code) && s.inBoundary t code c)).length

/-- agents, fsc, fworst, rtt and ack of an entry of a reader in a reticle. Entries 6 and 7 hold what was measured at boot, and
zero outside a pod (R24; log entry 13). -/
def State.entryFields (s : State) (e : TableEntry) (t : ThreadId) (code : Nat) : List Nat :=
  if code ≤ 5 then
    let tick := e.ticks (stationOfCore t.core / 24) code
    let ack := if code < 2 then 0 else s.tripCycles e t code
    [s.agents e t code, tick 0 (s.fenceCycles e t code), tick 1 (s.worstCycles e t code), tick 2 (s.tripCycles e t code),
      tick 2 ack]
  else if s.pkg.inPod then
    let floor (x : Nat) : Nat := if code = 6 then max 1416 (x % 2 ^ 32) else x % 2 ^ 32
    [Config.podMeasured 6 4 % 2 ^ 64, Config.podMeasured code 0 % 2 ^ 32, Config.podMeasured code 1 % 2 ^ 32,
      floor (Config.podMeasured code 2), floor (Config.podMeasured code 3)]
  else [0, 0, 0, 0, 0]

/-- The bytes of one entry (R22); before firmware has written it, zero but for its code. -/
def State.discoveryEntry (s : State) (t : ThreadId) (code : Nat) : List Byte :=
  let f := match aget s.pkg.table code with
    | some e => s.entryFields e t code
    | none => []
  bytesLE 8 (f.getD 0 0) ++ bytesLE 4 (f.getD 1 0) ++ bytesLE 4 (f.getD 2 0) ++ bytesLE 4 (f.getD 3 0) ++
    bytesLE 4 (f.getD 4 0) ++ bytesLE 4 code ++ List.replicate 36 0

/-- Bytes 0 to 63 of the page (R22). -/
def State.discoveryHeader (s : State) : List Byte :=
  bytesLE 2 1 ++ bytesLE 2 64 ++ bytesLE 4 s.pkg.gen.toNat ++ bytesLE 4 s.pkg.device.toNat ++
    bytesLE 4 (if s.pkg.inPod then 3 else 0) ++
    bytesLE 4 ((List.range 16).foldl (fun a n => a + agetD s.pkg.spares n 0 % 4 * 4 ^ n) 0) ++ List.replicate 44 0

/-- The value of n bytes at an offset of the discovery page; bytes behind the table read as zero (R22). -/
def State.discoveryRead (s : State) (t : ThreadId) (off n : Nat) : Nat :=
  let line := if off / 64 = 0 then s.discoveryHeader
    else if off / 64 ≤ 8 then s.discoveryEntry t (off / 64 - 1) else List.replicate 64 0
  ofBytesLE ((line.drop (off % 64)).take n)

/-! ### Rewriting (R23) -/

/-- The places where a spare serves. -/
def State.sparePlaces (s : State) : List Nat := (s.cores.filter (fun p => p.2.spare && !p.2.lost)).map Prod.fst

/-- What firmware writes an entry from. -/
def State.tableEntry (s : State) : TableEntry :=
  { spares := s.sparePlaces, dead := s.pkg.deadPlaces
    mhz := (List.range 4).map (fun r => (agetD s.sec.pwr r PwrReg.reset).mhz), draw := s.free }

/-- gen one higher, in its four bytes. -/
def Package.bump (p : Package) : Package := { p with gen := BitVec.ofNat 64 ((p.gen.toNat + 1) % 2 ^ 32) }

/-- Firmware begins to rewrite the discovery table: gen rises before the entries; where a rewrite is under way it begins again
at the first entry with gen as it stands (R23; log entry 38). -/
def State.rewriteTable (s : State) : State :=
  { s with pkg := { (if s.pkg.rewriting.isSome then s.pkg else s.pkg.bump) with rewriting := some 0 } }

/-- Firmware's next write to the table: an entry, or gen behind the last one (R23). -/
def State.writeEntry (s : State) : State :=
  match s.pkg.rewriting with
  | none => s
  | some k =>
    if 8 ≤ k then { s with pkg := { s.pkg.bump with rewriting := none } }
    else { s with pkg := { s.pkg with table := aset s.pkg.table k s.tableEntry, rewriting := some (k + 1) } }

/-- Firmware's writes to the table, up to a number of them. -/
def State.writeEntries (s : State) : Nat → State
  | 0 => s
  | n + 1 => s.writeEntry.writeEntries n

/-- A whole rewrite, while nothing else acts: at boot (R23, R324). -/
def State.writeTable (s : State) : State := s.rewriteTable.writeEntries 9

end Sys2Proof.Machine
end

