-- ==== Sys2Proof/Machine/Int.lean ====
section
/-! DEFINITION. Integer arithmetic, immediates, addresses and bit fields (09_scalar R104 to R113). -/

namespace Sys2Proof.Machine

/-- rd := f(a, b), or f of a, b and the old rd (R103): the register checks, the write and the next instruction. -/
def alu3 (s : State) (r : R3) (f : Word → Word → Word) : Res :=
  s.onThread fun th => s.gate th [r.d, r.a, r.b] [r.a, r.b] (s.finishWith 4 r.d (f (s.g r.a) (s.g r.b)))

/-- The same for an instruction that reads rd too (R104 madd, R108 sel). -/
def alu3c (s : State) (r : R3) (f : Word → Word → Word → Word) : Res :=
  s.onThread fun th =>
    s.gate th [r.d, r.a, r.b] [r.d, r.a, r.b] (s.finishWith 4 r.d (f (s.g r.a) (s.g r.b) (s.g r.d)))

/-- rd := f(a). -/
def alu2 (s : State) (r : R2) (f : Word → Word) : Res :=
  s.onThread fun th => s.gate th [r.d, r.a] [r.a] (s.finishWith 4 r.d (f (s.g r.a)))

/-- rd := f(a, sext(imm[10:0])) (R111). -/
def aluI (s : State) (r : RI) (f : Word → Word → Word) : Res :=
  s.onThread fun th => s.gate th [r.d, r.a] [r.a] (s.finishWith 4 r.d (f (s.g r.a) (imm11 r.imm)))

/-- The long form: rd := f(a, sext(imm32)), two words (R64, R111). -/
def aluL (s : State) (r : RL) (f : Word → Word → Word) : Res :=
  s.onThread fun th => s.gate th [r.d, r.a] [r.a] (s.finishWith 8 r.d (f (s.g r.a) (imm32s r.imm)))

/-- rd := f(a, n) (R107). -/
def aluS (s : State) (r : RS) (f : Word → Nat → Word) : Res :=
  s.onThread fun th => s.gate th [r.d, r.a] [r.a] (s.finishWith 4 r.d (f (s.g r.a) r.n.toNat))

/-- The conditions of comparisons as a word (R108). -/
def flagWord (b : Bool) : Word := if b then 1 else 0

/-- Division of R105, rounded toward zero, with its fixed special cases. -/
def divS (a b : Word) : Word :=
  if b = 0 then 0xFFFFFFFFFFFFFFFF#64
  else if a = 0x8000000000000000#64 ∧ b = 0xFFFFFFFFFFFFFFFF#64 then 0x8000000000000000#64
  else Word.ofInt (a.sv.tdiv b.sv)
def divU (a b : Word) : Word := if b = 0 then 0xFFFFFFFFFFFFFFFF#64 else BitVec.ofNat 64 (a.uv / b.uv)
def remS (a b : Word) : Word :=
  if b = 0 then a
  else if a = 0x8000000000000000#64 ∧ b = 0xFFFFFFFFFFFFFFFF#64 then 0
  else Word.ofInt (a.sv.tmod b.sv)
def remU (a b : Word) : Word := if b = 0 then a else BitVec.ofNat 64 (a.uv % b.uv)

/-- Shifts by the low six bits (R107). -/
def shiftAmount (b : Word) : Nat := wfld b 5 0

/-- Number of zero bits above the highest 1 bit (R109). -/
def clzW (a : Word) : Word := BitVec.ofNat 64 (64 - bitLength a.toNat)
/-- Number of zero bits below the lowest 1 bit (R109). -/
def ctzFrom (a : Nat) : Nat → Nat → Nat
  | 0, n => n
  | k + 1, n => if bitAt a n then n else ctzFrom a k (n + 1)
def ctzW (a : Word) : Word := BitVec.ofNat 64 (ctzFrom a.toNat 64 0)
/-- Number of 1 bits (R109). -/
def popcW (a : Word) : Word := BitVec.ofNat 64 ((List.range 64).countP (fun i => a.getLsbD i))
/-- Byte order reversed (R109). -/
def bswapW (a : Word) : Word := BitVec.ofNat 64 (ofBytesLE (bytesLE 8 a.toNat).reverse)

/-- hashm of R110. -/
def hashmW (id key : Word) : Word :=
  let k : Nat := 0xD6E8FEB86659FD93
  let fold (p : Nat) : Word := BitVec.ofNat 64 (p / 2 ^ 64) ^^^ BitVec.ofNat 64 p
  fold ((fold ((id ^^^ key).toNat * k) ^^^ key.rotateLeft 32).toNat * k)

/-- The field a[pos+len-1:pos] (R113). -/
def bitField (a : Word) (pos len : Nat) : Nat := a.toNat / 2 ^ pos % 2 ^ len

/-- rd := f(a, old rd) for a bit field of position pos and length len (R113). -/
def bitFieldOp (s : State) (r : RF) (readsD : Bool) (f : Nat → Nat → Word → Word → Word) : Res :=
  s.onThread fun th =>
    s.gate th [r.d, r.a] (if readsD then [r.d, r.a] else [r.a])
      (s.finishWith 4 r.d (f r.pos.toNat (r.lenm1.toNat + 1) (s.g r.a) (s.g r.d)))

/-- Replaces bits [pos+len-1:pos] of c by the low len bits of a (R113). -/
def insertField (pos len : Nat) (a c : Word) : Word :=
  let mask : Word := BitVec.ofNat 64 ((2 ^ len - 1) * 2 ^ pos)
  (c &&& ~~~mask) ||| (BitVec.ofNat 64 (a.toNat * 2 ^ pos) &&& mask)

/-- add (R104). -/
def execAdd (r : R3) (s : State) : Res :=
  alu3 s r (fun a b => a + b)

/-- sub (R104). -/
def execSub (r : R3) (s : State) : Res :=
  alu3 s r (fun a b => a - b)

/-- mul: low 64 bits (R104). -/
def execMul (r : R3) (s : State) : Res :=
  alu3 s r (fun a b => a * b)

/-- mulh: the floor of the signed product over 2^64 (R104). -/
def execMulh (r : R3) (s : State) : Res :=
  alu3 s r (fun a b => Word.ofInt (a.sv * b.sv / 2 ^ 64))

/-- mulhu (R104). -/
def execMulhu (r : R3) (s : State) : Res :=
  alu3 s r (fun a b => BitVec.ofNat 64 (a.uv * b.uv / 2 ^ 64))

/-- mulhsu: the floor (R104). -/
def execMulhsu (r : R3) (s : State) : Res :=
  alu3 s r (fun a b => Word.ofInt (a.sv * (b.uv : Int) / 2 ^ 64))

/-- madd (R104). -/
def execMadd (r : R3) (s : State) : Res :=
  alu3c s r (fun a b c => c + a * b)

/-- div (R105). -/
def execDiv (r : R3) (s : State) : Res :=
  alu3 s r (fun a b => divS a b)

/-- divu (R105). -/
def execDivu (r : R3) (s : State) : Res :=
  alu3 s r (fun a b => divU a b)

/-- rem (R105). -/
def execRem (r : R3) (s : State) : Res :=
  alu3 s r (fun a b => remS a b)

/-- remu (R105). -/
def execRemu (r : R3) (s : State) : Res :=
  alu3 s r (fun a b => remU a b)

/-- and (R106). -/
def execAnd (r : R3) (s : State) : Res :=
  alu3 s r (fun a b => a &&& b)

/-- or (R106). -/
def execOr (r : R3) (s : State) : Res :=
  alu3 s r (fun a b => a ||| b)

/-- xor (R106). -/
def execXor (r : R3) (s : State) : Res :=
  alu3 s r (fun a b => a ^^^ b)

/-- andn (R106). -/
def execAndn (r : R3) (s : State) : Res :=
  alu3 s r (fun a b => a &&& ~~~b)

/-- orn (R106). -/
def execOrn (r : R3) (s : State) : Res :=
  alu3 s r (fun a b => a ||| ~~~b)

/-- shl (R107). -/
def execShl (r : R3) (s : State) : Res :=
  alu3 s r (fun a b => a <<< shiftAmount b)

/-- shr (R107). -/
def execShr (r : R3) (s : State) : Res :=
  alu3 s r (fun a b => a >>> shiftAmount b)

/-- sar (R107). -/
def execSar (r : R3) (s : State) : Res :=
  alu3 s r (fun a b => a.sshiftRight (shiftAmount b))

/-- rotl (R107). -/
def execRotl (r : R3) (s : State) : Res :=
  alu3 s r (fun a b => a.rotateLeft (shiftAmount b))

/-- min (R108). -/
def execMin (r : R3) (s : State) : Res :=
  alu3 s r (fun a b => if a.sv < b.sv then a else b)

/-- max (R108). -/
def execMax (r : R3) (s : State) : Res :=
  alu3 s r (fun a b => if a.sv > b.sv then a else b)

/-- minu (R108). -/
def execMinu (r : R3) (s : State) : Res :=
  alu3 s r (fun a b => if a.uv < b.uv then a else b)

/-- maxu (R108). -/
def execMaxu (r : R3) (s : State) : Res :=
  alu3 s r (fun a b => if a.uv > b.uv then a else b)

/-- slt (R108). -/
def execSlt (r : R3) (s : State) : Res :=
  alu3 s r (fun a b => flagWord (decide (a.sv < b.sv)))

/-- sltu (R108). -/
def execSltu (r : R3) (s : State) : Res :=
  alu3 s r (fun a b => flagWord (decide (a.uv < b.uv)))

/-- sel (R108). -/
def execSel (r : R3) (s : State) : Res :=
  alu3c s r (fun a b c => if c ≠ 0 then a else b)

/-- clz (R109). -/
def execClz (r : R2) (s : State) : Res :=
  alu2 s r clzW

/-- ctz (R109). -/
def execCtz (r : R2) (s : State) : Res :=
  alu2 s r ctzW

/-- popc (R109). -/
def execPopc (r : R2) (s : State) : Res :=
  alu2 s r popcW

/-- bswap (R109). -/
def execBswap (r : R2) (s : State) : Res :=
  alu2 s r bswapW

/-- sext.b (R109). -/
def execSextB (r : R2) (s : State) : Res :=
  alu2 s r (fun a => sextW 8 a.toNat)

/-- sext.h (R109). -/
def execSextH (r : R2) (s : State) : Res :=
  alu2 s r (fun a => sextW 16 a.toNat)

/-- sext.w (R109). -/
def execSextW (r : R2) (s : State) : Res :=
  alu2 s r (fun a => sextW 32 a.toNat)

/-- zext.b (R109). -/
def execZextB (r : R2) (s : State) : Res :=
  alu2 s r (fun a => zextW 8 a.toNat)

/-- zext.h (R109). -/
def execZextH (r : R2) (s : State) : Res :=
  alu2 s r (fun a => zextW 16 a.toNat)

/-- zext.w (R109). -/
def execZextW (r : R2) (s : State) : Res :=
  alu2 s r (fun a => zextW 32 a.toNat)

/-- hashm (R110). -/
def execHashm (r : R3) (s : State) : Res :=
  alu3 s r (fun a b => hashmW a b)

/-- addi (R111). -/
def execAddi (r : RI) (s : State) : Res :=
  aluI s r (fun a i => a + i)

/-- andi (R111). -/
def execAndi (r : RI) (s : State) : Res :=
  aluI s r (fun a i => a &&& i)

/-- ori (R111). -/
def execOri (r : RI) (s : State) : Res :=
  aluI s r (fun a i => a ||| i)

/-- xori (R111). -/
def execXori (r : RI) (s : State) : Res :=
  aluI s r (fun a i => a ^^^ i)

/-- slti (R111). -/
def execSlti (r : RI) (s : State) : Res :=
  aluI s r (fun a i => flagWord (decide (a.sv < i.sv)))

/-- sltiu (R111). -/
def execSltiu (r : RI) (s : State) : Res :=
  aluI s r (fun a i => flagWord (decide (a.uv < i.uv)))

/-- addi, long form (R64, R111). -/
def execAddiLong (r : RL) (s : State) : Res :=
  aluL s r (fun a i => a + i)

/-- andi, long form (R64, R111). -/
def execAndiLong (r : RL) (s : State) : Res :=
  aluL s r (fun a i => a &&& i)

/-- ori, long form (R64, R111). -/
def execOriLong (r : RL) (s : State) : Res :=
  aluL s r (fun a i => a ||| i)

/-- xori, long form (R64, R111). -/
def execXoriLong (r : RL) (s : State) : Res :=
  aluL s r (fun a i => a ^^^ i)

/-- slti, long form (R64, R111). -/
def execSltiLong (r : RL) (s : State) : Res :=
  aluL s r (fun a i => flagWord (decide (a.sv < i.sv)))

/-- sltiu, long form (R64, R111). -/
def execSltiuLong (r : RL) (s : State) : Res :=
  aluL s r (fun a i => flagWord (decide (a.uv < i.uv)))

/-- lui.h: the immediate in the upper half (R64). -/
def execLuiH (d : Reg) (imm : BitVec 32) (s : State) : Res :=
  s.onThread fun th => s.gate th [d] [] (s.finishWith 8 d (imm32z imm <<< 32))

/-- shli (R107). -/
def execShli (r : RS) (s : State) : Res :=
  aluS s r (fun a n => a <<< n)

/-- shri (R107). -/
def execShri (r : RS) (s : State) : Res :=
  aluS s r (fun a n => a >>> n)

/-- sari (R107). -/
def execSari (r : RS) (s : State) : Res :=
  aluS s r (fun a n => a.sshiftRight n)

/-- rotli (R107). -/
def execRotli (r : RS) (s : State) : Res :=
  aluS s r (fun a n => a.rotateLeft n)

/-- lui (R112). -/
def execLui (r : RJ) (s : State) : Res :=
  s.onThread fun th => s.gate th [r.d] [] (s.finishWith 4 r.d (imm18 r.off * 2048))

/-- addpc (R112). -/
def execAddpc (r : RJ) (s : State) : Res :=
  s.onThread fun th => s.gate th [r.d] [] (s.finishWith 4 r.d (th.pc + 4 * imm18 r.off))

/-- bfx (R113). -/
def execBfx (r : RF) (s : State) : Res :=
  bitFieldOp s r false (fun pos len a _ => sextW len (bitField a pos len))

/-- bfxu (R113). -/
def execBfxu (r : RF) (s : State) : Res :=
  bitFieldOp s r false (fun pos len a _ => BitVec.ofNat 64 (bitField a pos len))

/-- bfi (R113). -/
def execBfi (r : RF) (s : State) : Res :=
  bitFieldOp s r true insertField

end Sys2Proof.Machine
end

