-- ==== Sys2Proof/Machine/Links.lean ====
section
/-! DEFINITION. What waits at the Phomund ports to be sent, and the way of packets through the torus (21_fabric R270,
R275, R276, R284 to R286). -/

namespace Sys2Proof.Machine

/-! ### Ports (R284, R286) -/

def State.portAt (s : State) (q : Nat) : Port := agetD s.host.ports q Port.reset
def State.setPort (s : State) (q : Nat) (k : Port) : State := { s with host := { s.host with ports := aset s.host.ports q k } }

/-- The port that a hash chooses from a device's mask (R286). That the hash scales to the number of ports is log
entry 27. -/
def State.portFor (s : State) (device : Nat) (x : Word) : Option Nat :=
  let ports := (List.range 24).filter (fun q => bitAt (agetD s.host.porttab device 0) q)
  ports[(hashmW x (BitVec.ofNat 64 device)).toNat * ports.length / 2 ^ 64]?

/-- Whether a packet waits at a port and has not been sent. -/
def State.atPort (s : State) (f : OutPacket → Bool) : Bool := s.host.ports.any (fun q => q.2.out.any f)

/-- A packet goes to the port that its hash chooses; without a port it is lost with the link. -/
def State.sendPacket (s : State) (port : Option Nat) (p : OutPacket) : State :=
  match port with
  | none => s
  | some q => s.setPort q { s.portAt q with out := (s.portAt q).out ++ [p] }

/-- The port for an access, an answer or a row update: the hash of the address's 4 KiB granule (R286). -/
def State.granulePort (s : State) (device va : Nat) : Option Nat := s.portFor device (BitVec.ofNat 64 (va / 4096))

/-- Sends an access of this device to another. -/
def State.sendAccessPacket (s : State) (device : Nat) (x : Access) : State :=
  s.sendPacket (s.granulePort device x.va) (.access device x.ctx x.id)

/-! ### The torus (R16, R270) -/

/-- One step along a ring of n places from a towards b, in the shorter direction, a tie in the positive one (R270). -/
def ringStep (n a b : Nat) : Nat :=
  let up := (b + n - a) % n
  if up = 0 then a else if up ≤ n / 2 then (a + 1) % n else (a + n - 1) % n

/-- The station at a column and a row (R16). -/
def stationXY (x y : Nat) : Nat := y / 3 * 24 + x / 4 * 12 + x % 4 / 2 * 6 + y % 3 * 2 + x % 2

/-- The stations on the way from a place to another, along X and then along Y, with both ends (R270). -/
def routeXY (x y tx ty : Nat) : Nat → List Nat
  | 0 => [stationXY x y]
  | fuel + 1 =>
    stationXY x y ::
      (if x ≠ tx then routeXY (ringStep 8 x tx) y tx ty fuel
       else if y ≠ ty then routeXY x (ringStep 12 y ty) tx ty fuel
       else [])

/-- The path of a packet between two stations (R270). -/
def routeOf (a b : Nat) : List Nat := routeXY (stationX a) (stationY a) (stationX b) (stationY b) 10

/-- The core cycles of a station's reticle so far (R8). -/
def State.cyclesAt (s : State) (station : Nat) : Nat := agetD s.cycles (station / 24) 0 / 1900

/-- Whether every router of a path is awake: one that is powered down or waking holds the packet upstream (R271, R275). -/
def State.routeOpen (s : State) (path : List Nat) : Bool :=
  path.all (fun st => match (s.stationAt st).router with | .awake _ => true | _ => false)

/-- A packet has moved along a path: the idle counts of its routers restart (R275). -/
def State.touchRoute (s : State) (path : List Nat) : State :=
  path.foldl (fun s st => s.modStation st (fun k =>
    { k with router := match k.router with
        | .awake _ => .awake (s.cyclesAt st)
        | r => r })) s

end Sys2Proof.Machine
end

