-- ==== Sys2Proof/Machine/Owners.lean ====
section
/-! DEFINITION. What the owners of memory do with an access: scratchpad banks, home slices, the fixed pages, host
memory; parking and serving (11_memory_isa R145 to R156, 13_consistency R171, 17_traps R221, R229, R236). -/

namespace Sys2Proof.Machine

/-! ### The operation on a word (R148, R152, R155, R156) -/

/-- new of R155 for old and x of n bytes; y is g[rt+1]. -/
def amoValue (k : AmoKind) (n old x y : Nat) : Nat :=
  let a := signedOf (8 * n) old
  let b := signedOf (8 * n) x
  match k with
  | .add => (old + x) % 2 ^ (8 * n)
  | .and => Nat.land old x
  | .or => Nat.lor old x
  | .xor => Nat.xor old x
  | .min => if a < b then old else x
  | .max => if a > b then old else x
  | .minu => if old < x then old else x
  | .maxu => if old > x then old else x
  | .swap => x
  | .cas => if old = x then y else old

/-- new of R156: ties to even, no saturation, canonical NaN, flags discarded. -/
def famoValue (k : FamoKind) (n old x : Nat) : Nat :=
  let f := Fmt.ofDbl (n == 8)
  match k with
  | .fadd => (fpAdd f old x 0).bits
  | .fmin => (fpMinMax f false old x).bits
  | .fmax => (fpMinMax f true old x).bits

/-- Whether an access reads its word. -/
def AccessKind.reads : AccessKind → Bool
  | .store | .stfe | .stf | .fest => false
  | _ => true

/-- Whether an access that misses in its home slice waits there for the fill before it is performed (R25). -/
def AccessKind.fills : AccessKind → Bool
  | .store | .stf | .fest => false
  | _ => true

/-- What an access writes to its n bytes, from what they held. -/
def AccessKind.writes (k : AccessKind) (n old x y : Nat) : Option Nat :=
  match k with
  | .load | .ldfe | .ldff | .fest => none
  | .store | .stfe | .stf => some (x % 2 ^ (8 * n))
  | .amo a => some (amoValue a n old (x % 2 ^ (8 * n)) (y % 2 ^ (8 * n)))
  | .famo a => some (famoValue a n old (x % 2 ^ (8 * n)))

/-- The full/empty bit after an access (R152). -/
def AccessKind.fullAfter (k : AccessKind) (full : Bool) (x : Word) : Bool :=
  match k with
  | .ldfe => false
  | .stfe | .stf => true
  | .fest => x.getLsbD 0
  | _ => full

/-- Whether a word's bit lets an access be served (R152). -/
def AccessKind.servable (k : AccessKind) (full : Bool) : Bool :=
  match k with
  | .ldfe | .ldff => full
  | .stfe => !full
  | _ => true

/-- What an access needs of its page (R227). -/
def AccessKind.need : AccessKind → Need
  | .load | .ldff => .load
  | .store | .stf | .fest => .store
  | _ => .both

/-- The register value of an answer: sign or zero extended (R148, R155, R156). -/
def Access.extend (x : Access) (v : Nat) : Word := if x.sext then sextW (8 * x.n) v else zextW (8 * x.n) v

/-! ### Owners -/

/-- An owner of words (R145, R171). -/
inductive Owner where
  | bank (core : Nat)
  | slice (station : Nat)
  deriving DecidableEq, Repr

/-- What an owner answers: a fault with its sub and info, or a value. -/
structure Answer where
  fault : Nat
  sub : Nat
  info : Nat
  value : Word
  deriving DecidableEq, Repr

def Answer.ok (v : Word) : Answer := { fault := 0, sub := 0, info := 0, value := v }
def Answer.bad (fault sub info : Nat) : Answer := { fault := fault, sub := sub, info := info, value := 0 }

/-- The place word of an access's agent, for error records (R234). -/
def State.agentPlace (s : State) (x : Access) : BitVec 32 :=
  match x.issuer with
  | .thread t => BitVec.ofNat 32 (s.place t)
  | .pod _ _ _ => 0xFFFFFFFF#32
  | .front _ _ => 0xFFFFFFFF#32
  | .trace _ => 0xFFFFFFFF#32
  | .fetch t => BitVec.ofNat 32 (s.place t)

/-- What a scratchpad that is lost or closed answers a peer (R48, R238). -/
def State.bankClosed (s : State) (core : Nat) (x : Access) : Option Answer :=
  if x.sp = 1 ∧ (s.coreAt core).lost = true then some (.bad 9 2 0)
  else if x.sp = 1 ∧ (s.coreAt core).peersOpen = false then some (.bad 9 1 0)
  else none

/-- The fault of an access at a scratchpad bank (R48, R149, R238). DESIGN CHOICE: a peer request that is parked when the
scratchpad closes stays parked, and answers PEERGONE when it would be served; R48 does not say what becomes of it. -/
def State.bankFault (s : State) (core : Nat) (x : Access) : Option Answer :=
  match s.bankClosed core x with
  | some a => some a
  | none =>
    if (s.coreAt core).badParity (x.loc % 2 ^ 18) x.n &&
        (AccessKind.reads x.kind || (x.sp == 0 && x.kind == .store && decide (x.n < 8))) then some (.bad 20 1 0)
    else none

/-- Performs an access at a scratchpad bank, indivisibly (R145, R149, R152). -/
def State.bankPerform (s : State) (core : Nat) (x : Access) : Answer × State :=
  match s.bankFault core x with
  | some a => (a, s)
  | none =>
    let k := s.coreAt core
    let a := x.loc % 2 ^ 18
    let old := k.spad.readLE a x.n
    let s1 := if k.badParity a x.n && decide (x.n < 8) then s.logError 20 1 x.ctx (s.agentPlace x) a else s
    let k1 := match AccessKind.writes x.kind x.n old x.x.toNat x.y.toNat with
      | none => k
      | some v => k.spadWrite a (bytesLE x.n v)
    let k2 := if x.kind == .fest || AccessKind.fullAfter x.kind (k.isFull a) x.x != k.isFull a then
        k1.setFull a (AccessKind.fullAfter x.kind (k.isFull a) x.x)
      else k1
    (.ok (x.extend old), s1.setCore core k2)

/-- Performs an access at a home slice, indivisibly: tag and poison checks, then the word and its bit (R145, R152, R231, R232,
R318), where KEYTAG comes before POISON (log entry 16). A read finds an uncorrectable error; a store to such a line is the
read-modify-write of R232. -/
def State.slicePerform (s : State) (x : Access) : Answer × State :=
  let f0 := s.foldRange x.loc x.n
  let s0 := if AccessKind.fills x.kind then f0.findErrors x.loc x.n x.ctx (s.agentPlace x) else f0
  let s1 := if x.kind == .load || x.kind == .ldff then s0 else s0.sliceDirty x.loc x.n
  let full := s1.phys.isFull x.loc
  let after := AccessKind.fullAfter x.kind full x.x
  let setBit (s : State) : State :=
    if after != full then { s with phys := s.phys.setFull x.loc after } else s
  if AccessKind.reads x.kind then
    match s1.tagRead x.tag x.loc x.n with
    | .error c => (.bad c 0 0, s1)
    | .ok bs =>
      let old := ofBytesLE bs
      match AccessKind.writes x.kind x.n old x.x.toNat x.y.toNat with
      | none => (.ok (x.extend old), setBit s1)
      | some v =>
        match s1.tagWrite x.tag x.loc (bytesLE x.n v) x.ctx (s.agentPlace x) with
        | .error c => (.bad c 0 0, s1)
        | .ok s2 => (.ok (x.extend old), setBit s2)
  else if x.kind == .stfe && !s1.writeRefused x.tag x.loc x.n && (linesOf x.loc x.n).any (fun l => s1.phys.poison.contains l) then
    (.bad 10 0 0, s1)
  else if x.kind == .fest then
    if s1.writeRefused x.tag x.loc x.n then (.bad 11 0 0, s1)
    else (.ok 0, setBit { s1 with phys := s1.phys.adopt x.tag (x.loc / 64) })
  else
    match s1.tagWrite x.tag x.loc (bytesLE x.n x.x.toNat) x.ctx (s.agentPlace x) with
    | .error c => (.bad c 0 0, s1)
    | .ok s2 => (.ok 0, setBit s2)

/-- Performs an access at its owner. -/
def State.performAt (s : State) (o : Owner) (x : Access) : Answer × State :=
  match o with
  | .bank c => s.bankPerform c x
  | .slice _ => s.slicePerform x

/-- The full/empty bit of an access's word at its owner. -/
def State.fullAt (s : State) (o : Owner) (loc : Nat) : Bool :=
  match o with
  | .bank c => (s.coreAt c).isFull (loc % 2 ^ 18)
  | .slice _ => s.phys.isFull loc

/-- The park queue of an owner, oldest first, and its size (R146). -/
def State.parkOf (s : State) : Owner → List Nat
  | .bank c => (s.coreAt c).park
  | .slice st => (s.stationAt st).park
def State.setPark (s : State) (o : Owner) (q : List Nat) : State :=
  match o with
  | .bank c => s.modCore c (fun k => { k with park := q })
  | .slice st => s.modStation st (fun k => { k with park := q })
def Owner.parkRoom : Owner → Nat
  | .bank _ => 96
  | .slice _ => 256

/-- The owner of an access that has a location. -/
def Access.owner (x : Access) : Owner := if x.sp = 2 then .slice (homeStation x.loc) else .bank (x.loc / 2 ^ 18)

/-- A failed status write of a launch (R298): err 4, and the queue stops before its next packet, unless it stands at a packet that
has failed already. -/
def CmdQueue.failStatus (k : CmdQueue) : CmdQueue := { k with err := 4, statusFailed := k.statusFailed || k.err != 4 }

/-- Delivers an owner's answer: an own-space access completes its instruction at once unless its thread is halted, any other is
answered (R79, R143, R153); another device's request is answered over the link (R285); a failed status write of a launch stops its
queue (R298), a failed trace record the trace (R307). -/
def State.deliver (s : State) (x : Access) (a : Answer) : State :=
  match x.issuer with
  | .thread t =>
    if x.sp = 0 ∧ ((s.threadAt t).map Thread.halted).getD false = false then
      let s1 := s.dropAccess x.id
      if a.fault ≠ 0 then s1.takeTrap t (precise a.fault (BitVec.ofNat 64 x.va) a.sub a.info)
      else if AccessKind.reads x.kind then (s1.setReg t x.rd a.value).finish t 4
      else s1.finish t 4
    else s.modAccess x.id (fun y => { y with stage := .answered a.fault a.sub a.info a.value })
  | .pod port device reqid =>
    (s.dropAccess x.id).sendPacket (if (s.portAt port).failed then none else s.granulePort device x.va)
      (.answer device x.ctx x.kind reqid a.fault a.sub a.info a.value)
  | .front q _ =>
    let s1 := s.dropAccess x.id
    if a.fault ≠ 0 then s1.setQueue q (s1.queueAt q).failStatus else s1
  | .trace _ =>
    let s1 := s.dropAccess x.id
    if a.fault ≠ 0 then s1.modCtx x.ctx (fun c => { c with trace := c.trace.fail x.va }) else s1
  | .fetch _ => s.modAccess x.id (fun y => { y with stage := .answered a.fault a.sub a.info a.value })

/-- Serves the parked requests of one word from the head of the queue, as long as the head can be served (R153). -/
def State.serve (s : State) (o : Owner) (loc : Nat) : Nat → State
  | 0 => s
  | fuel + 1 =>
    match (s.parkOf o).filterMap s.accessAt |>.find? (fun x => x.loc / 8 == loc / 8) with
    | none => s
    | some x =>
      if AccessKind.servable x.kind (s.fullAt o loc) then
        let r := s.performAt o x
        ((r.2.setPark o ((r.2.parkOf o).filter (· != x.id))).deliver x r.1).serve o loc fuel
      else s

/-- Serves after an access to a word; each service removes one parked request. -/
def State.serveWord (s : State) (o : Owner) (loc : Nat) : State := s.serve o loc ((s.parkOf o).length)

/-- Whether an owner can serve a request on arrival: its bit is right and no request to the word is parked; an ldfe or stfe,
which gives the parked ones the bit that they wait for, is served as R153's example has it (log entry 19). -/
def State.servesNow (s : State) (o : Owner) (x : Access) : Bool :=
  AccessKind.servable x.kind (s.fullAt o x.loc) &&
    (x.kind != .ldff || !((s.parkOf o).filterMap s.accessAt).any (fun y => y.loc / 8 == x.loc / 8))

/-- The fault that another device answers a read or a write of its memory with, 0 for none: LINK where no port leads there
(R288), else one of those of a load, which one is free (log entry 21). -/
def State.foreignFault (s : State) (device va : Nat) : Nat :=
  if !s.linked device then 17 else [0, 5, 6, 10, 11, 17].getD ((s.undefined (2 ^ 60 + va)).toNat % 6) 0

/-- The subcode of such a fault (R218): that of XLATE or PROT is free. -/
def State.foreignSub (s : State) (code va : Nat) : Nat :=
  if code = 5 ∨ code = 6 then (s.undefined (2 ^ 61 + va)).toNat % 8 else 0

/-- What an owner answers to a request that it would park: a closed scratchpad's answer, or KEYTAG, which is decided by the line
that the request reaches (R48, R318). Parity and poison are found when the request is served. -/
def State.ownerFault (s : State) (o : Owner) (x : Access) : Option Answer :=
  match o with
  | .bank c => s.bankClosed c x
  | .slice _ => if s.writeRefused x.tag x.loc x.n then some (.bad 11 0 0) else none

/-- Whether the core of an access's thread is lost. -/
def State.issuerLost (s : State) (x : Access) : Bool :=
  match x.issuer with
  | .thread t => (s.coreAt t.core).lost
  | _ => false

/-- An access that has reached its owner: performed, parked, or refused because the queue is full (R145, R146, R153). A lost
core's request that would park is removed (R238). -/
def State.meetOwner (s : State) (o : Owner) (x : Access) : State :=
  if AccessKind.parks x.kind && !s.servesNow o x then
    if s.issuerLost x then s.dropAccess x.id
    else
    match s.ownerFault o x with
    | some a => s.deliver x a
    | none =>
      if (s.parkOf o).length < o.parkRoom then
        (s.modAccess x.id (fun y => { y with stage := .parked, loc := x.loc })).setPark o (s.parkOf o ++ [x.id])
      else s.modAccess x.id (fun y => { y with stage := .refused, loc := x.loc })
  else
    let r := s.performAt o x
    (r.2.deliver x r.1).serveWord o x.loc

/-! ### The partition control page (R236) -/

/-- Removes the oldest entry of a queue; the next entry carries no lost flag (R236). -/
def ControlPage.popKnell (p : ControlPage) : ControlPage := { p with knell := p.knell.drop 1, knellLost := p.knell == [] && p.knellLost }
def ControlPage.popMigrate (p : ControlPage) : ControlPage :=
  { p with migrate := p.migrate.drop 1, migrateLost := p.migrate == [] && p.migrateLost }
def ControlPage.popMailbox (p : ControlPage) : ControlPage :=
  { p with mailbox := p.mailbox.drop 1, mailboxLost := p.mailbox == [] && p.mailboxLost }

/-- A write of the remap field requests recovery (R239); while one is busy the field keeps it (log entry 20). -/
def ControlPage.requestRemap (p : ControlPage) (w : Word) : ControlPage :=
  if p.rstat = 1 then p
  else { p with rstat := 1, rplace := BitVec.ofNat 32 w.toNat, runits := BitVec.ofNat 8 (wfld w 39 32) }

/-- A doubleword load of the control page: the value, and what its RC fields leave. -/
def ControlPage.read (p : ControlPage) (off : Nat) : Word × ControlPage :=
  match off with
  | 8 => (BitVec.ofNat 64 (p.rplace.toNat * 2 ^ 32 + p.rstat % 4), p)
  | 24 => (p.timer, p)
  | 32 => (pageView p.knell p.knellLost, p.popKnell)
  | 40 => (pageView p.migrate p.migrateLost, p.popMigrate)
  | 48 => (pageView p.mailbox p.mailboxLost, p.popMailbox)
  | _ => (0, p)

/-- A doubleword store to the control page. -/
def ControlPage.write (p : ControlPage) (off : Nat) (w : Word) : ControlPage :=
  match off with
  | 0 => p.requestRemap w
  | 24 => { p with timer := w }
  | _ => p

/-- Performs an access to the control page: doubleword loads and stores above user mode, else PROT sub 6 (R236). -/
def State.controlPerform (s : State) (x : Access) : Answer × State :=
  if x.user ∨ x.n ≠ 8 ∨ (x.kind ≠ .load ∧ x.kind ≠ .store) then (.bad 6 6 0, s)
  else
    match s.ctxAt x.ctx with
    | none => (.bad 6 6 0, s)
    | some c =>
      if x.kind = .load then
        let r := c.page.read (x.va - controlBase)
        (.ok r.1, s.setCtx x.ctx { c with page := r.2 })
      else (.ok 0, s.setCtx x.ctx { c with page := c.page.write (x.va - controlBase) x.x })

/-! ### Arrival -/

/-- The thread whose place decides what an access sees; that of another device enters at a port's reticle (R284). -/
def Access.reader (x : Access) : ThreadId :=
  match x.issuer with
  | .thread t => t
  | .fetch t => t
  | .pod port _ _ => { core := port / 6 * 192, slot := 0 }
  | .front _ st => { core := st * 8, slot := 0 }
  | .trace core => { core := core, slot := 0 }

/-- Whether an access has not yet been performed or answered. -/
def Access.pending (x : Access) : Bool :=
  match x.stage with
  | .answered _ _ _ _ => false
  | _ => true

/-- Whether one of some accesses has not been performed or answered, updates of engines among them. -/
def State.anyPending (s : State) (ids : List Nat) : Bool :=
  s.accesses.any (fun x => ids.contains x.id && x.pending) || s.lates.any (fun l => ids.contains l.id) ||
    s.replicas.any (fun r => ids.contains r.id && r.failed.isNone)

/-- The doubleword that an address of a thread names, as a space and a number: the scratchpad's, the physical one, the
host's, or the virtual one where it translates to nothing (R145, R173). -/
def State.spotOf (s : State) (t : ThreadId) (ctx sp va : Nat) : Nat × Nat :=
  if sp ≠ 2 then (0, spadNumber t.core sp va / 8)
  else
    match s.region va with
    | .paged =>
      match s.whereIs (stationOfCore t.core) ctx va with
      | some pa => (1, pa / 8)
      | none => (2, va / 8)
    | .hostWindow =>
      match s.locate (stationOfCore t.core) ctx va .load false true with
      | (.pa pa, _) => (3, (s.host.hwin.toNat + pa) % 2 ^ 64 / 8)
      | _ => (2, va / 8)
    | _ => (2, va / 8)

/-- The doubleword of an access under way. -/
def State.spot (s : State) (x : Access) : Nat × Nat := s.spotOf x.reader x.ctx x.sp x.va

/-- Whether two accesses have one issuer, as far as R80 and R286 order them: a thread, or another device. -/
def Issuer.same : Issuer → Issuer → Bool
  | .thread t, .thread u => t == u
  | .pod _ d _, .pod _ e _ => d == e
  | .trace a, .trace b => a == b
  | _, _ => false

/-- Whether an access is a store that its issuer does not wait for. -/
def Access.unawaited (x : Access) : Bool :=
  match x.issuer with
  | .thread _ => x.counter != 0
  | .pod _ _ _ => x.kind == .store || x.kind == .stf || x.kind == .fest
  | .front _ _ => false
  | .trace _ => true
  | .fetch _ => false

/-- Whether an access writes a trace record. -/
def Access.traces (x : Access) : Bool :=
  match x.issuer with
  | .trace _ => true
  | _ => false

/-- Whether two addresses name one doubleword: by the address itself, or by where it lies (R173). -/
def State.sameWord (s : State) (x y : Access) : Bool := (y.sp == x.sp && y.va / 8 == x.va / 8) || s.spot y == s.spot x

/-- Whether an earlier posted access of the same issuer to the same doubleword is still under way: such accesses are
performed in issue order (R80, R173, R286), and so are a core's trace records (R307). -/
def State.behindOwn (s : State) (x : Access) : Bool :=
  s.accesses.any (fun y => decide (y.id < x.id) && Issuer.same y.issuer x.issuer && y.unawaited && y.pending &&
    (x.traces || s.sameWord x y))

/-- Whether a posted store of a thread to a doubleword is still under way (R173). -/
def State.posting (s : State) (t : ThreadId) (word : Nat × Nat) : Bool :=
  s.accesses.any (fun y => y.postedBy t && y.pending && s.spot y == word)

/-- The first doubleword of n bytes of the own scratchpad to which a posted store of the thread is still under way (R173). -/
def State.postedOwn (s : State) (t : ThreadId) (a n : Nat) : Option Nat :=
  ((List.range (n / 8)).map (fun i => spadNumber t.core 0 (a + 8 * i) / 8)).find? (fun w => s.posting t (0, w))

/-- An access takes its place behind all that have arrived: the list of accesses stands in arrival order, those that travel
aside (R145, R229). -/
def State.arriveLast (s : State) (id : Nat) : State :=
  { s with accesses := s.accesses.filter (fun y => y.id != id) ++ s.accesses.filter (fun y => y.id == id) }

/-- Whether an access that arrived earlier waits for the fill of the same doubleword (R145, R279). -/
def State.behindFill (s : State) (x : Access) : Bool :=
  (s.accesses.takeWhile (fun y => y.id != x.id)).any (fun y => y.stage == .filling && y.loc / 8 == x.loc / 8)

/-- Whether a global access must wait at its home slice for its fill (R25, R279). -/
def State.mustFill (s : State) (x : Access) : Bool := AccessKind.fills x.kind && !s.sliceHit x.loc x.n

/-- A translated global access before its home slice: it waits for its fill, or behind one to its doubleword that does, or goes
on to the owner (R25, R145, R279). -/
def State.atSlice (s : State) (x : Access) : State :=
  if s.mustFill x then (s.startFill x.loc x.lu).modAccess x.id (fun y => { y with stage := .filling })
  else if s.behindFill x then s.modAccess x.id (fun y => { y with stage := .filling })
  else (s.sliceTouch x.loc x.n (!AccessKind.fills x.kind && x.kind != .fest) x.lu).meetOwner (.slice (homeStation x.loc)) x

/-- A translated global access reaches its home slice, in arrival order (R145, R279). -/
def State.meetSlice (s : State) (x : Access) : State :=
  ((s.modAccess x.id (fun y => { y with loc := x.loc })).arriveLast x.id).atSlice x

/-- An access is held since it first met its page (R229). -/
def Stage.heldFrom (g : Stage) (now : Nat) : Stage :=
  match g with
  | .held t => .held t
  | _ => .held now

/-- A global access at the translation station of its issuer: held, failed, or on to its owner (R225, R229). -/
def State.meetPage (s : State) (x : Access) (station : Nat) : State :=
  match s.translateIn (.access x.id) station x.ctx x.va (AccessKind.need x.kind) x.user false with
  | (.fault code sub info, s1) => s1.deliver x (.bad code sub info)
  | (.held, s1) => s1.modAccess x.id (fun y => { y with stage := y.stage.heldFrom s.time.toNat })
  | (.pa pa, s1) => s1.meetSlice { x with loc := pa }

/-- A load or store of host memory: translated, then at `hwin` plus the result (R291); anything else is PROT sub 5. -/
def State.meetHost (s : State) (x : Access) (station : Nat) : State :=
  if x.kind ≠ .load ∧ x.kind ≠ .store then s.deliver x (.bad 6 5 0)
  else
    match s.translateIn (.access x.id) station x.ctx x.va (AccessKind.need x.kind) x.user true with
    | (.fault code sub info, s1) => s1.deliver x (.bad code sub info)
    | (.held, s1) => s1.modAccess x.id (fun y => { y with stage := y.stage.heldFrom s.time.toNat })
    | (.pa pa, s1) =>
      let a := (s1.host.hwin.toNat + pa) % 2 ^ 64
      if x.kind = .load then s1.deliver x (.ok (x.extend (s1.phys.host.readLE a x.n)))
      else ({ s1 with phys := { s1.phys with host := s1.phys.host.writeLE a x.n x.x.toNat } } : State).deliver x (.ok 0)

/-- A global access on its way from a thread (R22, R225, R236, R291). -/
def State.meetGlobal (s : State) (x : Access) (station : Nat) : State :=
  match s.region x.va with
  | .discovery =>
    if x.kind = .load then s.deliver x (.ok (x.extend (s.discoveryRead x.reader (x.va - discoveryBase) x.n)))
    else s.deliver x (.bad 6 6 0)
  | .control => let r := s.controlPerform x; r.2.deliver x r.1
  | .hostWindow => s.meetHost x station
  | .remote d =>
    if s.linked d then
      (s.modAccess x.id (fun y => { y with stage := .offDevice, port := s.granulePort d x.va })).sendAccessPacket d x
    else s.deliver x (.bad 17 0 0)
  | .outside => s.deliver x (.bad 5 4 0)
  | .paged => s.meetPage x station

/-- The station of an access's owner: the peer core's, the home slice's, the control page's, or the translation station where
the access goes no further on the device (R225, R236). -/
def State.ownerStation (s : State) (x : Access) : Nat :=
  let st := stationOfCore x.reader.core
  if x.sp ≠ 2 then stationOfCore (peerCore x.reader.core (x.va / 2 ^ 18))
  else
    match s.region x.va with
    | .paged =>
      match s.whereIs st x.ctx x.va with
      | some pa => homeStation pa
      | none => st / 8 * 8
    | .control => lowestStation (((s.ctxAt x.ctx).map Context.stations).getD [])
    | _ => st / 8 * 8

/-- The way of a translation's walk: from the translation station to the home slices of the tables that it reads (R225, R269); a
hit takes none. -/
def State.walkRoute (s : State) (st ctx va : Nat) : List Nat :=
  if s.region va ≠ .paged ∨ ((s.xlatAt (st / 8)).find ctx va).isSome then []
  else (s.walkReads va 4 (s.rootOf ctx * 8192) 1).flatMap (fun a => routeOf (st / 8 * 8) (homeStation a))

/-- The way of a read or write of global memory from a station and back, its walk included (R225, R269, R270). -/
def State.memRoute (s : State) (st ctx va : Nat) : List Nat :=
  let home := match s.whereIs st ctx va with
    | some pa => homeStation pa
    | none => st / 8 * 8
  routeOf st home ++ routeOf home st ++ s.walkRoute st ctx va

/-- The same for an address of any region: only device memory is reached through the torus. -/
def State.pageWay (s : State) (st ctx va : Nat) : List Nat :=
  if va < 2 ^ 56 ∧ s.region va = .paged then s.memRoute st ctx va else []

/-- An operation of a thread's instruction whose packets take a way: it waits while a router there is not awake (R271, R275). -/
def State.byWay (s : State) (t : ThreadId) (way : List Nat) (op : State → State) : State :=
  if s.routeOpen way then op (s.touchRoute way) else s.waitFor t (.way way)

/-- The way of a request, its walk included, and that of its answer (R270). -/
def State.requestRoute (s : State) (x : Access) : List Nat :=
  routeOf (stationOfCore x.reader.core) (s.ownerStation x) ++
    (if x.sp = 2 then s.walkRoute (stationOfCore x.reader.core) x.ctx x.va else [])
def State.answerRoute (s : State) (x : Access) : List Nat := routeOf (s.ownerStation x) (stationOfCore x.reader.core)

/-- Whether a packet that was sent earlier from one station to another is still on its way: packets of one pair of stations on the
request network arrive in the order in which they were sent (R269, R270). A request that itself waits for an earlier store of its
issuer does not count: it is there already. -/
def State.underWay (s : State) (src dst sent : Nat) : Bool :=
  s.accesses.any (fun y => y.stage == .travelling && decide (y.sent < sent) && stationOfCore y.reader.core == src &&
    s.ownerStation y == dst && !s.behindOwn y) ||
  s.flights.any (fun g => g.stage == .travelling && decide (g.sent < sent) &&
    fld g.msg.src.toNat 31 18 == s.pkg.device.toNat && fld g.msg.dst.toNat 31 18 == s.pkg.device.toNat &&
    stationOfPlace g.msg.src.toNat == src && stationOfPlace g.msg.dst.toNat == dst)

/-- Whether a request has to wait for an earlier packet of its two stations. -/
def State.behindWay (s : State) (x : Access) : Bool := s.underWay (stationOfCore x.reader.core) (s.ownerStation x) x.sent

/-- Whether the fill of a line is under way (R279). -/
def State.fillUnderWay (s : State) (line : Nat) : Bool :=
  (s.stationAt (homeStation (line * 64))).slice.any (fun y => y.line == line && y.fill)

/-- REMOTE_ACCESS_ARRIVAL: a request reaches its owner (R145, R146, R153); nothing where no such request travels, an
earlier one of its issuer to the same doubleword or of its two stations does, or a router on its way is not awake (R270, R271). One
that waits for a fill which has come to nothing comes to its slice again. -/
def execRemoteAccessArrival (id : Nat) (s : State) : Res :=
  match s.accessAt id with
  | none => .next s
  | some x =>
    if x.stage = .filling then .next (if s.fillUnderWay (x.loc / 64) || s.behindFill x then s else s.atSlice x)
    else if x.stage ≠ .travelling ∨ s.behindOwn x ∨ s.behindWay x ∨ s.routeOpen (s.requestRoute x) = false then .next s
    else
      let s1 := (s.touchRoute (s.requestRoute x)).arriveLast id
      if x.sp = 2 then .next (s1.meetGlobal x (stationOfCore x.reader.core))
      else
        let n := spadNumber x.reader.core x.sp x.va
        .next ((s1.modAccess id (fun y => { y with loc := n })).meetOwner (.bank (n / 2 ^ 18)) { x with loc := n })

/-- Whether an access to another device still waits at its port. -/
def State.unsent (s : State) (id : Nat) : Bool :=
  s.atPort (fun p => match p with | .access _ _ i => i == id | _ => false)

/-- What an access came to: its owner's answer, or what another device answers once the request has been sent (R79, R225,
R288). -/
def State.answerOf (s : State) (x : Access) (ext : ExtAnswer) : Option Answer :=
  match x.stage with
  | .answered f sub info v => some { fault := f, sub := sub, info := info, value := v }
  | .offDevice =>
    if s.unsent x.id then none
    else some { fault := ext.fault, sub := ext.sub, info := 0, value := x.extend ext.data.toNat }
  | _ => none

/-- Whether an answer finds the routers on its way awake; that to an own-scratchpad access takes none (R271, R275). -/
def State.answerWay (s : State) (x : Access) : Bool := x.sp == 0 || s.routeOpen (s.answerRoute x)

/-- An answer has moved along its way, and its access is over. -/
def State.answered (s : State) (x : Access) : State :=
  (if x.sp = 0 then s else s.touchRoute (s.answerRoute x)).dropAccess x.id

/-- REMOTE_ANSWER: the answer completes the waiting access, or its fault is taken (R79); for a halted thread not before it is
resumed (R143, R315). -/
def execRemoteAnswer (id : Nat) (ext : ExtAnswer) (s : State) : Res :=
  match s.accessAt id with
  | none => .next s
  | some x =>
    match x.issuer, s.answerOf x ext with
    | .thread t, some a =>
      if x.counter ≠ 0 ∨ ((s.threadAt t).map Thread.halted).getD false ∨ s.answerWay x = false then .next s
      else if a.fault ≠ 0 then
        .next ((s.answered x).takeTrap t (precise a.fault (BitVec.ofNat 64 x.va) a.sub a.info))
      else if AccessKind.reads x.kind then .next (((s.answered x).setReg t x.rd a.value).finish t 4)
      else .next ((s.answered x).finish t 4)
    | _, _ => .next s

/-- POSTED_STORE_ACK: the acknowledgement lowers the counter; a failure is recorded against it (R80, R221). That of a trace record
on another device ends its write (R307). -/
def execPostedStoreAck (id : Nat) (ext : ExtAnswer) (s : State) : Res :=
  match s.accessAt id with
  | none => .next s
  | some x =>
    match x.issuer, s.answerOf x ext with
    | .thread t, some a =>
      if x.counter = 0 ∨ s.answerWay x = false then .next s
      else
        let f : StoreFailure := { code := a.fault, addr := BitVec.ofNat 64 x.va, pc := x.pc, more := false, scope := s.failScope t x }
        .next ((s.answered x).modThread t (fun th =>
          let th1 := th.setCounter x.counter (th.counter x.counter - 1)
          if a.fault = 0 then th1 else th1.recordFailure x.counter f))
    | .trace _, some a => .next (s.deliver x a)
    | _, _ => .next s

/-- Whether a thread has own slots: it is created, in the rotation, not halted, and its partition runs (R29). -/
def State.hasSlots (s : State) (t : ThreadId) : Bool :=
  s.threadRuns t && s.inRotation t && !((s.threadAt t).map Thread.halted).getD true

/-- Whether the issuer of an access may send it again: a thread only where it has own slots. -/
def State.issuerSlots (s : State) (x : Access) : Bool :=
  match x.issuer with
  | .thread t => s.hasSlots t
  | _ => true

/-- PARK_RETRY: a refused request is sent again in an own slot of its thread (R146). -/
def execParkRetry (id : Nat) (s : State) : Res :=
  match s.accessAt id with
  | none => .next s
  | some x =>
    if x.stage ≠ .refused ∨ s.issuerSlots x = false then .next s
    else if x.sp = 0 then .next (s.meetOwner x.owner x)
    else .next ({ s with nextId := s.nextId + 1 }.modAccess id (fun y => { y with stage := .travelling, sent := s.nextId }))

/-- PARK_CANCEL_ANSWER: the owner's answer to a cancel returns: the request is removed with no effect, and the interrupt
or FETIMEOUT follows, or the Peal goes on; a request that was served stands (R143, R146); while the thread is halted nothing
of this befalls it (R143, R315). The owner may lie on another device (R225). DESIGN CHOICE: R285 lists no packet for a cancel
to or from another device; none is sent, the schedule decides whether the request was served first, and a request that another
device has parked here is not cancelled. -/
def execParkCancelAnswer (id : Nat) (s : State) : Res :=
  match s.accessAt id with
  | none => .next s
  | some x =>
    if x.stage ≠ .parked ∧ x.stage ≠ .offDevice then .next s
    else
      match x.issuer, x.cancel with
      | .thread t, some c =>
        if c ≠ .peal ∧ ((s.threadAt t).map Thread.halted).getD false then .next s
        else
        let s0 := if x.stage = .parked then
            (s.setPark x.owner ((s.parkOf x.owner).filter (· != id))).serveWord x.owner x.loc
          else s
        let s1 := s0.dropAccess id
        match c with
        | .timeout => .next (s1.takeTrap t (precise 8 (BitVec.ofNat 64 x.va) 0 0))
        | .interrupt =>
          let s2 := s1.modThread t (fun th => { th with wait := none })
          match s2.threadAt t with
          | none => .next s2
          | some th => .next ((s2.tryInterrupt t th).getD s2)
        | .peal => .next (s1.modThread t (fun th => { th with wait := none }))
      | _, _ => .next s

/-- FETIMEOUT: past the context's retry limit a cancel goes to the owner; a request that is held nowhere faults at once
(R146). Ticks of a halt do not count. -/
def execFetimeout (id : Nat) (s : State) : Res :=
  match s.accessAt id with
  | none => .next s
  | some x =>
    match x.issuer with
    | .pod _ _ _ => .next s
    | .front _ _ => .next s
    | .trace _ => .next s
    | .fetch _ => .next s
    | .thread t =>
      match s.threadAt t with
      | none => .next s
      | some th =>
        let limit := ((s.ctxAt x.ctx).map Context.retry).getD 0
        if limit = 0 ∨ s.time.toNat - x.issued ≤ limit ∨ th.halted ∨ s.threadRuns t = false ∨
            AccessKind.parks x.kind = false then .next s
        else if x.stage = .refused then
          .next ((s.dropAccess id).takeTrap t (precise 8 (BitVec.ofNat 64 x.va) 0 0))
        else if (x.stage = .parked ∨ x.stage = .offDevice) ∧ x.cancel = none then
          .next (s.modAccess id (fun y => { y with cancel := some .timeout }))
        else .next s

/-- A held access walks its page again, where the routers on the walk's way are awake (R229, R271). -/
def State.rewalk (s : State) (x : Access) : State :=
  let st := stationOfCore x.reader.core
  let way := s.walkRoute st x.ctx x.va
  if s.routeOpen way then (s.touchRoute way).meetGlobal x st else s

/-- MOVING_REWALK: a held access walks its page again every 1,024 ticks, in arrival order; one held 76,000 ticks fails
(R229). -/
def execMovingRewalk (id : Nat) (s : State) : Res :=
  match s.accessAt id with
  | none => .next s
  | some x =>
    match x.stage with
    | .held since =>
      if s.time.toNat < since + 1024 then .next s
      else if since + 76000 ≤ s.time.toNat then .next (s.deliver x (.bad 5 3 0))
      else .next (s.rewalk x)
    | _ => .next s

/-- MOVING_TIMEOUT: an access held 76,000 ticks fails with XLATE reason 3 (R229). -/
def execMovingTimeout (id : Nat) (s : State) : Res :=
  match s.accessAt id with
  | none => .next s
  | some x =>
    match x.stage with
    | .held since => if s.time.toNat < since + 76000 then .next s else .next (s.deliver x (.bad 5 3 0))
    | _ => .next s

/-- The accesses that wait at a line reach their owner, in arrival order (R145, R279). -/
def State.afterFill (s : State) (line : Nat) : List Access → State
  | [] => s
  | x :: r =>
    if x.stage = .filling ∧ x.loc / 64 = line then
      (s.meetOwner (.slice (homeStation x.loc)) x).afterFill line r
    else s.afterFill line r

/-- A line whose fill has returned: the words that no store has written become valid (R279). -/
def SliceLine.filled (x : SliceLine) : SliceLine := { x with valid := 0xFF, fill := false }

/-- A fill returns before another agent's access to its line is performed, where accesses wait for it: those arrived earlier (R145,
R188). -/
def State.settleFills (s : State) (pa n : Nat) : State :=
  (linesOf pa n).foldl (fun s line =>
    if s.accesses.any (fun x => x.stage == .filling && x.loc / 64 == line) then
      (s.modStation (homeStation (line * 64)) (fun k =>
        { k with slice := k.slice.map (fun x => if x.line == line then x.filled else x) })).afterFill line s.accesses
    else s) s

/-- SLICE_FILL: a fill that is under way returns (R279). -/
def execSliceFill (station line : Nat) (s : State) : Res :=
  if (s.stationAt station).slice.any (fun x => x.line == line && x.fill) then
    .next ((s.modStation station (fun k =>
      { k with slice := k.slice.map (fun x => if x.line == line then x.filled else x) })).afterFill line s.accesses)
  else .next s

/-! ### Reads and writes of the device's own parts -/

/-- Code 0 stands for a page held under R229. A supervisor-mode read of global memory by a part of the device that carries a
context's tag: the dispatch controller and the queue front end (R37, R297). -/
def State.readVirtual (s : State) (who : HeldBy) (st ctx tag va n : Nat) (user : Bool) : Except Nat (List Byte) × State :=
  match s.region va with
  | .paged =>
    match s.translateIn who st ctx va .load user false with
    | (.pa pa, s1) =>
      let s2 := (((s1.settleFills pa n).foldRange pa n).findErrors pa n ctx 0xFFFFFFFF#32).sliceTouch pa n false false
      (s2.tagRead tag pa n, s2)
    | (.held, s1) => (.error 0, s1)
    | (.fault code _ _, s1) => (.error code, s1)
  | .outside => (.error 5, s)
  | _ => (.error 6, s)

/-- The same for a write: an error leaves the state of its translation. `strict` asks that a poisoned line fails it, as it does a
SIGNAL (R297). -/
def State.writeVirtual (s : State) (who : HeldBy) (st ctx tag va : Nat) (bs : List Byte) (user strict : Bool) :
    Except Nat State × State :=
  match s.region va with
  | .paged =>
    match s.translateIn who st ctx va .store user false with
    | (.pa pa, s1) =>
      let s2 := ((s1.settleFills pa bs.length).foldRange pa bs.length).sliceTouch pa bs.length true false
      if strict && (linesOf pa bs.length).any (fun l => s2.phys.poison.contains l) && !s2.writeRefused tag pa bs.length then (.error 10, s1)
      else (s2.tagWrite tag pa bs ctx 0xFFFFFFFF#32, s1)
    | (.held, s1) => (.error 0, s1)
    | (.fault code _ _, s1) => (.error code, s1)
  | .outside => (.error 5, s)
  | _ => (.error 6, s)

/-! ### Own scratchpad -/

/-- An access to the executing thread's own scratchpad: complete before its next own slot, or parked (R145, R153); behind a
posted store of the thread to the same doubleword it waits (R173). -/
def State.ownAccess (s : State) (t : ThreadId) (x : Access) : State :=
  let y := { x with id := s.nextId, loc := spadNumber t.core 0 x.va }
  if s.posting t (0, y.loc / 8) then s.waitFor t (.behind 0 (y.loc / 8))
  else (s.sendAccess y |>.waitFor t (.answer s.nextId)).meetOwner (.bank t.core) y

end Sys2Proof.Machine
end

