-- ==== Sys2Proof/Machine/Barrel.lean ====
section
/-! DEFINITION. The barrel of a core: slot classes, rotation length, the instruction cache and its fills (03_execution
R30, R32, 09_scalar R139, 17_traps R225 to R231). -/

namespace Sys2Proof.Machine

/-- The line of an address. -/
def lineBase (a : Nat) : Nat := a / 64 * 64

/-- An instruction cache with a line used: in front, its context's older copy gone, at most four lines to a set (R139). -/
def icacheUse (l : List ICacheLine) (x : ICacheLine) : List ICacheLine :=
  let rest := l.filter (fun y => !(y.ctx == x.ctx && y.base == x.base))
  let inSet (y : ICacheLine) : Bool := y.base / 64 % 128 == x.base / 64 % 128
  x :: (if 4 ≤ (rest.filter inSet).length then
      match takeFirst inSet rest.reverse with
      | none => rest
      | some (_, r) => r.reverse
    else rest)

/-- The class of a waiting thread (R32). -/
def Wait.slotClass : Wait → SlotClass
  | .counters _ | .counterRoom _ | .release _ | .answer _ | .line _ _ | .tile _ | .held _ | .behind _ _ | .xlat _ | .array _ _ _ |
    .spread _ | .arrayRoom _ | .way _ => .mem
  | _ => .msg

/-- The class of a slot as it stands (R32). -/
def State.slotClassOf (s : State) (t : ThreadId) : SlotClass :=
  match s.threadAt t with
  | none => .vacant
  | some th =>
    if th.halted || th.win.lent then .vacant
    else
      match th.wait with
      | none => .issued
      | some w => w.slotClass

/-! ### Rotation length (R30) -/

/-- ROT_LENGTH_CHANGE: behind the last position of a rotation, a written length takes effect and the rotation starts at
position 0 (R30); nothing elsewhere. -/
def execRotLengthChange (core : Nat) (s : State) : Res :=
  let k := s.coreAt core
  match k.rotNext with
  | none => .next s
  | some n =>
    if k.position < rotLength k.rotLen then .next s
    else .next (s.setCore core { k with rotLen := n, rotNext := none, position := 0 })

/-! ### Instruction lines (R139) -/

/-- The address that a fetch fault reports: the PC for its own line, the base for the line of a second word. -/
def fetchAddress (pc : Word) (base : Nat) : Word := if lineBase pc.toNat = base then pc else BitVec.ofNat 64 base

/-- A fault of a line fetch, taken if the thread still waits for the line. -/
def State.fetchFault (s : State) (t : ThreadId) (th : Thread) (base code sub info : Nat) : State :=
  s.takeTrap t (precise code (fetchAddress th.pc base) sub info)

/-- A line arrives: it enters the core's cache and, where it holds the PC, the thread's fetch register. -/
def State.lineArrives (s : State) (t : ThreadId) (th : Thread) (base : Nat) (bs : List Byte) : State :=
  (s.modCore t.core (fun k => { k with icache := icacheUse k.icache { ctx := th.ctxId.toNat, base := base, bytes := bs } })).modThread
    t (fun th => { th with
      wait := none
      fetch := if lineBase th.pc.toNat = base then some { base := base, bytes := bs } else th.fetch })

/-- A line of device memory at its home slice: a line under another key tag is PROT with sub 7, a poisoned one PARITY with
sub 3 (R227, R231, R318). -/
def State.lineFrom (s : State) (t : ThreadId) (th : Thread) (base pa : Nat) : State :=
  let s1 := (((s.settleFills pa 64).foldRange pa 64).findErrors pa 64 th.ctxId.toNat (BitVec.ofNat 32 (s.place t))).sliceTouch
    pa 64 false false
  match s1.tagRead th.ctxTag.toNat pa 64 with
  | .ok bs => s1.lineArrives t th base bs
  | .error code => if code = 11 then s1.fetchFault t th base 6 7 0 else s1.fetchFault t th base 20 3 0

/-- A line of the device's own memory: its page's walk, held or not, and its home slice (R225, R229); nothing while a router on the
way is not awake (R271, R275). -/
def State.lineHere (s : State) (t : ThreadId) (th : Thread) (base : Nat) (held : Option Nat) : State :=
  let route := s.memRoute (stationOfCore t.core) th.ctxId.toNat base
  if (held.map (fun since => decide (since + 76000 ≤ s.time.toNat))).getD false then s.fetchFault t th base 5 3 0
  else if !s.routeOpen route then s
  else
    match (s.touchRoute route).translateIn (.line t) (stationOfCore t.core) th.ctxId.toNat base .fetch (th.status.mode == .user)
      false with
    | (.fault code sub info, s1) => s1.fetchFault t th base code sub info
    | (.pa pa, s1) => s1.lineFrom t th base pa
    | (.held, s1) => if held.isSome then s1 else s1.waitFor t (.line base (some s.time.toNat))

/-- Asks another device for a line of its memory: a load of 64 bytes (R139, R285). What was asked for a line that the thread does
not wait for any more is forgotten. -/
def State.askLine (s : State) (device : Nat) (t : ThreadId) (th : Thread) (base : Nat) : State :=
  let x : Access :=
    { Access.make t th .load 2 base 64 0 0 0 false false 0 s.time with
      id := s.nextId, issuer := .fetch t, stage := .offDevice, port := s.granulePort device base }
  (({ s with accesses := s.accesses.filter (fun y => y.issuer != .fetch t) } : State).sendAccess x).sendAccessPacket device x

/-- A line of another device's memory: it is asked for once, then its answer is awaited; without a port LINK (R139, R285, R288). -/
def State.lineThere (s : State) (device : Nat) (t : ThreadId) (th : Thread) (base : Nat) (ext : ExtAnswer) : State :=
  match s.accesses.find? (fun x => x.issuer == .fetch t && x.va == base) with
  | none => if s.linked device then s.askLine device t th base else s.fetchFault t th base 17 0 0
  | some x =>
    match s.answerOf x ext with
    | none => s
    | some a =>
      if a.fault ≠ 0 then (s.dropAccess x.id).fetchFault t th base a.fault a.sub 0
      else (s.dropAccess x.id).lineArrives t th base ((ext.bytes ++ List.replicate 64 0).take 64)

/-- IFETCH_LINE_FILL: the line that a thread waits for arrives, or its fetch faults (R139, R225, R227, R229, R231); for a halted
thread not before it is resumed (R143, R315). -/
def execIfetchLineFill (t : ThreadId) (ext : ExtAnswer) (s : State) : Res :=
  match s.threadAt t with
  | none => .next s
  | some th =>
    match (if th.halted then none else th.wait) with
    | some (.line base held) =>
      match s.region base with
      | .discovery => .next (s.fetchFault t th base 6 6 0)
      | .control => .next (s.fetchFault t th base 6 6 0)
      | .hostWindow => .next (s.fetchFault t th base 6 5 0)
      | .outside => .next (s.fetchFault t th base 5 4 0)
      | .remote d => .next (s.lineThere d t th base ext)
      | .paged => .next (s.lineHere t th base held)
    | _ => .next s

end Sys2Proof.Machine
end

