-- ==== Sys2Proof/WellFormed.lean ====
section
/-! DEFINITION. Which instructions the encoding space admits: the checks of 05_encoding R62 to R66 that the fields
alone decide, and the number ranges of the build (00_scope R2) for the steps without an encoding. -/

namespace Sys2Proof

/-- Why an instruction is not well formed (R66). -/
inductive FieldError where
  /-- sp = 11, or lu = 1 with sp other than 10. -/
  | space
  /-- A rounding code of 5 or 6. -/
  | rounding
  /-- An fcvt type pair outside R62. -/
  | fcvtPair
  /-- pos + len above 64. -/
  | bitField
  /-- A waitk mask of zero. -/
  | waitkMask
  /-- cas with rt odd or zero. -/
  | casRegister
  /-- A slot field above 63. -/
  | slot
  /-- A tile field above 15. -/
  | tile
  /-- fcmp condition above 3, or send wire format 7. -/
  | code
  /-- A core, slot, station, queue, port or other number outside the build (R2). -/
  | number
  deriving DecidableEq, Repr

/-- A check that names what it refuses. -/
def require (ok : Bool) (e : FieldError) : Option FieldError := if ok then none else some e

/-- R58, R66. -/
def MemOp.check (m : MemOp) : Option FieldError :=
  require (m.sp != 3 && (!m.lu || m.sp == 2)) .space

/-- R59, R66. -/
def AmoOp.check (m : AmoOp) : Option FieldError := require (m.sp != 3) .space

/-- R63, R66: cas needs an even, nonzero rt. -/
def AmoOp.checkCas (m : AmoOp) : Option FieldError :=
  (require (m.t.toNat % 2 == 0 && m.t != 0) .casRegister).or m.check

/-- R61, R66. -/
def checkRounding (rm : BitVec 3) : Option FieldError := require (rm != 5 && rm != 6) .rounding

/-- Codes 4 to 7 of R62 are integer types. -/
def isIntType (c : BitVec 4) : Bool := 4 ≤ c.toNat && c.toNat ≤ 7

/-- R62: destination and source differ, one is a floating-point type, codes 10 and 11 are destinations only. -/
def FV.check (f : FV) : Option FieldError :=
  (require (decide (f.dt.toNat < 12) && decide (f.st.toNat < 10) && f.dt != f.st &&
    !(isIntType f.dt && isIntType f.st)) .fcvtPair).or (checkRounding f.rm)

/-- R66: pos + len at most 64. -/
def RF.check (f : RF) : Option FieldError := require (f.pos.toNat + f.lenm1.toNat + 1 ≤ 64) .bitField

/-- R65. -/
def checkSlot (r : Reg) : Option FieldError := require (decide (r.toNat < 64)) .slot

/-- R65. -/
def checkTile (r : Reg) : Option FieldError := require (decide (r.toNat < 16)) .tile

/-- R2, R26: a core of the package and one of its slots. -/
def ThreadId.check (t : ThreadId) : Option FieldError :=
  require (decide (t.core < 768) && decide (t.slot < 64)) .number

/-- A number below a bound of the build. -/
def below (n bound : Nat) : Option FieldError := require (decide (n < bound)) .number

/-- The first check of R62 to R66 that an instruction fails. -/
def Instr.fieldError : Instr → Option FieldError
  | .bfx f | .bfxu f | .bfi f => f.check
  | .fadd f | .fsub f | .fmul f | .fma f | .fdiv f => checkRounding f.rm
  | .fsqrt f | .fround f => checkRounding f.rm
  | .fcmp _ c => require (decide (c.toNat < 4)) .code
  | .fcvt f => f.check
  | .ldB m | .ldH m | .ldW m | .ldD m | .ldBu m | .ldHu m | .ldWu m
  | .stB m | .stH m | .stW m | .stD m
  | .ldfe m | .ldff m | .stfe m | .stf m | .fest m => m.check
  | .amoAdd m | .amoAnd m | .amoOr m | .amoXor m | .amoMin m | .amoMax m | .amoMinu m | .amoMaxu m
  | .amoSwap m | .famoFadd m | .famoFmin m | .famoFmax m => m.check
  | .cas m => m.checkCas
  | .waitk k => require (k != 0) .waitkMask
  | .send _ _ w => require (w != 7) .code
  | .mclaim r | .mrel r => checkSlot r
  | .mmul x | .mslice x => (checkTile x.c).or (checkSlot x.a)
  | .mmulLong x | .msliceLong x => (checkTile x.c).or (checkSlot x.a)
  | .mzero r => checkTile r
  | .mrdacc _ t _ => checkTile t
  | .mwracc t _ _ => checkTile t
  | .mstat _ t => checkTile t
  | .taskPlacement s | .mcurAbort s | .msliceAbortStop s | .routerPowerDown s | .routerWake s => below s 96
  | .sliceFill s _ | .timedCommandStart s _ | .copyEngineCompletion s _ _
  | .arrayCommandStart s _ | .arrayCommandCompletion s _ => below s 96
  | .priorityAging c | .peal c | .timerExpiry c | .remapComplete c
  | .knellRead c | .migrateRead c | .hostRead c => below c 64
  | .remap c _ | .timerWrite c _ => below c 64
  | .stepTimeout t | .interruptEntry t | .attimeReached t | .tileRequestRetry t => t.check
  | .ifetchLineFill t _ | .segredCountResult t _ | .mstatResult t _ => t.check
  | .rotLengthChange c | .rowCommandStart c | .rowCommandCompletion c _ | .heartbeat c
  | .coreStateStop c _ | .coreLost c | .traceSample c => below c 768
  | .qtailDoorbell q _ | .qbaseWrite q _ => below q 256
  | .qstatRead q | .launch q | .signal q | .wait q | .waitPoll q | .halt q | .resume q | .dbgStep q
  | .rdreg q | .wrreg q | .rdspad q | .wrspad q | .setbp q | .setwp q | .count q | .trace q | .flush q =>
    below q 256
  | .migrationStart c _ | .migrationComplete c => below c 4
  | .portFailed p | .timeLock p => below p 24
  | .linkFlit f => below f.port 24
  | .thermalThrottle r | .thermalRecover r | .powerChangeComplete r => below r 4
  | _ => none

/-- A well-formed instruction passes every check. -/
def Instr.wf (i : Instr) : Bool := i.fieldError.isNone

end Sys2Proof
end

