-- ==== Sys2Proof/Decode.lean ====
section
/-! DEFINITION. Decoding of instruction words by the opcode map (05_encoding R55 to R66), total and rejecting by name,
and the encoder written from the same tables. -/

namespace Sys2Proof

open Sys2Proof.Machine

/-- Why a word is no instruction (R66). -/
inductive DecodeError where
  /-- Fewer bytes than the instruction has. -/
  | tooShort
  /-- An unassigned major, 0x00 included. -/
  | major
  /-- An fn, kind, aop or sub value that R60 to R64 do not assign. -/
  | function
  /-- A nonzero field that the form does not use. -/
  | reserved
  /-- A field value that R62 to R66 refuse. -/
  | field (e : FieldError)
  deriving DecidableEq, Repr

/-- The register field [24:18] (R56). -/
def fd (w : Nat) : Reg := BitVec.ofNat 7 (w / 2 ^ 18)
/-- The register field [17:11] (R56). -/
def fa (w : Nat) : Reg := BitVec.ofNat 7 (w / 2 ^ 11)
/-- The register field [10:4] (R56). -/
def fb (w : Nat) : Reg := BitVec.ofNat 7 (w / 2 ^ 4)
/-- fn, or the Chime line: [3:0] (R56). -/
def ffn (w : Nat) : Nat := w % 16
/-- imm[10:0] (R56). -/
def fimm (w : Nat) : Nat := w % 2048

/-- The bundles of the formats, as R56 lays their fields out. -/
def r3Of (w : Nat) : R3 := { d := fd w, a := fa w, b := fb w }
def r2Of (w : Nat) : R2 := { d := fd w, a := fa w }
def riOf (w : Nat) : RI := { d := fd w, a := fa w, imm := BitVec.ofNat 11 w }
def rsOf (w : Nat) : RS := { d := fd w, a := fa w, n := BitVec.ofNat 6 w }
def rjOf (w : Nat) : RJ := { d := fd w, off := BitVec.ofNat 18 w }
def rbOf (w : Nat) : RB := { a := fd w, b := fa w, off := BitVec.ofNat 11 w }
/-- op[25] holds pos[5], imm[10:6] holds pos[4:0], imm[5:0] holds len - 1 (R60). -/
def rfOf (w : Nat) : RF :=
  { d := fd w, a := fa w, pos := BitVec.ofNat 6 (w / 2 ^ 25 % 2 * 32 + w / 2 ^ 6 % 32), lenm1 := BitVec.ofNat 6 w }
def f3Of (w : Nat) : F3 := { d := fd w, a := fa w, b := fb w, dbl := bitAt w 3, rm := BitVec.ofNat 3 w }
def f2Of (w : Nat) : F2 := { d := fd w, a := fa w, dbl := bitAt w 3, rm := BitVec.ofNat 3 w }
def fcOf (w : Nat) : FC := { d := fd w, a := fa w, b := fb w, dbl := bitAt w 3 }
def fkOf (w : Nat) : FK := { d := fd w, a := fa w, dbl := bitAt w 3 }
def fvOf (w : Nat) : FV :=
  { d := fd w, a := fa w, dt := BitVec.ofNat 4 (w / 2 ^ 7), st := BitVec.ofNat 4 (w / 2 ^ 3), rm := BitVec.ofNat 3 w }
def memOf (w : Nat) : MemOp :=
  { t := fd w, a := fa w, off := BitVec.ofNat 6 (w / 2 ^ 5), sp := BitVec.ofNat 2 (w / 2 ^ 3), lu := bitAt w 2,
    wk := BitVec.ofNat 2 w }
/-- The size is op[0], which is bit 25 (R60). -/
def amoOf (w : Nat) : AmoOp :=
  { wide := bitAt w 25, t := fd w, a := fa w, ord := BitVec.ofNat 2 (w / 2 ^ 5), sp := BitVec.ofNat 2 (w / 2 ^ 3),
    scope := BitVec.ofNat 3 w }
def xcOf (w : Nat) : XC := { c := fd w, a := fa w, b := fb w, ev := BitVec.ofNat 4 w }
def x2Of (w : Nat) : X2 := { a := fa w, b := fb w, ev := BitVec.ofNat 4 w }
def rlOf (w w2 : Nat) : RL := { d := fd w, a := fa w, imm := BitVec.ofNat 32 w2 }
def xlOf (w w2 : Nat) : XL := { c := fd w, a := fa w, ev := BitVec.ofNat 4 w, imm := BitVec.ofNat 32 w2 }
def x2lOf (w w2 : Nat) : X2L := { a := fa w, ev := BitVec.ofNat 4 w, imm := BitVec.ofNat 32 w2 }

/-- The k-th meaning of a field, or an unassigned value. -/
def pick {α : Type} (l : List α) (k : Nat) : Except DecodeError α :=
  match l[k]? with
  | some x => .ok x
  | none => .error .function

/-- Fields that a form does not use must be zero (R66). -/
def zeroed (fields : List Nat) (i : Instr) : Except DecodeError Instr :=
  if fields.all (· == 0) then .ok i else .error .reserved

/-- R format, fn selecting among instructions that use rd, ra and rb. -/
def pickR3 (w : Nat) (l : List (R3 → Instr)) : Except DecodeError Instr :=
  (pick l (ffn w)).map (fun k => k (r3Of w))

/-- R format, fn selecting among instructions that use rd and ra; rb is reserved. -/
def pickR2 (w : Nat) (l : List (R2 → Instr)) : Except DecodeError Instr :=
  (pick l (ffn w)).bind (fun k => zeroed [(fb w).toNat] (k (r2Of w)))

/-- Majors 0x7C, 0x52, 0x51 and the like: each fn names its own used fields; the rest must be zero. -/
def pickOwn (w : Nat) (l : List (List Nat × Instr)) : Except DecodeError Instr :=
  (pick l (ffn w)).bind (fun k => zeroed k.1 k.2)

/-- Floating-point R forms without a rounding field: fn[2:0] selects (R118 to R121). -/
def pickFc (w : Nat) (l : List (FC → Instr)) : Except DecodeError Instr :=
  (pick l (ffn w % 8)).map (fun k => k (fcOf w))

/-- The majors with long forms (R64): major minus 0x58, and the command that the first word and imm32 give. -/
def longCommand (m w w2 : Nat) : Except DecodeError Instr :=
  match m with
  | 0x01 => .ok (.gatherLong (xlOf w w2))
  | 0x02 => .ok (.scatterLong (xlOf w w2))
  | 0x03 => .ok (.scaddLong (xlOf w w2))
  | 0x04 => .ok (.dedupLong (xlOf w w2))
  | 0x05 => .ok (.segredLong (xlOf w w2))
  | 0x06 => .ok (.isectLong (xlOf w w2))
  | 0x07 => .ok (.rowgetLong (xlOf w w2))
  | 0x08 => .ok (.rowputLong (xlOf w w2))
  | 0x09 => .ok (.rowaddLong (xlOf w w2))
  | 0x0A => .ok (.rowaxpyLong (xlOf w w2))
  | 0x0B => .ok (.rowscaleLong (xlOf w w2))
  | 0x0C => .ok (.rowdotLong (xlOf w w2))
  | 0x0D => zeroed [(fd w).toNat] (.rowcvtLong (x2lOf w w2))
  | 0x0E => zeroed [(fd w).toNat] (.rowzeroLong (x2lOf w w2))
  | 0x0F => zeroed [(fd w).toNat] (.rowcopyLong (x2lOf w w2))
  | 0x10 => .ok (.rowtopkLong (xlOf w w2))
  | 0x16 => .ok (.mloadLong (xlOf w w2))
  | 0x17 => .ok (.msplitLong (xlOf w w2))
  | 0x18 => .ok (.mmulLong (xlOf w w2))
  | 0x19 => .ok (.msliceLong (xlOf w w2))
  | 0x1A => zeroed [(fd w).toNat] (.mcombLong (x2lOf w w2))
  | 0x1C => .ok (.mdrainLong (xlOf w w2))
  | _ => .error .function

/-- R64: sub[10] = 0 names a scalar operation, sub[10] = 1 an engine command. -/
def decodeLong (w w2 : Nat) : Except DecodeError Instr :=
  if fimm w / 1024 = 1 then longCommand (fimm w % 1024 / 16) w w2
  else
    match fimm w with
    | 1 => .ok (.addiLong (rlOf w w2))
    | 2 => .ok (.andiLong (rlOf w w2))
    | 3 => .ok (.oriLong (rlOf w w2))
    | 4 => .ok (.xoriLong (rlOf w w2))
    | 5 => .ok (.sltiLong (rlOf w w2))
    | 6 => .ok (.sltiuLong (rlOf w w2))
    | 7 => zeroed [(fa w).toNat] (.luiH (fd w) (BitVec.ofNat 32 w2))
    | _ => .error .function

/-- The opcode map of R60 for the first 48 majors: scalar, floating point and branches. -/
def decodeLow (op w : Nat) : Except DecodeError Instr :=
  match op with
  | 0x01 => pickR3 w [.add, .sub, .mul, .mulh, .mulhu, .mulhsu, .madd, .div, .divu, .rem, .remu]
  | 0x02 => pickR3 w [.and, .or, .xor, .andn, .orn]
  | 0x03 => pickR3 w [.shl, .shr, .sar, .rotl]
  | 0x04 => pickR3 w [.min, .max, .minu, .maxu, .slt, .sltu, .sel]
  | 0x05 => pickR2 w [.clz, .ctz, .popc, .bswap, .sextB, .sextH, .sextW, .zextB, .zextH, .zextW]
  | 0x06 => pickR3 w [.hashm]
  | 0x07 => .ok (.addi (riOf w))
  | 0x08 => .ok (.andi (riOf w))
  | 0x09 => .ok (.ori (riOf w))
  | 0x0A => .ok (.xori (riOf w))
  | 0x0B => .ok (.slti (riOf w))
  | 0x0C => .ok (.sltiu (riOf w))
  | 0x0D => (pick [Instr.shli, .shri, .sari, .rotli] (fimm w / 256)).bind
      (fun k => zeroed [fimm w / 64 % 4] (k (rsOf w)))
  | 0x0E => .ok (.lui (rjOf w))
  | 0x0F => .ok (.addpc (rjOf w))
  | 0x10 => .ok (.bfx (rfOf w))
  | 0x11 => .ok (.bfx (rfOf w))
  | 0x12 => .ok (.bfxu (rfOf w))
  | 0x13 => .ok (.bfxu (rfOf w))
  | 0x14 => .ok (.bfi (rfOf w))
  | 0x15 => .ok (.bfi (rfOf w))
  | 0x20 => .ok (.fadd (f3Of w))
  | 0x21 => .ok (.fsub (f3Of w))
  | 0x22 => .ok (.fmul (f3Of w))
  | 0x23 => .ok (.fma (f3Of w))
  | 0x24 => .ok (.fdiv (f3Of w))
  | 0x25 => zeroed [(fb w).toNat] (.fsqrt (f2Of w))
  | 0x26 => pickFc w [.fmin, .fmax, .fsgn]
  | 0x27 => .ok (.fcmp (fcOf w) (BitVec.ofNat 3 w))
  | 0x28 => (pick [Instr.fclass] (ffn w % 8)).bind (fun k => zeroed [(fb w).toNat] (k (fkOf w)))
  | 0x29 => .ok (.fcvt (fvOf w))
  | 0x2A => zeroed [(fb w).toNat] (.fround (f2Of w))
  | 0x2C => .ok (.bl (rjOf w))
  | 0x2D => pickOwn w [([(fd w).toNat, (fb w).toNat], .jr (fa w)), ([(fb w).toNat], .jlr (r2Of w))]
  | 0x2E => .ok (.beq (rbOf w))
  | 0x2F => .ok (.bne (rbOf w))
  | 0x30 => .ok (.blt (rbOf w))
  | 0x31 => .ok (.bge (rbOf w))
  | 0x32 => .ok (.bltu (rbOf w))
  | 0x33 => .ok (.bgeu (rbOf w))
  | _ => .error .major

/-- The opcode map of R60 for majors 0x34 to 0x58: windows, memory, synchronisation, messages, tables. -/
def decodeMid (op w : Nat) : Except DecodeError Instr :=
  match op with
  | 0x34 => pickR2 w [.xborrow]
  | 0x35 => pickOwn w [([(fd w).toNat, (fa w).toNat, (fb w).toNat], .xreturn)]
  | 0x36 => pickR2 w [.xget]
  | 0x37 => pickOwn w [([(fb w).toNat], .xput (fd w) (fa w))]
  | 0x38 => .ok (.ldB (memOf w))
  | 0x39 => .ok (.ldH (memOf w))
  | 0x3A => .ok (.ldW (memOf w))
  | 0x3B => .ok (.ldD (memOf w))
  | 0x3C => .ok (.ldBu (memOf w))
  | 0x3D => .ok (.ldHu (memOf w))
  | 0x3E => .ok (.ldWu (memOf w))
  | 0x3F => .ok (.stB (memOf w))
  | 0x40 => .ok (.stH (memOf w))
  | 0x41 => .ok (.stW (memOf w))
  | 0x42 => .ok (.stD (memOf w))
  | 0x43 => .ok (.ldfe (memOf w))
  | 0x44 => .ok (.ldff (memOf w))
  | 0x45 => .ok (.stfe (memOf w))
  | 0x46 => .ok (.stf (memOf w))
  | 0x47 => .ok (.fest (memOf w))
  | 0x48 => (pick [Instr.amoAdd, .amoAnd, .amoOr, .amoXor, .amoMin, .amoMax, .amoMinu, .amoMaxu, .amoSwap, .cas]
      (fimm w / 128)).map (fun k => k (amoOf w))
  | 0x49 => (pick [Instr.amoAdd, .amoAnd, .amoOr, .amoXor, .amoMin, .amoMax, .amoMinu, .amoMaxu, .amoSwap, .cas]
      (fimm w / 128)).map (fun k => k (amoOf w))
  | 0x4A => (pick [Instr.famoFadd, .famoFmin, .famoFmax] (fimm w / 128)).map (fun k => k (amoOf w))
  | 0x4B => (pick [Instr.famoFadd, .famoFmin, .famoFmax] (fimm w / 128)).map (fun k => k (amoOf w))
  | 0x4C => (pick [Instr.fence, .fenceSc] (ffn w / 8)).bind
      (fun k => zeroed [(fd w).toNat, (fa w).toNat, (fb w).toNat] (k (BitVec.ofNat 3 w)))
  | 0x4D => zeroed [(fd w).toNat, (fa w).toNat, (fb w).toNat, ffn w / 8] (.waitk (BitVec.ofNat 3 w))
  | 0x4E => pickR3 w [.scope]
  | 0x4F => (pick [Instr.semp, .semv] (fimm w / 512)).bind
      (fun k => zeroed [(fd w).toNat, (fa w).toNat, fimm w / 64 % 8] (k (BitVec.ofNat 6 w)))
  | 0x50 => (pick [([(fd w).toNat, (fa w).toNat, fimm w / 64 % 4], Instr.bar (BitVec.ofNat 3 (w / 8)) (BitVec.ofNat 3 w)),
      ([(fd w).toNat, (fa w).toNat, fimm w % 256], .step)] (fimm w / 256)).bind (fun k => zeroed k.1 k.2)
  | 0x51 => pickOwn w [([(fa w).toNat, (fb w).toNat], .rdtime (fd w)), ([(fd w).toNat, (fb w).toNat], .attime (fa w))]
  | 0x52 => pickOwn w [([(fd w).toNat, (fa w).toNat, (fb w).toNat], .waitw),
      ([(fd w).toNat, (fa w).toNat, (fb w).toNat], .done), ([(fd w).toNat, (fa w).toNat, (fb w).toNat], .trig),
      ([(fd w).toNat], .post (fa w) (fb w))]
  | 0x53 => pickOwn w [([(fd w).toNat, (fb w).toNat], .evwait (fa w)), ([(fb w).toNat], .evpoll (r2Of w)),
      ([(fd w).toNat, (fb w).toNat], .evclr (fa w))]
  | 0x54 => pickOwn w [([(fa w).toNat, (fb w).toNat], .popr (fd w)), ([(fa w).toNat, (fb w).toNat], .peekr (fd w))]
  | 0x55 => zeroed [(fd w).toNat, ffn w / 8] (.send (fa w) (fb w) (BitVec.ofNat 3 w))
  | 0x56 => pickR2 w [.recv]
  | 0x58 => pickOwn w [([(fd w).toNat], .tbldef (fa w) (fb w)), ([(fd w).toNat, (fb w).toNat], .tblinv (fa w)),
      ([], .shardof (r3Of w))]
  | _ => .error .major

/-- The opcode map of R60 for majors 0x59 to 0x7E: engines, slice array and system. -/
def decodeHigh (op w : Nat) : Except DecodeError Instr :=
  match op with
  | 0x59 => .ok (.gather (xcOf w))
  | 0x5A => .ok (.scatter (xcOf w))
  | 0x5B => .ok (.scadd (xcOf w))
  | 0x5C => .ok (.dedup (xcOf w))
  | 0x5D => .ok (.segred (xcOf w))
  | 0x5E => .ok (.isect (xcOf w))
  | 0x5F => .ok (.rowget (xcOf w))
  | 0x60 => .ok (.rowput (xcOf w))
  | 0x61 => .ok (.rowadd (xcOf w))
  | 0x62 => .ok (.rowaxpy (xcOf w))
  | 0x63 => .ok (.rowscale (xcOf w))
  | 0x64 => .ok (.rowdot (xcOf w))
  | 0x65 => zeroed [(fd w).toNat] (.rowcvt (x2Of w))
  | 0x66 => zeroed [(fd w).toNat] (.rowzero (x2Of w))
  | 0x67 => zeroed [(fd w).toNat] (.rowcopy (x2Of w))
  | 0x68 => .ok (.rowtopk (xcOf w))
  | 0x6C => zeroed [(fa w).toNat, (fb w).toNat, ffn w] (.mclaim (fd w))
  | 0x6D => zeroed [(fa w).toNat, (fb w).toNat, ffn w] (.mrel (fd w))
  | 0x6E => .ok (.mload (xcOf w))
  | 0x6F => .ok (.msplit (xcOf w))
  | 0x70 => .ok (.mmul (xcOf w))
  | 0x71 => .ok (.mslice (xcOf w))
  | 0x72 => zeroed [(fd w).toNat] (.mcomb (x2Of w))
  | 0x73 => zeroed [(fa w).toNat, (fb w).toNat, ffn w] (.mzero (fd w))
  | 0x74 => .ok (.mdrain (xcOf w))
  | 0x75 => zeroed [ffn w] (.mrdacc (fd w) (fa w) (fb w))
  | 0x76 => zeroed [ffn w] (.mwracc (fd w) (fa w) (fb w))
  | 0x77 => zeroed [(fb w).toNat, ffn w] (.mstat (fd w) (fa w))
  | 0x7C => pickOwn w [([(fd w).toNat, (fa w).toNat, (fb w).toNat], .ecall),
      ([(fd w).toNat, (fa w).toNat, (fb w).toNat], .eret), ([(fd w).toNat, (fa w).toNat, (fb w).toNat], .brk),
      ([(fd w).toNat, (fb w).toNat], .trapc (fa w)), ([(fd w).toNat, (fa w).toNat, (fb w).toNat], .wfi)]
  | 0x7D => (pick [([(fa w).toNat, fimm w / 16 % 64], Instr.rdc (fd w) (BitVec.ofNat 4 w)),
      ([(fd w).toNat, fimm w / 16 % 64], .wrc (fa w) (BitVec.ofNat 4 w))] (fimm w / 1024)).bind
      (fun k => zeroed k.1 k.2)
  | 0x7E => pickOwn w [([(fd w).toNat], .iinv (fa w) (fb w)), ([(fd w).toNat, (fa w).toNat, (fb w).toNat], .ifence),
      ([(fd w).toNat], .xinv (fa w) (fb w))]
  | _ => .error .major

/-- Whether a first word opens a long form (R55). -/
def isLong (w : Nat) : Bool := w / 2 ^ 25 % 128 == 0x7F

/-- The fields of an instruction: the first word, and the second where the first opens a long form. -/
def decodeFields (w w2 : Nat) : Except DecodeError Instr :=
  if isLong w then decodeLong w w2
  else if w / 2 ^ 25 % 128 < 0x34 then decodeLow (w / 2 ^ 25 % 128) w
  else if w / 2 ^ 25 % 128 < 0x59 then decodeMid (w / 2 ^ 25 % 128) w
  else decodeHigh (w / 2 ^ 25 % 128) w

/-- Refuses an instruction whose fields R62 to R66 refuse. -/
def checked (r : Except DecodeError Instr) : Except DecodeError Instr :=
  match r with
  | .error e => .error e
  | .ok i =>
    match i.fieldError with
    | none => .ok i
    | some e => .error (.field e)

/-- An instruction from its words (R55, R66); w2 is read only where w opens a long form. -/
def decodeWords (w w2 : Nat) : Except DecodeError Instr := checked (decodeFields w w2)

/-- ILLEGAL is decided from the first word alone (R67 step 2): no long form depends on its second word for it. -/
def firstWordIllegal (w : Nat) : Bool :=
  match decodeWords w 0 with
  | .ok _ => false
  | .error _ => true

/-- Decodes one instruction from a run of bytes and gives the bytes behind it (R6, R55). -/
def decodeBytes (bs : List Byte) : Except DecodeError (Instr × List Byte) :=
  if bs.length < 4 then .error .tooShort
  else
    let w := ofBytesLE (bs.take 4)
    if isLong w then
      if bs.length < 8 then .error .tooShort
      else (decodeWords w (ofBytesLE ((bs.drop 4).take 4))).map (fun i => (i, bs.drop 8))
    else (decodeWords w 0).map (fun i => (i, bs.drop 4))

/-- The bytes of an instruction whose words are numbered as the opcode table numbers them: the first word is
bits [31:0], the second bits [63:32]; each word little-endian, the first at the lowest address. -/
def tableBytes (w : Nat) : List Byte := bytesLE 4 (w % 2 ^ 32) ++ bytesLE 4 (w / 2 ^ 32)

/-- What the decoder reads from an instruction whose bits are w; bits from nbits up are zero. -/
def decodeTableWord (nbits w : Nat) : Option Instr :=
  match decodeBytes (tableBytes (w % 2 ^ nbits)) with
  | .ok (i, _) => some i
  | .error _ => none

/-! The encoder. -/

/-- R and X formats (R56). -/
def wR (op : Nat) (d a b : Reg) (fn : Nat) : Nat :=
  op * 2 ^ 25 + d.toNat * 2 ^ 18 + a.toNat * 2 ^ 11 + b.toNat * 2 ^ 4 + fn

/-- I and B formats and the first word of the long form (R56). -/
def wI (op : Nat) (d a : Reg) (imm : Nat) : Nat := op * 2 ^ 25 + d.toNat * 2 ^ 18 + a.toNat * 2 ^ 11 + imm

/-- J format (R56). -/
def wJ (op : Nat) (d : Reg) (off : BitVec 18) : Nat := op * 2 ^ 25 + d.toNat * 2 ^ 18 + off.toNat

/-- Bit-field majors: pos[5] in op[25] (R60). -/
def wF (op : Nat) (f : RF) : Nat :=
  wI (op + f.pos.toNat / 32) f.d f.a (f.pos.toNat % 32 * 64 + f.lenm1.toNat)

/-- M format (R56). -/
def wM (op : Nat) (m : MemOp) : Nat :=
  wI op m.t m.a (m.off.toNat * 32 + m.sp.toNat * 8 + b2n m.lu * 4 + m.wk.toNat)

/-- M format, atomic variant (R59). -/
def wA (op aop : Nat) (m : AmoOp) : Nat :=
  wI (op + b2n m.wide) m.t m.a (aop * 128 + m.ord.toNat * 32 + m.sp.toNat * 8 + m.scope.toNat)

/-- The words of an instruction (R60 to R65); a step without an encoding has none. -/
def encode : Instr → List Nat
  | .add r => [wR 0x1 r.d r.a r.b 0]
  | .sub r => [wR 0x1 r.d r.a r.b 1]
  | .mul r => [wR 0x1 r.d r.a r.b 2]
  | .mulh r => [wR 0x1 r.d r.a r.b 3]
  | .mulhu r => [wR 0x1 r.d r.a r.b 4]
  | .mulhsu r => [wR 0x1 r.d r.a r.b 5]
  | .madd r => [wR 0x1 r.d r.a r.b 6]
  | .div r => [wR 0x1 r.d r.a r.b 7]
  | .divu r => [wR 0x1 r.d r.a r.b 8]
  | .rem r => [wR 0x1 r.d r.a r.b 9]
  | .remu r => [wR 0x1 r.d r.a r.b 10]
  | .and r => [wR 0x2 r.d r.a r.b 0]
  | .or r => [wR 0x2 r.d r.a r.b 1]
  | .xor r => [wR 0x2 r.d r.a r.b 2]
  | .andn r => [wR 0x2 r.d r.a r.b 3]
  | .orn r => [wR 0x2 r.d r.a r.b 4]
  | .shl r => [wR 0x3 r.d r.a r.b 0]
  | .shr r => [wR 0x3 r.d r.a r.b 1]
  | .sar r => [wR 0x3 r.d r.a r.b 2]
  | .rotl r => [wR 0x3 r.d r.a r.b 3]
  | .min r => [wR 0x4 r.d r.a r.b 0]
  | .max r => [wR 0x4 r.d r.a r.b 1]
  | .minu r => [wR 0x4 r.d r.a r.b 2]
  | .maxu r => [wR 0x4 r.d r.a r.b 3]
  | .slt r => [wR 0x4 r.d r.a r.b 4]
  | .sltu r => [wR 0x4 r.d r.a r.b 5]
  | .sel r => [wR 0x4 r.d r.a r.b 6]
  | .clz r => [wR 0x5 r.d r.a 0 0]
  | .ctz r => [wR 0x5 r.d r.a 0 1]
  | .popc r => [wR 0x5 r.d r.a 0 2]
  | .bswap r => [wR 0x5 r.d r.a 0 3]
  | .sextB r => [wR 0x5 r.d r.a 0 4]
  | .sextH r => [wR 0x5 r.d r.a 0 5]
  | .sextW r => [wR 0x5 r.d r.a 0 6]
  | .zextB r => [wR 0x5 r.d r.a 0 7]
  | .zextH r => [wR 0x5 r.d r.a 0 8]
  | .zextW r => [wR 0x5 r.d r.a 0 9]
  | .hashm r => [wR 0x6 r.d r.a r.b 0]
  | .addi r => [wI 0x7 r.d r.a r.imm.toNat]
  | .andi r => [wI 0x8 r.d r.a r.imm.toNat]
  | .ori r => [wI 0x9 r.d r.a r.imm.toNat]
  | .xori r => [wI 0xa r.d r.a r.imm.toNat]
  | .slti r => [wI 0xb r.d r.a r.imm.toNat]
  | .sltiu r => [wI 0xc r.d r.a r.imm.toNat]
  | .addiLong r => [wI 0x7F r.d r.a 1, r.imm.toNat]
  | .andiLong r => [wI 0x7F r.d r.a 2, r.imm.toNat]
  | .oriLong r => [wI 0x7F r.d r.a 3, r.imm.toNat]
  | .xoriLong r => [wI 0x7F r.d r.a 4, r.imm.toNat]
  | .sltiLong r => [wI 0x7F r.d r.a 5, r.imm.toNat]
  | .sltiuLong r => [wI 0x7F r.d r.a 6, r.imm.toNat]
  | .luiH d imm => [wI 0x7F d 0 7, imm.toNat]
  | .shli r => [wI 0x0D r.d r.a (0 + r.n.toNat)]
  | .shri r => [wI 0x0D r.d r.a (256 + r.n.toNat)]
  | .sari r => [wI 0x0D r.d r.a (512 + r.n.toNat)]
  | .rotli r => [wI 0x0D r.d r.a (768 + r.n.toNat)]
  | .lui r => [wJ 0xe r.d r.off]
  | .addpc r => [wJ 0xf r.d r.off]
  | .bfx f => [wF 0x10 f]
  | .bfxu f => [wF 0x12 f]
  | .bfi f => [wF 0x14 f]
  | .fadd f => [wR 0x20 f.d f.a f.b (8 * b2n f.dbl + f.rm.toNat)]
  | .fsub f => [wR 0x21 f.d f.a f.b (8 * b2n f.dbl + f.rm.toNat)]
  | .fmul f => [wR 0x22 f.d f.a f.b (8 * b2n f.dbl + f.rm.toNat)]
  | .fma f => [wR 0x23 f.d f.a f.b (8 * b2n f.dbl + f.rm.toNat)]
  | .fdiv f => [wR 0x24 f.d f.a f.b (8 * b2n f.dbl + f.rm.toNat)]
  | .fsqrt f => [wR 0x25 f.d f.a 0 (8 * b2n f.dbl + f.rm.toNat)]
  | .fmin f => [wR 0x26 f.d f.a f.b (8 * b2n f.dbl + 0)]
  | .fmax f => [wR 0x26 f.d f.a f.b (8 * b2n f.dbl + 1)]
  | .fsgn f => [wR 0x26 f.d f.a f.b (8 * b2n f.dbl + 2)]
  | .fcmp f k => [wR 0x27 f.d f.a f.b (8 * b2n f.dbl + k.toNat)]
  | .fclass f => [wR 0x28 f.d f.a 0 (8 * b2n f.dbl)]
  | .fcvt f => [wI 0x29 f.d f.a (128 * f.dt.toNat + 8 * f.st.toNat + f.rm.toNat)]
  | .fround f => [wR 0x2a f.d f.a 0 (8 * b2n f.dbl + f.rm.toNat)]
  | .bl r => [wJ 0x2c r.d r.off]
  | .jr a => [wR 0x2d 0 a 0 0]
  | .jlr r => [wR 0x2D r.d r.a 0 1]
  | .beq r => [wI 0x2e r.a r.b r.off.toNat]
  | .bne r => [wI 0x2f r.a r.b r.off.toNat]
  | .blt r => [wI 0x30 r.a r.b r.off.toNat]
  | .bge r => [wI 0x31 r.a r.b r.off.toNat]
  | .bltu r => [wI 0x32 r.a r.b r.off.toNat]
  | .bgeu r => [wI 0x33 r.a r.b r.off.toNat]
  | .xborrow r => [wR 0x34 r.d r.a 0 0]
  | .xreturn => [wR 0x35 0 0 0 0]
  | .xget r => [wR 0x36 r.d r.a 0 0]
  | .xput j a => [wR 0x37 j a 0 0]
  | .ldB m => [wM 0x38 m]
  | .ldH m => [wM 0x39 m]
  | .ldW m => [wM 0x3a m]
  | .ldD m => [wM 0x3b m]
  | .ldBu m => [wM 0x3c m]
  | .ldHu m => [wM 0x3d m]
  | .ldWu m => [wM 0x3e m]
  | .stB m => [wM 0x3f m]
  | .stH m => [wM 0x40 m]
  | .stW m => [wM 0x41 m]
  | .stD m => [wM 0x42 m]
  | .ldfe m => [wM 0x43 m]
  | .ldff m => [wM 0x44 m]
  | .stfe m => [wM 0x45 m]
  | .stf m => [wM 0x46 m]
  | .fest m => [wM 0x47 m]
  | .amoAdd m => [wA 0x48 0 m]
  | .amoAnd m => [wA 0x48 1 m]
  | .amoOr m => [wA 0x48 2 m]
  | .amoXor m => [wA 0x48 3 m]
  | .amoMin m => [wA 0x48 4 m]
  | .amoMax m => [wA 0x48 5 m]
  | .amoMinu m => [wA 0x48 6 m]
  | .amoMaxu m => [wA 0x48 7 m]
  | .amoSwap m => [wA 0x48 8 m]
  | .cas m => [wA 0x48 9 m]
  | .famoFadd m => [wA 0x4A 0 m]
  | .famoFmin m => [wA 0x4A 1 m]
  | .famoFmax m => [wA 0x4A 2 m]
  | .fence s => [wR 0x4C 0 0 0 s.toNat]
  | .fenceSc s => [wR 0x4C 0 0 0 (8 + s.toNat)]
  | .waitk k => [wR 0x4D 0 0 0 k.toNat]
  | .scope r => [wR 0x4e r.d r.a r.b 0]
  | .semp n => [wI 0x4F 0 0 n.toNat]
  | .semv n => [wI 0x4F 0 0 (512 + n.toNat)]
  | .bar s u => [wI 0x50 0 0 (8 * s.toNat + u.toNat)]
  | .step => [wI 0x50 0 0 256]
  | .rdtime d => [wR 0x51 d 0 0 0]
  | .attime a => [wR 0x51 0 a 0 1]
  | .waitw => [wR 0x52 0 0 0 0]
  | .done => [wR 0x52 0 0 0 1]
  | .trig => [wR 0x52 0 0 0 2]
  | .post a b => [wR 0x52 0 a b 3]
  | .evwait a => [wR 0x53 0 a 0 0]
  | .evpoll r => [wR 0x53 r.d r.a 0 1]
  | .evclr a => [wR 0x53 0 a 0 2]
  | .popr d => [wR 0x54 d 0 0 0]
  | .peekr d => [wR 0x54 d 0 0 1]
  | .send a b w => [wR 0x55 0 a b w.toNat]
  | .recv r => [wR 0x56 r.d r.a 0 0]
  | .tbldef a b => [wR 0x58 0 a b 0]
  | .tblinv a => [wR 0x58 0 a 0 1]
  | .shardof r => [wR 0x58 r.d r.a r.b 2]
  | .gather x => [wR 0x59 x.c x.a x.b x.ev.toNat]
  | .scatter x => [wR 0x5a x.c x.a x.b x.ev.toNat]
  | .scadd x => [wR 0x5b x.c x.a x.b x.ev.toNat]
  | .dedup x => [wR 0x5c x.c x.a x.b x.ev.toNat]
  | .segred x => [wR 0x5d x.c x.a x.b x.ev.toNat]
  | .isect x => [wR 0x5e x.c x.a x.b x.ev.toNat]
  | .gatherLong x => [wI 0x7F x.c x.a (1040 + x.ev.toNat), x.imm.toNat]
  | .scatterLong x => [wI 0x7F x.c x.a (1056 + x.ev.toNat), x.imm.toNat]
  | .scaddLong x => [wI 0x7F x.c x.a (1072 + x.ev.toNat), x.imm.toNat]
  | .dedupLong x => [wI 0x7F x.c x.a (1088 + x.ev.toNat), x.imm.toNat]
  | .segredLong x => [wI 0x7F x.c x.a (1104 + x.ev.toNat), x.imm.toNat]
  | .isectLong x => [wI 0x7F x.c x.a (1120 + x.ev.toNat), x.imm.toNat]
  | .rowget x => [wR 0x5f x.c x.a x.b x.ev.toNat]
  | .rowput x => [wR 0x60 x.c x.a x.b x.ev.toNat]
  | .rowadd x => [wR 0x61 x.c x.a x.b x.ev.toNat]
  | .rowaxpy x => [wR 0x62 x.c x.a x.b x.ev.toNat]
  | .rowscale x => [wR 0x63 x.c x.a x.b x.ev.toNat]
  | .rowdot x => [wR 0x64 x.c x.a x.b x.ev.toNat]
  | .rowcvt x => [wR 0x65 0 x.a x.b x.ev.toNat]
  | .rowzero x => [wR 0x66 0 x.a x.b x.ev.toNat]
  | .rowcopy x => [wR 0x67 0 x.a x.b x.ev.toNat]
  | .rowtopk x => [wR 0x68 x.c x.a x.b x.ev.toNat]
  | .rowgetLong x => [wI 0x7F x.c x.a (1136 + x.ev.toNat), x.imm.toNat]
  | .rowputLong x => [wI 0x7F x.c x.a (1152 + x.ev.toNat), x.imm.toNat]
  | .rowaddLong x => [wI 0x7F x.c x.a (1168 + x.ev.toNat), x.imm.toNat]
  | .rowaxpyLong x => [wI 0x7F x.c x.a (1184 + x.ev.toNat), x.imm.toNat]
  | .rowscaleLong x => [wI 0x7F x.c x.a (1200 + x.ev.toNat), x.imm.toNat]
  | .rowdotLong x => [wI 0x7F x.c x.a (1216 + x.ev.toNat), x.imm.toNat]
  | .rowcvtLong x => [wI 0x7F 0 x.a (1232 + x.ev.toNat), x.imm.toNat]
  | .rowzeroLong x => [wI 0x7F 0 x.a (1248 + x.ev.toNat), x.imm.toNat]
  | .rowcopyLong x => [wI 0x7F 0 x.a (1264 + x.ev.toNat), x.imm.toNat]
  | .rowtopkLong x => [wI 0x7F x.c x.a (1280 + x.ev.toNat), x.imm.toNat]
  | .mclaim s => [wR 0x6C s 0 0 0]
  | .mrel s => [wR 0x6D s 0 0 0]
  | .mload x => [wR 0x6e x.c x.a x.b x.ev.toNat]
  | .msplit x => [wR 0x6f x.c x.a x.b x.ev.toNat]
  | .mmul x => [wR 0x70 x.c x.a x.b x.ev.toNat]
  | .mslice x => [wR 0x71 x.c x.a x.b x.ev.toNat]
  | .mcomb x => [wR 0x72 0 x.a x.b x.ev.toNat]
  | .mzero t => [wR 0x73 t 0 0 0]
  | .mdrain x => [wR 0x74 x.c x.a x.b x.ev.toNat]
  | .mloadLong x => [wI 0x7F x.c x.a (1376 + x.ev.toNat), x.imm.toNat]
  | .msplitLong x => [wI 0x7F x.c x.a (1392 + x.ev.toNat), x.imm.toNat]
  | .mmulLong x => [wI 0x7F x.c x.a (1408 + x.ev.toNat), x.imm.toNat]
  | .msliceLong x => [wI 0x7F x.c x.a (1424 + x.ev.toNat), x.imm.toNat]
  | .mcombLong x => [wI 0x7F 0 x.a (1440 + x.ev.toNat), x.imm.toNat]
  | .mdrainLong x => [wI 0x7F x.c x.a (1472 + x.ev.toNat), x.imm.toNat]
  | .mrdacc d t b => [wR 0x75 d t b 0]
  | .mwracc t a b => [wR 0x76 t a b 0]
  | .mstat d t => [wR 0x77 d t 0 0]
  | .ecall => [wR 0x7c 0 0 0 0]
  | .eret => [wR 0x7c 0 0 0 1]
  | .brk => [wR 0x7c 0 0 0 2]
  | .trapc a => [wR 0x7c 0 a 0 3]
  | .wfi => [wR 0x7c 0 0 0 4]
  | .rdc d n => [wI 0x7D d 0 n.toNat]
  | .wrc a n => [wI 0x7D 0 a (1024 + n.toNat)]
  | .iinv a b => [wR 0x7e 0 a b 0]
  | .ifence => [wR 0x7e 0 0 0 1]
  | .xinv a b => [wR 0x7e 0 a b 2]
  | _ => []

/-- Whether a row of the table is an instruction word, and no step of an engine, owner, firmware or host. -/
def Instr.hasEncoding (i : Instr) : Bool := !(encode i).isEmpty

/-- The length of an instruction in bytes (R55). -/
def Instr.size (i : Instr) : Nat := 4 * (encode i).length

/-- An instruction's words as one number, numbered as the opcode table numbers its bits. -/
def tableWordOf (i : Instr) : Nat :=
  match encode i with
  | w :: w2 :: _ => w + w2 * 2 ^ 32
  | w :: _ => w
  | [] => 0

end Sys2Proof
end

