-- ==== Sys2Proof/Machine/Control.lean ====
section
/-! DEFINITION. Branches, jumps and system instructions (09_scalar R124 to R142). -/

namespace Sys2Proof.Machine

/-- The first word of an instruction, as ILLEGAL and PRIV report it (R218). -/
def firstWord (i : Instr) : Word := BitVec.ofNat 64 ((encode i).headD 0)

/-- PRIV of R67 step 4, then the rest. -/
def State.privGate (s : State) (ok : Bool) (i : Instr) (rest : State) : State :=
  if ok then rest else s.trapNow (precise 2 (firstWord i) 0 0)

/-- bl: the target, then the link (R124). -/
def execBl (r : RJ) (s : State) : Res :=
  s.onThread fun th =>
    s.gate th [r.d] [] ((s.setReg s.cur r.d (th.pc + 4)).complete s.cur (th.pc + 4 * imm18 r.off))

/-- ALIGN of a jump target (R127). -/
def targetFault (a : Word) : Option TrapCause := if a.toNat % 4 = 0 then none else some (precise 4 a 0 0)

/-- jr (R125). -/
def execJr (a : Reg) (s : State) : Res :=
  s.onThread fun th => s.gate th [a] [a] (s.orTrap (targetFault (s.g a)) (s.complete s.cur (s.g a)))

/-- jlr: the target is read before the link is written (R125). -/
def execJlr (r : R2) (s : State) : Res :=
  s.onThread fun th =>
    s.gate th [r.d, r.a] [r.a]
      (s.orTrap (targetFault (s.g r.a)) ((s.setReg s.cur r.d (th.pc + 4)).complete s.cur (s.g r.a)))

/-- A compare and branch (R126). -/
def branch (s : State) (r : RB) (cond : Word → Word → Bool) : Res :=
  s.onThread fun th =>
    s.gate th [r.a, r.b] [r.a, r.b]
      (s.complete s.cur (if cond (s.g r.a) (s.g r.b) then th.pc + 4 * r.off.signExtend 64 else th.pc + 4))

/-- beq (R126). -/
def execBeq (r : RB) (s : State) : Res := branch s r (fun a b => a == b)
/-- bne (R126). -/
def execBne (r : RB) (s : State) : Res := branch s r (fun a b => a != b)
/-- blt (R126). -/
def execBlt (r : RB) (s : State) : Res := branch s r (fun a b => decide (a.sv < b.sv))
/-- bge (R126). -/
def execBge (r : RB) (s : State) : Res := branch s r (fun a b => decide (b.sv ≤ a.sv))
/-- bltu (R126). -/
def execBltu (r : RB) (s : State) : Res := branch s r (fun a b => decide (a.uv < b.uv))
/-- bgeu (R126). -/
def execBgeu (r : RB) (s : State) : Res := branch s r (fun a b => decide (b.uv ≤ a.uv))

/-! ### System instructions -/

/-- ecall: a completed instruction (R133). -/
def execEcall (s : State) : Res :=
  s.onThread fun _ => s.trapNow { precise 15 0 0 0 with completed := true }

/-- brk (R134). -/
def execBrk (s : State) : Res := s.onThread fun _ => s.trapNow (precise 14 0 0 0)

/-- trapc: BREAK when ra is nonzero (R134). -/
def execTrapc (a : Reg) (s : State) : Res :=
  s.onThread fun th =>
    s.gate th [a] [a] (if s.g a = 0 then s.finish s.cur 4 else s.trapNow (precise 14 (s.g a) 0 0))

/-- Return from a trap (R135, R216): pc, mode and interrupt enable come back, and pmode and pie are cleared. -/
def State.returnFromTrap (s : State) (t : ThreadId) (th : Thread) : State :=
  (s.setThread t th.leaveTrap).afterInstr t th.status.mode th.pc

/-- eret (R135). -/
def execEret (s : State) : Res :=
  s.onThread fun th =>
    s.privGate (th.status.mode != .user) .eret
      (s.orTrap (targetFault th.trap.tpc) (s.returnFromTrap s.cur th))

/-- wfi: waits until an interrupt is pending, enabled or not (R136). -/
def execWfi (s : State) : Res :=
  s.onThread fun th =>
    s.privGate (th.status.mode == .machine) .wfi
      (if s.pending s.cur th = 0 then s.waitFor s.cur .interrupt else s.finish s.cur 4)

/-- A thread has looked at its station's `mcur`: what the array does later in the tick belongs to the next (R265, R331). -/
def State.viewMcur (s : State) (n : BitVec 4) : State :=
  if ControlReg.ofNumber n = .mcur then
    s.modStation (stationOfCore s.cur.core) (fun k => { k with viewed := some s.time.toNat })
  else s

/-- rdc (R137, R138). -/
def execRdc (d : Reg) (n : BitVec 4) (s : State) : Res :=
  s.onThread fun th =>
    s.privGate ((ControlReg.ofNumber n).readable th.status.mode) (.rdc d n)
      (s.gate th [d] [] ((s.viewMcur n).finishWith 4 d (s.readControl s.cur th (ControlReg.ofNumber n))))

/-- wrc (R137, R138). -/
def execWrc (a : Reg) (n : BitVec 4) (s : State) : Res :=
  s.onThread fun th =>
    s.privGate ((ControlReg.ofNumber n).writable th.status.mode) (.wrc a n)
      (s.gate th [a] [a] ((s.writeControl s.cur th.status.mode (ControlReg.ofNumber n) (s.g a)).finish s.cur 4))

/-- Whether a 64-byte line overlaps n bytes from a upward, modulo 2^64 (R140). -/
def lineOverlaps (base : Nat) (a n : Word) : Bool :=
  n != 0 && (decide ((BitVec.ofNat 64 base - a).toNat < n.toNat) || decide ((a - BitVec.ofNat 64 base).toNat < 64))

/-- iinv: invalidates lines of the core's instruction cache (R140). -/
def execIinv (a b : Reg) (s : State) : Res :=
  s.onThread fun th =>
    s.gate th [a, b] [a, b]
      ((s.modCore s.cur.core (fun k =>
        { k with icache :=
            if 32768 ≤ (s.g b).toNat then [] else k.icache.filter (fun l => !lineOverlaps l.base (s.g a) (s.g b)) })).finish
        s.cur 4)

/-- ifence: discards the thread's fetch register (R141). -/
def execIfence (s : State) : Res :=
  s.onThread fun th => (s.setThread s.cur { th with fetch := none }).finish s.cur 4

/-- xinv: removes the context's entries over a range at all 12 translation stations, and waits for the accesses that were
translated through them (R142). -/
def execXinv (a b : Reg) (s : State) : Res :=
  s.onThread fun th =>
    s.privGate (th.status.mode != .user) (.xinv a b)
      (s.gate th [a, b] [a, b]
        (let ids := s.translatedThrough th.ctxId.toNat ((s.g a).toNat / 65536) (s.g b).toNat
         let s1 := s.invalidate th.ctxId.toNat ((s.g a).toNat / 65536 * 65536) (s.g b).toNat
         if ids = [] then s1.finish s.cur 4 else s1.waitFor s.cur (.xlat ids)))

end Sys2Proof.Machine
end

