-- ==== Sys2Proof/Machine/Message.lean ====
section
/-! DEFINITION. Messages: send, recv and the way of a message (11_memory_isa R168 to R170, 17_traps R235 step 5,
R238, 21_fabric R286 to R288). The flights stand in the order in which they were sent. -/

namespace Sys2Proof.Machine

/-! ### send and recv -/

/-- A payload word as it arrives: narrowed under w and widened (R100, R169). -/
def wirePayload (w : Nat) (x : Word) : Word :=
  if w = 0 then x
  else if w ≤ 4 then BitVec.ofNat 64 (wireRound w (wfld x 63 32) * 2 ^ 32 + wireRound w (wfld x 31 0))
  else BitVec.ofNat 64 (wireRound w x.toNat)

/-- The payload length in words and the source address of a send (R168). -/
def sendWords (b : Word) : Nat := wfld b 36 32 + 1
def sendSource (b : Word) : Nat := wfld b 17 0

/-- The checks of send in the order of R168; then PARITY of the payload, as any read of a scratchpad has it (R149; log
entry 23). DESIGN CHOICE: where g[rb] has a reserved bit set and the destination an offending one, tval is g[rb]; R168 says only
"the offending register value". -/
def State.sendFault (s : State) (t : ThreadId) (th : Thread) (a b : Word) : Option TrapCause :=
  let dst := wfld a 31 0
  let src := sendSource b
  let n := 8 * sendWords b
  let stations := ((s.ctxAt th.ctxId.toNat).map Context.stations).getD []
  if wfld b 47 37 ≠ 0 ∨ wfld b 31 18 ≠ 0 then some (precise 6 b 5 0)
  else if placeBad dst then some (precise 6 a 5 0)
  else if src % 8 ≠ 0 then some (precise 4 (BitVec.ofNat 64 src) 0 0)
  else if 0x40000 < src + n then some (precise 6 (BitVec.ofNat 64 src) 5 0)
  else if fld dst 31 18 = s.pkg.device.toNat ∧ stations.contains (stationOfPlace dst) = false then
    some (precise 6 (BitVec.ofNat 64 dst) 5 0)
  else if fld dst 31 18 ≠ 0 ∧ s.pkg.inPod = false then some (precise 6 (BitVec.ofNat 64 dst) 5 0)
  else if (s.coreAt t.core).locked s.time.toNat (spadNumber t.core 0 src) n then some (precise 7 (BitVec.ofNat 64 src) 0 0)
  else none

/-- PARITY of a run of the own scratchpad: the address of a bad word, of several any (log entry 6). -/
def State.parityFault (s : State) (core a n : Nat) : Option TrapCause :=
  (s.anyOf ((s.coreAt core).spadBad.filter (fun w => overlaps (8 * w) 8 a n))).map (fun w =>
    precise 20 (BitVec.ofNat 64 (8 * w)) 1 0)

/-- The message that a send takes its snapshot of. -/
def State.makeMessage (s : State) (t : ThreadId) (th : Thread) (a b : Word) (w : BitVec 3) : Message :=
  let src := BitVec.ofNat 32 (s.place t)
  let dst := BitVec.ofNat 32 (wfld a 31 0)
  { src := src, dst := dst, tag := BitVec.ofNat 16 (wfld b 63 48), w := w
    payload := (List.range (sendWords b)).map (fun i =>
      wirePayload w.toNat ((s.coreAt t.core).spad.readWord (sendSource b + 8 * i)))
    returned := false, ctx := th.ctxId.toNat, scope := scopeOf src.toNat dst.toNat }

/-- send (R168): the checks, room in the send queue of two, the release, the snapshot, which comes behind the thread's posted stores
to the payload (R173). DESIGN CHOICE: where it has waited, the whole instruction is executed again, its checks included; R168 does
not say whether they are taken anew. -/
def execSend (a b : Reg) (w : BitVec 3) (s : State) : Res :=
  s.onThread fun th =>
    s.gate th [a, b] [a, b]
      (s.orTrap (s.sendFault s.cur th (s.g a) (s.g b))
        (s.orTrap (s.parityFault s.cur.core (sendSource (s.g b)) (8 * sendWords (s.g b)))
          (if 2 ≤ th.sendq.length then s.waitFor s.cur .sendRoom
           else
             State.orElse (s.releaseStop s.cur th (scopeOf (s.place s.cur) (wfld (s.g a) 31 0)))
               (if let some x := s.postedOwn s.cur (sendSource (s.g b)) (8 * sendWords (s.g b)) then s.waitFor s.cur (.behind 0 x)
                else
                ({ s with
                    flights := s.flights ++ [{ id := s.nextId, sender := some s.cur
                                               msg := s.makeMessage s.cur th (s.g a) (s.g b) w, stage := .travelling
                                               port := none, sent := s.nextId }]
                    nextId := s.nextId + 1 } : State).setThread s.cur { th with sendq := th.sendq ++ [s.nextId] } |>.finish
                 s.cur 4))))

/-- The header that recv writes to g[rd] (R170). -/
def messageHeader (m : Message) : Word :=
  BitVec.ofNat 64 (m.tag.toNat * 2 ^ 48 + b2n m.returned * 2 ^ 40 + m.w.toNat * 2 ^ 37 +
    (m.payload.length - 1) % 32 * 2 ^ 32 + m.src.toNat)

/-- The payload as bytes, in the order sent. -/
def messageBytes (m : Message) : List Byte := m.payload.flatMap (fun w => bytesLE 8 w.toNat)

/-- The checks of recv (R170). -/
def State.recvFault (s : State) (t : ThreadId) (d : Word) (n : Nat) : Option TrapCause :=
  if d.toNat % 8 ≠ 0 then some (precise 4 d 0 0)
  else if 0x40000 < d.toNat + 8 * n then some (precise 6 d 5 0)
  else if (s.coreAt t.core).locked s.time.toNat (spadNumber t.core 0 d.toNat) (8 * n) then some (precise 7 d 0 0)
  else none

/-- Whether an inbox of 4 has an entry for a message: its own reserved one, or one that is free (R169). -/
def Inbox.room (b : Inbox) (id : Nat) : Bool :=
  b.reserved.contains id || decide (b.msgs.length + b.reserved.length < 4)

def State.modFlight (s : State) (id : Nat) (f : Flight → Flight) : State :=
  { s with flights := s.flights.map (fun x => if x.id == id then f x else x) }

/-- An entry has become free: it is reserved for the oldest recorded sender, who is sent a notice; where none is
recorded, a returned message that waits at the station takes it (R169). -/
def State.freedEntry (s : State) (t : ThreadId) : State :=
  match s.threadAt t with
  | none => s
  | some th =>
    match th.inbox.refused with
    | id :: r =>
      (s.setThread t { th with inbox := { th.inbox with refused := r, reserved := th.inbox.reserved ++ [id] } }).modFlight id
        (fun f => { f with stage := .noticed })
    | [] =>
      match takeFirst (fun m => threadOfPlace m.dst.toNat == t) (s.stationAt (stationOfCore t.core)).returns with
      | none => s
      | some (m, r) =>
        (s.modStation (stationOfCore t.core) (fun k => { k with returns := r })).modThread t (fun th =>
          { th with inbox := { th.inbox with msgs := th.inbox.msgs ++ [m] } })

/-- recv (R170): its writes come behind the thread's posted stores to the same doublewords (R173). -/
def execRecv (r : R2) (s : State) : Res :=
  s.onThread fun th =>
    s.gate th [r.d, r.a] [r.a]
      (match th.inbox.msgs with
       | [] => s.waitFor s.cur .recv
       | m :: rest =>
         s.orTrap (s.recvFault s.cur (s.g r.a) m.payload.length)
           (if let some x := s.postedOwn s.cur (s.g r.a).toNat (8 * m.payload.length) then s.waitFor s.cur (.behind 0 x)
            else
            (((s.modCore s.cur.core (fun k => k.spadWrite (s.g r.a).toNat (messageBytes m))).modThread s.cur (fun th =>
             { th with inbox := { th.inbox with msgs := rest } })).freedEntry s.cur).finishWith 4 r.d (messageHeader m)))

/-! ### The way of a message -/

/-- Whether an earlier message of the same sender to the same receiver is still under way (R169). -/
def State.behindMessage (s : State) (f : Flight) : Bool :=
  (s.flights.takeWhile (fun g => g.id != f.id)).any (fun g => g.msg.src == f.msg.src && g.msg.dst == f.msg.dst)

/-- A message has left its sender's queue. -/
def State.leaveSendQueue (s : State) (f : Flight) : State :=
  let s1 : State := { s with flights := s.flights.filter (fun g => g.id != f.id) }
  match f.sender with
  | none => s1
  | some t => s1.modThread t (fun th => { th with sendq := th.sendq.filter (· != f.id) })

/-- The returned form of a message (R169): the intended destination stands in place of the sender's place. -/
def turnBack (m : Message) : Message := { m with src := m.dst, dst := m.src, returned := true }

/-- A message as a link carries it: its payload narrowed under w (R100). -/
def toWire (m : Message) : WireMessage :=
  { src := m.src, dst := m.dst, tag := m.tag, w := m.w, wire := wireShrink m.w.toNat (messageBytes m), returned := m.returned
    scope := m.scope }

/-- A message that has come over a link, widened, for the context of its flit (R100, R287). -/
def ofWire (m : WireMessage) (ctx : Nat) : Message :=
  let bs := wireWiden m.w.toNat m.wire
  { src := m.src, dst := m.dst, tag := m.tag, w := m.w
    payload := (chunkNats 8 (bs.length / 8) bs).map (BitVec.ofNat 64), returned := m.returned, ctx := ctx, scope := m.scope }

/-- The port for a message: the hash of its destination place word (R286). -/
def State.messagePort (s : State) (m : Message) : Option Nat :=
  s.portFor (fld m.dst.toNat 31 18) (BitVec.ofNat 64 m.dst.toNat)

/-- A message goes back to its sender: it takes its place behind what is under way. A message of another device's
sender goes back over the link (R287). -/
def State.sendBack (s : State) (f : Flight) : State :=
  let s1 := s.leaveSendQueue f
  if fld f.msg.src.toNat 31 18 ≠ s.pkg.device.toNat then
    (if f.msg.returned then s1
     else s1.sendPacket (s1.messagePort (turnBack f.msg)) (.message f.id f.msg.ctx (toWire (turnBack f.msg))))
  else
    { s1 with
      flights := s1.flights ++
        [{ id := s1.nextId, sender := none, msg := turnBack f.msg, stage := .travelling, port := none, sent := s1.nextId }]
      nextId := s1.nextId + 1 }

/-- The count of messages in the header of a saved context's save area (R236), where the header's line carries the context's tag. -/
def State.putFallout (s : State) (x : Context) : State :=
  if x.saved.isSome && s.phys.lineTag (x.save / 64) == x.tag then
    { s with phys := { s.phys with ram := s.phys.ram.writeBytes (x.save + 36) (bytesLE 4 x.falloutRegion.length) } }
  else s

/-- A switched-out context's message falls out at its destination station's router: into the buffer of 64, whose oldest
spills to the region of 4,096 of its context; with both full it stays and is retried (R235). -/
def State.fallOut (s : State) (f : Flight) : State :=
  let st := stationOfPlace f.msg.dst.toNat
  let k := s.stationAt st
  let put (s : State) (r : List Message) : State :=
    (s.modStation st (fun k => { k with fallout := r ++ [f.msg] })).leaveSendQueue f
  if k.fallout.length < 64 then put s k.fallout
  else
    match k.fallout with
    | [] => s
    | m :: r =>
      match s.ctxAt m.ctx with
      | none => put s r
      | some x =>
        let y : Context := { x with falloutRegion := x.falloutRegion ++ [m] }
        if x.falloutRegion.length < 4096 then put ((s.setCtx m.ctx y).putFallout y) r
        else s.modFlight f.id (fun g => { g with stage := .unrecorded s.time.toNat })

/-- A message lands, waits, or is refused and recorded where its destination thread exists (R169). -/
def State.land (s : State) (f : Flight) (t : ThreadId) (th : Thread) : State :=
  if th.inbox.room f.id then
    (s.leaveSendQueue f).modThread t (fun th =>
      { th with inbox := { th.inbox with msgs := th.inbox.msgs ++ [f.msg], reserved := th.inbox.reserved.filter (· != f.id) } })
  else if f.msg.returned then
    (s.leaveSendQueue f).modStation (stationOfCore t.core) (fun k => { k with returns := k.returns ++ [f.msg] })
  else if th.inbox.refused.length < 64 then
    (s.setThread t { th with inbox := { th.inbox with refused := th.inbox.refused ++ [f.id] } }).modFlight f.id (fun g =>
      { g with stage := .recorded })
  else s.modFlight f.id (fun g => { g with stage := .unrecorded s.time.toNat })

/-- What becomes of a message at the router of its destination (R169, R235, R238, R288). DESIGN CHOICE: a returned message whose own
sender is gone, its core lost or its thread or context no longer there, is dropped; R169 does not say what becomes of it. -/
def State.deliverMessage (s : State) (f : Flight) : State :=
  let dst := f.msg.dst.toNat
  let t := threadOfPlace dst
  if fld dst 31 18 ≠ s.pkg.device.toNat then
    if s.linked (fld dst 31 18) then
      (s.modFlight f.id (fun g => { g with stage := .offDevice, port := s.messagePort f.msg })).sendPacket (s.messagePort f.msg)
        (.message f.id f.msg.ctx (toWire f.msg))
    else s.sendBack f
  else
    match s.ctxAt f.msg.ctx with
    | none => if f.msg.returned then s.leaveSendQueue f else s.sendBack f
    | some x =>
      if !x.active s.time then s.fallOut f
      else if (s.coreAt t.core).lost || s.pkg.deadPlaces.contains t.core || !x.stations.contains (stationOfCore t.core) then
        (if f.msg.returned then s.leaveSendQueue f else s.sendBack f)
      else
        match s.threadAt t with
        | none => if f.msg.returned then s.leaveSendQueue f else s.sendBack f
        | some th => s.land f t th

/-- The routers on the way of a message through this device (R270): those from its sender to its receiver, or the one of the end
that lies here. -/
def State.messageRoute (s : State) (m : Message) : List Nat :=
  let here (w : BitVec 32) : Bool := fld w.toNat 31 18 == s.pkg.device.toNat
  if !here m.dst then [stationOfPlace m.src.toNat]
  else if here m.src then routeOf (stationOfPlace m.src.toNat) (stationOfPlace m.dst.toNat)
  else [stationOfPlace m.dst.toNat]

/-- Whether a message stays on this device. -/
def State.inside (s : State) (m : Message) : Bool :=
  fld m.src.toNat 31 18 == s.pkg.device.toNat && fld m.dst.toNat 31 18 == s.pkg.device.toNat

/-- Whether an earlier packet of a message's two stations is still on its way (R270). -/
def State.behindPacket (s : State) (f : Flight) : Bool :=
  s.underWay (stationOfPlace f.msg.src.toNat) (stationOfPlace f.msg.dst.toNat) f.sent

/-- A message is sent again (R169, R270). -/
def State.resend (s : State) (id : Nat) : State :=
  { s with nextId := s.nextId + 1 }.modFlight id (fun g => { g with stage := .travelling, sent := s.nextId })

/-- MESSAGE_ARRIVAL: a message reaches its destination and lands, is refused, is returned or falls out; one that left the
device has landed there. Nothing where no such message travels, an earlier one of its sender to its receiver or an earlier packet of
its two stations does, a router on its way is not awake, or it still waits at its port (R169, R270, R271). -/
def execMessageArrival (id : Nat) (s : State) : Res :=
  match s.flights.find? (fun f => f.id == id) with
  | none => .next s
  | some f =>
    if s.behindMessage f then .next s
    else
      match f.stage with
      | .travelling =>
        if s.routeOpen (s.messageRoute f.msg) && !(s.inside f.msg && s.behindPacket f) then
          .next ((s.touchRoute (s.messageRoute f.msg)).deliverMessage f)
        else .next s
      | .offDevice =>
        if s.atPort (fun p => match p with | .message i _ _ => i == id | _ => false) then .next s
        else .next (s.leaveSendQueue f)
      | _ => .next s

/-- MESSAGE_NOTICE: the sender of a recorded message receives its notice and resends at once (R169). -/
def execMessageNotice (id : Nat) (s : State) : Res :=
  match s.flights.find? (fun f => f.id == id) with
  | none => .next s
  | some f => if f.stage = .noticed then .next (s.resend id) else .next s

/-- MESSAGE_RETRY: an unrecorded refused sender resends after 1,024 ticks (R169). -/
def execMessageRetry (id : Nat) (s : State) : Res :=
  match s.flights.find? (fun f => f.id == id) with
  | none => .next s
  | some f =>
    match f.stage with
    | .unrecorded since =>
      if s.time.toNat < since + 1024 then .next s
      else .next (s.resend id)
    | _ => .next s

end Sys2Proof.Machine
end

