-- ==== Sys2Proof/Machine/Sync.lean ====
section
/-! DEFINITION. Fences, counters, semaphores, barriers, steps, time, Chime lines and the reply queue
(03_execution R49, R50, 11_memory_isa R157 to R167, 13_consistency R176, 17_traps R219). -/

namespace Sys2Proof.Machine

/-- fence: a release and an acquire at a scope (R157). -/
def execFence (scope : BitVec 3) (s : State) : Res :=
  s.onThread fun th => State.orElse (s.releaseStop s.cur th scope.toNat) (s.finish s.cur 4)

/-- The way to the order point of a boundary and back (R176): none at .lane and .core; the station of lowest index inside a layer, a
chiplet, a reticle or the package; in a pod, .pod and .sys leave the device. -/
def State.orderWay (s : State) (station scope : Nat) : List Nat :=
  let point (p : Nat) : List Nat := routeOf station p ++ routeOf p station
  match scope with
  | 0 | 1 => []
  | 2 => point (station / 6 * 6)
  | 3 => point (station / 12 * 12)
  | 4 => point (station / 24 * 24)
  | 5 => point 0
  | _ => if s.pkg.inPod then [] else point 0

/-- fence.sc: a fence, then its turn at the scope's order point; the order of service is the order of the model's steps
(R157, R176; log entry 1). -/
def execFenceSc (scope : BitVec 3) (s : State) : Res :=
  s.onThread fun th =>
    State.orElse (s.releaseStop s.cur th scope.toNat)
      (s.byWay s.cur (s.orderWay (stationOfCore s.cur.core) scope.toNat) (fun s => s.finish s.cur 4))

/-- waitk (R157, R222). -/
def execWaitk (mask : BitVec 3) (s : State) : Res :=
  s.onThread fun th => State.orElse (s.counterStop s.cur th mask.toNat) (s.finish s.cur 4)

/-- scope (R19, R157). -/
def execScope (r : R3) (s : State) : Res :=
  s.onThread fun th =>
    s.gate th [r.d, r.a, r.b] [r.a, r.b]
      (s.finishWith 4 r.d (BitVec.ofNat 64 (scopeOf (wfld (s.g r.a) 31 0) (wfld (s.g r.b) 31 0))))

/-! ### Semaphores and barriers -/

def Station.sem (k : Station) (n : Nat) : Semaphore := agetD k.sems n Semaphore.reset
def Station.setSem (k : Station) (n : Nat) (m : Semaphore) : Station := { k with sems := aset k.sems n m }

/-- semp: takes a unit when the count is positive and no earlier waiter remains, else waits in arrival order (R158). -/
def execSemp (n : BitVec 6) (s : State) : Res :=
  s.onThread fun _ =>
    let st := stationOfCore s.cur.core
    let m := (s.stationAt st).sem n.toNat
    if 0 < m.count ∧ m.waiters = [] then
      (s.modStation st (fun k => k.setSem n.toNat { m with count := m.count - 1 })).finish s.cur 4
    else
      (s.modStation st (fun k => k.setSem n.toNat { m with waiters := m.waiters ++ [s.cur] })).waitFor s.cur (.semp n.toNat)

/-- What a thread waits for at its semaphore or barrier has come: its instruction completes, while it is halted not before it is
resumed (R143, R158, R159, R315). -/
def State.grant (s : State) (t : ThreadId) : State :=
  if ((s.threadAt t).map Thread.halted).getD false then s.waitFor t .granted else s.finish t 4

/-- Gives a unit: the oldest waiter takes it at once, else the count rises, up to 2^32 - 1 (R158). -/
def State.giveUnit (s : State) (st n : Nat) : State :=
  let m := (s.stationAt st).sem n
  match m.waiters with
  | w :: r => (s.modStation st (fun k => k.setSem n { m with waiters := r })).grant w
  | [] =>
    if m.count = 2 ^ 32 - 1 then s else s.modStation st (fun k => k.setSem n { m with count := m.count + 1 })

/-- semv: releases at .chiplet, then gives a unit (R158). -/
def execSemv (n : BitVec 6) (s : State) : Res :=
  s.onThread fun th =>
    State.orElse (s.releaseStop s.cur th 3) ((s.giveUnit (stationOfCore s.cur.core) n.toNat).finish s.cur 4)

def Context.barrier (x : Context) (u : Nat) : Barrier := agetD x.barriers u Barrier.reset

/-- Completes a phase: every arrived thread becomes ready (R159). -/
def State.finishAll (s : State) : List ThreadId → State
  | [] => s
  | t :: r => (s.grant t).finishAll r

/-- Counts an arrival at a barrier unit of a context; the arrival that reaches P completes the phase (R159). -/
def State.arrive (s : State) (t : ThreadId) (ctx scope u : Nat) : State :=
  match s.ctxAt ctx with
  | none => s.finish t 4
  | some x =>
    let b := x.barrier u
    if b.p = 0 then s.finish t 4
    else if b.p ≤ b.arrived.length + 1 then
      (s.setCtx ctx { x with barriers := aset x.barriers u { b with arrived := [] } }).finishAll
        (b.arrived.map Prod.fst ++ [t])
    else
      (s.setCtx ctx { x with barriers := aset x.barriers u { b with arrived := b.arrived ++ [(t, scope)] } }).waitFor t
        (.bar u)

/-- bar: releases at the named scope, then arrives (R159). -/
def execBar (scope u : BitVec 3) (s : State) : Res :=
  s.onThread fun th =>
    State.orElse (s.releaseStop s.cur th scope.toNat) (s.arrive s.cur th.ctxId.toNat scope.toNat u.toNat)

/-! ### step (R49, R50) -/

/-- A held graph instance's place with the controller. -/
structure HeldPlace where
  graph : Graph
  node : NodeState
  placed : Placed
  deriving DecidableEq, Repr

/-- The graph, node and placement of the task that a thread holds, unless it is dynamic. -/
def State.heldPlace (s : State) (th : Thread) : Option HeldPlace :=
  match th.held.graph, s.ctxAt th.ctxId.toNat with
  | some g, some x =>
    match x.graphs.find? (fun h => h.id == g) with
    | none => none
    | some h =>
      match h.nodes[th.task.node.toNat]? with
      | none => none
      | some n =>
        match n.placed.find? (fun p => p.inst == th.task.inst.toNat && !p.abandoned) with
        | none => none
        | some p => some { graph := h, node := n, placed := p }
  | _, _ => none

/-- Changes a node of a graph of a context. -/
def State.modNode (s : State) (ctx graph node : Nat) (f : NodeState → NodeState) : State :=
  s.modCtx ctx (fun x => { x with graphs := x.graphs.map (fun g =>
    if g.id == graph then
      match g.nodes[node]? with
      | none => g
      | some n => { g with nodes := setAt g.nodes node (f n) }
    else g) })

/-- Changes the placements of one instance of a node. -/
def NodeState.modPlaced (n : NodeState) (inst : Nat) (f : Placed → Placed) : NodeState :=
  { n with placed := n.placed.map (fun p => if p.inst == inst then f p else p) }

/-- Whether the drift bound lets an instance reach a count: every neighbour that is placed and not done is within k. -/
def NodeState.mayStep (n : NodeState) (inst count : Nat) : Bool :=
  n.image.k == 0 || n.placed.all (fun p =>
    p.finished || !(p.inst + 1 == inst || p.inst == inst + 1) || decide (count ≤ p.steps + n.image.k))

/-- step: increments the instance's count within the drift bound, or waits (R49); a count of 2^32 - 1 faults (R50). -/
def execStep (s : State) : Res :=
  s.onThread fun th =>
    if th.task.valid = false then s.finish s.cur 4
    else
      match s.heldPlace th with
      | none =>
        if th.held.steps = 2 ^ 32 - 1 then s.trapNow (precise 19 (BitVec.ofNat 64 th.held.steps) 0 0)
        else (s.setThread s.cur { th with held := { th.held with steps := th.held.steps + 1 } }).finish s.cur 4
      | some h =>
        if h.placed.steps = 2 ^ 32 - 1 then s.trapNow (precise 19 (BitVec.ofNat 64 h.placed.steps) 0 0)
        else if h.node.mayStep h.placed.inst (h.placed.steps + 1) then
          (s.modNode th.ctxId.toNat h.graph.id th.task.node.toNat (fun n =>
            n.modPlaced h.placed.inst (fun p => { p with steps := p.steps + 1 }))).finish s.cur 4
        else
          match th.wait with
          | some (.step since skipped known) => s.waitFor s.cur (.step since skipped known)
          | _ => s.waitFor s.cur (.step s.time.toNat 0 s.time.toNat)

/-- The ticks at which the threads were halted whose halt keeps a STEP's ticks from counting: its own, and those of the
neighbours that hold it back (R49, R50, R315). -/
def State.haltedBlocks (s : State) (th : Thread) : List Nat :=
  (if th.halted then [th.haltedAt] else []) ++
  match s.heldPlace th with
  | none => []
  | some h =>
    h.node.placed.filterMap (fun p =>
      if !p.finished && (p.inst + 1 == h.placed.inst || p.inst == h.placed.inst + 1) &&
          decide (p.steps + h.node.image.k < h.placed.steps + 1) then
        (s.threadAt p.thread).bind (fun o => if o.halted then some o.haltedAt else none)
      else none)

/-- The last tick that counts for a thread by now: none past the tick of a Peal that has come (R44, R50, R235). -/
def State.runningNow (s : State) (th : Thread) : Nat :=
  match (s.ctxAt th.ctxId.toNat).bind Context.peal with
  | some p => min s.time.toNat p.tick
  | none => s.time.toNat

/-- The ticks of a held STEP that do not count by now: those that are known, and those since then in which
such a thread is halted (R50). -/
def State.skippedTicks (s : State) (th : Thread) (skipped known : Nat) : Nat :=
  match s.haltedBlocks th with
  | [] => skipped
  | a :: r => skipped + (s.runningNow th - max (r.foldl min a) known)

/-- Every held STEP takes the ticks of its neighbours' halts up to now into account: done before a halt ends or a placement goes
(R50). -/
def State.settleSteps (s : State) : State :=
  { s with cores := s.cores.map (fun c => (c.1, { c.2 with threads := c.2.threads.map (fun p =>
      match p.2.wait with
      | some (.step since skipped known) =>
        (p.1, { p.2 with wait := some (.step since (s.skippedTicks p.2 skipped known) (s.runningNow p.2)) })
      | _ => p) })) }

/-- STEP_TIMEOUT: a STEP held beyond 2^24 running ticks raises the STEP fault (R50). -/
def execStepTimeout (t : ThreadId) (s : State) : Res :=
  match s.threadAt t with
  | none => .next s
  | some th =>
    match th.wait with
    | some (.step since skipped known) =>
      if s.time.toNat - since - s.skippedTicks th skipped known ≤ 2 ^ 24 ∨ th.halted ∨ s.threadRuns t = false then .next s
      else
        let count := match s.heldPlace th with
          | some h => h.placed.steps
          | none => th.held.steps
        .next (s.takeTrap t (precise 19 (BitVec.ofNat 64 count) 0 0))
    | _ => .next s

/-! ### Time -/

/-- rdtime (R161). -/
def execRdtime (d : Reg) (s : State) : Res := s.onThread fun th => s.gate th [d] [] (s.finishWith 4 d s.time)

/-- attime: waits until the count has reached g[ra] (R161). -/
def execAttime (a : Reg) (s : State) : Res :=
  s.onThread fun th =>
    s.gate th [a] [a]
      (if (s.g a).uv ≤ s.time.uv then s.finish s.cur 4 else s.waitFor s.cur (.attime (s.g a)))

/-! ### Chime lines and the reply queue -/

/-- The sub of a delivered fault (R219): ENGINE tells its two sources apart by bit 63 of the value. -/
def deliveredSub (fault : Nat) (value : Word) : Nat :=
  if fault = 16 then (if value.getLsbD 63 then 0x24 else wfld value 63 56) else 0

/-- A fault delivered by evwait or popr (R219). -/
def deliveredFault (fault : Nat) (value : Word) (line : Nat) : TrapCause :=
  { precise fault value (deliveredSub fault value) line with delivered := true }

/-- evwait: takes one completion, or its failure (R165). -/
def execEvwait (a : Reg) (s : State) : Res :=
  s.onThread fun th =>
    s.gate th [a] [a]
      (let n := wfld (s.g a) 3 0
       let c := th.chime n
       if c.fail then
         (s.setThread s.cur { th with chimes := aset th.chimes n { c with fail := false } }).trapNow
           (deliveredFault c.fault c.value n)
       else if 0 < c.pend then
         (s.setThread s.cur { th with chimes := aset th.chimes n { c with pend := c.pend - 1 } }).finish s.cur 4
       else s.waitFor s.cur (.evwait n))

/-- evpoll (R165). -/
def execEvpoll (r : R2) (s : State) : Res :=
  s.onThread fun th =>
    s.gate th [r.d, r.a] [r.a]
      (let c := th.chime (wfld (s.g r.a) 3 0)
       s.finishWith 4 r.d (BitVec.ofNat 64 (b2n c.ovf * 512 + b2n c.fail * 256 + c.pend % 256)))

/-- evclr (R165). -/
def execEvclr (a : Reg) (s : State) : Res :=
  s.onThread fun th =>
    s.gate th [a] [a]
      ((s.setThread s.cur { th with chimes := aset th.chimes (wfld (s.g a) 3 0) Chime.reset }).finish s.cur 4)

/-- The fault of a record or reply status (R199). -/
def statusFault (status : Nat) : Nat :=
  match status with
  | 1 => 17
  | 2 => 12
  | 3 => 5
  | 4 => 6
  | 5 => 10
  | 6 => 11
  | 7 => 9
  | 8 => 20
  | _ => 16

/-- popr: removes the oldest entry; a failed one traps (R167). -/
def execPopr (d : Reg) (s : State) : Res :=
  s.onThread fun th =>
    s.gate th [d] []
      (match th.replies with
       | [] => s.waitFor s.cur .popr
       | e :: r =>
         if wfld e 55 48 = 0 then (s.setThread s.cur { th with replies := r }).finishWith 4 d e
         else
           (s.setThread s.cur { th with replies := r }).trapNow
             (deliveredFault (statusFault (wfld e 55 48)) e (wfld e 59 56)))

/-- peekr (R167). -/
def execPeekr (d : Reg) (s : State) : Res :=
  s.onThread fun th => s.gate th [d] [] (s.finishWith 4 d (th.replies.headD 0))

end Sys2Proof.Machine
end

