-- ==== Sys2Proof/Machine/Table.lean ====
section
/-! DEFINITION. Table descriptors: their image, tbldef, tblinv, shardof and the place of a row (15_tables R189 to
R195). -/

namespace Sys2Proof.Machine

/-! ### Descriptor images (R190) -/

/-- A descriptor image taken apart. -/
structure Desc where
  base : Nat
  rows : Nat
  missing : Nat
  dflt : Nat
  delta : Nat
  shards : Nat
  pod : Bool
  sfn : Nat
  place : Nat
  oob : Bool
  iw : Bool
  efmt : Nat
  rlog : Nat
  key : Word
  devlist : Nat
  deriving DecidableEq, Repr

def imageWord (img : List Word) (i : Nat) : Word := img.getD i 0

/-- The fields of an image. -/
def Desc.ofImage (img : List Word) : Desc :=
  let w5 := imageWord img 5
  { base := wfld (imageWord img 0) 55 0, rows := wfld (imageWord img 1) 47 0, missing := (imageWord img 2).toNat
    dflt := wfld (imageWord img 3) 55 0, delta := wfld (imageWord img 4) 47 0, shards := wfld w5 31 16
    pod := bitAt w5.toNat 14, sfn := wfld w5 13 12, place := wfld w5 11 10, oob := bitAt w5.toNat 9
    iw := bitAt w5.toNat 8, efmt := wfld w5 7 4, rlog := wfld w5 3 0, key := imageWord img 6
    devlist := wfld (imageWord img 7) 55 0 }

/-- Whether a reserved field of an image is nonzero. -/
def imageReserved (img : List Word) : Bool :=
  wfld (imageWord img 0) 63 56 != 0 || wfld (imageWord img 1) 63 48 != 0 || wfld (imageWord img 3) 63 56 != 0 ||
    wfld (imageWord img 4) 63 48 != 0 || wfld (imageWord img 5) 63 32 != 0 || bitAt (imageWord img 5).toNat 15 ||
    wfld (imageWord img 7) 63 56 != 0

def Desc.rowBytes (d : Desc) : Nat := 2 ^ d.rlog
def Desc.indexBytes (d : Desc) : Nat := if d.iw then 8 else 4

/-- The element formats of efmt. -/
def efmtCodes : List Nat := [0, 1, 2, 3, 8, 9, 12]

/-- valid_image of R192; a nonzero dflt without oob is no listed failure (log entry 24). -/
def validImage (img : List Word) (inPod : Bool) : Bool :=
  let d := Desc.ofImage img
  let key := d.key.toNat
  !(imageReserved img ||
    decide (d.rlog < 3) || decide (12 < d.rlog) || !efmtCodes.contains d.efmt || d.sfn == 3 || d.place == 3 || d.shards == 0 ||
    d.base % d.rowBytes != 0 || (d.oob && d.dflt % d.rowBytes != 0) ||
    d.rows == 0 || decide (d.missing < d.rows) || (!d.iw && decide (2 ^ 32 ≤ d.missing)) ||
    (d.sfn == 2 && (key == 0 || decide (key * d.shards < d.rows))) ||
    (d.sfn == 0 && d.place == 0 && key != 0) ||
    (d.place != 0 && (d.pod || d.shards != 1 || d.sfn != 0)) ||
    (d.place != 0 && (key == 0 || key % 65536 != 0 || decide (key < d.rows * d.rowBytes))) ||
    (d.pod && !inPod) || (!d.pod && d.devlist != 0))

/-! ### Where a row lies (R194) -/

/-- The shard of a row and its index in the shard's run. -/
def Desc.shardOf (d : Desc) (r : Nat) : Nat × Nat :=
  match d.sfn with
  | 0 => (r % d.shards, r / d.shards)
  | 1 => ((hashmW (BitVec.ofNat 64 r) d.key).toNat * d.shards / 2 ^ 64, r)
  | _ => (r / d.key.toNat, r - r / d.key.toNat * d.key.toNat)

/-- The address of a row on a device; `dev` counts for a pod table only. It does not wrap (R12): one past the 56 bits of an
address translates to nothing (R79). -/
def Desc.rowAddr (d : Desc) (r dev : Nat) : Nat :=
  if d.pod then
    let a := d.base + (d.shardOf r).2 * d.rowBytes
    a / 2 ^ 56 * 2 ^ 56 + dev * 2 ^ 42 + fld a 41 0
  else d.base + r * d.rowBytes

/-- The replica that a station reads: that of its reticle or chiplet. -/
def Desc.replicaOf (d : Desc) (station : Nat) : Nat :=
  match d.place with
  | 1 => station / 24
  | 2 => station / 12
  | _ => 0

/-- How many replicas a table has. -/
def Desc.replicas (d : Desc) : Nat :=
  match d.place with
  | 1 => 4
  | 2 => 8
  | _ => 1

/-! ### Reads of global words inside an instruction -/

/-- What such a read comes to. -/
inductive Loaded where
  | words (l : List Word)
  | held
  | bad (c : TrapCause)
  deriving DecidableEq, Repr

/-- n words of the partition control page or the discovery page, read one after the other. -/
def State.pageWords (s : State) (x : Access) : Nat → Loaded × State
  | 0 => (.words [], s)
  | n + 1 =>
    match s.pageWords x n with
    | (.words l, s1) =>
      let y := { x with va := x.va + 8 * n }
      let r := if s1.region y.va = .discovery then
          (Answer.ok (BitVec.ofNat 64 (s1.discoveryRead y.reader (y.va - discoveryBase) 8)), s1)
        else s1.controlPerform y
      if r.1.fault ≠ 0 then (.bad (precise r.1.fault (BitVec.ofNat 64 y.va) r.1.sub r.1.info), r.2)
      else (.words (l ++ [r.1.value]), r.2)
    | r => r

/-- A thread's request for n words of global memory (R192), checked as a load (R79). What another device answers is
free (log entry 21). -/
def State.loadWords (s : State) (t : ThreadId) (th : Thread) (va : Word) (n : Nat) : Loaded × State :=
  let st := stationOfCore t.core
  let user := th.status.mode == .user
  let x := Access.make t th .load 2 va.toNat 8 0 0 0 false false 0 s.time
  if wfld va 63 56 ≠ 0 then (.bad (precise 5 va 4 0), s)
  else
    match s.region va.toNat with
    | .discovery => s.pageWords x n
    | .control => s.pageWords x n
    | .remote d =>
      let code := s.foreignFault d va.toNat
      if code = 0 then (.words ((List.range n).map s.undefined), s)
      else (.bad (precise code va (s.foreignSub code va.toNat) 0), s)
    | .outside => (.bad (precise 5 va 4 0), s)
    | .hostWindow =>
      match s.translateIn (.table t) st th.ctxId.toNat va.toNat .load user true with
      | (.pa pa, s1) =>
        (.words ((List.range n).map (fun i => s1.phys.host.readWord ((s1.host.hwin.toNat + pa + 8 * i) % 2 ^ 64))), s1)
      | (.held, s1) => (.held, s1)
      | (.fault code sub info, s1) => (.bad (precise code va sub info), s1)
    | .paged =>
      match s.translateIn (.table t) st th.ctxId.toNat va.toNat .load user false with
      | (.pa pa, s1) =>
        let s2 := (((s1.settleFills pa (8 * n)).foldRange pa (8 * n)).findErrors pa (8 * n) th.ctxId.toNat (BitVec.ofNat 32 (s.place t))).sliceTouch
          pa (8 * n) false false
        match s2.tagRead th.ctxTag.toNat pa (8 * n) with
        | .ok bs => (.words ((chunkNats 8 n bs).map (BitVec.ofNat 64)), s2)
        | .error code => (.bad (precise code va 0 0), s2)
      | (.held, s1) => (.held, s1)
      | (.fault code sub info, s1) => (.bad (precise code va sub info), s1)

/-- A held page: the thread waits, and past 76,000 ticks the access fails with XLATE reason 3 (R229). -/
def State.holdOr (s : State) (t : ThreadId) (th : Thread) (late : State → State) : State :=
  match th.wait with
  | some (.held since) => if since + 76000 ≤ s.time.toNat then late s else s
  | _ => s.waitFor t (.held s.time.toNat)

/-! ### tbldef, tblinv, shardof -/

/-- The lowest-numbered station of a context's partition. -/
def State.lowestOf (s : State) (ctx : Nat) : Nat := lowestStation (((s.ctxAt ctx).map Context.stations).getD [])

/-- Puts an image into, or takes it from, a descriptor register of a station. -/
def Station.putDesc (k : Station) (n : Nat) (img : Option (List Word)) : Station :=
  { k with descs := match img with
      | some i => aset k.descs n i
      | none => aerase k.descs n }

/-- Sends an update of a register to the stations of the thread's partition, and waits until all of them hold it (R189, R192). -/
def State.spreadDesc (s : State) (t : ThreadId) (ctx n : Nat) (img : Option (List Word)) : State :=
  ({ s with
      descs := s.descs ++ [{ id := s.nextId, ctx := ctx, reg := n, image := img
                             todo := ((s.ctxAt ctx).map Context.stations).getD [] }]
      nextId := s.nextId + 1 } : State).waitFor t (.spread s.nextId)

/-- Whether a station may apply an update: the partition's lowest-numbered station in any order, which is their order of arrival
there; any other behind the lowest and behind the earlier updates of the register (R189). -/
def State.mayApply (s : State) (u : DescUpdate) (station : Nat) : Bool :=
  let low := s.lowestOf u.ctx
  u.todo.contains station && s.routeOpen (routeOf low station) &&
    (station == low || (!u.todo.contains low &&
      !(s.descs.takeWhile (fun v => v.id != u.id)).any (fun v =>
        v.ctx == u.ctx && v.reg == u.reg && !v.todo.contains low && v.todo.contains station)))

/-- A station applies an update (R189). The list keeps the order in which the lowest-numbered station took the updates. -/
def State.applyDesc (s : State) (id station : Nat) : State :=
  match s.descs.find? (fun u => u.id == id) with
  | none => s
  | some u =>
    if !s.mayApply u station then s
    else
      let v : DescUpdate := { u with todo := u.todo.filter (· != station) }
      let rest := s.descs.filter (fun w => w.id != id)
      let s1 := (s.touchRoute (routeOf (s.lowestOf u.ctx) station)).modStation station (fun k => k.putDesc u.reg u.image)
      { s1 with
        descs := if v.todo = [] then rest
          else if station = s.lowestOf u.ctx then rest ++ [v]
          else s.descs.map (fun w => if w.id == id then v else w) }

/-- Every update of a context under way reaches every station, in the order of the lowest one. -/
def State.settleDescs (s : State) (ctx : Nat) : State :=
  let mine := s.descs.filter (fun u => u.ctx == ctx)
  let low := s.lowestOf ctx
  (mine.filter (fun u => !u.todo.contains low) ++ mine.filter (fun u => u.todo.contains low)).foldl (fun s u =>
    (low :: u.todo).foldl (fun s st => s.applyDesc u.id st) s) s

/-- The first doubleword of n from an address on to which a posted store of the thread is still under way (R173). -/
def State.postedAmong (s : State) (t : ThreadId) (th : Thread) (va : Nat) (n : Nat) : Option (Nat × Nat) :=
  ((List.range n).map (fun i => s.spotOf t th.ctxId.toNat 2 (va + 8 * i))).find? (s.posting t)

/-- The way of a thread's read of global words inside an instruction; one that is held has gone it (R229, R269 to R271). -/
def State.tableWay (s : State) (t : ThreadId) (th : Thread) (va : Nat) : List Nat :=
  match th.wait with
  | some (.held _) => []
  | _ => s.pageWay (stationOfCore t.core) th.ctxId.toNat va

/-- tbldef (R192): its reads come behind the thread's posted stores to the image (R173); it completes when every station of the
partition holds the image. -/
def execTbldef (a b : Reg) (s : State) : Res :=
  s.onThread fun th =>
    s.gate th [a, b] [a, b]
      (if wfld (s.g b) 63 8 ≠ 0 then s.trapNow (precise 16 (s.g b) 0x20 0)
       else if (s.g a).toNat % 64 ≠ 0 then s.trapNow (precise 4 (s.g a) 0 0)
       else if let some w := s.postedAmong s.cur th (s.g a).toNat 8 then s.waitFor s.cur (.behind w.1 w.2)
       else s.byWay s.cur (s.tableWay s.cur th (s.g a).toNat) (fun s =>
         match s.loadWords s.cur th (s.g a) 8 with
         | (.bad c, s1) => s1.trapNow c
         | (.held, s1) => s1.holdOr s.cur th (fun s => s.trapNow (precise 5 (s.g a) 3 0))
         | (.words img, s1) =>
           if validImage img s.pkg.inPod then s1.spreadDesc s.cur th.ctxId.toNat (wfld (s.g b) 7 0) (some img)
           else s1.trapNow (precise 16 (s.g a) 0x23 0)))

/-- tblinv (R193). -/
def execTblinv (a : Reg) (s : State) : Res :=
  s.onThread fun th =>
    s.gate th [a] [a]
      (if wfld (s.g a) 63 8 ≠ 0 then s.trapNow (precise 16 (s.g a) 0x20 0)
       else s.spreadDesc s.cur th.ctxId.toNat (wfld (s.g a) 7 0) none)

/-- Where the leaf of an address puts it, whatever its permissions (R225). -/
def State.leafPlace (s : State) (st ctx va : Nat) : Xlated × State :=
  match s.leafFor (st / 8) ctx va with
  | (.moving, s1) => (.held, s1)
  | (.leaf level e, s1) => (.pa (leafAddress level e va), s1)
  | (.bad reason level, s1) => (.fault 5 reason level, s1)

/-- The station of an address's home slice, 127 where its translation fails, and none while its page is held (R195, R229); the
translation checks no permission. -/
def State.homeOrNone (s : State) (who : HeldBy) (st ctx va : Nat) : Option Nat × State :=
  if 2 ^ 56 ≤ va ∨ s.region va ≠ .paged then (some 127, s)
  else
    match s.inTurn who st ctx va (s.leafPlace st ctx va) with
    | (.held, s1) => (none, s1)
    | (.pa a, s1) => (some (if s1.inMap a then homeStation a else 127), s1)
    | (.fault _ _ _, s1) => (some 127, s1)

/-- The word of shardof for a shard and a device (R195). -/
def shardWord (dev station shard : Nat) : Word :=
  BitVec.ofNat 64 (dev % 2 ^ 14 * 2 ^ 42 + station % 128 * 2 ^ 32 + shard % 2 ^ 16)


/-- The device number in a doubleword of a device list. -/
def listedDevice (w : Word) (addr : Nat) : Nat := fld (w.toNat / 2 ^ (8 * (addr % 8))) 13 0

/-- The end of shardof where the device of a row is known, or could not be read: it waits for the translation of a row of this
device (R195). -/
def State.endShardof (s : State) (t : ThreadId) (th : Thread) (rd : Reg) (d : Desc) (r : Nat) (dev : Option Nat) : State :=
  match dev with
  | none => s.finishWith 4 rd (shardWord (s.undefined 0).toNat 127 (d.shardOf r).1)
  | some dev =>
    if dev ≠ s.pkg.device.toNat then s.finishWith 4 rd (shardWord dev 127 (d.shardOf r).1)
    else s.byWay t (s.tableWay t th (d.rowAddr r dev)) (fun s =>
      match s.homeOrNone (.table t) (stationOfCore t.core) th.ctxId.toNat (d.rowAddr r dev) with
      | (some st, s1) => s1.finishWith 4 rd (shardWord dev st (d.shardOf r).1)
      | (none, s1) => s1.holdOr t th (fun s => s.finishWith 4 rd (shardWord dev 127 (d.shardOf r).1)))

/-- shardof (R195). A device list that cannot be read gives an unstated device (log entry 25). -/
def execShardof (r : R3) (s : State) : Res :=
  s.onThread fun th =>
    s.gate th [r.d, r.a, r.b] [r.a, r.b]
      (if wfld (s.g r.a) 63 8 ≠ 0 then s.trapNow (precise 16 (s.g r.a) 0x20 0)
       else
         match aget (s.stationAt (stationOfCore s.cur.core)).descs (wfld (s.g r.a) 7 0) with
         | none => s.trapNow (precise 16 (BitVec.ofNat 64 (wfld (s.g r.a) 7 0)) 0x21 0)
         | some img =>
           let d := Desc.ofImage img
           let x := if d.iw then (s.g r.b).toNat else wfld (s.g r.b) 31 0
           if d.rows ≤ x then s.finishWith 4 r.d (BitVec.ofNat 64 (2 ^ 64 - 1))
           else if !d.pod then s.endShardof s.cur th r.d d x (some s.pkg.device.toNat)
           else
             let a := d.devlist + 2 * (d.shardOf x).1
             s.byWay s.cur (s.tableWay s.cur th (a / 8 * 8)) (fun s =>
               match s.loadWords s.cur th (BitVec.ofNat 64 (a / 8 * 8)) 1 with
               | (.bad _, s1) => s1.endShardof s.cur th r.d d x none
               | (.held, s1) => s1.holdOr s.cur th (fun s => s.endShardof s.cur th r.d d x none)
               | (.words l, s1) => s1.endShardof s.cur th r.d d x (some (listedDevice (l.headD 0) a))))

end Sys2Proof.Machine
end

