-- ==== Sys2Proof/Machine/Rows.lean ====
section
/-! DEFINITION. Row accesses of the engines: lookups and updates at home slices, pending accumulates, replicas, row
requests to other devices, and results owed to registers (13_consistency R184 to R187, 15_tables R194, R199, R203, R214,
21_fabric R286). -/

namespace Sys2Proof.Machine

/-- The record status of a fault code (R199). -/
def statusOf (fault : Nat) : Nat :=
  match fault with
  | 17 => 1
  | 12 => 2
  | 5 => 3
  | 6 => 4
  | 10 => 5
  | 11 => 6
  | 9 => 7
  | 20 => 8
  | _ => 4

/-- What a lookup comes to. -/
inductive Looked where
  | row (bs : List Byte)
  | failed (status : Nat)
  | held
  | remote (device : Nat)
  deriving DecidableEq, Repr

/-! ### Pending accumulates and replicas (R186, R187) -/

/-- How many of a row's pending accumulates, oldest first, a lookup must find folded: those through the last one whose
delta has passed (R186). -/
def dueFolds (now : Nat) : List PendingFold → Nat
  | [] => 0
  | f :: r => if 0 < dueFolds now r then dueFolds now r + 1 else if f.arrived + f.delta < now then 1 else 0

/-- Folds the first n pending accumulates that overlap a row. -/
def State.foldSome (s : State) (pa len n : Nat) : State :=
  let mine := (s.folds.filter (fun f => overlaps f.pa f.row.length pa len)).take n
  { s with phys := foldAll s.phys mine, folds := s.folds.filter (fun f => !(mine.any (fun g => g.id == f.id))) }

/-- What an update comes to. -/
inductive Updated where
  | done
  | failed (status : Nat)
  | held
  | remote (device : Nat)
  deriving DecidableEq, Repr

/-- An update at a holder, at a physical address (R184, R186): rowput folds what is pending and replaces the row; scadd adds at
once on a strict table, and is held unfolded else. rowput is a write and scadd a read-modify-write (R231, R232). Accesses that
arrived earlier and wait for a fill are performed first (R188). -/
def State.updateAt (s : State) (a : RowAgent) (pa : Nat) (add dbl : Bool) (delta : Nat) (row : List Byte) : Updated × State :=
  let s := s.settleFills pa row.length
  if !add then
    match ((s.foldRange pa row.length).sliceTouch pa row.length true false).tagWrite a.tag pa row a.ctx a.place with
    | .ok s2 => (.done, s2)
    | .error code => (.failed (statusOf code), s)
  else
    let s1 := ((s.findErrors pa row.length a.ctx a.place).sliceTouch pa row.length false false).sliceDirty pa row.length
    match s1.phys.readFault a.tag pa row.length with
    | some code => (.failed (statusOf code), s1)
    | none =>
      let s2 : State := { s1 with phys := (linesOf pa row.length).foldl (fun p l => p.adopt a.tag l) s1.phys }
      if delta = 0 then
        let s3 := s2.foldRange pa row.length
        (.done, { s3 with phys := s3.phys.addRow pa dbl row })
      else
        (.done, { s2 with
          folds := s2.folds ++ [{ id := s2.nextId, pa := pa, dbl := dbl, row := row, arrived := s2.time.toNat, delta := delta }]
          nextId := s2.nextId + 1 })

/-- What a forwarded update needs of its page: scadd rd and w (log entry 26). -/
def PendingReplica.need (r : PendingReplica) : Need := if r.add then .both else .store

/-- A forwarded update that has failed: its command takes it up where its completion waits for the replicas (R187, R199). -/
def State.failReplica (s : State) (r : PendingReplica) (status : Nat) : State :=
  if r.delta = 0 then
    { s with replicas := s.replicas.map (fun x => if x.id == r.id then { x with failed := some status } else x) }
  else { s with replicas := s.replicas.filter (fun x => x.id != r.id) }

/-- Applies one forwarded update at its replica, under its agent's tag (R187, R318). -/
def State.applyReplica (s : State) (r : PendingReplica) : State :=
  match r.pa, r.failed with
  | some pa, none =>
    match s.updateAt r.agent pa r.add r.dbl 0 r.row with
    | (.failed status, s1) => s1.failReplica r status
    | (_, s1) => { s1 with replicas := s1.replicas.filter (fun x => x.id != r.id) }
  | _, _ => s

/-- Translates a forwarded update whose page was held (R227, R229, R230). -/
def State.rewalkReplica (s : State) (r : PendingReplica) : State :=
  if (r.heldSince.getD 0) + 76000 ≤ s.time.toNat then s.failReplica r 3
  else
    match s.translateIn (.replica r.id) r.agent.station r.agent.ctx r.va r.need r.agent.user false with
    | (.pa pa, s1) =>
      { s1 with replicas := s1.replicas.map (fun x => if x.id == r.id then { x with pa := some pa, heldSince := none } else x) }
    | (.held, s1) => s1
    | (.fault code _ _, s1) => s1.failReplica r (statusOf code)

/-- Applies a forwarded update by number, after its page's walk where that was held. -/
def State.settleReplica (s : State) (id : Nat) : State :=
  match s.replicas.find? (fun r => r.id == id) with
  | none => s
  | some r =>
    let s1 := if r.pa.isNone && r.failed.isNone then s.rewalkReplica r else s
    match s1.replicas.find? (fun r => r.id == id) with
    | none => s1
    | some r1 => s1.applyReplica r1

/-- Where a forwarded update's row lies, one whose page was held included, once that is there. -/
def State.replicaAt (s : State) (r : PendingReplica) : Option Nat :=
  match r.pa with
  | some pa => some pa
  | none => s.whereIs r.agent.station r.agent.ctx r.va

/-- Whether a forwarded update waits for a replica row. -/
def State.waitsAt (s : State) (r : PendingReplica) (pa len : Nat) : Bool :=
  r.failed.isNone && ((s.replicaAt r).map (fun a => overlaps a r.row.length pa len)).getD false

/-- How many forwarded updates of a replica row must have been applied. -/
def dueReplicas (now : Nat) : List PendingReplica → Nat
  | [] => 0
  | f :: r => if 0 < dueReplicas now r then dueReplicas now r + 1 else if f.delta ≠ 0 ∧ f.applied + f.delta < now then 1 else 0

/-- The way of a late update (R270). -/
def LateUpdate.way (l : LateUpdate) : List Nat := routeOf l.agent.station (homeStation l.pa)

/-- A late update reaches its home slice, behind its command's earlier ones of its row (R179, R201); one that its lines' tags or
poison forbid by then has no effect. One held unfolded counts from its command's completion on (R186). -/
def State.performLate (s : State) (id : Nat) : State :=
  match s.lates.find? (fun l => l.id == id) with
  | none => s
  | some l =>
    if (s.lates.takeWhile (fun g => g.id != id)).any (fun g =>
        g.cmd == l.cmd && overlaps g.pa g.row.length l.pa l.row.length) then s
    else
      let s1 : State := { s.touchRoute l.way with lates := s.lates.filter (fun g => g.id != id) }
      let s2 := (s1.updateAt l.agent l.pa l.add l.dbl l.delta l.row).2
      { s2 with folds := s2.folds.map (fun f =>
          if f.id == s1.nextId then { f with arrived := min f.arrived (l.completed.getD f.arrived) } else f) }

/-- A late update on its way: nothing while a router there is not awake (R271, R275). -/
def State.lateArrives (s : State) (id : Nat) : State :=
  if (s.lates.filter (fun l => l.id == id)).all (fun l => s.routeOpen l.way) then s.performLate id else s

/-- How many of a row's late updates a lookup of a command must find performed: those through the last one whose command completed
more than delta before it issued (R186). -/
def dueLates (now : Nat) : List LateUpdate → Nat
  | [] => 0
  | l :: r =>
    if 0 < dueLates now r then dueLates now r + 1
    else if l.delta ≠ 0 ∧ (l.completed.map (fun t => decide (t + l.delta < now))).getD false then 1 else 0

/-- The late updates of a row that are due for a command of an issue tick are performed (R186). -/
def State.settleLates (s : State) (issued pa len : Nat) : State :=
  let mine := s.lates.filter (fun l => overlaps l.pa l.row.length pa len)
  ((mine.take (dueLates issued mine)).map LateUpdate.id).foldl State.performLate s

/-- What a lookup must find done to a row before it reads it. -/
def State.settleRow (s0 : State) (issued pa len : Nat) : State :=
  let now := s0.time.toNat
  let s := (s0.settleFills pa len).settleLates issued pa len
  let s1 := s.foldSome pa len (dueFolds now (s.folds.filter (fun f => overlaps f.pa f.row.length pa len)))
  let mine := s1.replicas.filter (fun r => s1.waitsAt r pa len)
  ((mine.take (dueReplicas now mine)).map PendingReplica.id).foldl State.settleReplica s1

/-- SCADD_FOLD: a pending accumulate is folded, behind the earlier ones of its row (R186). -/
def execScaddFold (id : Nat) (s : State) : Res :=
  match s.folds.find? (fun f => f.id == id) with
  | none => .next s
  | some f =>
    let mine := s.folds.filter (fun g => overlaps g.pa g.row.length f.pa f.row.length)
    .next (s.foldSome f.pa f.row.length ((mine.takeWhile (fun g => g.id != id)).length + 1))

/-- The way of a forwarded update: its page's walk where that was held, else to the replica's home slice (R269, R270). -/
def State.replicaWay (s : State) (r : PendingReplica) : List Nat :=
  match r.pa with
  | none => s.walkRoute r.agent.station r.agent.ctx r.va
  | some pa => routeOf r.agent.station (homeStation pa)

/-- REPLICA_UPDATE: a forwarded update is applied at its replica; nothing while an earlier one of its row waits (R187). One whose
page is held walks again (R229); nothing while a router on the way is not awake (R271). -/
def execReplicaUpdate (id : Nat) (s : State) : Res :=
  match s.replicas.find? (fun f => f.id == id) with
  | none => .next s
  | some f =>
    if (s.replicas.takeWhile (fun g => g.id != id)).any (fun g => g.failed.isNone && g.agent.ctx == f.agent.ctx &&
        overlaps g.va g.row.length f.va f.row.length) || f.failed.isSome || !s.routeOpen (s.replicaWay f) then .next s
    else
      let s1 := s.touchRoute (s.replicaWay f)
      if f.heldSince.isSome then .next (s1.rewalkReplica f) else .next (s1.applyReplica f)

/-! ### Lookups -/

/-- A read by an engine in one tick at the home slice (R184): a lookup leaves what may stay pending, any other read
folds first. -/
def State.engineRead (s : State) (a : RowAgent) (va n : Nat) (lookup : Bool) : Looked × State :=
  match (if 2 ^ 56 ≤ va then Region.outside else s.region va) with
  | .remote d => (.remote d, s)
  | .outside => (.failed 3, s)
  | .paged =>
    match s.translateIn a.who a.station a.ctx va .load a.user false with
    | (.fault code _ _, s1) => (.failed (statusOf code), s1)
    | (.held, s1) => (.held, s1)
    | (.pa pa, s1) =>
      let s2 := if lookup then s1.settleRow a.issued pa n else (s1.settleFills pa n).foldRange pa n
      let s3 := (s2.findErrors pa n a.ctx a.place).sliceTouch pa n false false
      match s3.tagRead a.tag pa n with
      | .ok bs => (.row bs, s3)
      | .error code => (.failed (statusOf code), s3)
  | _ => (.failed 4, s)

/-- The device of a row (R194): that of the device list for a pod table, read by the engine, in a tick of its own or here (R172);
what a list on another device holds is free (log entry 21). -/
def State.rowDevice (s : State) (a : RowAgent) (d : Desc) (r : Nat) : Looked × State :=
  if !d.pod then (.row (bytesLE 2 s.pkg.device.toNat), s)
  else if let some dev := a.dev then (.row (bytesLE 2 dev), s)
  else
    match s.engineRead a (d.devlist + 2 * (d.shardOf r).1) 2 false with
    | (.remote o, s1) =>
      let code := s.foreignFault o (d.devlist + 2 * (d.shardOf r).1)
      (if code = 0 then .row (bytesLE 2 (s.undefined 1).toNat) else .failed (statusOf code), s1)
    | x => x

/-- The address of a row at its primary holder. -/
def State.rowAddress (s : State) (a : RowAgent) (d : Desc) (r : Nat) : Except Looked Nat × State :=
  match s.rowDevice a d r with
  | (.row bs, s1) => (.ok (d.rowAddr r (ofBytesLE bs % 2 ^ 14)), s1)
  | (x, s1) => (.error x, s1)

/-- The way of an engine's access to an address of this device (R269 to R271). -/
def State.wayTo (s : State) (a : RowAgent) (va : Nat) : List Nat := s.pageWay a.station a.ctx va

/-- The way of an engine's access to a row, by its device list where that is still to be read (R194, R269 to R271). -/
def State.rowWay (s : State) (a : RowAgent) (d : Desc) (r : Nat) (lookup : Bool) : List Nat :=
  (if d.pod && a.dev.isNone then s.wayTo a (d.devlist + 2 * (d.shardOf r).1) else []) ++
    match s.rowAddress a d r with
    | (.ok va, _) => s.wayTo a (if lookup then va + d.replicaOf a.station * d.key.toNat * b2n (d.place != 0) else va)
    | _ => []

/-- An engine's access along a way: nothing while a router there is not awake (R271, R275). -/
def State.along (s : State) (way : List Nat) (op : State → State) : State :=
  if s.routeOpen way then op (s.touchRoute way) else s

/-- A lookup of a row at its nearest holder (R184, R187, R194). -/
def State.lookupRow (s : State) (a : RowAgent) (d : Desc) (r : Nat) : Looked × State :=
  match s.rowAddress a d r with
  | (.ok va, s1) => s1.engineRead a (va + d.replicaOf a.station * d.key.toNat * b2n (d.place != 0)) d.rowBytes true
  | (.error x, s1) => (x, s1)

/-! ### Updates -/

/-- Forwards an update to the replicas of a row (R187), each translated and counted as any engine write (R227, R229, R230): the
status of the first replica that its page forbids, 0 where there is none. -/
def State.forward (s : State) (a : RowAgent) (d : Desc) (va : Nat) (add : Bool) (row : List Byte) (cmd position : Nat) :
    List Nat → Nat × State
  | [] => (0, s)
  | k :: ks =>
    let at_ := va + k * d.key.toNat
    let r : PendingReplica :=
      { id := s.nextId, agent := a, va := at_, pa := none, heldSince := none, add := add, dbl := d.efmt == 1, row := row
        applied := s.time.toNat, delta := d.delta, cmd := cmd, position := position, failed := none }
    let put (s1 : State) (r : PendingReplica) : State := { s1 with replicas := s1.replicas ++ [r], nextId := s1.nextId + 1 }
    let fail (s1 : State) (status : Nat) : Nat × State :=
      (status, (s1.forward a d va add row cmd position ks).2)
    if 2 ^ 56 ≤ at_ then fail s 3
    else
      match s.region at_ with
      | .paged =>
        match s.translateIn (.replica r.id) a.station a.ctx at_ r.need a.user false with
        | (.pa pa, s1) => (put s1 { r with pa := some pa }).forward a d va add row cmd position ks
        | (.held, s1) => (put s1 { r with heldSince := some s.time.toNat }).forward a d va add row cmd position ks
        | (.fault code _ _, s1) => fail s1 (statusOf code)
      | .outside => fail s 3
      | _ => fail s 4

/-- The primary of an update: its device, or the physical address there (R184, R225, R227). scadd needs rd and w of its page
(log entry 26). -/
def State.primaryOf (s : State) (a : RowAgent) (va : Nat) (add : Bool) : Except Updated Nat × State :=
  if 2 ^ 56 ≤ va then (.error (.failed 3), s)
  else
    match s.region va with
    | .remote dev => (.error (.remote dev), s)
    | .outside => (.error (.failed 3), s)
    | .paged =>
      match s.translateIn a.who a.station a.ctx va (if add then .both else .store) a.user false with
      | (.fault code _ _, s1) => (.error (.failed (statusOf code)), s1)
      | (.held, s1) => (.error .held, s1)
      | (.pa pa, s1) => (.ok pa, s1)
    | _ => (.error (.failed 4), s)

/-- The address of an update's row, or what it comes to where its device list does not give one. -/
def State.updateAddress (s : State) (a : RowAgent) (d : Desc) (r : Nat) : Except Updated Nat × State :=
  match s.rowAddress a d r with
  | (.error .held, s1) => (.error .held, s1)
  | (.error (.failed st), s1) => (.error (.failed st), s1)
  | (.error _, s1) => (.error (.failed 1), s1)
  | (.ok va, s1) => (.ok va, s1)

/-- An update of a row: at its primary, then forwarded (R184, R187). -/
def State.updateRow (s : State) (a : RowAgent) (d : Desc) (r : Nat) (add : Bool) (row : List Byte) (cmd position : Nat) :
    Updated × State :=
  match s.updateAddress a d r with
  | (.error u, s1) => (u, s1)
  | (.ok va, s1) =>
    match s1.primaryOf a va add with
    | (.error u, s2) => (u, s2)
    | (.ok pa, s2) =>
      match s2.updateAt a pa add (d.efmt == 1) d.delta row with
      | (.done, s3) =>
        let f := s3.forward a d va add row cmd position ((List.range d.replicas).drop 1)
        (if f.1 = 0 then .done else .failed f.1, f.2)
      | x => x

/-! ### Row requests and updates for other devices (R214, R285, R286) -/

/-- Records what waits for a response of another device. -/
def State.awaitRow (s : State) (w : RowWait) : State :=
  { s with rowWaits := s.rowWaits ++ [w], nextId := s.nextId + 1 }

/-- The number under which a row request or update waits: the first from the model's next number on under which none waits.
DESIGN CHOICE: R214 says only that it identifies the waiting position. -/
def State.freeReqid (s : State) : Nat :=
  let used := s.rowWaits.map RowWait.reqid
  ((List.range (s.rowWaits.length + 1)).map (fun i => (s.nextId + i) % 2 ^ 16)).find? (fun i => !used.contains i) |>.getD
    (s.nextId % 2 ^ 16)

/-- Sends a row request: its waiting position is recorded under a request id. -/
def State.requestRow (s : State) (device station cmd position addr : Nat) (a : RowAgent) (d : Desc) (desc w : Nat) : State :=
  let tag := hashmW (BitVec.ofNat 64 addr) (BitVec.ofNat 64 d.base)
  let port := s.portFor device tag
  (s.awaitRow { reqid := s.freeReqid, station := station, cmd := cmd, position := position, addr := addr, tag := tag
                update := false, port := port }).sendPacket port
    (.rowRequest { srcdev := s.pkg.device.toNat, dstdev := device, ctx := a.ctx, reqid := s.freeReqid, tag := tag, addr := addr
                   desc := desc, w := w, rlog := d.rlog })

/-- Sends a row update, its row narrowed under w (R100): its position waits for the acknowledgement. -/
def State.sendUpdate (s : State) (device station cmd position addr : Nat) (a : RowAgent) (d : Desc) (w : Nat) (add : Bool)
    (row : List Byte) : State :=
  let port := s.granulePort device addr
  (s.awaitRow { reqid := s.freeReqid, station := station, cmd := cmd, position := position, addr := addr, tag := 0
                update := true, port := port }).sendPacket port
    (.rowUpdate device { device := s.pkg.device.toNat, reqid := s.freeReqid, ctx := a.ctx, addr := addr, add := add
                         dbl := d.efmt == 1, w := w, row := wireShrink w row, delta := d.delta })

/-! ### Results owed to registers (R203, R212, R217) -/

/-- Writes a result that is owed to a register: an undefined value where software wrote the register in between, or where
the result is none. -/
def State.payOwed (s : State) (t : ThreadId) (id : Nat) (v : Option Word) : State :=
  match s.threadAt t with
  | none => s
  | some th =>
    match th.owed.find? (fun o => o.id == id) with
    | none => s
    | some o =>
      let w := if o.spoiled then s.undefined id else v.getD (s.undefined id)
      let s1 := s.setThread t { th with owed := th.owed.filter (fun o => o.id != id) }
      if o.reg = 0 then s1 else s1.modCore t.core (fun k => k.setEntry (th.rfEntry o.reg.toNat) w)

/-- Whether the scratchpad of an area is closed to the engine of a core: a peer's that is closed or lost (R48, R238). -/
def State.areaClosed (s : State) (core area : Nat) : Bool :=
  let target := peerCore core (area / 2 ^ 18)
  target != core && ((s.coreAt target).lost || !(s.coreAt target).peersOpen)

/-- Writes bytes to the area of a command: none where it is closed. What the engine owes to a core that was lost is
discarded (R207); such a command names no slot of the core. -/
def State.areaWrite (s : State) (t : ThreadId) (area : Nat) (bs : List Byte) : Option State :=
  let target := peerCore t.core (area / 2 ^ 18)
  if s.areaClosed t.core area then none
  else if target = t.core ∧ 64 ≤ t.slot then some s
  else some (s.modCore target (fun k => k.spadWrite (area % 2 ^ 18) bs))

/-- Writes bytes to the issuing core's scratchpad. -/
def State.ownWrite (s : State) (t : ThreadId) (a : Nat) (bs : List Byte) : State :=
  if 64 ≤ t.slot then s else s.modCore t.core (fun k => k.spadWrite a bs)

end Sys2Proof.Machine
end

