-- ==== Sys2Proof/Machine/CopyEngine.lean ====
section
/-! DEFINITION. The indirect copy engine: gather, scatter, scadd, dedup, segred and isect (15_tables R196 to R207). -/

namespace Sys2Proof.Machine

/-! ### Operand words (R197) -/

def tblTimed (w : Word) : Bool := bitAt w.toNat 47
def tblDedup (w : Word) : Bool := bitAt w.toNat 46
def tblWire (w : Word) : Nat := wfld w 45 43
/-- The scope of the completion's release (R17, R179). -/
def tblScope (w : Word) : Nat := wfld w 42 40
def tblDesc (w : Word) : Nat := wfld w 39 32
def tblOp (w : Word) : Nat := wfld w 26 25
def tblArea (w : Word) : Nat := wfld w 24 0
def lstRec (w : Word) : Nat := wfld w 53 36
def lstAux (w : Word) : Nat := wfld w 35 18
def lstList (w : Word) : Nat := wfld w 17 0
def cntSecond (w : Word) : Nat := wfld w 28 16
def cntFirst (w : Word) : Nat := wfld w 12 0

/-- The major opcode of a command (R197). -/
def CopyKind.major : CopyKind → Nat
  | .gather => 0x59
  | .scatter => 0x5A
  | .scadd => 0x5B
  | .dedup => 0x5C
  | .segred => 0x5D
  | .isect => 0x5E

def CopyKind.timedOk (k : CopyKind) : Bool := k == .gather || k == .segred
/-- Whether a command reads no table rows: dedup and isect. -/
def CopyKind.listOnly (k : CopyKind) : Bool := k == .dedup || k == .isect
def CopyKind.usesAux (k : CopyKind) : Bool := k == .segred || k == .dedup || k == .isect
def CopyKind.usesSecond (k : CopyKind) : Bool := k == .segred || k == .isect
def CopyKind.update (k : CopyKind) : Bool := k == .scatter || k == .scadd

/-- Step 2 of R198 for the table word. -/
def tableWordBad (k : CopyKind) (w : Word) : Bool :=
  wfld w 63 48 != 0 || wfld w 31 27 != 0 || (!k.timedOk && tblTimed w) || (k != .gather && tblDedup w) ||
    (k != .segred && tblOp w != 0) || tblOp w == 3 || (k.listOnly && tblWire w != 0)

/-- Step 2 of R198 for the list word. -/
def listWordBad (k : CopyKind) (w : Word) : Bool :=
  wfld w 63 54 != 0 || (k.listOnly && lstRec w != 0) || (!k.usesAux && lstAux w != 0)

def countOk (n : Nat) : Bool := decide (1 ≤ n) && decide (n ≤ 4096)

/-- Step 2 of R198 for the count word. -/
def countWordBad (k : CopyKind) (w : Word) : Bool :=
  wfld w 63 29 != 0 || wfld w 15 13 != 0 || !countOk (cntFirst w) ||
    (if k.usesSecond then !countOk (cntSecond w) else cntSecond w != 0)

/-- The malformed operand word that tval names. DESIGN CHOICE: of several, the table word comes before the list word and that before
the count word, and at steps 5 to 7 the first range of R198's table is named; R198 does not say which. -/
def malformedWord (k : CopyKind) (table list count : Word) : Option Word :=
  if tableWordBad k table then some table
  else if listWordBad k list then some list
  else if countWordBad k count then some count
  else none

/-- Whether a wire code suits an element format (R198 step 4). -/
def wireBad (w efmt : Nat) : Bool :=
  w == 7 || (decide (1 ≤ w) && decide (w ≤ 4) && efmt != 0) || (decide (5 ≤ w) && efmt != 1)

/-- Step 4 of R198. -/
def formatBad (k : CopyKind) (w efmt : Nat) : Bool :=
  !k.listOnly && (wireBad w efmt || ((k == .scadd || k == .segred) && efmt != 0 && efmt != 1))

/-- A scratchpad range that a command names. -/
structure SpadRange where
  sp : Nat
  addr : Nat
  len : Nat
  align : Nat
  deriving DecidableEq, Repr

/-- Bytes of the completion record (R198). -/
def recordBytes (k : CopyKind) (count second : Nat) : Nat :=
  16 + 8 * ceilDiv count 64 + (if k = .segred then ceilDiv (2 * second) 8 * 8 else 0)

/-- The ranges of a command, in the order of R198's table. -/
def copyRanges (k : CopyKind) (d : Desc) (table list count : Word) : List SpadRange :=
  let n := cntFirst count
  let m := cntSecond count
  let lst : SpadRange := { sp := 0, addr := lstList list, len := n * d.indexBytes, align := d.indexBytes }
  let aux (len align : Nat) : SpadRange := { sp := 0, addr := lstAux list, len := len, align := align }
  let area (len : Nat) : SpadRange := { sp := 1, addr := tblArea table, len := len, align := 8 }
  let record : SpadRange := { sp := 0, addr := lstRec list, len := recordBytes k n m, align := 8 }
  match k with
  | .gather => [lst, area (n * d.rowBytes), record]
  | .scatter => [lst, area (n * d.rowBytes), record]
  | .scadd => [lst, area (n * d.rowBytes), record]
  | .segred => [lst, aux (2 * m) 2, area (m * d.rowBytes), record]
  | .dedup => [lst, area (n * d.indexBytes), aux (2 * n) 2]
  | .isect => [lst, aux (m * d.indexBytes) d.indexBytes, area (4 * min n m)]

/-- Whether a range ends past its scratchpad, or names a core index above 95 (R198 step 6). -/
def SpadRange.outside (r : SpadRange) : Bool :=
  if r.sp = 0 then decide (0x40000 < r.addr + r.len)
  else decide (0x40000 < r.addr % 2 ^ 18 + r.len) || decide (95 < r.addr / 2 ^ 18)

/-- Steps 5 to 7 of R198 on a command's ranges; which range tval names is the choice stated at `malformedWord`. -/
def State.rangeFault (s : State) (core : Nat) (rs : List SpadRange) : Option TrapCause :=
  match rs.find? (fun r => r.addr % r.align != 0) with
  | some r => some (precise 4 (BitVec.ofNat 64 r.addr) 0 0)
  | none =>
    match rs.find? SpadRange.outside with
    | some r => some (precise 6 (BitVec.ofNat 64 r.addr) 5 0)
    | none =>
      match rs.find? (fun r => (s.coreAt core).locked s.time.toNat (spadNumber core r.sp r.addr) r.len) with
      | some r => some (precise 7 (BitVec.ofNat 64 r.addr) 0 0)
      | none => none

/-- Steps 2 to 7 of R198. -/
def State.copyFault (s : State) (core : Nat) (k : CopyKind) (table list count : Word) : Option TrapCause :=
  match malformedWord k table list count with
  | some w => some (precise 16 w 0x20 0)
  | none =>
    match aget (s.stationAt (stationOfCore core)).descs (tblDesc table) with
    | none => some (precise 16 (BitVec.ofNat 64 (tblDesc table)) 0x21 0)
    | some img =>
      let d := Desc.ofImage img
      if formatBad k (tblWire table) d.efmt then some (precise 16 table 0x22 0)
      else s.rangeFault core (copyRanges k d table list count)

/-- Step 1 of R198 and the parity of g[rc + 1]. -/
def State.timedFault (s : State) (t : ThreadId) (th : Thread) (k : CopyKind) (rc : Reg) (table : Word) : Option TrapCause :=
  if k.timedOk && tblTimed table then
    if 8 * th.win.wsize ≤ rc.toNat + 1 then some (precise 3 (BitVec.ofNat 64 (rc.toNat + 1)) 0 0)
    else s.regFault t th [] [rc + 1]
  else none

/-! ### Issue (R198) -/

/-- Places range locks for a command (R178). -/
def Core.lock (k : Core) (core id : Nat) (rs : List SpadRange) : Core :=
  { k with locks := k.locks ++ rs.map (fun r => { id := id, addr := spadNumber core r.sp r.addr, len := r.len, freed := none }) }

/-- n list entries of a width from a scratchpad. -/
def readEntries (k : Core) (a width n : Nat) : List Nat := chunkNats width n (k.spad.readBytes a (width * n))

/-- Whether the offsets of a segred are malformed (R203). -/
def offsetsBad (count : Nat) : List Nat → Bool
  | [] => true
  | o :: r => o != 0 || !((o :: r).zip r).all (fun p => decide (p.1 ≤ p.2)) || decide (count < (o :: r).getLastD 0)

/-- The counted total of a segred, decided from its lists and its descriptor (R203). -/
def segredTotal (d : Desc) (entries : List Nat) (aux : List Nat) : Nat :=
  if offsetsBad entries.length aux then 0
  else entries.countP (fun x => x != d.missing && (decide (x < d.rows) || d.oob))

/-- A command as it enters the engine; its lists are read behind its issue (R177). -/
def State.makeCopy (s : State) (t : ThreadId) (th : Thread) (k : CopyKind) (rc : Reg) (table list count : Word) (ev : Nat)
    (img : List Word) (startAt : Option Nat) : CopyCmd :=
  { id := s.nextId, thread := t, kind := k, table := table, list := list, count := count, desc := img, ev := ev, rcReg := rc
    user := th.status.mode == .user, ctx := th.ctxId.toNat, tag := th.ctxTag.toNat, issued := s.time.toNat
    startAt := startAt, started := decide (startAt.getD 0 ≤ s.time.toNat), loaded := false, entries := [], badEntries := []
    aux := none, results := [], rows := [], kept := [], segs := [], devs := [], seen := [], out := [], reduced := false, closed := false, ending := none }

/-- The command enters the station's engine: locks, reply entry, owed result. -/
def State.enterEngine (s : State) (t : ThreadId) (th : Thread) (c : CopyCmd) (rs : List SpadRange) : State :=
  let owed := if c.kind = .segred ∧ c.rcReg ≠ 0 then
      th.owed ++ [{ id := c.id, kind := .segred, reg := c.rcReg, value := none, spoiled := false }] else th.owed
  let s1 := s.setThread t { th with replyReserved := th.replyReserved + 1, owed := owed }
  let s2 := (s1.modCore t.core (fun k => k.lock t.core c.id rs)).modStation (stationOfCore t.core) (fun k =>
    { k with copies := k.copies ++ [c] })
  { s2 with nextId := s2.nextId + 1 }

/-- Issue of a copy-engine command of n bytes (R198): its checks, a reply entry, range-lock entries, the engine. DESIGN CHOICE:
where it has waited for an entry, the whole instruction is executed again, its checks and its copy of the descriptor included;
R198 does not say whether they are taken anew. -/
def issueCopy (s : State) (k : CopyKind) (rc ra : Reg) (rb : Option Reg) (imm : Word) (ev : BitVec 4) (n : Nat) : Res :=
  s.onThread fun th =>
    s.gate th ([rc, ra] ++ rb.toList) ([rc, ra] ++ rb.toList)
      (let table := s.g rc
       let list := s.g ra
       let count := (rb.map s.g).getD imm
       s.orTrap (s.timedFault s.cur th k rc table)
         (s.orTrap (s.copyFault s.cur.core k table list count)
           (let img := (aget (s.stationAt (stationOfCore s.cur.core)).descs (tblDesc table)).getD []
            let rs := copyRanges k (Desc.ofImage img) table list count
            let startAt := if tblTimed table then some (s.g (rc + 1)).toNat else none
            if 8 ≤ th.replies.length + th.replyReserved then s.waitFor s.cur .replyRoom
            else if (s.coreAt s.cur.core).lockRoom < rs.length then s.waitFor s.cur (.lockRoom rs.length)
            else (s.enterEngine s.cur th (s.makeCopy s.cur th k rc table list count ev.toNat img startAt) rs).finish s.cur n)))

/-- gather (R200). -/
def execGather (x : XC) (s : State) : Res := issueCopy s .gather x.c x.a (some x.b) 0 x.ev 4
/-- scatter (R201). -/
def execScatter (x : XC) (s : State) : Res := issueCopy s .scatter x.c x.a (some x.b) 0 x.ev 4
/-- scadd (R201). -/
def execScadd (x : XC) (s : State) : Res := issueCopy s .scadd x.c x.a (some x.b) 0 x.ev 4
/-- dedup (R202). -/
def execDedup (x : XC) (s : State) : Res := issueCopy s .dedup x.c x.a (some x.b) 0 x.ev 4
/-- segred (R203). -/
def execSegred (x : XC) (s : State) : Res := issueCopy s .segred x.c x.a (some x.b) 0 x.ev 4
/-- isect (R204). -/
def execIsect (x : XC) (s : State) : Res := issueCopy s .isect x.c x.a (some x.b) 0 x.ev 4
/-- gather, long form (R64). -/
def execGatherLong (x : XL) (s : State) : Res := issueCopy s .gather x.c x.a none (imm32z x.imm) x.ev 8
/-- scatter, long form (R64). -/
def execScatterLong (x : XL) (s : State) : Res := issueCopy s .scatter x.c x.a none (imm32z x.imm) x.ev 8
/-- scadd, long form (R64). -/
def execScaddLong (x : XL) (s : State) : Res := issueCopy s .scadd x.c x.a none (imm32z x.imm) x.ev 8
/-- dedup, long form (R64). -/
def execDedupLong (x : XL) (s : State) : Res := issueCopy s .dedup x.c x.a none (imm32z x.imm) x.ev 8
/-- segred, long form (R64). -/
def execSegredLong (x : XL) (s : State) : Res := issueCopy s .segred x.c x.a none (imm32z x.imm) x.ev 8
/-- isect, long form (R64). -/
def execIsectLong (x : XL) (s : State) : Res := issueCopy s .isect x.c x.a none (imm32z x.imm) x.ev 8

/-! ### One position (R196, R200, R201) -/

def CopyCmd.d (c : CopyCmd) : Desc := Desc.ofImage c.desc

/-- Who asks for a position's row. -/
def CopyCmd.agent (c : CopyCmd) (s : State) (p : Nat) : RowAgent :=
  { station := stationOfCore c.thread.core, ctx := c.ctx, tag := c.tag, user := c.user
    place := BitVec.ofNat 32 (s.place c.thread), who := .position (stationOfCore c.thread.core) c.id p, dev := aget c.devs p
    issued := c.issued }

def State.copyAt (s : State) (st id : Nat) : Option CopyCmd := (s.stationAt st).copies.find? (fun c => c.id == id)
def State.modCopy (s : State) (st id : Nat) (f : CopyCmd → CopyCmd) : State :=
  s.modStation st (fun k => { k with copies := k.copies.map (fun c => if c.id == id then f c else c) })
def State.setPos (s : State) (st id p : Nat) (r : PosResult) : State :=
  s.modCopy st id (fun c => { c with results := aset c.results p r })

/-! ### The lists (R177, R198; log entry 28) -/

/-- The issuing core's scratchpad as the command has read it. -/
def State.listView (s : State) (c : CopyCmd) : Core := (s.coreAt c.thread.core).overlay c.thread.core c.seen

/-- Bytes of an entry of the second list: segred's offsets, isect's list B. -/
def CopyCmd.auxWidth (c : CopyCmd) : Nat := if c.kind = .segred then 2 else c.d.indexBytes

/-- The doublewords of a run of the own scratchpad, by their numbers in the package. -/
def CopyCmd.wordsIn (c : CopyCmd) (a n : Nat) : List Nat :=
  if n = 0 then [] else (List.range ((a + n - 1) / 8 - a / 8 + 1)).map (fun i => c.thread.core * 2 ^ 15 + a / 8 + i)

/-- The doublewords of a command's lists. -/
def CopyCmd.listWords (c : CopyCmd) : List Nat :=
  c.wordsIn (lstList c.list) (c.d.indexBytes * cntFirst c.count) ++
    (if c.kind.usesSecond then c.wordsIn (lstAux c.list) (c.auxWidth * cntSecond c.count) else [])

/-- The doubleword of a list entry. -/
def CopyCmd.entryWord (c : CopyCmd) (p : Nat) : Nat := c.thread.core * 2 ^ 15 + (lstList c.list + c.d.indexBytes * p) / 8

/-- The doublewords that are read before a position is performed: a gather's own entry (R200), an update's with those before it,
whose rows it comes behind (R201), the lists of a segred (R203). -/
def CopyCmd.wordsFor (c : CopyCmd) (p : Nat) : List Nat :=
  match c.kind with
  | .gather => [c.entryWord p]
  | .scatter | .scadd => c.wordsIn (lstList c.list) (c.d.indexBytes * (p + 1))
  | _ => c.listWords

/-- Whether a list entry has been read. -/
def CopyCmd.hasEntry (c : CopyCmd) (p : Nat) : Bool := c.loaded || (aget c.seen (c.entryWord p)).isSome

/-- A command with its lists as a scratchpad holds them. -/
def CopyCmd.withLists (c : CopyCmd) (k : Core) : CopyCmd :=
  let n := cntFirst c.count
  let m := cntSecond c.count
  { c with
    loaded := c.listWords.all (fun w => (aget c.seen w).isSome)
    entries := readEntries k (lstList c.list) c.d.indexBytes n
    badEntries := (List.range n).filter (fun i => k.badParity (lstList c.list + c.d.indexBytes * i) c.d.indexBytes)
    aux := if !c.kind.usesSecond then some []
      else if k.badParity (lstAux c.list) (c.auxWidth * m) then none
      else some (readEntries k (lstAux c.list) c.auxWidth m) }

/-- The total that a segred owes to g[rc], decided from its lists and its descriptor alone (R203). -/
def CopyCmd.total (c : CopyCmd) (k : Core) : Word :=
  BitVec.ofNat 64 (segredTotal c.d (readEntries k (lstList c.list) c.d.indexBytes (cntFirst c.count))
    (readEntries k (lstAux c.list) c.auxWidth (cntSecond c.count)))

/-- A doubleword of the scratchpads, as a command reads it now. -/
def CopyCmd.see (c : CopyCmd) (s : State) (w : Nat) : CopyCmd :=
  if (aget c.seen w).isSome then c
  else { c with seen := aset c.seen w ((s.coreAt (w / 2 ^ 15)).wordAt (w % 2 ^ 15)) }

/-- A command has read some doublewords of its lists, each of them once, in this tick where not before. -/
def State.reading (s : State) (c : CopyCmd) (words : List Nat) : CopyCmd :=
  let c1 := words.foldl (fun c w => c.see s w) c
  c1.withLists (s.listView c1)

/-- The value of an owed total: known, or as the lists of a command that has not read them stand now (R203). -/
def State.owedTotal (s : State) (t : ThreadId) (o : Owed) : Option Word :=
  match o.value with
  | some v => some v
  | none => (s.copyAt (stationOfCore t.core) o.id).map (fun c => c.total (s.listView c))

/-! ### Positions -/

/-- Whether a position still waits for its row access. -/
def CopyCmd.open (c : CopyCmd) (p : Nat) : Bool :=
  match aget c.results p with
  | none => true
  | some (.held _) => true
  | _ => false

/-- Whether a position waits for a row: its access is open, or its request is on its way. -/
def CopyCmd.wants (c : CopyCmd) (p : Nat) : Bool := c.open p || aget c.results p == some .requested

/-- The distinct entries that are not missing, ascending (R200, R202). -/
def CopyCmd.distinct (c : CopyCmd) : List Nat :=
  sortedSet (((c.entries.zipIdx).filter (fun e => e.1 != c.d.missing && !c.badEntries.contains e.2)).map Prod.fst)

/-- The positions, as far as their entries have been read, that name the same entry as position p. -/
def CopyCmd.sameAs (c : CopyCmd) (p : Nat) : List Nat :=
  ((c.entries.zipIdx).filter (fun e =>
    e.1 == c.entries.getD p 0 && !c.badEntries.contains e.2 && c.hasEntry e.2)).map Prod.snd

/-- Where a gather writes a position's row. -/
def CopyCmd.slotAddr (c : CopyCmd) (p : Nat) : Nat :=
  let slot := if tblDedup c.table then rankIn (c.entries.getD p 0) c.distinct else p
  tblArea c.table + slot * c.d.rowBytes

/-- A row as it arrives under the command's wire format (R100). -/
def CopyCmd.wired (c : CopyCmd) (row : List Byte) : List Byte :=
  wireWiden (tblWire c.table) (wireShrink (tblWire c.table) row)

/-- A write that a command has still to make (R177). -/
def State.addWrite (s : State) (st id pos addr : Nat) (bs : List Byte) : State :=
  s.modCopy st id (fun c => { c with out := c.out ++ [{ pos := pos, addr := addr, bytes := bs }] })

/-- One lookup serves every position with its entry (R200): a gather has the row to write, as soon as it knows the row's slot, a
segred keeps it. -/
def State.servePos (s : State) (st : Nat) (c : CopyCmd) (row : List Byte) (dflt : Bool) : List Nat → State
  | [] => s
  | q :: r =>
    let s1 := if c.kind = .segred then s.modCopy st c.id (fun c => { c with rows := aset c.rows q row })
      else if tblDedup c.table && !c.loaded then s
      else s.addWrite st c.id q (c.slotAddr q) row
    (s1.setPos st c.id q (if dflt then .writtenDefault else .written)).servePos st c row dflt r

/-- A row that a lookup has returned, widened, for every position that wants it, and kept for those whose entry is read later. -/
def State.serveRowTo (s : State) (st : Nat) (c : CopyCmd) (p : Nat) (dflt : Bool) (row : List Byte) : State :=
  (s.modCopy st c.id (fun c => { c with kept := aset c.kept (c.entries.getD p 0) (row, dflt) })).servePos st c row dflt
    ((c.sameAs p).filter c.wants)

/-- Gives several positions one result. -/
def State.setAll (s : State) (st id : Nat) (res : PosResult) : List Nat → State
  | [] => s
  | q :: r => (s.setPos st id q res).setAll st id res r

/-- A position whose page is held; past 76,000 ticks it fails with XLATE (R229). -/
def State.holdPos (s : State) (st : Nat) (c : CopyCmd) (p : Nat) : State :=
  match aget c.results p with
  | some (.held since) => if since + 76000 ≤ s.time.toNat then s.setPos st c.id p (.failed 3) else s
  | _ => s.setPos st c.id p (.held s.time.toNat)

/-- What a lookup's outcome makes of the positions with its entry. -/
def State.takeLookup (s : State) (st : Nat) (c : CopyCmd) (p : Nat) (dflt : Bool) (addr : Nat) (l : Looked) : State :=
  match l with
  | .row bs => s.serveRowTo st c p dflt (c.wired bs)
  | .failed status => s.setAll st c.id (.failed status) ((c.sameAs p).filter c.wants)
  | .held => s.holdPos st c p
  | .remote dev =>
    if s.linked dev then
      (s.requestRow dev st c.id p addr (c.agent s p) c.d (tblDesc c.table) (tblWire c.table)).setAll st c.id .requested
        ((c.sameAs p).filter c.wants)
    else s.setAll st c.id (.failed 1) ((c.sameAs p).filter c.wants)

/-- The address of the row that a position's lookup reads. -/
def State.lookupAddr (s : State) (c : CopyCmd) (p : Nat) : Nat :=
  match s.rowAddress (c.agent s p) c.d (c.entries.getD p 0) with
  | (.ok va, _) => va + c.d.replicaOf (c.agent s p).station * c.d.key.toNat * b2n (c.d.place != 0)
  | _ => 0

/-- The source row of an update position, as far as the command has read it one by one. -/
def State.sourceRow (s : State) (c : CopyCmd) (p : Nat) : Except Nat (List Byte) :=
  let area := tblArea c.table + p * c.d.rowBytes
  let k := (s.coreAt (peerCore c.thread.core (area / 2 ^ 18))).overlay (peerCore c.thread.core (area / 2 ^ 18)) c.seen
  if s.areaClosed c.thread.core area || (decide (64 ≤ c.thread.slot) && peerCore c.thread.core (area / 2 ^ 18) == c.thread.core) then
    .error 7
  else if k.badParity (area % 2 ^ 18) c.d.rowBytes then .error 8
  else .ok (k.spad.readBytes (area % 2 ^ 18) c.d.rowBytes)

/-- One update position: applied on this device, or sent to another, whose acknowledgement it then waits for (R285). -/
def State.updatePos (s : State) (st : Nat) (c : CopyCmd) (p : Nat) : State :=
  match s.sourceRow c p with
  | .error status => s.setPos st c.id p (.failed status)
  | .ok row =>
    match s.updateRow (c.agent s p) c.d (c.entries.getD p 0) (c.kind == .scadd) (c.wired row) c.id p with
    | (.done, s1) => s1.setPos st c.id p .written
    | (.failed status, s1) => s1.setPos st c.id p (.failed status)
    | (.held, s1) => s1.holdPos st c p
    | (.remote dev, s1) =>
      if !s1.linked dev then s1.setPos st c.id p (.failed 1)
      else
        (s1.sendUpdate dev st c.id p (s1.lookupAddr c p) (c.agent s p) c.d (tblWire c.table) (c.kind == .scadd) row).setPos st c.id p .requested

/-- One update position whose home slice lies outside the command's scope: its checks are made, and the update reaches the slice
by and by, behind the command's completion where it so falls (R179). -/
def State.latePos (s : State) (st : Nat) (c : CopyCmd) (p : Nat) : State :=
  match s.sourceRow c p, s.updateAddress (c.agent s p) c.d (c.entries.getD p 0) with
  | .ok row, (.ok va, s1) =>
    match s1.primaryOf (c.agent s p) va (c.kind == .scadd) with
    | (.ok pa, s2) =>
      if c.d.place ≠ 0 ∨ s2.sliceScope c.thread (homeStation pa) ≤ tblScope c.table ∨ s2.writeRefused c.tag pa c.d.rowBytes ∨
          (c.kind = .scadd ∧ (s2.phys.readFault c.tag pa c.d.rowBytes).isSome) then s
      else
        ({ s2 with
            lates := s2.lates ++ [{ id := s2.nextId, cmd := c.id, position := p, agent := c.agent s p, va := va, pa := pa
                                    completed := none, add := c.kind == .scadd, dbl := c.d.efmt == 1, delta := c.d.delta
                                    row := c.wired row }]
            nextId := s2.nextId + 1 } : State).setPos st c.id p .written
    | _ => s
  | _, _ => s

/-- Whether an update position waits for an earlier one that names its row: updates of one row are performed in list order
(R201). -/
def CopyCmd.behindUpdate (c : CopyCmd) (p : Nat) : Bool := (c.sameAs p).any (fun q => decide (q < p) && c.open q)

/-- The late updates of a command's earlier positions of a row (R179, R201). -/
def State.ownLates (s : State) (c : CopyCmd) (p : Nat) : List Nat :=
  (s.lates.filter (fun l => l.cmd == c.id && (c.sameAs p).contains l.position)).map LateUpdate.id

/-- One update position at once, behind the command's own late ones of its row, which are performed first (R201). -/
def State.updateNow (s : State) (st : Nat) (c : CopyCmd) (p : Nat) : State :=
  let s1 := (s.ownLates c p).foldl State.performLate s
  if s1.ownLates c p != [] then s1
  else s1.along (s1.rowWay (c.agent s1 p) c.d (c.entries.getD p 0) false) (fun s => s.updatePos st c p)

/-- What a position takes over from an earlier one of its entry: the row, the failure, or the wait for another device (R200). -/
def CopyCmd.sharedEnd (c : CopyCmd) (p : Nat) : Option PosResult :=
  (c.sameAs p).findSome? (fun q => match aget c.results q with
    | some (.failed status) => some (.failed status)
    | some .requested => some .requested
    | _ => none)

/-- A lookup position: served by what a lookup of its entry has come to, else by its own (R200). -/
def State.lookupPos (s : State) (st : Nat) (c : CopyCmd) (p : Nat) : State :=
  let x := c.entries.getD p 0
  let a := c.agent s p
  match aget c.kept x, c.sharedEnd p with
  | some (row, dflt), _ => s.servePos st c row dflt [p]
  | none, some e => s.setPos st c.id p e
  | none, none =>
    if c.d.rows ≤ x then
      s.along (s.wayTo a c.d.dflt) (fun s =>
        let l := s.engineRead a c.d.dflt c.d.rowBytes true
        l.2.takeLookup st c p true c.d.dflt l.1)
    else
      s.along (s.rowWay a c.d x true) (fun s =>
        let l := s.lookupRow a c.d x
        l.2.takeLookup st c p false (s.lookupAddr c p) l.1)

/-- Performs one position of a started command (R196, R200, R201). -/
def State.copyPos (s : State) (st : Nat) (c : CopyCmd) (p : Nat) : State :=
  let x := c.entries.getD p 0
  if !c.open p || decide (c.entries.length ≤ p) then s
  else if c.badEntries.contains p then s.setPos st c.id p (.failed 8)
  else if x = c.d.missing then
    if c.kind = .gather ∧ tblDedup c.table = false then
      (s.addWrite st c.id p (c.slotAddr p) (List.replicate c.d.rowBytes 0)).setPos st c.id p .zeroed
    else s.setPos st c.id p .skipped
  else if c.d.rows ≤ x ∧ c.d.oob = false then s.setPos st c.id p (.failed 2)
  else if c.kind.update then
    if c.d.rows ≤ x then s.setPos st c.id p .defaulted
    else if c.behindUpdate p then s
    else s.updateNow st c p
  else s.lookupPos st c p

/-- Whether the row positions of a command are performed at all: not for list commands, nor for a segred whose offsets
are malformed or unreadable. -/
def CopyCmd.hasRows (c : CopyCmd) : Bool :=
  !c.kind.listOnly && (c.kind != .segred || (match c.aux with
    | none => false
    | some o => !offsetsBad c.entries.length o))

/-- What follows once a command has read all of its lists: a segred's total is known (R203), and the rows that a gather under
dedup has already have their slots (R200). -/
def State.listsRead (s : State) (st : Nat) (c : CopyCmd) : State :=
  let s1 := s.modThread c.thread (fun th =>
    { th with owed := th.owed.map (fun o =>
        if o.id == c.id && o.kind == .segred then { o with value := some (c.total (s.listView c)) } else o) })
  if c.kind = .gather ∧ tblDedup c.table then
    (c.results.filter (fun r => r.2 == .written || r.2 == .writtenDefault)).foldl (fun s r =>
      s.addWrite st c.id r.1 (c.slotAddr r.1) (((aget c.kept (c.entries.getD r.1 0)).map Prod.fst).getD [])) s1
  else s1

/-- A command reads some doublewords of its lists: nothing where it has read them all. -/
def State.readLists (s : State) (st : Nat) (c : CopyCmd) (words : List Nat) : State :=
  if c.loaded || words.all (fun w => (aget c.seen w).isSome) then s
  else
    let c1 := s.reading c words
    let s1 := s.modCopy st c.id (fun _ => c1)
    if c1.loaded then s1.listsRead st c1 else s1

/-- An operation on a started command that has read some doublewords of its lists. -/
def State.onCopy (s : State) (st id : Nat) (words : CopyCmd → List Nat) (op : State → CopyCmd → State) : State :=
  match s.copyAt st id with
  | none => s
  | some c =>
    if !c.started then s
    else
      let s1 := s.readLists st c (words c)
      match s1.copyAt st id with
      | none => s1
      | some c1 => op s1 c1

/-- SEGRED_COUNT_RESULT: the counted total of a segred is written when due; its lists are read by then, before its start too
(R203). -/
def execSegredCountResult (t : ThreadId) (id : Nat) (s : State) : Res :=
  match (s.threadAt t).bind (fun th => th.owed.find? (fun o => o.id == id)) with
  | none => .next s
  | some o =>
    if o.kind = .segred then
      match s.copyAt (stationOfCore t.core) id with
      | none => .next (s.payOwed t id (s.owedTotal t o))
      | some c => .next ((s.readLists (stationOfCore t.core) c c.listWords).payOwed t id (s.owedTotal t o))
    else .next s

/-- Whether a position of an update may be performed late: it is open, lies in the table, and no earlier one of its row waits. -/
def CopyCmd.mayBeLate (c : CopyCmd) (p : Nat) : Bool :=
  c.hasRows && c.kind.update && c.open p && decide (p < c.entries.length) && !c.badEntries.contains p &&
    c.entries.getD p 0 != c.d.missing && decide (c.entries.getD p 0 < c.d.rows) && !c.behindUpdate p

/-- A position of a started command, by number. -/
def State.stepCopy (s : State) (st id p : Nat) : State :=
  s.onCopy st id (fun c => c.wordsFor p) (fun s c => if c.hasRows then s.copyPos st c p else s)

/-- The same, late (R179). -/
def State.stepLate (s : State) (st id p : Nat) : State :=
  s.onCopy st id (fun c => c.wordsFor p) (fun s c =>
    if c.mayBeLate p then s.along (s.rowWay (c.agent s p) c.d (c.entries.getD p 0) false) (fun s => s.latePos st c p) else s)

/-- A position's device-list entry is read in a tick of its own (R172, R194). -/
def State.copyDevice (s : State) (st id p : Nat) : State :=
  s.onCopy st id (fun c => c.wordsFor p) (fun s c =>
    let x := c.entries.getD p 0
    let a := c.agent s p
    if c.hasRows && c.open p && decide (p < c.entries.length) && !c.badEntries.contains p && x != c.d.missing &&
        decide (x < c.d.rows) && c.d.pod && a.dev.isNone then
      s.along (s.wayTo a (c.d.devlist + 2 * (c.d.shardOf x).1)) (fun s =>
        match s.rowDevice a c.d x with
        | (.row bs, s1) => s1.modCopy st id (fun c => { c with devs := aset c.devs p (ofBytesLE bs % 2 ^ 14) })
        | (.held, s1) => s1.holdPos st c p
        | (_, s1) => s1)
    else s)

/-- One of a command's writes is made; where the area is closed, its position or the command fails with PEERGONE (R48, R199). -/
def State.putWrite (s : State) (st : Nat) (c : CopyCmd) (x : SpadWrite) : State :=
  match s.areaWrite c.thread x.addr x.bytes with
  | some s1 => s1
  | none =>
    s.modCopy st c.id (fun c =>
      if c.reduced || c.kind == .segred then { c with closed := true } else { c with results := aset c.results x.pos (.failed 7) })

/-- All the writes that a command has still to make. -/
def State.flushCopy (s : State) (st id : Nat) : State :=
  match s.copyAt st id with
  | none => s
  | some c => (c.out.foldl (fun s x => s.putWrite st c x) s).modCopy st id (fun c => { c with out := [] })

/-- A scratchpad doubleword of a command, by its number in the package: the write of it that is due first, else its read, if the
command has not read it (R172, R177, R180). -/
def State.copyWord (s : State) (st id word : Nat) : State :=
  match s.copyAt st id with
  | none => s
  | some c =>
    let n := word / 2 ^ 15 % 96 * 2 ^ 15 + word % 2 ^ 15
    if !c.started || word / 2 ^ 15 / 96 != c.thread.core / 96 then s
    else
      match takeFirst (fun x => x.covers n) c.out with
      | some (x, r) => (s.putWrite st c (x.cut n).1).modCopy st id (fun c => { c with out := (x.cut n).2 ++ r })
      | none =>
        if c.listWords.contains word then s.readLists st c [word] else s.modCopy st id (fun c => c.see s word)

/-! ### Completion (R199, R202 to R204) -/

def PosResult.failure : PosResult → Option Nat
  | .failed s => some s
  | _ => none
def PosResult.counted : PosResult → Bool
  | .written => true
  | .writtenDefault => true
  | _ => false
def PosResult.isDefault : PosResult → Bool
  | .defaulted => true
  | .writtenDefault => true
  | _ => false
def PosResult.isSkip : PosResult → Bool
  | .skipped => true
  | .zeroed => true
  | _ => false
def PosResult.settled : PosResult → Bool
  | .held _ => false
  | .requested => false
  | _ => true

/-- A failure of the whole command counts as position 0 (R199). -/
def CopyEnd.whole (status value : Nat) : CopyEnd := { status := status, first := 0, value := value, failed := [0] }

/-- done of R199: under dedup, rows written. -/
def CopyCmd.doneCount (c : CopyCmd) : Nat :=
  let ps := (c.results.filter (fun r => r.2.counted)).map Prod.fst
  if tblDedup c.table then (sortedSet (ps.map (fun p => c.entries.getD p 0))).length else ps.length

/-- The end of a command from its positions. -/
def CopyCmd.endOf (c : CopyCmd) : CopyEnd :=
  match c.results.filterMap (fun r => r.2.failure.map (fun st => (r.1, st))) with
  | [] => { status := 0, first := 0, value := c.doneCount, failed := [] }
  | (p, st) :: l => { status := st, first := p, value := c.doneCount, failed := p :: l.map Prod.fst }

/-- The completion record (R199). -/
def CopyCmd.record (c : CopyCmd) (e : CopyEnd) (counts : List Nat) : List Byte :=
  let n := c.entries.length
  bytesLE 8 (e.status % 256 * 2 ^ 56 + e.first % 2 ^ 16 * 2 ^ 16 + e.value % 2 ^ 16) ++
    bytesLE 8 ((c.results.countP (fun r => r.2.isDefault)) * 2 ^ 16 + c.results.countP (fun r => r.2.isSkip)) ++
    bytesLE (8 * ceilDiv n 64) (e.failed.foldl (fun a p => a + 2 ^ p) 0) ++
    (if c.kind = .segred then
      (counts.flatMap (bytesLE 2) ++ List.replicate 8 0).take (ceilDiv (2 * counts.length) 8 * 8) else [])

/-- The positions of segment j (R203). -/
def segmentOf (aux : List Nat) (n j : Nat) : List Nat :=
  let lo := aux.getD j 0
  let hi := if j + 1 < aux.length then aux.getD (j + 1) 0 else n
  (List.range (hi - lo)).map (fun i => lo + i)

/-- Elements of two rows combined one by one. -/
def zipRows (n : Nat) (f : Nat → Nat → Nat) (a b : List Byte) : List Byte :=
  (List.zipWith (fun x y => bytesLE n (f x y)) (chunkNats n (a.length / n) a) (chunkNats n (b.length / n) b)).flatten

/-- A row with every NaN canonical (R88). -/
def canonRow (f : Fmt) (row : List Byte) : List Byte :=
  let n := f.width / 8
  (chunkNats n (row.length / n) row).flatMap (fun x => bytesLE n (if (decodeF f x).isNan then f.canon else x))

/-- The reduction of one segment's rows in list order (R203, R101); a NaN of the only row is written canonical as well (R88; log
entry 54). -/
def reduceRows (d : Desc) (op : Nat) (rows : List (List Byte)) : List Byte :=
  let f := Fmt.ofDbl (d.efmt == 1)
  let n := f.width / 8
  match rows with
  | [] => List.replicate d.rowBytes 0
  | r :: l =>
    if op = 2 then canonRow f (l.foldl (zipRows n (fun x y => (fpMinMax f true x y).bits)) r)
    else
      let sum := canonRow f (l.foldl (zipRows n (fun x y => (fpAdd f x y 0).bits)) r)
      if op = 1 then
        let c := (roundF f false rows.length 0 0 false).bits
        ((chunkNats n (d.rowBytes / n) sum).map (fun x => bytesLE n (fpDiv f x c 0).bits)).flatten
      else sum

/-- The row of a segment of a segred. -/
def CopyCmd.segment (c : CopyCmd) (aux : List Nat) (j : Nat) : List Byte :=
  reduceRows c.d (tblOp c.table) ((segmentOf aux c.entries.length j).filterMap (fun p => aget c.rows p))

/-- A merge of two strictly ascending lists (R204): the pairs found, and whether an entry was not above its predecessor. -/
def mergeLists (missing : Nat) : Nat → List (Nat × Nat) → List (Nat × Nat) → Option Nat → Option Nat → List (Nat × Nat) →
    List (Nat × Nat) × Bool
  | 0, _, _, _, _, out => (out.reverse, false)
  | fuel + 1, a, b, pa, pb, out =>
    let a := if (a.head?.map Prod.fst) == some missing then [] else a
    let b := if (b.head?.map Prod.fst) == some missing then [] else b
    let bad (p : Option Nat) (l : List (Nat × Nat)) : Bool :=
      match p, l with
      | some v, x :: _ => decide (x.1 ≤ v)
      | _, _ => false
    if bad pa a || bad pb b then (out.reverse, true)
    else
      match a, b with
      | [], [] => (out.reverse, false)
      | x :: a', [] => mergeLists missing fuel a' [] (some x.1) pb out
      | [], y :: b' => mergeLists missing fuel [] b' pa (some y.1) out
      | x :: a', y :: b' =>
        if x.1 = y.1 then mergeLists missing fuel a' b' (some x.1) (some y.1) ((x.2, y.2) :: out)
        else if x.1 < y.1 then mergeLists missing fuel a' (y :: b') (some x.1) pb out
        else mergeLists missing fuel (x :: a') b' pa (some y.1) out

/-- An own-scratchpad address as a chiplet scratchpad address (R14). -/
def CopyCmd.ownArea (c : CopyCmd) (a : Nat) : Nat := c.thread.core % 96 * 2 ^ 18 + a

/-- The pairs that an isect finds, and whether a list was out of order (R204). -/
def CopyCmd.matches (c : CopyCmd) (aux : List Nat) : List (Nat × Nat) × Bool :=
  mergeLists c.d.missing (c.entries.length + aux.length + 1) c.entries.zipIdx aux.zipIdx none none []

/-- The results of a list command in scratchpads (R202, R204): none where a list could not be read. -/
def CopyCmd.outputs (c : CopyCmd) : List SpadWrite :=
  let put (addr : Nat) (bs : List Byte) : SpadWrite := { pos := 0, addr := addr, bytes := bs }
  match c.kind, c.aux with
  | .dedup, _ =>
    if c.badEntries ≠ [] then []
    else
      let u := c.distinct
      [put (c.ownArea (lstAux c.list))
          (c.entries.flatMap (fun x => bytesLE 2 (if x = c.d.missing then 0xFFFF else rankIn x u))),
        put (tblArea c.table) (u.flatMap (bytesLE c.d.indexBytes))]
  | .isect, some aux =>
    if c.badEntries ≠ [] then []
    else [put (tblArea c.table) ((c.matches aux).1.flatMap (fun p => bytesLE 4 (p.2 * 2 ^ 16 + p.1)))]
  | _, _ => []

/-- The segments of a segred whose positions are all settled and whose row is not on its way yet (R203). -/
def CopyCmd.readySegs (c : CopyCmd) : List Nat :=
  match c.aux with
  | none => []
  | some aux =>
    if c.kind != .segred || offsetsBad c.entries.length aux then []
    else (List.range aux.length).filter (fun j => !c.segs.contains j &&
      (segmentOf aux c.entries.length j).all (fun p => ((aget c.results p).map PosResult.settled).getD false))

/-- The rows of those segments are on their way. -/
def CopyCmd.putSegs (c : CopyCmd) : CopyCmd :=
  { c with
    segs := c.segs ++ c.readySegs
    out := c.out ++ c.readySegs.map (fun j =>
      { pos := 0, addr := tblArea c.table + j * c.d.rowBytes, bytes := c.segment (c.aux.getD []) j }) }

/-- The counts of a segred's segments (R199, R203). -/
def CopyCmd.segCounts (c : CopyCmd) : List Nat :=
  match c.aux with
  | none => List.replicate (cntSecond c.count) 0
  | some aux =>
    if offsetsBad c.entries.length aux then aux.map (fun _ => 0)
    else
      (List.range aux.length).map (fun j =>
        (segmentOf aux c.entries.length j).countP (fun p => (aget c.rows p).isSome))

/-- What a command ends with, once its rows and results have been written (R199, R202 to R204). Where a segred's area is closed no
row is written, so done is 0 (log entry 42). DESIGN CHOICE: the reply value of a dedup or an isect that ends with status 8 is 0;
R199 states no count for it. -/
def CopyCmd.conclude (c : CopyCmd) : CopyEnd :=
  let ok (value : Nat) : CopyEnd := { status := 0, first := 0, value := value, failed := [] }
  match c.kind, c.aux with
  | .dedup, _ =>
    if c.badEntries ≠ [] then .whole 8 0 else if c.closed then .whole 7 c.distinct.length else ok c.distinct.length
  | .isect, some aux =>
    if c.badEntries ≠ [] then .whole 8 0
    else
      let n := (c.matches aux).1.length
      if c.closed then .whole 7 n else if (c.matches aux).2 then .whole 9 n else ok n
  | .segred, some aux =>
    if offsetsBad c.entries.length aux then .whole 9 0
    else if c.closed then { status := 7, first := 0, value := 0, failed := insertNat 0 c.endOf.failed }
    else c.endOf
  | .isect, none => .whole 8 0
  | .segred, none => .whole 8 0
  | _, _ => c.endOf

/-- The record of a command that has one. -/
def CopyCmd.recordWrite (c : CopyCmd) (e : CopyEnd) : List SpadWrite :=
  if c.kind.listOnly then []
  else [{ pos := 0, addr := c.ownArea (lstRec c.list), bytes := c.record e (if c.kind = .segred then c.segCounts else []) }]

/-- Takes up the replicas' failures of a command (R187, R199). -/
def State.takeReplicas (s : State) (st : Nat) (c : CopyCmd) : State :=
  let mine := s.replicas.filter (fun r => r.cmd == c.id && r.failed.isSome)
  mine.foldl (fun s r => s.setPos st c.id r.position (.failed (r.failed.getD 0)))
    { s with replicas := s.replicas.filter (fun r => !(r.cmd == c.id && r.failed.isSome)) }

/-- Whether every position of a command is settled, and its strict table's replicas too (R187). -/
def State.copySettled (s : State) (c : CopyCmd) : Bool :=
  (!c.hasRows || (List.range c.entries.length).all (fun p => ((aget c.results p).map PosResult.settled).getD false)) &&
    (c.d.delta != 0 || !s.replicas.any (fun r => r.cmd == c.id))

/-- A command goes on: a segred to the rows of its settled segments, and once everything is settled and written, a list command to
its results, any to its record (R199, R202 to R204). -/
def State.turnCopy (s : State) (st : Nat) (c0 : CopyCmd) : State :=
  let s1 := s.takeReplicas st c0
  match s1.copyAt st c0.id with
  | none => s1
  | some c =>
    if c.ending.isSome then s1
    else if c.readySegs != [] then s1.modCopy st c.id CopyCmd.putSegs
    else if !s1.copySettled c || c.out != [] then s1
    else if c.kind.listOnly && !c.reduced then
      s1.modCopy st c.id (fun c => { c with reduced := true, out := c.outputs })
    else s1.modCopy st c.id (fun c => { c with ending := some c.conclude, out := c.recordWrite c.conclude })

/-- The doublewords that a command has read before it goes on: a list command and a segred, all. -/
def CopyCmd.wordsToTurn (c : CopyCmd) : List Nat := if c.kind.listOnly || c.kind == .segred then c.listWords else []

/-- A command goes on where it stands. -/
def State.copyTurn (s : State) (st id : Nat) : State := s.onCopy st id CopyCmd.wordsToTurn (fun s c => s.turnCopy st c)

/-- All that a command has still to write is written, then it goes on. -/
def State.advanceCopy (s : State) (st id : Nat) : State := (s.flushCopy st id).copyTurn st id

/-- The late updates of a command stand behind its completion (R179, R186). -/
def State.lateBehind (s : State) (cmd : Nat) : State :=
  { s with lates := s.lates.map (fun l => if l.cmd == cmd then { l with completed := some s.time.toNat } else l) }

/-- The completion tick: reply entry, Chime line, range locks (R179, R199). -/
def State.completeCopy (s : State) (st : Nat) (c : CopyCmd) (e : CopyEnd) : State :=
  let entry := replyEntry c.ev e.status c.kind.major e.value
  let failure := if e.status = 0 then none else some (statusFault e.status, entry)
  ((((s.lateBehind c.id).pushReply c.thread entry).raiseChime c.thread c.ev failure).modCore c.thread.core (fun k =>
      k.unlock s.time.toNat c.id)).modStation
    st (fun k => { k with copies := k.copies.filter (fun x => x.id != c.id) })

/-- What is left of a command's positions, results and record. -/
def State.runCopy (s : State) (st id : Nat) : State :=
  let n := ((s.copyAt st id).map (fun c => if c.kind.listOnly then 0 else cntFirst c.count)).getD 0
  ((((List.range n).foldl (fun s p => s.stepCopy st id p) s).advanceCopy st id).advanceCopy st id).flushCopy st id

/-- TIMED_COMMAND_START: a timed command starts at its start tick (R205). -/
def execTimedCommandStart (station id : Nat) (s : State) : Res :=
  match s.copyAt station id with
  | none => .next s
  | some c =>
    if c.startAt.getD 0 ≤ s.time.toNat ∧ (s.ctxOfStation station).isSome then
      .next (s.modCopy station id (fun c => { c with started := true }))
    else .next s

/-- COPY_ENGINE_COMPLETION: what is left of a started command's positions, results and record is performed; where every one is
settled the command completes (R199, R206, R207). -/
def execCopyEngineCompletion (station id : Nat) (_ext : ExtAnswer) (s : State) : Res :=
  match s.copyAt station id with
  | none => .next s
  | some c =>
    if !c.started then .next s
    else
      let s1 := s.runCopy station id
      match s1.copyAt station id with
      | none => .next s1
      | some c1 =>
        match c1.ending with
        | none => .next s1
        | some e => .next (s1.completeCopy station c1 e)

end Sys2Proof.Machine
end

