-- ==== Sys2Proof/Machine/FrontEnd.lean ====
section
/-! DEFINITION. Accesses of the queue front end and the end of a packet (21_fabric R296 to R298). -/

namespace Sys2Proof.Machine

/-- The station from which the device's own accesses for a context start: its partition's lowest (R42). -/
def State.homeOf (s : State) (ctx : Nat) : Nat := lowestStation (((s.ctxAt ctx).map Context.stations).getD [])

/-- A supervisor-mode access of the front end to the control page. -/
def frontAccess (kind : AccessKind) (ctx va : Nat) (x : Word) : Access :=
  { id := 0, issuer := .pod 0 0 0, kind := kind, sp := 2, va := va, loc := 0, n := 8, x := x, y := 0, rd := 0, sext := false
    counter := 0, pc := 0, user := false, ctx := ctx, tag := 0, lu := false, issued := 0, stage := .travelling
    cancel := none, port := none, sent := 0 }

/-- Reads n bytes of one 64-byte line for the front end or the dispatch controller: supervisor mode, the context's
translation and key tag (R37, R297). `who` is what is held where a page is (R229). Code 0 stands for a held page; what another
device answers is free (log entry 21). -/
def State.frontRead (s : State) (who : HeldBy) (ctx va n : Nat) : Except Nat (List Byte) × State :=
  match s.ctxAt ctx with
  | none => (.error 5, s)
  | some x =>
    match s.region va with
    | .discovery => (.ok (bytesLE n (s.discoveryRead x.supervisor (va - discoveryBase) n)), s)
    | .control =>
      if n ≠ 8 then (.error 6, s)
      else
        let r := s.controlPerform (frontAccess .load ctx va 0)
        (if r.1.fault = 0 then .ok (bytesLE 8 r.1.value.toNat) else .error r.1.fault, r.2)
    | .hostWindow =>
      match s.translateIn who (s.homeOf ctx) ctx va .load false true with
      | (.pa pa, s1) => (.ok (s1.phys.host.readBytes ((s1.host.hwin.toNat + pa) % 2 ^ 64) n), s1)
      | (.held, s1) => (.error 0, s1)
      | (.fault code _ _, s1) => (.error code, s1)
    | .remote d =>
      let code := s.foreignFault d va
      (if code = 0 then .ok ((List.range n).map (fun i => BitVec.ofNat 8 (s.undefined (va + i)).toNat)) else .error code, s)
    | .outside => (.error 5, s)
    | .paged => s.readVirtual who (s.homeOf ctx) ctx x.tag va n false

/-- A doubleword load of the front end. -/
def State.frontLoad (s : State) (who : HeldBy) (ctx va : Nat) : Except Nat Word × State :=
  let r := s.frontRead who ctx va 8
  (r.1.map (fun bs => BitVec.ofNat 64 (ofBytesLE bs)), r.2)

/-- Loads n doublewords from an address on: all of them, or the code of the first that fails with its address. -/
def State.frontLoads (s : State) (who : HeldBy) (ctx va : Nat) : Nat → Except (Nat × Nat) (List Word) × State
  | 0 => (.ok [], s)
  | n + 1 =>
    match s.frontLoad who ctx va with
    | (.error code, s1) => (.error (code, va), s1)
    | (.ok w, s1) =>
      let r := s1.frontLoads who ctx (va + 8) n
      (r.1.map (fun ws => w :: ws), r.2)

/-- A doubleword store of the front end: an error leaves the state of its translation. `strict` says that a poisoned line fails
it, as it does a SIGNAL (R297). -/
def State.frontStore (s : State) (who : HeldBy) (ctx va : Nat) (w : Word) (strict : Bool) : Except Nat State × State :=
  match s.ctxAt ctx with
  | none => (.error 5, s)
  | some x =>
    match s.region va with
    | .control =>
      let r := s.controlPerform (frontAccess .store ctx va w)
      (if r.1.fault = 0 then .ok r.2 else .error r.1.fault, s)
    | .hostWindow =>
      match s.translateIn who (s.homeOf ctx) ctx va .store false true with
      | (.pa pa, s1) =>
        (.ok { s1 with phys := { s1.phys with host := s1.phys.host.writeLE ((s1.host.hwin.toNat + pa) % 2 ^ 64) 8 w.toNat } }, s1)
      | (.held, s1) => (.error 0, s1)
      | (.fault code _ _, s1) => (.error code, s1)
    | .discovery => (.error 6, s)
    | .remote d => (if s.foreignFault d va = 0 then .ok s else .error (s.foreignFault d va), s)
    | .outside => (.error 5, s)
    | .paged => s.writeVirtual who (s.homeOf ctx) ctx x.tag va (bytesLE 8 w.toNat) false strict

/-- Stores doublewords from an address on, up to the first that fails: its code and address. -/
def State.frontStores (s : State) (who : HeldBy) (ctx va : Nat) : List Word → Option (Nat × Nat) × State
  | [] => (none, s)
  | w :: r =>
    match s.frontStore who ctx va w false with
    | (.error code, s1) => (some (code, va), s1)
    | (.ok s1, _) => s1.frontStores who ctx (va + 8) r

/-- irq: MSI-X vector 1 + (queue mod 31) when a packet finishes (R297). -/
def State.packetIrq (s : State) (irq : Bool) (q : Nat) : State := if irq then s.msix (1 + q % 31) else s

/-- A status write to a held page stays under way until the page is there (R229). -/
def State.holdStatus (s : State) (q ctx addr : Nat) (w : Word) : State :=
  { s with
    accesses := s.accesses ++ [{ frontAccess .store ctx addr w with
      id := s.nextId, issuer := .front q (s.homeOf ctx), tag := ((s.ctxAt ctx).map Context.tag).getD 0
      issued := s.time.toNat, stage := .held s.time.toNat }]
    nextId := s.nextId + 1 }

/-- A packet's status write, which waits for a held page on its own; `failed` is what a failure leaves (R229, R298, R314). -/
def State.writeStatus (s : State) (q ctx addr : Nat) (w : Word) (failed : State → State) : State :=
  if addr = 0 then s
  else
    match s.frontStore (.access s.nextId) ctx addr w false with
    | (.ok s1, _) => s1
    | (.error 0, s1) => s1.holdStatus q ctx addr w
    | (.error _, s1) => failed s1

/-- The status write of a LAUNCH (R298): a failed one sets err 4 and stops the queue before its next packet. -/
def State.launchStatus (s : State) (q ctx addr code node : Nat) : State :=
  s.writeStatus q ctx addr (BitVec.ofNat 64 (code * 2 ^ 56 + node * 2 ^ 40)) (fun s => s.setQueue q (s.queueAt q).failStatus)

/-- A LAUNCH finishes (R297, R298). -/
def State.finishLaunch (s : State) (q ctx addr code node graph : Nat) (irq : Bool) : State :=
  let s1 := (s.launchStatus q ctx addr code node).packetIrq irq q
  s1.setQueue q { s1.queueAt q with openGraphs := (s1.queueAt q).openGraphs.filter (· != graph) }

end Sys2Proof.Machine
end

