-- ==== Sys2Proof/Machine/Ready.lean ====
section
/-! DEFINITION. Instruction fetch, and which threads of a core count as ready for a placement (03_execution R45,
05_encoding R67, 09_scalar R139, 23_observe R309). -/

namespace Sys2Proof.Machine

/-- What fetching an instruction gives. -/
inductive Fetched where
  /-- An instruction, with the fetch register and the cache as its fetch leaves them. -/
  | instr (i : Instr) (s : State)
  /-- A trap or a halt at the fetch, or a wait for a missing line. -/
  | stopped (s : State)

/-- The word at an address of a line. -/
def wordInLine (l : FetchLine) (a : Nat) : Nat := ofBytesLE ((l.bytes.drop (a - l.base)).take 4)

/-- A line from the fetch register or the core's cache, and the state that its use leaves; `keep` says whether the line
goes to the fetch register (R139). -/
def State.lineAt (s : State) (t : ThreadId) (th : Thread) (base : Nat) (keep : Bool) : Option (FetchLine × State) :=
  let cached := (s.coreAt t.core).icache.find? (fun x => x.ctx == th.ctxId.toNat && x.base == base)
  match th.fetch with
  | some f =>
    if f.base = base then some (f, s)
    else cached.map (fun x =>
      let f : FetchLine := { base := base, bytes := x.bytes }
      (f, (s.modCore t.core (fun k => { k with icache := icacheUse k.icache x })).modThread t (fun th =>
        { th with fetch := if keep then some f else th.fetch })))
  | none => cached.map (fun x =>
      let f : FetchLine := { base := base, bytes := x.bytes }
      (f, (s.modCore t.core (fun k => { k with icache := icacheUse k.icache x })).modThread t (fun th =>
        { th with fetch := if keep then some f else th.fetch })))

/-- The breakpoint unit that matches an address (R309): the lowest that the thread enables. -/
def State.breakpointAt (s : State) (t : ThreadId) (th : Thread) : Option Nat :=
  if th.status.mode != .user || th.dbg.skip then none
  else
    (List.range 4).find? (fun u => th.dbg.ben.getLsbD u &&
      ((aget (s.coreAt t.core).breaks u).map (fun b => b.on && b.addr == th.pc.toNat)).getD false)

/-- An instruction that the thread now acts on in user mode uses up skip (R309). -/
def State.useSkip (s : State) (t : ThreadId) : State :=
  s.modThread t (fun th => if th.status.mode == .user then { th with dbg := { th.dbg with skip := false } } else th)

/-- The fetch of R67 steps 1 to 3: address, line, breakpoint, ILLEGAL from the first word, second word. A PC that is no
multiple of 4 raises ALIGN (log entry 18). `breaks` says whether breakpoint units look at it. -/
def State.fetchInstr (s : State) (t : ThreadId) (th : Thread) (breaks : Bool) : Fetched :=
  let pc := th.pc.toNat
  if pc % 4 ≠ 0 then .stopped (s.takeTrap t (precise 4 th.pc 0 0))
  else if wfld th.pc 63 56 ≠ 0 then .stopped (s.takeTrap t (precise 5 th.pc 4 0))
  else
    match s.lineAt t th (lineBase pc) true with
    | none => .stopped (s.waitFor t (.line (lineBase pc) none))
    | some (l, s1) =>
      match (if breaks then s1.breakpointAt t th else none) with
      | some u =>
        let s2 := s1.modThread t (fun th => { th with dbg := { th.dbg with skip := true } })
        .stopped (if th.dbg.dbg then s2.halt t 3 else s2.takeTrap t (precise 14 th.pc 1 u))
      | none =>
        let w := wordInLine l pc
        let act (s : State) (i : Except DecodeError Instr) : Fetched :=
          let s2 := if breaks then s.useSkip t else s
          match i with
          | .ok i => .instr i s2
          | .error _ => .stopped (s2.takeTrap t (precise 1 (BitVec.ofNat 64 w) 0 0))
        if firstWordIllegal w || !isLong w then act s1 (decodeWords w 0)
        else
          match s1.threadAt t with
          | none => .stopped s1
          | some th2 =>
            match s1.lineAt t th2 (lineBase (pc + 4)) false with
            | none => .stopped (s1.waitFor t (.line (lineBase (pc + 4)) none))
            | some (l2, s3) => act s3 (decodeWords w (wordInLine l2 (pc + 4)))

/-! ### Ready threads (R32, R45) -/

/-- Whether a thread without a wait has its next instruction's line, or traps at the fetch. -/
def State.canFetch (s : State) (t : ThreadId) (th : Thread) : Bool :=
  match s.fetchInstr t th true with
  | .instr _ _ => true
  | .stopped s2 => s2.slotClassOf t != .mem

/-- The class that the cycle of a thread's slot would have (R32): the one that the step has found before a placement or a sample, by
what such a cycle would do (log entry 55). -/
def State.classNow (s : State) (t : ThreadId) : SlotClass :=
  ((s.classes.find? (fun p => p.1 == t)).map Prod.snd).getD (s.slotClassOf t)

/-- Whether a thread counts as ready for R45. -/
def State.countsReady (s : State) (t : ThreadId) (th : Thread) : Bool :=
  s.inRotation t && !th.halted && !th.win.lent && ((th.task.valid && !th.held.begun) || s.classNow t == .issued)

/-- The threads of a core that count as ready for R45. -/
def State.readyCount (s : State) (core : Nat) : Nat :=
  ((s.coreAt core).threads.filter (fun p => s.countsReady { core := core, slot := p.1 } p.2)).length

end Sys2Proof.Machine
end

