-- ==== Sys2Proof/Machine/Window.lean ====
section
/-! DEFINITION. Register-window instructions (03_execution R35, 09_scalar R128 to R131). -/

namespace Sys2Proof.Machine

/-- Whether a slot is idle (R35): its thread waits for work, lies in the rotation, is not halted, has lent and holds
nothing, and is not the supervisor thread. -/
def State.idle (s : State) (t : ThreadId) : Bool :=
  match s.threadAt t with
  | none => false
  | some th =>
    th.wait == some .work && s.inRotation t && !th.halted && !th.win.lent && !th.win.held && !s.isSupervisor t

/-- Gives a held window back to its lender, which counts as idle from the following cycle on (R35, R130). -/
def State.returnWindow (s : State) (t : ThreadId) (th : Thread) : State :=
  if th.win.held then
    (s.modThread { core := t.core, slot := th.win.bslot } (fun l =>
      { l with win := { l.win with lent := false }, idleFrom := s.cyclesAt (stationOfCore t.core) + 1 })).setThread t
      { th with win := { th.win with held := false, bslot := 0 } }
  else s

/-- xborrow (R129). -/
def execXborrow (r : R2) (s : State) : Res :=
  s.onThread fun th =>
    s.gate th [r.d, r.a] [r.a]
      (let n := (s.g r.a).toNat
       if 63 < n ∨ n = s.cur.slot ∨ th.win.held = true ∨ s.idle { core := s.cur.core, slot := n } = false then
         s.finishWith 4 r.d 0
       else
         ((s.modThread { core := s.cur.core, slot := n } (fun l => { l with win := { l.win with lent := true } })).setThread
           s.cur { th with win := { th.win with held := true, bslot := n } }).finishWith 4 r.d 1)

/-- xreturn (R130). -/
def execXreturn (s : State) : Res :=
  s.onThread fun th => (s.returnWindow s.cur th).finish s.cur 4

/-- The check of a register of the held window (R131). -/
def State.heldFault (s : State) (t : ThreadId) (th : Thread) (j : Reg) : Option TrapCause :=
  let bad := some (precise 3 (BitVec.ofNat 64 j.toNat) 0 0)
  if !th.win.held then bad
  else
    match s.threadAt { core := t.core, slot := th.win.bslot } with
    | none => bad
    | some l => if 8 * l.win.wsize ≤ j.toNat then bad else none

/-- xget: reads register j of the held window (R131). DESIGN CHOICE: where rd and j both fail step 5 of R67, REGWIN names rd;
the spec does not say which is named. -/
def execXget (r : R2) (s : State) : Res :=
  s.onThread fun th =>
    let lender : ThreadId := { core := s.cur.core, slot := th.win.bslot }
    s.gate th [r.d] []
      (s.orTrap (s.heldFault s.cur th r.a)
        (s.orTrap (((s.threadAt lender).map (fun l => s.regFault lender l [] [r.a])).getD none)
          (s.finishWith 4 r.d (s.reg lender r.a))))

/-- xput: writes register j of the held window (R131): both REGWIN checks come before the parity of ra (R67). DESIGN CHOICE:
where ra and j both fail step 5 of R67, REGWIN names ra; the spec does not say which is named. -/
def execXput (j a : Reg) (s : State) : Res :=
  s.onThread fun th =>
    s.gate th [a] []
      (s.orTrap (s.heldFault s.cur th j)
        (s.gate th [a] [a]
          ((s.setReg { core := s.cur.core, slot := th.win.bslot } j (s.g a)).finish s.cur 4)))

end Sys2Proof.Machine
end

