-- ==== Sys2Proof/Machine/Task.lean ====
section
/-! DEFINITION. Tasks: the task instructions, the dispatch controller's graphs and the stations' dispensers
(03_execution R35 to R50, 11_memory_isa R162, R163). -/

namespace Sys2Proof.Machine

/-! ### Graph progress (R39, R40) -/

/-- A place in the turns of R43: release tick, then launch sequence number, then the graph's number in the model, for launches
of different queues, then node number; dynamic instances of the tick come behind, in enqueue order. -/
def turnKey (tick : Nat) (dyn : Bool) (launch id node : Nat) : Nat :=
  (((tick * 2 + b2n dyn) * 2 ^ 16 + launch % 2 ^ 16) * 2 ^ 48 + id) * 2 ^ 16 + node

/-- Releases a node whose dependence count has reached zero (R39). -/
def NodeState.release (n : NodeState) (tick launch id node : Nat) : NodeState :=
  if n.depsLeft = 0 ∧ n.released = false then
    { n with released := true, key := turnKey tick false launch id node, since := tick, prio := n.image.prio }
  else n

/-- One edge into a node falls away (R39). -/
def Graph.dropEdge (g : Graph) (tick node : Nat) : Graph :=
  match g.nodes[node]? with
  | none => g
  | some n => { g with nodes := setAt g.nodes node (({ n with depsLeft := n.depsLeft - 1 } : NodeState).release tick g.launch g.id node) }

/-- A contribution of an instance of a node; the last one triggers the node and its successors' counts fall (R39, R40). -/
def Graph.contribute (g : Graph) (tick node inst : Nat) : Graph :=
  match g.nodes[node]? with
  | none => g
  | some n =>
    let n1 : NodeState := { n with contributions := n.contributions + 1
                                   placed := n.placed.map (fun p => if p.inst == inst then { p with contributed := true } else p) }
    if n1.contributions = n.image.count then
      n.image.succ.foldl (fun g e => g.dropEdge tick e) { g with nodes := setAt g.nodes node { n1 with triggered := true } }
    else { g with nodes := setAt g.nodes node n1 }

/-- An instance executes DONE (R40, R49). -/
def Graph.retire (g : Graph) (node inst : Nat) : Graph :=
  match g.nodes[node]? with
  | none => g
  | some n =>
    { g with nodes := setAt g.nodes node { n with
        dones := n.dones + 1
        placed := n.placed.map (fun p => if p.inst == inst && !p.abandoned then { p with finished := true } else p) } }

/-- A graph completes when every node has triggered and every instance has executed DONE (R40). -/
def Graph.complete (g : Graph) : Bool := g.nodes.all (fun n => n.triggered && n.dones == n.image.count)

def State.modGraph (s : State) (ctx graph : Nat) (f : Graph → Graph) : State :=
  s.modCtx ctx (fun x => { x with graphs := x.graphs.map (fun g => if g.id == graph then f g else g) })

/-- Finishes the launch of a graph that has completed, and forgets the graph. -/
def State.settleGraph (s : State) (ctx graph : Nat) : State :=
  match (s.ctxAt ctx).bind (fun x => x.graphs.find? (fun g => g.id == graph)) with
  | none => s
  | some g =>
    if g.complete then
      (s.modCtx ctx (fun x => { x with graphs := x.graphs.filter (fun h => h.id != graph) })).finishLaunch
        g.queue ctx g.status 0 0 graph g.irq
    else s

/-- The contribution of the task that a thread holds, if it has not made it (R40, R162). -/
def State.contribute (s : State) (t : ThreadId) (th : Thread) : State :=
  match th.held.graph with
  | none => s
  | some g =>
    if th.task.valid && !th.task.dyn && !th.held.contributed then
      (s.setThread t { th with held := { th.held with contributed := true } }).modGraph th.ctxId.toNat g
        (fun h => h.contribute s.time.toNat th.task.node.toNat th.task.inst.toNat)
    else s

/-! ### Waiting for work (R47, R48, R162) -/

/-- Whether another thread of the core holds a task. -/
def Core.othersHold (k : Core) (slot : Nat) : Bool := k.threads.any (fun p => p.1 != slot && p.2.task.valid)

/-- A thread stops holding a task: the scratchpad stays open to peers while another thread holds one, and with keep
after the last (R48). -/
def State.stopHolding (s : State) (t : ThreadId) (keep : Bool) : State :=
  if (s.coreAt t.core).othersHold t.slot then s
  else s.modCore t.core (fun k => { k with peersOpen := keep })

/-- A held task that ends without DONE: its placement stays, abandoned and unfinished (R47). -/
def State.abandon (s : State) (th : Thread) : State :=
  match th.held.graph with
  | none => s
  | some g =>
    s.modNode th.ctxId.toNat g th.task.node.toNat (fun n =>
      n.modPlaced th.task.inst.toNat (fun p => if p.finished then p else { p with abandoned := true }))

/-- Waits for a placement: a held window goes back, task.valid becomes 0 (R35, R162). -/
def State.awaitWork (s : State) (t : ThreadId) : State :=
  match s.threadAt t with
  | none => s
  | some th =>
    (s.returnWindow t th).modThread t (fun th =>
      { th with task := { th.task with valid := false }, held := .none, wait := some .work })

/-- waitw (R162, R47). -/
def execWaitw (s : State) : Res :=
  s.onThread fun th =>
    if th.task.valid then ((s.abandon th).awaitWork s.cur).stopHolding s.cur false else s.awaitWork s.cur

/-- Retires the task that a thread holds (R40, R47, R48, R306). -/
def State.retireTask (s : State) (t : ThreadId) (th : Thread) : State :=
  let s1 := match th.held.graph with
    | none => s
    | some g =>
      if th.task.dyn then s
      else s.modGraph th.ctxId.toNat g (fun h => h.retire th.task.node.toNat th.task.inst.toNat)
  let s2 := ((s1.awaitWork t).stopHolding t (th.held.keep && !th.task.dyn)).traceEvent t 3 0 th.pc
  match th.held.graph with
  | none => s2
  | some g => s2.settleGraph th.ctxId.toNat g

/-- done: a release at .package, the contribution, the retirement, then as waitw (R162). -/
def execDone (s : State) : Res :=
  s.onThread fun th =>
    State.orElse (s.releaseStop s.cur th 5)
      (if th.task.valid then (s.contribute s.cur th).retireTask s.cur th else s.awaitWork s.cur)

/-- trig: a release at .package, then the instance's contribution (R162). -/
def execTrig (s : State) : Res :=
  s.onThread fun th => State.orElse (s.releaseStop s.cur th 5) ((s.contribute s.cur th).finish s.cur 4)

/-- The task word of post is malformed (R163). -/
def postBad (a : Word) : Bool :=
  a.getLsbD 63 || decide (wfld a 60 56 = 0) || decide (16 < wfld a 60 56) || decide (wfld a 1 0 ≠ 0)

/-- The dynamic instance of a post (R163). -/
def postInst (place : Nat) (a b : Word) (tick id : Nat) : DynInst :=
  { prio := wfld a 62 61, wsize := wfld a 60 56, entry := BitVec.ofNat 64 (wfld a 55 0), g3 := b, node := 0xFFFF
    inst := BitVec.ofNat 24 (fld place 13 8 * 64 + place % 64), since := tick, key := turnKey tick true 0 id 0 }

/-- post: enqueues a dynamic instance at the thread's station, which holds at most 64 (R163). -/
def execPost (a b : Reg) (s : State) : Res :=
  s.onThread fun th =>
    s.gate th [a, b] [a, b]
      (if postBad (s.g a) then s.trapNow (precise 16 (s.g a) 0x25 0)
       else
         State.orElse (s.releaseStop s.cur th 3)
           (let st := stationOfCore s.cur.core
            if 64 ≤ (s.stationAt st).dyn.length then s.waitFor s.cur .postRoom
            else
              ({ s.modStation st (fun k =>
                  { k with dyn := k.dyn ++ [postInst (s.place s.cur) (s.g a) (s.g b) s.time.toNat s.nextId] }) with
                nextId := s.nextId + 1 } : State).finish s.cur 4))

/-! ### Dispensers (R43 to R46) -/

/-- Whether a thread may take an instance that needs a window of 8 x wsize registers (R43). -/
def State.eligible (s : State) (t : ThreadId) (wsize : Nat) : Bool :=
  s.idle t && !(s.coreAt t.core).lost &&
    ((s.threadAt t).map (fun th => decide (wsize ≤ th.win.wsize) && decide (th.idleFrom ≤ s.cyclesAt (stationOfCore t.core)))).getD false

/-- The threads of a station, by core and slot. -/
def threadsOf (st : Nat) : List ThreadId :=
  (List.range 8).flatMap (fun c => (List.range 64).map (fun p => { core := st * 8 + c, slot := p }))

def State.eligibleAt (s : State) (st wsize : Nat) : List ThreadId := (threadsOf st).filter (fun t => s.eligible t wsize)

/-- The effective priority of an instance pending since a tick (R44). -/
def effPrio (prio since now : Nat) : Nat := min 3 (prio + (now - since) / 2 ^ 20)

/-- What a dispenser may hand out: a node's next instance, or a dynamic instance. -/
inductive Offer where
  | node (graph node inst : Nat) (again : Bool)
  | dyn (index : Nat)
  deriving DecidableEq, Repr

/-- An offer with its effective priority, its place in the turns and the window it needs. -/
structure Candidate where
  offer : Offer
  prio : Nat
  key : Nat
  wsize : Nat
  deriving DecidableEq, Repr

/-- Whether a station may be given an instance under its affinity (R43 rule 4). -/
def State.affinityAllows (s : State) (x : Context) (n : NodeImage) (st : Nat) : Bool :=
  match n.affStation with
  | none => true
  | some a => a == st || !x.stations.contains a || (s.eligibleAt a n.wsize).isEmpty

/-- The pending instance of a node that R43 would give: of its highest priority (rule 1) the lowest index (rule 3), with whether
it is pending again and its priority. -/
def NodeState.pendingInst (n : NodeState) (now : Nat) : Option (Nat × Bool × Nat) :=
  let fresh := if n.released && decide (n.next < n.image.count) then
      [(n.next, false, effPrio n.prio n.since now)] else []
  let again := n.again.map (fun a => (a.inst, true, effPrio a.prio a.since now))
  (again ++ fresh).foldl (fun best c =>
    match best with
    | none => some c
    | some b => if b.2.2 < c.2.2 ∨ (b.2.2 = c.2.2 ∧ c.1 < b.1) then some c else some b) none

/-- A context's candidates for a station (R43). -/
def State.candidates (s : State) (x : Context) (st : Nat) : List Candidate :=
  let now := s.time.toNat
  let nodes := x.graphs.flatMap (fun g => (g.nodes.zipIdx).filterMap (fun p =>
    match p.1.pendingInst now with
    | none => none
    | some (inst, again, prio) =>
      if (s.eligibleAt st p.1.image.wsize).isEmpty || !s.affinityAllows x p.1.image st then none
      else some { offer := .node g.id p.2 inst again, prio := prio, key := p.1.key, wsize := p.1.image.wsize }))
  let dyns := ((s.stationAt st).dyn.zipIdx).filterMap (fun p =>
    if (s.eligibleAt st p.1.wsize).isEmpty then none
    else some { offer := .dyn p.2, prio := effPrio p.1.prio p.1.since now, key := p.1.key, wsize := p.1.wsize })
  nodes ++ dyns

/-- The least member under a key. -/
def leastBy {α : Type} (f : α → Nat) : List α → Option α
  | [] => none
  | x :: r =>
    match leastBy f r with
    | none => some x
    | some y => if f y < f x then some y else some x

/-- The choice of R43: the highest priority, then the next turn behind the one that was served last, whatever its
priority. -/
def chooseCandidate (served : Option Nat) (l : List Candidate) : Option Candidate :=
  let top := l.foldl (fun m c => max m c.prio) 0
  let set := l.filter (fun c => c.prio == top)
  match served with
  | none => leastBy Candidate.key set
  | some k =>
    match leastBy Candidate.key (set.filter (fun c => decide (k < c.key))) with
    | some c => some c
    | none => leastBy Candidate.key set

/-- The thread that takes an instance: on the core with the fewest ready threads, then the lowest core, then the lowest
slot (R45). -/
def State.chooseThread (s : State) (st wsize : Nat) : Option ThreadId :=
  leastBy (fun t => (s.readyCount t.core * 8 + t.core % 8) * 64 + t.slot) (s.eligibleAt st wsize)

/-- Writes arguments to g3 upward (R45). -/
def State.giveArgs (s : State) (t : ThreadId) : List Word → Nat → State
  | [], _ => s
  | w :: r, i => (s.setReg t (BitVec.ofNat 7 (3 + i)) w).giveArgs t r (i + 1)

/-- A placement (R45, R46, R48): arguments, task, status, pc; the core's scratchpad is open; the trace record of R306;
the waiting instruction has completed. -/
def State.placeTask (s : State) (t : ThreadId) (entry : Word) (args : List Word) (task : TaskReg) (held : HeldTask) : State :=
  match s.threadAt t with
  | none => s
  | some th =>
    let s1 := (s.giveArgs t args 0).modThread t (fun th =>
      { th with task := task, held := held, pc := entry, wait := none
                status := { th.status with mode := .user, pmode := .user, pie := false, ie := true } })
    let s2 := (s1.modCore t.core (fun k => { k with peersOpen := true })).traceEvent t 2 0 entry
    s2.afterInstr t th.status.mode th.pc

/-- Places a chosen candidate on a thread. DESIGN CHOICE: the turns of a partition have one pointer, which all its stations
share, their dynamic instances included; R43 does not say whether each station keeps one of its own. -/
def State.placeCandidate (s : State) (ctx st : Nat) (x : Context) (c : Candidate) (t : ThreadId) : State :=
  let s1 := s.setCtx ctx { x with served := some c.key }
  match c.offer with
  | .dyn i =>
    match (s.stationAt st).dyn[i]? with
    | none => s
    | some d =>
      (s1.modStation st (fun k => { k with dyn := k.dyn.eraseIdx i })).placeTask t d.entry [d.g3]
        { inst := d.inst, node := d.node, launch := 0, eprio := BitVec.ofNat 2 c.prio, dyn := true, valid := true }
        { graph := none, contributed := false, keep := false, steps := 0, begun := false }
  | .node gid node inst again =>
    match (x.graphs.find? (fun g => g.id == gid)) with
    | none => s
    | some g =>
      match g.nodes[node]? with
      | none => s
      | some n =>
        let contributed := again && n.again.any (fun a => a.inst == inst && a.contributed)
        let p : Placed := { inst := inst, thread := t, steps := 0, finished := false, abandoned := false, contributed := contributed }
        (s1.modNode ctx gid node (fun n =>
          { n with
            next := if again then n.next else n.next + 1
            again := if again then n.again.filter (fun a => a.inst != inst) else n.again
            placed := n.placed.filter (fun q => q.inst != inst) ++ [p] })).placeTask t n.image.entry n.image.args
          { inst := BitVec.ofNat 24 inst, node := BitVec.ofNat 16 node, launch := BitVec.ofNat 8 g.launch
            eprio := BitVec.ofNat 2 c.prio, dyn := false, valid := true }
          { graph := some gid, contributed := contributed, keep := n.image.keep, steps := 0, begun := false }

/-- TASK_PLACEMENT: the dispenser of a station places the instance that R43 chooses on the thread that R45 chooses;
nothing where no instance is pending or no thread is eligible. -/
def execTaskPlacement (station : Nat) (s : State) : Res :=
  match s.ctxOfStation station with
  | none => .next s
  | some ctx =>
    match s.ctxAt ctx with
    | none => .next s
    | some x =>
      match chooseCandidate x.served (s.candidates x station) with
      | none => .next s
      | some c =>
        match s.chooseThread station c.wsize with
        | none => .next s
        | some t => .next (s.placeCandidate ctx station x c t)

/-- One step of aging: the priority rises by the full 2^20 ticks that have passed (R44). -/
def ageOf (prio since now : Nat) : Nat × Nat := (effPrio prio since now, since + (now - since) / 2 ^ 20 * 2 ^ 20)

def NodeState.age (n : NodeState) (now : Nat) : NodeState :=
  { n with
    prio := if n.released then (ageOf n.prio n.since now).1 else n.prio
    since := if n.released then (ageOf n.prio n.since now).2 else n.since
    again := n.again.map (fun a => { a with prio := (ageOf a.prio a.since now).1, since := (ageOf a.prio a.since now).2 }) }

def DynInst.age (d : DynInst) (now : Nat) : DynInst :=
  { d with prio := (ageOf d.prio d.since now).1, since := (ageOf d.prio d.since now).2 }

/-- PRIORITY_AGING: the effective priorities of a running partition's pending instances rise (R44). -/
def execPriorityAging (ctx : Nat) (s : State) : Res :=
  match s.ctxAt ctx with
  | none => .next s
  | some x =>
    if !x.active s.time then .next s
    else
      let now := s.time.toNat
      .next (x.stations.foldl (fun s st => s.modStation st (fun k => { k with dyn := k.dyn.map (fun d => d.age now) }))
        (s.setCtx ctx { x with graphs := x.graphs.map (fun g => { g with nodes := g.nodes.map (fun n => n.age now) }) }))

end Sys2Proof.Machine
end

