-- ==== Sys2Proof/Machine/Queues.lean ====
section
/-! DEFINITION. Command queues: their registers, the packets and LAUNCH, SIGNAL and WAIT (03_execution R37 to R39, R42,
15_tables R195, 21_fabric R295 to R298). -/

namespace Sys2Proof.Machine

/-! ### Packets (R296, R313) -/

/-- A doubleword of a packet. -/
def packetWord (p : List Word) (i : Nat) : Nat := (p.getD i 0).toNat
def packetType (p : List Word) : Nat := fld (packetWord p 0) 63 56
def packetIrqBit (p : List Word) : Bool := bitAt (packetWord p 0) 40
/-- A field of 56 address bits. -/
def packetAddr (p : List Word) (i : Nat) : Nat := packetWord p i % 2 ^ 56

/-- Whether the doublewords of a packet from i on are zero. -/
def restZero (p : List Word) (i : Nat) : Bool := (p.drop i).all (fun w => w == 0)

/-- Whether a doubleword is an address of 56 bits with an alignment. -/
def addrOk (p : List Word) (i n : Nat) : Bool := decide (packetWord p i < 2 ^ 56) && packetWord p i % n == 0

/-- What R296 and R313 decide from the packet alone. -/
def packetOk (p : List Word) : Bool :=
  decide (fld (packetWord p 0) 55 41 = 0) && decide (fld (packetWord p 0) 39 0 = 0) &&
    (match packetType p with
     | 1 => addrOk p 1 64 && decide (1 ≤ packetWord p 2) && decide (packetWord p 2 ≤ 65536) && addrOk p 3 8 && restZero p 4
     | 2 => addrOk p 1 8 && restZero p 3
     | 3 => addrOk p 1 8 && decide (packetWord p 3 ≤ 1) && restZero p 4
     | 4 =>
       decide (1 ≤ fld (packetWord p 1) 63 56) && decide (fld (packetWord p 1) 63 56 ≤ 12) &&
         decide (fld (packetWord p 1) 55 32 = 0) && addrOk p 2 8 && addrOk p 5 8 && restZero p 6
     | _ => false)

/-! ### The queue -/

/-- How far tail is ahead of head. -/
def CmdQueue.depth (k : CmdQueue) : Nat := (k.tail - k.head).toNat

/-- The error that an enabled queue's registers show (R295). -/
def CmdQueue.fault (k : CmdQueue) : Nat :=
  if k.lsize < 6 ∨ 16 < k.lsize then 2 else if 2 ^ k.lsize < k.depth then 3 else 0

/-- An enabled queue whose registers are wrong stops; an error that stands is kept. -/
def CmdQueue.check (k : CmdQueue) : CmdQueue := if k.en && k.err == 0 then { k with err := k.fault } else k

/-- The queue past the packet at head. -/
def CmdQueue.past (k : CmdQueue) : CmdQueue := { k with head := k.head + 1, packet := none, waiting := none, heldSince := none, givenUp := [] }

/-- Whether a context is loaded, running or switched out. -/
def State.loaded (s : State) (ctx : Nat) : Bool := (s.ctxAt ctx).isSome

/-- Reads the packet at head by a reader without a tag (R295, R297, R318). One that cannot be read, or is malformed, sets
err 1. -/
def State.readPacket (s : State) (q : Nat) : State :=
  let k := s.queueAt q
  let pa := k.base * 4096 + 64 * (k.head.toNat % 2 ^ k.lsize)
  let s1 := s.bareTouch pa 64 k.ctx
  match s1.bareRead pa 64 with
  | .error _ => s1.setQueue q { k with err := 1 }
  | .ok bs =>
    let p := (chunkNats 8 8 bs).map (BitVec.ofNat 64)
    s1.setQueue q (if packetOk p then { k with packet := some p } else { k with err := 1 })

/-- The front end takes up a queue: its registers, then the packet at head, once (R295, R297). -/
def State.takePacket (s : State) (q : Nat) : State :=
  let k := (s.queueAt q).check
  let s1 := s.setQueue q k
  if !k.en || k.err != 0 || k.tail == k.head || !s.loaded k.ctx || k.packet.isSome then s1 else s1.readPacket q

/-- Acts on the packet at head of a queue where it is of a type; any other state of the queue stays. -/
def State.atPacket (s : State) (q type : Nat) (act : State → CmdQueue → Context → List Word → State) : State :=
  let s1 := s.takePacket q
  let k := s1.queueAt q
  match k.packet, s1.ctxAt k.ctx with
  | some p, some x => if k.en && k.err == 0 && packetType p == type then act s1 k x p else s1
  | _, _ => s1

/-- The packet at head has finished: the queue goes on behind it (R297). -/
def State.passPacket (s : State) (q : Nat) (p : List Word) : State :=
  (s.setQueue q (s.queueAt q).past).packetIrq (packetIrqBit p) q

/-- An access of the packet failed: err 4, and the queue stops at it (R297). -/
def State.failPacket (s : State) (q : Nat) : State := s.setQueue q { s.queueAt q with err := 4, heldSince := none }

/-- An access of the packet meets a held page: it is tried again, and one that has been held 76,000 ticks fails (R229). -/
def State.holdPacket (s : State) (q : Nat) (late : State → State) : State :=
  let k := s.queueAt q
  let st := s.homeOf k.ctx
  let va := ((s.held.find? (fun e => e.who == .packet q)).map HeldAt.va).getD 0
  match k.heldSince with
  | some since =>
    if s.pageOf st k.ctx va != s.pageOf st k.ctx k.heldVa then s.setQueue q { k with heldSince := some s.time.toNat, heldVa := va }
    else if since + 76000 ≤ s.time.toNat then late s else s
  | none => s.setQueue q { k with heldSince := some s.time.toNat, heldVa := va }

/-- What a packet's failed attempt leaves where it is to be tried again: what is held, in its order (R229). -/
def State.keepHeld (s s1 : State) : State := { s with held := s1.held }

/-! ### Doorbell, qbase and qstat (R294, R295) -/

/-- A write of qtail. -/
def State.writeQtail (s : State) (q : Nat) (w : Word) : State :=
  s.setQueue q ({ s.queueAt q with tail := BitVec.ofNat 32 w.toNat } : CmdQueue).check

/-- A write of qbase: it takes effect at once, with the head unchanged. DESIGN CHOICE: a packet that the front end has taken from
the old base is acted on as it was read; R294 does not say what becomes of it. -/
def State.writeQbase (s : State) (q : Nat) (w : Word) : State :=
  s.setQueue q ({ s.queueAt q with
    base := wfld w 41 12, ctx := wfld w 11 6, lsize := wfld w 5 1, en := bitAt w.toNat 0 } : CmdQueue).check

/-- QTAIL_DOORBELL; discarded in recovery (R325). -/
def execQtailDoorbell (q : Nat) (value : Word) (s : State) : Res :=
  if s.sec.recovery then .next s else .next (s.writeQtail q value)

/-- QBASE_WRITE; discarded in recovery (R325). -/
def execQbaseWrite (q : Nat) (value : Word) (s : State) : Res :=
  if s.sec.recovery then .next s else .next (s.writeQbase q value)

/-- `qstat` (R295). -/
def CmdQueue.stat (k : CmdQueue) : Word := BitVec.ofNat 64 (k.seq.toNat * 2 ^ 16 + k.err % 256)

/-- How a queue resumes (R295): past the packet after err 1, and after err 4 of a WAIT or SIGNAL, which counts as
finished; with head unchanged after the others. -/
def State.resumeQueue (s : State) (q : Nat) : State :=
  let k := s.queueAt q
  let s1 := s.setQueue q { k with err := 0, statusFailed := false }
  if k.err = 1 then s1.setQueue q { k with err := 0 }.past
  else if k.err = 4 ∧ k.statusFailed = false then s1.passPacket q (k.packet.getD [])
  else s1

/-- QSTAT_READ: returns qstat, clears err and resumes the queue; in recovery the register reads zero (R325). -/
def execQstatRead (q : Nat) (s : State) : Res :=
  if s.sec.recovery then .next { s with hostData := bytesLE 8 0 }
  else .next { s.resumeQueue q with hostData := bytesLE 8 (s.queueAt q).stat.toNat }

/-! ### Node images (R37, R38) -/

/-- Why a launch is rejected: the code of R298, 0 for a held page, 5 for the held page of an affinity. -/
abbrev ImageRead (α : Type) := Except Nat α × State

/-- The reserved fields and ranges of a node image that R38 checks before its argument block and successors are read. -/
def imageBad (w : List Word) : Bool :=
  let f (i hi lo : Nat) : Nat := wfld (w.getD i 0) hi lo
  f 0 63 56 != 0 || f 1 59 56 != 0 || f 2 31 31 != 0 || f 3 63 57 != 0 || f 3 15 9 != 0 || f 4 63 56 != 0 || f 5 63 16 != 0 ||
    f 6 63 0 != 0 || f 7 63 0 != 0 || f 0 1 0 != 0 || f 1 2 0 != 0 || f 4 0 0 != 0 ||
    decide (8 < f 1 63 60) || decide (8 * f 2 28 24 < 3 + f 1 63 60) || f 2 23 0 == 0 || f 2 28 24 == 0 ||
    decide (16 < f 2 28 24) || f 3 1 0 == 3 || decide (95 < f 3 8 2)

/-- Reads n 16-bit node numbers. -/
def State.readSuccessors (s : State) (who : HeldBy) (ctx va : Nat) : Nat → ImageRead (List Nat)
  | 0 => (.ok [], s)
  | n + 1 =>
    match s.frontRead who ctx va 2 with
    | (.error code, s1) => (.error (if code = 0 then 0 else 3), s1)
    | (.ok bs, s1) =>
      let r := s1.readSuccessors who ctx (va + 2) n
      (r.1.map (fun l => ofBytesLE bs :: l), r.2)

/-- The first row of a shard (R195): s under modulo, s x W under range, the smallest of its shard below 65,536 under
hashm; none where no row is in the shard. -/
def Desc.firstRow (d : Desc) (shard : Nat) : Option Nat :=
  let r :=
    match d.sfn with
    | 0 => some shard
    | 1 => (List.range (min d.rows 65536)).find? (fun r => (d.shardOf r).1 == shard)
    | _ => some (shard * d.key.toNat)
  r.bind (fun r => if r < d.rows ∧ (d.shardOf r).1 = shard then some r else none)

/-- A translation for a queue's affinity whose page is held: it waits, or has failed because it was held too long (R37, R229). -/
def State.affinityHeld (s : State) (q va : Nat) : ImageRead (Option Nat) :=
  (if (s.queueAt q).givenUp.contains va then .ok none else .error 5, s)

/-- The device of a pod table's row, from its device list; none where the list cannot be read. -/
def State.affinityDevice (s : State) (q ctx : Nat) (d : Desc) (r : Nat) : ImageRead (Option Nat) :=
  if !d.pod then (.ok (some s.pkg.device.toNat), s)
  else
    match s.frontRead (.packet q) ctx (d.devlist + 2 * (d.shardOf r).1) 2 with
    | (.ok bs, s1) => (.ok (some (ofBytesLE bs % 2 ^ 14)), s1)
    | (.error 0, s1) => s1.affinityHeld q (d.devlist + 2 * (d.shardOf r).1)
    | (.error _, s1) => (.ok none, s1)

/-- Where a virtual address lies, for the dispatch controller: a supervisor-mode read's translation, which moves nothing; its
failure gives no station, and a page in migration holds the launch (R37, R195, R229). -/
def State.affinityHome (s : State) (q ctx va : Nat) : ImageRead (Option Nat) :=
  if 2 ^ 56 ≤ va ∨ s.region va ≠ .paged then (.ok none, s)
  else
    match s.inTurn (.packet q) (s.homeOf ctx) ctx va (s.locate (s.homeOf ctx) ctx va .load false false) with
    | (.pa pa, s1) => (.ok (some (homeStation pa)), s1)
    | (.held, s1) => s1.affinityHeld q va
    | (.fault _ _ _, s1) => (.ok none, s1)

/-- The station that a node's affinity names (R43, R195), resolved with the controller's copy of the descriptor. -/
def State.affinityOf (s : State) (q ctx : Nat) (w3 : Word) : ImageRead (Option Nat) :=
  match wfld w3 1 0 with
  | 1 => (.ok (some (wfld w3 8 2)), s)
  | 2 =>
    match (aget (s.stationAt (s.homeOf ctx)).descs (wfld w3 23 16)).map Desc.ofImage with
    | none => (.ok none, s)
    | some d =>
      match d.firstRow (wfld w3 55 24) with
      | none => (.ok none, s)
      | some r =>
        match s.affinityDevice q ctx d r with
        | (.error code, s1) => (.error code, s1)
        | (.ok none, s1) => (.ok none, s1)
        | (.ok (some dev), s1) =>
          if dev ≠ s1.pkg.device.toNat then (.ok none, s1) else s1.affinityHome q ctx (d.rowAddr r dev)
  | _ => (.ok none, s)

/-- The image that the doublewords of a node describe. -/
def NodeImage.ofWords (w args : List Word) (succ : List Nat) (station : Option Nat) : NodeImage :=
  let f (i hi lo : Nat) : Nat := wfld (w.getD i 0) hi lo
  { entry := BitVec.ofNat 64 (f 0 55 0), nargs := f 1 63 60, k := f 2 63 48, deps := f 2 47 32, prio := f 2 30 29
    wsize := f 2 28 24, count := f 2 23 0, keep := f 3 56 56 == 1, aff := f 3 1 0, affStation := station, args := args
    succ := succ }

/-- Reads and checks one node (R37, R38) of a graph of n nodes. DESIGN CHOICE: of several failures of one node, code 1 comes first,
then code 3 of its argument block or its successor list, then code 2; R38 and R298 give no order within a node. -/
def State.readNode (s : State) (q ctx va n : Nat) : ImageRead NodeImage :=
  match s.frontRead (.packet q) ctx va 64 with
  | (.error code, s1) => (.error (if code = 0 then 0 else 3), s1)
  | (.ok bs, s1) =>
    let w := (chunkNats 8 8 bs).map (BitVec.ofNat 64)
    if imageBad w then (.error 1, s1)
    else
      match s1.frontLoads (.packet q) ctx (wfld (w.getD 1 0) 55 0) (wfld (w.getD 1 0) 63 60) with
      | (.error (code, _), s2) => (.error (if code = 0 then 0 else 3), s2)
      | (.ok args, s2) =>
        match s2.readSuccessors (.packet q) ctx (wfld (w.getD 4 0) 55 0) (wfld (w.getD 5 0) 15 0) with
        | (.error code, s3) => (.error code, s3)
        | (.ok succ, s3) =>
          if succ.any (fun e => decide (n ≤ e)) then (.error 2, s3)
          else
            match s3.affinityOf q ctx (w.getD 3 0) with
            | (.error code, s4) => (.error code, s4)
            | (.ok st, s4) => (.ok (NodeImage.ofWords w args succ st), s4)

/-- Reads the nodes from number i on: all of them, or the code of the first that is rejected with its number. -/
def State.readNodes (s : State) (q ctx base n i : Nat) : Nat → Except (Nat × Nat) (List NodeImage) × State
  | 0 => (.ok [], s)
  | left + 1 =>
    match s.readNode q ctx (base + 64 * i) n with
    | (.error code, s1) => (.error (code, i), s1)
    | (.ok x, s1) =>
      let r := s1.readNodes q ctx base n (i + 1) left
      (r.1.map (fun l => x :: l), r.2)

/-- A node at acceptance: released at once where its deps is 0 (R39). -/
def NodeState.start (x : NodeImage) (tick launch graph node : Nat) : NodeState :=
  ({ image := x, depsLeft := x.deps, released := false, key := 0, next := 0, again := [], placed := [], contributions := 0
     dones := 0, triggered := false, prio := x.prio, since := tick } : NodeState).release tick launch graph node

/-- The dispatch controller takes an accepted graph (R42, R297). -/
def State.acceptLaunch (s : State) (q : Nat) (x : Context) (ctx : Nat) (p : List Word) (nodes : List NodeImage) : State :=
  let k := s.queueAt q
  let g : Graph :=
    { id := s.nextId, queue := q, launch := k.seq.toNat, status := packetAddr p 3, irq := packetIrqBit p
      nodes := (nodes.zipIdx).map (fun n => NodeState.start n.1 s.time.toNat k.seq.toNat s.nextId n.2) }
  let s1 : State := { s with nextId := s.nextId + 1 }
  (s1.setCtx ctx { x with graphs := x.graphs ++ [g] }).setQueue q
    { k.past with seq := k.seq + 1, openGraphs := k.openGraphs ++ [g.id] }

/-- A rejected launch: its status, and the queue goes on (R298). -/
def State.rejectLaunch (s : State) (q ctx : Nat) (p : List Word) (code node : Nat) : State :=
  (s.setQueue q (s.queueAt q).past).finishLaunch q ctx (packetAddr p 3) code node s.nextId (packetIrqBit p)

/-- The translation of an affinity that has been held too long has failed: the launch is read again without it (R37, R229). -/
def State.giveUp (s : State) (q : Nat) : State :=
  let k := s.queueAt q
  s.setQueue q { k with heldSince := none, givenUp := k.heldVa :: k.givenUp }

/-- Whether a context's record in the context table is valid now (R224). -/
def State.recordValid (s : State) (ctx : Nat) : Bool := bitAt (s.phys.ram.readLE (s.host.ctxtab + 64 * ctx) 8) 0

/-- LAUNCH: the graph is read and checked, and accepted or rejected (R37, R38, R297, R298). A context whose record has
become invalid rejects it with code 4 (log entry 33). -/
def execLaunch (q : Nat) (s : State) : Res :=
  .next (s.atPacket q 1 fun s k _ p =>
    if !s.recordValid k.ctx then s.rejectLaunch q k.ctx p 4 0
    else
      match s.readNodes q k.ctx (packetAddr p 1) (packetWord p 2) 0 (packetWord p 2) with
      | (.error (0, node), s1) => (s.keepHeld s1).holdPacket q (fun s => s.rejectLaunch q k.ctx p 3 node)
      | (.error (5, _), s1) => (s.keepHeld s1).holdPacket q (fun s => s.giveUp q)
      | (.error (code, node), s1) => s1.rejectLaunch q k.ctx p code node
      | (.ok nodes, s1) =>
        match s1.ctxAt k.ctx with
        | none => s1
        | some x => s1.acceptLaunch q x k.ctx p nodes)

/-- Whether a status write of a queue's packet is still held (R229, R298). -/
def State.statusHeld (s : State) (q : Nat) : Bool :=
  s.accesses.any (fun x => match x.issuer with | .front r _ => r == q | _ => false)

/-- SIGNAL: waits for every earlier packet and its status write, then stores its value with a release at .sys (R297). -/
def execSignal (q : Nat) (s : State) : Res :=
  .next (s.atPacket q 2 fun s k _ p =>
    if !k.openGraphs.isEmpty || s.statusHeld q then s
    else
      match s.frontStore (.packet q) k.ctx (packetAddr p 1) (p.getD 2 0) true with
      | (.ok s1, _) => s1.passPacket q p
      | (.error 0, s1) => s1.holdPacket q (fun s => s.failPacket q)
      | (.error _, s1) => s1.failPacket q)

/-- The condition of a WAIT (R296). -/
def waitHolds (p : List Word) (w : Word) : Bool :=
  if packetWord p 3 = 0 then w == p.getD 2 0 else decide (packetWord p 2 ≤ w.toNat)

/-- One read of a WAIT's word: the packet finishes, or the queue stays held (R297). -/
def State.readWait (s : State) (q : Nat) (k : CmdQueue) (p : List Word) : State :=
  match s.frontLoad (.packet q) k.ctx (packetAddr p 1) with
  | (.ok w, s1) =>
    if waitHolds p w then s1.passPacket q p
    else s1.setQueue q { s1.queueAt q with waiting := some s.time.toNat, heldSince := none }
  | (.error 0, s1) =>
    (s1.setQueue q { s1.queueAt q with waiting := some s.time.toNat }).holdPacket q (fun s => s.failPacket q)
  | (.error _, s1) => s1.failPacket q

/-- WAIT: the first read of its word, when the front end reaches the packet (R297). -/
def execWait (q : Nat) (s : State) : Res :=
  .next (s.atPacket q 3 fun s k _ p => if k.waiting.isSome then s else s.readWait q k p)

/-- WAIT_POLL: a held WAIT reads its word again every 1,024 ticks (R297). -/
def execWaitPoll (q : Nat) (s : State) : Res :=
  .next (s.atPacket q 3 fun s k _ p =>
    match k.waiting with
    | none => s
    | some last => if s.time.toNat < last + 1024 then s else s.readWait q k p)

end Sys2Proof.Machine
end

