-- ==== Sys2Proof/Machine/Debug.lean ====
section
/-! DEFINITION. Debug requests and samples (23_observe R302 to R316). -/

namespace Sys2Proof.Machine

/-! ### A request at the head of its queue -/

/-- The fields of a DBG packet (R313). -/
def dbgOp (p : List Word) : Nat := fld (packetWord p 1) 63 56
def dbgPlace (p : List Word) : Nat := packetWord p 1 % 2 ^ 32
def dbgThread (p : List Word) : ThreadId := threadOfPlace (dbgPlace p)
def dbgBuffer (p : List Word) : Nat := packetAddr p 2
def dbgA (p : List Word) : Word := p.getD 3 0
def dbgB (p : List Word) : Word := p.getD 4 0

/-- A request finishes: its status doubleword, then the queue goes on (R314). A status write that fails is reported
nowhere (log entry 36). -/
def State.dbgDone (s : State) (q ctx : Nat) (p : List Word) (code value : Nat) : State :=
  let s1 := s.writeStatus q ctx (packetAddr p 5) (BitVec.ofNat 64 (code * 2 ^ 56 + value % 2 ^ 56)) id
  s1.passPacket q p

/-- Why a target cannot be acted on (R314): 1 not the queue's, 5 lost, 2 not halted; `thread` says that the request
targets a thread, `halted` that the thread must be halted. The order is log entry 36. -/
def State.dbgRefusal (s : State) (x : Context) (p : List Word) (thread halted : Bool) : Option Nat :=
  let w := dbgPlace p
  let t := dbgThread p
  if fld w 31 18 ≠ s.pkg.device.toNat ∨ placeBad w ∨ x.stations.contains (stationOfPlace w) = false then some 1
  else if thread && (s.threadAt t).isNone then some 1
  else if (s.coreAt t.core).lost then some 5
  else if halted && !((s.threadAt t).map Thread.halted).getD false then some 2
  else none

/-- Acts on a DBG request of an op: held while its context does not run, refused by R314, else performed. -/
def State.dbgRequest (s : State) (q op : Nat) (thread halted : Bool)
    (act : State → CmdQueue → List Word → ThreadId → State) : State :=
  s.atPacket q 4 fun s k x p =>
    if dbgOp p ≠ op ∨ !x.active s.time then s
    else
      match s.dbgRefusal x p thread halted with
      | some code => s.dbgDone q k.ctx p code 0
      | none => act s k p (dbgThread p)

/-- A buffer access that failed: a held page is tried again, any other failure is code 4 with its address (R314). -/
def State.dbgFault (s : State) (q ctx : Nat) (p : List Word) (code va : Nat) : State :=
  if code = 0 then s.holdPacket q (fun s => s.dbgDone q ctx p 4 va) else s.dbgDone q ctx p 4 va

/-- Writes doublewords to the buffer, then finishes with what else the request does. -/
def State.dbgWrite (s : State) (q ctx : Nat) (p : List Word) (ws : List Word) (after : State → State) : State :=
  match s.frontStores (.packet q) ctx (dbgBuffer p) ws with
  | (none, s1) => (after s1).dbgDone q ctx p 0 0
  | (some (0, va), s1) => (s.keepHeld s1).dbgFault q ctx p 0 va
  | (some (code, va), s1) => s1.dbgFault q ctx p code va

/-- Words of a run of bytes. -/
def wordsOf (n : Nat) (bs : List Byte) : List Word := (chunkNats 8 n bs).map (BitVec.ofNat 64)

/-! ### HALT, RESUME, STEP (R313, R315, R316) -/

/-- HALT: a thread stops at its next instruction boundary; one that is halted already stays as it is (log entry 36). -/
def execHalt (q : Nat) (s : State) : Res :=
  .next (s.dbgRequest q 1 true false fun s k p t =>
    (if ((s.threadAt t).map Thread.halted).getD false then s else s.halt t 1).dbgDone q k.ctx p 0 0)

/-- A halted thread goes on: the ticks of its halt count neither toward its own FETIMEOUT nor toward a STEP that it waits at or
holds back (R50, R315). -/
def State.unhalt (s : State) (t : ThreadId) : State :=
  match s.threadAt t with
  | none => s
  | some th =>
    let s1 := s.settleSteps.modThread t (fun th => { th with halted := false })
    { s1 with accesses := s1.accesses.map (fun x =>
      if th.wait == some (.answer x.id) then { x with issued := x.issued + (s.time.toNat - th.haltedAt) } else x) }

/-- RESUME: the thread issues at its next own slot; the trace record of R306. -/
def execResume (q : Nat) (s : State) : Res :=
  .next (s.dbgRequest q 2 true true fun s k p t =>
    let s1 := s.unhalt t
    (s1.traceEvent t 6 0 (((s.threadAt t).map Thread.pc).getD 0)).dbgDone q k.ctx p 0 0)

/-- The end of a debug STEP: its thread has halted again, and its status reports the instructions that were executed then (R314). A
thread that was created anew meanwhile stands on a core that was lost. -/
def State.stepOver (s : State) (q ctx : Nat) (p : List Word) (t : ThreadId) : State :=
  match (s.queueAt q).stepDone, s.threadAt t with
  | some n, _ => s.dbgDone q ctx p 0 n
  | none, none => s.dbgDone q ctx p 1 0
  | none, some th => if th.stepsLeft.isSome && th.stepOf == some q then s else s.dbgDone q ctx p 5 0

/-- DBG_STEP: a halted thread executes up to count instructions; the request finishes when it has halted (R316). -/
def execDbgStep (q : Nat) (s : State) : Res :=
  .next (s.atPacket q 4 fun s k x p =>
    if dbgOp p ≠ 3 ∨ !x.active s.time then s
    else
      match k.waiting with
      | some _ => if (s.coreAt (dbgThread p).core).lost then s.dbgDone q k.ctx p 5 0 else s.stepOver q k.ctx p (dbgThread p)
      | none =>
        match s.dbgRefusal x p true true with
        | some code => s.dbgDone q k.ctx p code 0
        | none =>
          if (dbgA p).toNat = 0 ∨ 65535 < (dbgA p).toNat then s.dbgDone q k.ctx p 3 0
          else
            let s1 := (s.unhalt (dbgThread p)).modThread (dbgThread p) (fun th =>
              { th with stepsLeft := some (dbgA p).toNat, stepsDone := 0, stepOf := some q })
            s1.setQueue q { s1.queueAt q with waiting := some s.time.toNat, stepDone := none })

/-! ### Registers and scratchpads (R313, R315) -/

/-- The registers of RDREG: g0 to g127, the control registers, the halt doubleword with hcause in [58:56] over the PC
(log entry 36). -/
def State.dbgRegisters (s : State) (t : ThreadId) (th : Thread) : List Word :=
  (List.range 128).map (fun i => if 8 * th.win.wsize ≤ i then 0 else s.reg t (BitVec.ofNat 7 i)) ++
    (List.range 16).map (fun i => s.readControl t th (ControlReg.ofNumber (BitVec.ofNat 4 i))) ++
    [BitVec.ofNat 64 (th.dbg.hcause.toNat * 2 ^ 56 + wfld th.pc 55 0)]

/-- RDREG. -/
def execRdreg (q : Nat) (s : State) : Res :=
  .next (s.dbgRequest q 4 true true fun s k p t =>
    match s.threadAt t with
    | none => s
    | some th => s.dbgWrite q k.ctx p (s.dbgRegisters t th) id)

/-- WRREG: a general register of the window, or a control register that supervisor mode may write. -/
def execWrreg (q : Nat) (s : State) : Res :=
  .next (s.dbgRequest q 5 true true fun s k p t =>
    match s.threadAt t with
    | none => s
    | some th =>
      let n := wfld (dbgA p) 6 0
      if wfld (dbgA p) 63 9 ≠ 0 ∨ (dbgA p).getLsbD 7 then s.dbgDone q k.ctx p 3 0
      else if (dbgA p).getLsbD 8 = false then
        if 8 * th.win.wsize ≤ n then s.dbgDone q k.ctx p 3 0
        else (s.setReg t (BitVec.ofNat 7 n) (dbgB p)).dbgDone q k.ctx p 0 0
      else
        let c := ControlReg.ofNumber (BitVec.ofNat 4 n)
        if 16 ≤ n ∨ c.writable .supervisor = false then s.dbgDone q k.ctx p 3 0
        else (s.writeControl t .supervisor c (dbgB p)).dbgDone q k.ctx p 0 0)

/-- Whether the range of RDSPAD and WRSPAD is out of range: doublewords of one scratchpad. -/
def spadRangeBad (a b : Word) : Bool :=
  a.toNat % 8 != 0 || b.toNat % 8 != 0 || decide (b.toNat < 8) || decide (0x40000 < a.toNat + b.toNat)

/-- The doublewords of a scratchpad as a debugger reads them; one of bad parity is free (log entry 36). -/
def State.spadWords (s : State) (core a n : Nat) : List Word :=
  (List.range n).map (fun i =>
    if (s.coreAt core).badParity (a + 8 * i) 8 then s.undefined (a + 8 * i) else (s.coreAt core).spad.readWord (a + 8 * i))

/-- RDSPAD: ignores range locks and full/empty bits. -/
def execRdspad (q : Nat) (s : State) : Res :=
  .next (s.dbgRequest q 6 false false fun s k p t =>
    if spadRangeBad (dbgA p) (dbgB p) then s.dbgDone q k.ctx p 3 0
    else s.dbgWrite q k.ctx p (s.spadWords t.core (dbgA p).toNat ((dbgB p).toNat / 8)) id)

/-- WRSPAD: the whole buffer is read before anything is written. -/
def execWrspad (q : Nat) (s : State) : Res :=
  .next (s.dbgRequest q 7 false false fun s k p t =>
    if spadRangeBad (dbgA p) (dbgB p) then s.dbgDone q k.ctx p 3 0
    else
      match s.frontLoads (.packet q) k.ctx (dbgBuffer p) ((dbgB p).toNat / 8) with
      | (.ok ws, s1) =>
        (s1.modCore t.core (fun c => c.spadWrite (dbgA p).toNat (ws.flatMap (fun w => bytesLE 8 w.toNat)))).dbgDone q k.ctx p 0 0
      | (.error (0, va), s1) => (s.keepHeld s1).dbgFault q k.ctx p 0 va
      | (.error (code, va), s1) => s1.dbgFault q k.ctx p code va)

/-! ### Units (R309, R310) -/

/-- SETBP. -/
def execSetbp (q : Nat) (s : State) : Res :=
  .next (s.dbgRequest q 8 false false fun s k p t =>
    let a := dbgA p
    if wfld a 62 58 ≠ 0 ∨ wfld a 1 0 ≠ 0 then s.dbgDone q k.ctx p 3 0
    else
      (s.modCore t.core (fun c => { c with
        breaks := aset c.breaks (wfld a 57 56) { on := a.getLsbD 63, addr := wfld a 55 0 } })).dbgDone q k.ctx p 0 0)

/-- Whether the parameters of SETWP are out of range. -/
def watchBad (a b : Word) : Bool :=
  wfld a 62 57 != 0 || wfld a 2 0 != 0 || wfld b 63 10 != 0 || wfld b 7 6 != 0 || decide (2 < wfld b 9 8) || wfld b 5 4 == 0 ||
    decide (9 < wfld b 3 0)

/-- SETWP. -/
def execSetwp (q : Nat) (s : State) : Res :=
  .next (s.dbgRequest q 9 false false fun s k p t =>
    let a := dbgA p
    let b := dbgB p
    if watchBad a b then s.dbgDone q k.ctx p 3 0
    else
      (s.modCore t.core (fun c => { c with
        watches := aset c.watches (wfld a 56 56)
          { on := a.getLsbD 63, addr := wfld a 55 0, sp := wfld b 9 8, kind := wfld b 5 4, g := wfld b 3 0 } })).dbgDone
        q k.ctx p 0 0)

/-! ### Accounting (R302 to R304) -/

/-- The core record of R304. -/
def State.countRecord (s : State) (core : Nat) : List Word :=
  let k := s.coreAt core
  let n (x : Nat) : Word := BitVec.ofNat 64 x
  [n (k.rotLen.toNat * 2 ^ 32 + s.place { core := core, slot := 0 }), s.time] ++
    (List.range 64).flatMap (fun p =>
      let c := agetD k.counts p SlotCounts.reset
      [n c.issued, n c.mem, n c.msg, n c.vacant]) ++
    (List.range 65).map (fun b => n (agetD k.bins b 0)) ++ List.replicate 189 0

/-- COUNT: the record of one cycle; A[0] clears the counters in it. -/
def execCount (q : Nat) (s : State) : Res :=
  .next (s.dbgRequest q 10 false false fun s k p t =>
    if 1 < (dbgA p).toNat then s.dbgDone q k.ctx p 3 0
    else
      s.dbgWrite q k.ctx p (s.countRecord t.core) (fun s =>
        if (dbgA p).getLsbD 0 then s.modCore t.core (fun c => { c with counts := [], bins := [] }) else s))

/-! ### Trace (R305 to R307) -/

/-- Whether the parameters of TRACE are out of range; b and s count only where the request enables the trace (log entry
36). -/
def traceBad (a : Word) : Bool :=
  wfld a 63 25 != 0 || wfld a 23 21 != 0 || wfld a 15 9 != 0 || wfld a 7 5 != 0 ||
    (a.getLsbD 24 && (decide (wfld a 4 0 < 12) || decide (30 < wfld a 4 0) ||
      (wfld a 20 16 != 0 && (decide (wfld a 20 16 < 10) || decide (24 < wfld a 20 16)))))

/-- The trace buffer after a TRACE. -/
def TraceBuf.setup (b : TraceBuf) (base : Nat) (a : Word) : TraceBuf :=
  if a.getLsbD 24 then
    { on := true, base := base, b := wfld a 4 0, wrap := a.getLsbD 8, s := wfld a 20 16, written := 0, dropped := 0
      failedAt := none, sampled := [] }
  else { b with on := false }

/-- TRACE: sets the context's buffer and sampling. -/
def execTrace (q : Nat) (s : State) : Res :=
  .next (s.dbgRequest q 11 false false fun s k p _ =>
    let a := dbgA p
    if traceBad a then s.dbgDone q k.ctx p 3 0
    else
      (s.modCtx k.ctx (fun x => { x with trace := x.trace.setup (dbgBuffer p) a })).dbgDone q k.ctx p 0 0)

/-- FLUSH: every record has been performed; reports the dropped records, or the write that stopped the trace (R307,
R314). -/
def execFlush (q : Nat) (s : State) : Res :=
  .next (s.dbgRequest q 12 false false fun s k p _ =>
    match (s.ctxAt k.ctx).map Context.trace with
    | none => s
    | some b =>
      if s.accesses.any (fun x => x.traces && x.ctx == k.ctx) then s
      else
        match b.failedAt with
        | some a => s.dbgDone q k.ctx p 4 a
        | none => s.dbgDone q k.ctx p 0 b.dropped)

/-- The slot class in a sample record (R306). -/
def SlotClass.code : SlotClass → Nat
  | .issued => 0
  | .mem => 1
  | .msg => 2
  | .vacant => 3

/-- The sample record of a slot, under the class that its cycle would have; of a slot without a thread the spec states no pc, mode
or task (log entry 36). -/
def State.sampleRecord (s : State) (t : ThreadId) : List Word :=
  let cls := (s.classNow t).code
  match s.threadAt t with
  | some th => traceRecord 1 cls (s.place t) th.pc.toNat th.status.mode s.time th.task.word
  | none =>
    traceRecord 1 cls (s.place t) (s.undefined 0).toNat (Mode.ofCode ((s.undefined 1).toNat % 3)) s.time (s.undefined 2)

/-- TRACE_SAMPLE: at a sampling tick, a multiple of 2^s, one record for the slot at the rotation position of a running core (R306,
R307; log entry 36). -/
def execTraceSample (core : Nat) (s : State) : Res :=
  let k := s.coreAt core
  match s.ctxOfStation (stationOfCore core) with
  | none => .next s
  | some c =>
    match (s.ctxAt c).map Context.trace with
    | none => .next s
    | some b =>
      if b.s = 0 ∨ k.stopped ∨ k.lost ∨ s.time.toNat % 2 ^ b.s ≠ 0 ∨ aget b.sampled core = some s.time.toNat then .next s
      else
        .next ((s.modCtx c (fun x => { x with trace := { x.trace with sampled := aset x.trace.sampled core s.time.toNat } })).emitTrace
          core c (s.sampleRecord { core := core, slot := if rotLength k.rotLen ≤ k.position then 0 else k.position }))

end Sys2Proof.Machine
end

