-- ==== Sys2Proof/Machine/RowUnit.lean ====
section
/-! DEFINITION. The row unit of a core and row requests between devices (15_tables R208 to R214). -/

namespace Sys2Proof.Machine

/-! ### Operand words (R208) -/

def rowWire (w : Word) : Nat := wfld w 29 27
/-- The scope of the completion's release (R179). -/
def rowScope (w : Word) : Nat := wfld w 26 24
def rowDfmt (w : Word) : Nat := wfld w 23 20
def rowSat (w : Word) : Bool := bitAt w.toNat 19
def rowRm (w : Word) : Nat := wfld w 18 16
def rowFmt (w : Word) : Nat := wfld w 15 12
def rowLen (w : Word) : Nat := wfld w 9 0 + 1
/-- rowget, rowput: the descriptor register lies in dfmt, sat and rm. -/
def rowDesc (w : Word) : Nat := wfld w 23 16
def rowX (a : Word) : Nat := wfld a 17 0
def rowY (a : Word) : Nat := wfld a 49 32

/-- Whether a command moves a table row. -/
def RowKind.table (k : RowKind) : Bool := k == .get || k == .put
/-- Whether a command rounds. -/
def RowKind.rounds (k : RowKind) : Bool := k == .add || k == .axpy || k == .scale || k == .dot || k == .cvt
/-- Whether a command uses address y. -/
def RowKind.usesY (k : RowKind) : Bool := !(k.table || k == .zero)

/-- The format of a code of efmt; raw bytes have none. -/
def elemFmt (code : Nat) : Fmt :=
  match code with
  | 0 => .fp32
  | 1 => .fp64
  | 2 => .fp16
  | 3 => .bf16
  | 8 => .e4m3
  | _ => .e5m2

/-- Bytes of an element (R190). -/
def elemBytes (code : Nat) : Nat :=
  match code with
  | 0 => 4
  | 1 => 8
  | 2 => 2
  | 3 => 2
  | _ => 1

/-- The format of the accumulation and of a scalar (R208, R212). -/
def accFmt (code : Nat) : Fmt := if code = 1 then .fp64 else .fp32

/-- Whether a format lies in a command's column (R208). -/
def RowKind.fmtOk (k : RowKind) (code : Nat) : Bool :=
  match k with
  | .get => true
  | .put => true
  | .zero => efmtCodes.contains code
  | .copy => efmtCodes.contains code
  | .cvt => decide (code < 4) || code == 8 || code == 9
  | _ => decide (code < 4)

/-- Step 2 of R198 for the row word: unused fields, formats, rounding codes (R208, R209). -/
def rowWordBad (k : RowKind) (w : Word) (f : Fcsr) : Bool :=
  wfld w 63 30 != 0 || wfld w 11 10 != 0 || (!k.table && rowWire w != 0) ||
    (!k.table && k != .cvt && (rowDfmt w != 0 || rowSat w)) || (!k.table && !k.rounds && rowRm w != 0) ||
    (k.table && (rowFmt w != 0 || wfld w 9 0 != 0)) || !k.fmtOk (rowFmt w) ||
    (k == .cvt && (!k.fmtOk (rowDfmt w) || rowDfmt w == rowFmt w)) ||
    (k.rounds && (rowRm w == 5 || rowRm w == 6 || (rowRm w == 7 && decide (5 ≤ f.rm.toNat))))

/-- Step 2 for the address word. -/
def addrWordBad (k : RowKind) (a : Word) : Bool :=
  wfld a 63 50 != 0 || wfld a 31 18 != 0 || (!k.usesY && rowY a != 0)

/-- Step 2 for g[rc]: rowadd's destination address, rowtopk's k word. -/
def rcWordBad (k : RowKind) (rc : Word) (n : Nat) : Bool :=
  match k with
  | .add => wfld rc 63 18 != 0
  | .topk => wfld rc 63 50 != 0 || wfld rc 31 11 != 0 || wfld rc 10 0 == 0 || decide (n < wfld rc 10 0)
  | _ => false

/-- The scratchpad ranges of a command (R209), with the alignment that R208 asks for; an index destination is aligned to
its 16-bit entries (log entry 29). -/
def rowRanges (k : RowKind) (d : Desc) (rc a w : Word) : List SpadRange :=
  let e := elemBytes (rowFmt w)
  let own (addr len align : Nat) : SpadRange := { sp := 0, addr := addr, len := len, align := align }
  let x := own (rowX a) (rowLen w * e) e
  let y := own (rowY a) (rowLen w * e) e
  match k with
  | .get => [own (rowX a) d.rowBytes (elemBytes d.efmt)]
  | .put => [own (rowX a) d.rowBytes (elemBytes d.efmt)]
  | .add => [own (wfld rc 17 0) (rowLen w * e) e, x, y]
  | .axpy => [x, y]
  | .scale => [x, y]
  | .dot => [x, y]
  | .cvt => [x, own (rowY a) (rowLen w * elemBytes (rowDfmt w)) (elemBytes (rowDfmt w))]
  | .zero => [x]
  | .copy => [x, y]
  | .topk => [x, own (rowY a) (wfld rc 10 0 * e) e, own (wfld rc 49 32) (2 * wfld rc 10 0) 2]

/-- The checks of R209. DESIGN CHOICE: of several malformed words tval names the row word before the address word and that before
g[rc], and of several failing ranges the first of `rowRanges`; R198 and R209 do not say which. -/
def State.rowFault (s : State) (core : Nat) (k : RowKind) (rc a w : Word) (f : Fcsr) : Option TrapCause :=
  if rowWordBad k w f then some (precise 16 w 0x20 0)
  else if addrWordBad k a then some (precise 16 a 0x20 0)
  else if rcWordBad k rc (rowLen w) then some (precise 16 rc 0x20 0)
  else
    match (if k.table then aget (s.stationAt (stationOfCore core)).descs (rowDesc w) else some []) with
    | none => some (precise 16 (BitVec.ofNat 64 (rowDesc w)) 0x21 0)
    | some img =>
      let d := Desc.ofImage img
      if k.table && wireBad (rowWire w) d.efmt then some (precise 16 w 0x22 0)
      else s.rangeFault core (rowRanges k d rc a w)

/-- The row command as it enters the unit's queue. -/
def State.makeRow (s : State) (t : ThreadId) (th : Thread) (k : RowKind) (rcReg : Reg) (rc a w : Word) (ev : Nat)
    (img : List Word) : RowCmd :=
  { id := s.nextId, thread := t, kind := k, rc := rc, addrs := a, word := w
    rm := if rowRm w = 7 then th.fcsr.rm.toNat else rowRm w, desc := img, ev := ev, rcReg := rcReg
    user := th.status.mode == .user, ctx := th.ctxId.toNat, tag := th.ctxTag.toNat, issued := s.time.toNat
    started := (s.coreAt t.core).rows.isEmpty, heldSince := none, answer := none, seen := []
    dev := none, out := [], ending := none }

/-- The command enters the core's row unit: locks and owed result. -/
def State.enterRows (s : State) (t : ThreadId) (th : Thread) (c : RowCmd) (rs : List SpadRange) : State :=
  let owed := if c.kind = .dot ∧ c.rcReg ≠ 0 then
      th.owed ++ [{ id := c.id, kind := .dot, reg := c.rcReg, value := none, spoiled := false }] else th.owed
  let s1 := (s.setThread t { th with owed := owed }).modCore t.core (fun k =>
    let k1 := k.lock t.core c.id rs
    { k1 with rows := k1.rows ++ [c] })
  { s1 with nextId := s1.nextId + 1 }

/-- Issue of a row-unit command of n bytes (R209). The destination of rowdot is not read. -/
def issueRow (s : State) (k : RowKind) (rc : Option Reg) (ra : Reg) (rb : Option Reg) (imm : Word) (ev : BitVec 4)
    (n : Nat) : Res :=
  s.onThread fun th =>
    s.gate th (rc.toList ++ [ra] ++ rb.toList) ((if k = .dot then [] else rc.toList) ++ [ra] ++ rb.toList)
      (let c := (rc.map s.g).getD 0
       let w := (rb.map s.g).getD imm
       s.orTrap (s.rowFault s.cur.core k c (s.g ra) w th.fcsr)
         (let img := if k.table then (aget (s.stationAt (stationOfCore s.cur.core)).descs (rowDesc w)).getD [] else []
          let rs := rowRanges k (Desc.ofImage img) c (s.g ra) w
          if (s.coreAt s.cur.core).lockRoom < rs.length then s.waitFor s.cur (.lockRoom rs.length)
          else (s.enterRows s.cur th (s.makeRow s.cur th k (rc.getD 0) c (s.g ra) w ev.toNat img) rs).finish s.cur n))

/-- rowget (R210). -/
def execRowget (x : XC) (s : State) : Res := issueRow s .get (some x.c) x.a (some x.b) 0 x.ev 4
/-- rowput (R210). -/
def execRowput (x : XC) (s : State) : Res := issueRow s .put (some x.c) x.a (some x.b) 0 x.ev 4
/-- rowadd (R211). -/
def execRowadd (x : XC) (s : State) : Res := issueRow s .add (some x.c) x.a (some x.b) 0 x.ev 4
/-- rowaxpy (R211). -/
def execRowaxpy (x : XC) (s : State) : Res := issueRow s .axpy (some x.c) x.a (some x.b) 0 x.ev 4
/-- rowscale (R211). -/
def execRowscale (x : XC) (s : State) : Res := issueRow s .scale (some x.c) x.a (some x.b) 0 x.ev 4
/-- rowdot (R212). -/
def execRowdot (x : XC) (s : State) : Res := issueRow s .dot (some x.c) x.a (some x.b) 0 x.ev 4
/-- rowcvt (R211). -/
def execRowcvt (x : X2) (s : State) : Res := issueRow s .cvt none x.a (some x.b) 0 x.ev 4
/-- rowzero (R211). -/
def execRowzero (x : X2) (s : State) : Res := issueRow s .zero none x.a (some x.b) 0 x.ev 4
/-- rowcopy (R211). -/
def execRowcopy (x : X2) (s : State) : Res := issueRow s .copy none x.a (some x.b) 0 x.ev 4
/-- rowtopk (R213). -/
def execRowtopk (x : XC) (s : State) : Res := issueRow s .topk (some x.c) x.a (some x.b) 0 x.ev 4
/-- rowget, long form (R64). -/
def execRowgetLong (x : XL) (s : State) : Res := issueRow s .get (some x.c) x.a none (imm32z x.imm) x.ev 8
/-- rowput, long form (R64). -/
def execRowputLong (x : XL) (s : State) : Res := issueRow s .put (some x.c) x.a none (imm32z x.imm) x.ev 8
/-- rowadd, long form (R64). -/
def execRowaddLong (x : XL) (s : State) : Res := issueRow s .add (some x.c) x.a none (imm32z x.imm) x.ev 8
/-- rowaxpy, long form (R64). -/
def execRowaxpyLong (x : XL) (s : State) : Res := issueRow s .axpy (some x.c) x.a none (imm32z x.imm) x.ev 8
/-- rowscale, long form (R64). -/
def execRowscaleLong (x : XL) (s : State) : Res := issueRow s .scale (some x.c) x.a none (imm32z x.imm) x.ev 8
/-- rowdot, long form (R64). -/
def execRowdotLong (x : XL) (s : State) : Res := issueRow s .dot (some x.c) x.a none (imm32z x.imm) x.ev 8
/-- rowcvt, long form (R64). -/
def execRowcvtLong (x : X2L) (s : State) : Res := issueRow s .cvt none x.a none (imm32z x.imm) x.ev 8
/-- rowzero, long form (R64). -/
def execRowzeroLong (x : X2L) (s : State) : Res := issueRow s .zero none x.a none (imm32z x.imm) x.ev 8
/-- rowcopy, long form (R64). -/
def execRowcopyLong (x : X2L) (s : State) : Res := issueRow s .copy none x.a none (imm32z x.imm) x.ev 8
/-- rowtopk, long form (R64). -/
def execRowtopkLong (x : XL) (s : State) : Res := issueRow s .topk (some x.c) x.a none (imm32z x.imm) x.ev 8

/-! ### Arithmetic (R211 to R213) -/

/-- a times b of decoded operands, rounded once (R116). -/
def mulVals (f : Fmt) (a b : FVal) (rm : Nat) : FRes :=
  let neg := a.neg != b.neg
  if a.isNan || b.isNan then nanResult f [a, b]
  else if (a.cls == .zero && b.cls == .inf) || (a.cls == .inf && b.cls == .zero) then invalidResult f
  else if a.cls == .inf || b.cls == .inf then .exact (f.signed neg f.infCode)
  else roundF f neg (a.m * b.m) (a.e + b.e) rm false

/-- a times b plus c of decoded operands, rounded once (R116). -/
def fmaVals (f : Fmt) (a b c : FVal) (rm : Nat) : FRes :=
  let neg := a.neg != b.neg
  if a.isNan || b.isNan || c.isNan then .exact f.canon
  else if (a.cls == .zero && b.cls == .inf) || (a.cls == .inf && b.cls == .zero) then invalidResult f
  else if a.cls == .inf || b.cls == .inf then
    if c.cls == .inf && c.neg != neg then invalidResult f else .exact (f.signed neg f.infCode)
  else if c.cls == .inf then .exact (f.signed c.neg f.infCode)
  else sumRound f { cls := .finite, neg := neg, m := a.m * b.m, e := a.e + b.e } c rm false

/-- n elements of a scratchpad. -/
def Core.elems (k : Core) (a bytes n : Nat) : List Nat := chunkNats bytes n (k.spad.readBytes a (bytes * n))

/-- The scalar of rowaxpy and rowscale (R208). -/
def rowScalar (code : Nat) (rc : Word) : FVal :=
  if code = 1 then decodeF .fp64 rc.toNat else decodeF .fp32 (wfld rc 31 0)

/-- One result element of an element-wise command, from the elements of x and y (R211). -/
def RowCmd.elem (c : RowCmd) (x y : Nat) : Nat :=
  let f := elemFmt (rowFmt c.word)
  let a := rowScalar (rowFmt c.word) c.rc
  match c.kind with
  | .add => (addVals f (decodeF f x) (decodeF f y) c.rm false).bits
  | .axpy => (fmaVals f a (decodeF f x) (decodeF f y) c.rm).bits
  | .scale => (mulVals f a (decodeF f x) c.rm).bits
  | .cvt => (convertF f (elemFmt (rowDfmt c.word)) x c.rm (rowSat c.word)).bits
  | .zero => 0
  | _ => x

/-- Pairwise sums, halving the list `fuel` times (R212). -/
def pairSums (f : Fmt) (rm : Nat) : Nat → List Nat → Nat
  | 0, l => l.headD 0
  | fuel + 1, l =>
    pairSums f rm fuel ((List.range (l.length / 2)).map (fun i => (fpAdd f (l.getD (2 * i) 0) (l.getD (2 * i + 1) 0) rm).bits))

/-- The fixed tree of rowdot (R212). -/
def rowDot (code rm : Nat) (xs ys : List Nat) : Nat :=
  let f := elemFmt code
  let g := accFmt code
  let lanes := ((xs.zip ys).zipIdx).foldl (fun s p =>
    setAt s (p.2 % 16) (fmaVals g (decodeF f p.1.1) (decodeF f p.1.2) (decodeF g (s.getD (p.2 % 16) 0)) rm).bits)
    (List.replicate 16 0)
  pairSums g rm 4 lanes

/-- The rank of an element for rowtopk: NaNs below -infinity, -0 below +0 (R213). -/
def topkBefore (f : Fmt) (x y : Nat × Nat) : Bool :=
  let a := decodeF f x.1
  let b := decodeF f y.1
  if a.isNan then b.isNan && decide (x.2 < y.2)
  else if b.isNan then true
  else if b.lt a then true
  else if a.lt b then false
  else if a.neg != b.neg && a.cls == .zero then b.neg
  else decide (x.2 < y.2)

def topkInsert (f : Fmt) (x : Nat × Nat) : List (Nat × Nat) → List (Nat × Nat)
  | [] => [x]
  | y :: r => if topkBefore f x y then x :: y :: r else y :: topkInsert f x r

/-- The k largest elements with their indices, in descending order (R213). -/
def topk (f : Fmt) (k : Nat) (xs : List Nat) : List (Nat × Nat) := ((xs.zipIdx).foldr (topkInsert f) []).take k

/-- A value of rowtopk: copied, but a NaN is canonical. -/
def topkValue (f : Fmt) (x : Nat) : Nat := if (decodeF f x).isNan then f.canon else x

/-! ### What a command computes (R209 to R213) -/

/-- The sources of a command: addresses and element bytes. -/
def RowCmd.sources (c : RowCmd) : List Nat :=
  match c.kind with
  | .add => [rowX c.addrs, rowY c.addrs]
  | .axpy => [rowX c.addrs, rowY c.addrs]
  | .dot => [rowX c.addrs, rowY c.addrs]
  | .zero => []
  | _ => [rowX c.addrs]

/-- A source doubleword with bad parity, of several any (log entry 6). -/
def RowCmd.badWord (c : RowCmd) (s : State) (k : Core) (len : Nat) : Option Nat :=
  s.anyOf (c.sources.flatMap (fun a => k.spadBad.filter (fun w => overlaps (8 * w) 8 a len)))

/-- Whether element i depends on a word with bad parity. -/
def RowCmd.badElem (c : RowCmd) (k : Core) (e i : Nat) : Bool := c.sources.any (fun a => k.badParity (a + e * i) e)

/-- What a command comes to: its writes to the own scratchpad, and how it ends. -/
structure RowEnd where
  writes : List SpadWrite
  done : RowDone
  deriving DecidableEq, Repr

/-- A write of the command. -/
def RowCmd.put (_c : RowCmd) (addr : Nat) (bs : List Byte) : SpadWrite := { pos := 0, addr := addr, bytes := bs }

/-- Bytes of a destination element, and where the destination starts (R208). -/
def RowCmd.outBytes (c : RowCmd) : Nat := if c.kind = .cvt then elemBytes (rowDfmt c.word) else elemBytes (rowFmt c.word)
def RowCmd.dest (c : RowCmd) : Nat :=
  match c.kind with
  | .add => wfld c.rc 17 0
  | .zero => rowX c.addrs
  | _ => rowY c.addrs

/-- An element-wise command (R211), from its core's scratchpad as it has read it: elements that depend on bad parity are
undefined. -/
def RowCmd.endElems (c : RowCmd) (s : State) (k : Core) : RowEnd :=
  let e := elemBytes (rowFmt c.word)
  let n := rowLen c.word
  let xs := k.elems (rowX c.addrs) e n
  let ys := k.elems (rowY c.addrs) e n
  let bs := (List.range n).flatMap (fun i => bytesLE c.outBytes
    (if c.badElem k e i then (s.undefined (16 + i)).toNat else c.elem (xs.getD i 0) (ys.getD i 0)))
  { writes := [c.put c.dest bs]
    done := { result := none, failure := (c.badWord s k (e * n)).map (fun w => (20, BitVec.ofNat 64 (8 * w))) } }

/-- rowdot (R212, R217). -/
def RowCmd.endDot (c : RowCmd) (s : State) (k : Core) : RowEnd :=
  let e := elemBytes (rowFmt c.word)
  let n := rowLen c.word
  { writes := []
    done := match c.badWord s k (e * n) with
      | some w => { result := none, failure := some (20, BitVec.ofNat 64 (8 * w)) }
      | none =>
        { failure := none
          result := some (BitVec.ofNat 64
            (rowDot (rowFmt c.word) c.rm (k.elems (rowX c.addrs) e n) (k.elems (rowY c.addrs) e n))) } }

/-- rowtopk (R213); with a bad source word every output is undefined (log entry 29). -/
def RowCmd.endTopk (c : RowCmd) (s : State) (k : Core) : RowEnd :=
  let f := elemFmt (rowFmt c.word)
  let e := elemBytes (rowFmt c.word)
  let n := wfld c.rc 10 0
  let bad := c.badWord s k (e * rowLen c.word)
  let l := topk f n (k.elems (rowX c.addrs) e (rowLen c.word))
  let vals := (List.range n).flatMap (fun i => bytesLE e
    (if bad.isSome then (s.undefined (16 + i)).toNat else topkValue f (l.getD i (0, 0)).1))
  let idx := (List.range n).flatMap (fun i => bytesLE 2
    (if bad.isSome then (s.undefined (2048 + i)).toNat else (l.getD i (0, 0)).2))
  { writes := [c.put (rowY c.addrs) vals, c.put (wfld c.rc 49 32) idx]
    done := { result := none, failure := bad.map (fun w => (20, BitVec.ofNat 64 (8 * w))) } }

/-- A failure of rowget or rowput (R210): the fault of the status, with the value g[rc]. -/
def RowCmd.failAs (c : RowCmd) (status : Nat) : RowDone :=
  { result := none, failure := if status = 0 then none else some (statusFault status, c.rc) }

def RowCmd.agent (c : RowCmd) (s : State) : RowAgent :=
  { station := stationOfCore c.thread.core, ctx := c.ctx, tag := c.tag, user := c.user
    place := BitVec.ofNat 32 (s.place c.thread), who := .row (c.thread.core) c.id, dev := c.dev, issued := c.issued }

def RowCmd.d (c : RowCmd) : Desc := Desc.ofImage c.desc
/-- The row index of rowget and rowput, at the table's index width. -/
def RowCmd.index (c : RowCmd) : Nat := if c.d.iw then c.rc.toNat else wfld c.rc 31 0

/-- A row narrowed and widened under the command's wire format (R100, R210). -/
def RowCmd.wired (c : RowCmd) (row : List Byte) : List Byte := wireWiden (rowWire c.word) (wireShrink (rowWire c.word) row)

/-! ### The way of a command (R209) -/

def State.modRow (s : State) (core id : Nat) (f : RowCmd → RowCmd) : State :=
  s.modCore core (fun k => { k with rows := k.rows.map (fun c => if c.id == id then f c else c) })

/-- A command has what it writes and how it ends. -/
def State.endRow (s : State) (core : Nat) (c : RowCmd) (e : RowEnd) : State :=
  s.modRow core c.id (fun c => { c with out := e.writes, ending := some e.done })

/-- A held page: the command goes on waiting, and past 76,000 ticks fails with XLATE (R229). -/
def State.holdRow (s : State) (core : Nat) (c : RowCmd) : State :=
  match c.heldSince with
  | some since => if since + 76000 ≤ s.time.toNat then s.endRow core c { writes := [], done := c.failAs 3 } else s
  | none => s.modRow core c.id (fun c => { c with heldSince := some s.time.toNat })

/-- A row for a rowget (R210). -/
def RowCmd.landed (c : RowCmd) (row : List Byte) : RowEnd :=
  { writes := [c.put (rowX c.addrs) row], done := c.failAs 0 }

/-- One try of a rowget's lookup (R210). -/
def State.tryRowget (s : State) (core : Nat) (c : RowCmd) : State :=
  match c.answer with
  | some (status, row) =>
    s.endRow core c (if status = 0 then c.landed row else { writes := [], done := c.failAs status })
  | none =>
    if s.rowWaits.any (fun w => w.cmd == c.id) then s
    else if c.index = c.d.missing then s.endRow core c (c.landed (List.replicate c.d.rowBytes 0))
    else if c.d.rows ≤ c.index ∧ c.d.oob = false then s.endRow core c { writes := [], done := c.failAs 2 }
    else
      let a := c.agent s
      let default := decide (c.d.rows ≤ c.index)
      s.along (if default then s.wayTo a c.d.dflt else s.rowWay a c.d c.index true) (fun s =>
        let l := if default then s.engineRead a c.d.dflt c.d.rowBytes true else s.lookupRow a c.d c.index
        match l.1 with
        | .row bs => l.2.endRow core c (c.landed (c.wired bs))
        | .failed status => l.2.endRow core c { writes := [], done := c.failAs status }
        | .held => l.2.holdRow core c
        | .remote dev =>
          let addr := if default then c.d.dflt else
            match s.rowAddress a c.d c.index with
            | (.ok va, _) => va
            | _ => 0
          if l.2.linked dev then l.2.requestRow dev a.station c.id 0 addr a c.d (rowDesc c.word) (rowWire c.word)
          else l.2.endRow core c { writes := [], done := c.failAs 1 })

/-- One try of a rowput's update (R210), from its core's scratchpad as it has read it. -/
def State.tryRowput (s : State) (core : Nat) (c : RowCmd) (k : Core) : State :=
  let fin (s : State) (status : Nat) : State := s.endRow core c { writes := [], done := c.failAs status }
  match c.answer with
  | some (status, _) => fin s status
  | none =>
    if s.rowWaits.any (fun w => w.cmd == c.id) then s
    else if c.index = c.d.missing then fin s 0
    else if c.d.rows ≤ c.index then fin s (if c.d.oob then 0 else 2)
    else if 64 ≤ c.thread.slot then fin s 0
    else if k.badParity (rowX c.addrs) c.d.rowBytes then fin s 8
    else
      let row := k.spad.readBytes (rowX c.addrs) c.d.rowBytes
      s.along (s.rowWay (c.agent s) c.d c.index false) (fun s =>
        match s.updateRow (c.agent s) c.d c.index false (c.wired row) c.id 0 with
        | (.done, s1) => fin s1 0
        | (.failed status, s1) => fin s1 status
        | (.held, s1) => s1.holdRow core c
        | (.remote dev, s1) =>
          if !s1.linked dev then fin s1 1
          else
            match s1.rowAddress (c.agent s) c.d c.index with
            | (.ok va, s2) => s2.sendUpdate dev (stationOfCore core) c.id 0 va (c.agent s) c.d (rowWire c.word) false row
            | (_, s2) => s2)

/-- Whether a rowget or rowput still has a table's row to reach. -/
def State.rowOpen (s : State) (c : RowCmd) : Bool :=
  c.kind.table && c.ending.isNone && c.answer.isNone && !s.rowWaits.any (fun w => w.cmd == c.id) && c.index != c.d.missing &&
    decide (c.index < c.d.rows)

/-- A rowput whose row's home slice lies outside the scope of its completion's release: its checks are made, and the update reaches
the slice by and by, behind the completion where it so falls (R179, R208). -/
def State.lateRowput (s : State) (core : Nat) (c : RowCmd) (k : Core) : State :=
  let a := c.agent s
  match s.updateAddress a c.d c.index with
  | (.ok va, s1) =>
    match s1.primaryOf a va false with
    | (.ok pa, s2) =>
      if c.d.place ≠ 0 ∨ s2.sliceScope c.thread (homeStation pa) ≤ rowScope c.word ∨ s2.writeRefused c.tag pa c.d.rowBytes then s
      else
        ({ s2 with
            lates := s2.lates ++ [{ id := s2.nextId, cmd := c.id, position := 0, agent := a, va := va, pa := pa, completed := none
                                    add := false, dbl := c.d.efmt == 1, delta := c.d.delta
                                    row := c.wired (k.spad.readBytes (rowX c.addrs) c.d.rowBytes) }]
            nextId := s2.nextId + 1 } : State).endRow core c { writes := [], done := c.failAs 0 }
    | _ => s
  | _ => s

/-- A running command that has not ended reads what is left of its sources, and computes or makes its row access. -/
def State.turnRow (s : State) (core : Nat) (c : RowCmd) : State :=
  let k := (s.coreAt core).overlay core c.seen
  if c.ending.isSome then s
  else
    match c.kind with
    | .get => s.tryRowget core c
    | .put => s.tryRowput core c k
    | .dot => s.endRow core c (c.endDot s k)
    | .topk => s.endRow core c (c.endTopk s k)
    | _ => s.endRow core c (c.endElems s k)

/-- The command that a core's row unit runs: the oldest, once it has started (R209). -/
def State.runningRow (s : State) (core : Nat) : Option RowCmd := (s.coreAt core).rows.head?.filter RowCmd.started

/-- The running command has read its sources. -/
def State.rowTurn (s : State) (core : Nat) : State :=
  match s.runningRow core with
  | none => s
  | some c => s.turnRow core c

/-- The running rowput's update goes late (R179). -/
def State.rowLate (s : State) (core : Nat) : State :=
  match s.runningRow core with
  | none => s
  | some c =>
    let k := (s.coreAt core).overlay core c.seen
    if c.kind == .put && s.rowOpen c && decide (c.thread.slot < 64) && !k.badParity (rowX c.addrs) c.d.rowBytes then
      s.along (s.rowWay (c.agent s) c.d c.index false) (fun s => s.lateRowput core c k)
    else s

/-- The device-list entry of the running command's row is read in a tick of its own (R172, R194). -/
def State.readRowDevice (s : State) (core : Nat) : State :=
  match s.runningRow core with
  | none => s
  | some c =>
    if s.rowOpen c && c.d.pod && c.dev.isNone then
      let a := c.agent s
      s.along (s.wayTo a (c.d.devlist + 2 * (c.d.shardOf c.index).1)) (fun s =>
        match s.rowDevice a c.d c.index with
        | (.row bs, s1) => s1.modRow core c.id (fun c => { c with dev := some (ofBytesLE bs % 2 ^ 14) })
        | (.held, s1) => s1.holdRow core c
        | (_, s1) => s1)
    else s

/-- A scratchpad doubleword of the running command: its write, else its read (R172, R177). -/
def State.rowWord (s : State) (core word : Nat) : State :=
  match s.runningRow core with
  | none => s
  | some c =>
    match takeFirst (fun x => x.covers (word % 2 ^ 15)) c.out with
    | some (x, r) =>
      let w := x.cut (word % 2 ^ 15)
      (s.ownWrite c.thread w.1.addr w.1.bytes).modRow core c.id (fun c => { c with out := w.2 ++ r })
    | none =>
      if word / 2 ^ 15 != core || c.ending.isSome || (aget c.seen word).isSome then s
      else s.modRow core c.id (fun c => { c with seen := aset c.seen word ((s.coreAt core).wordAt (word % 2 ^ 15)) })

/-- The first replica of a rowput's row that failed, as its failure (R187, R210). -/
def State.rowDone (s : State) (c : RowCmd) (e : RowDone) : RowDone :=
  match s.replicas.find? (fun r => r.cmd == c.id && r.failed.isSome) with
  | some r => c.failAs (r.failed.getD 0)
  | none => e

/-- The completion of a command that has ended: what is left to write, its register result, its locks, its line and its place in the
queue (R209, R212). What a lost core's command writes is discarded (R207). -/
def State.finishRow (s : State) (core : Nat) (c : RowCmd) (e : RowDone) : State :=
  let done := s.rowDone c e
  let s1 := c.out.foldl (fun s x => s.ownWrite c.thread x.addr x.bytes)
    { s.lateBehind c.id with replicas := s.replicas.filter (fun r => !(r.cmd == c.id && r.failed.isSome)) }
  let s2 := if c.kind = .dot then s1.payOwed c.thread c.id e.result else s1
  (s2.modCore core (fun k =>
    let k1 := k.unlock s.time.toNat c.id
    { k1 with rows := k1.rows.filter (fun x => x.id != c.id) })).raiseChime c.thread c.ev done.failure

/-- ROW_COMMAND_START: the oldest command of the core's unit starts (R209). -/
def execRowCommandStart (core : Nat) (s : State) : Res :=
  match (s.coreAt core).rows with
  | [] => .next s
  | c :: _ =>
    if (s.ctxOfStation (stationOfCore core)).isSome then .next (s.modRow core c.id (fun c => { c with started := true }))
    else .next s

/-- The running command of a core's unit ends; a row of another device that has not come, a held page or a replica that is behind
keeps it running. -/
def State.completeRow (s : State) (core : Nat) : State :=
  let s1 := s.rowTurn core
  match s1.runningRow core with
  | none => s1
  | some c =>
    match c.ending with
    | none => s1
    | some e =>
      if c.d.delta = 0 ∧ s1.replicas.any (fun r => r.cmd == c.id && r.failed.isNone) then s1 else s1.finishRow core c e

/-- ROW_COMMAND_COMPLETION (R209 to R213). -/
def execRowCommandCompletion (core : Nat) (_ext : ExtAnswer) (s : State) : Res := .next (s.completeRow core)

/-! ### Row requests between devices (R214) -/

/-- The response to a row request (R214). -/
def responseTo (q : RowReq) (status : Nat) (row : List Byte) : OutPacket :=
  .rowResponse { srcdev := q.srcdev, dstdev := q.dstdev, ctx := q.ctx, status := status, addr := q.addr, reqids := [q.reqid]
                 row := wireShrink q.w row }

/-- Who serves a row packet of another device: the paired context, with its key tag, at the partition's lowest-numbered station, in
supervisor mode, since the packet carries none (R287; log entry 30). -/
def State.servingAgent (s : State) (ctx : Nat) (x : Context) (id : Nat) : RowAgent :=
  { station := s.homeOf ctx, ctx := ctx, tag := x.tag, user := false, place := 0xFFFFFFFF#32, who := .serve id, dev := none
    issued := s.time.toNat }

/-- A row request of another device at this holder, which reads the row in one tick for the paired context and sends it back,
narrowed under w (R100, R214, R287): whether it has been answered; not while its page is held (R229) or a router on the way is not
awake (R271). DESIGN CHOICE: one with the reserved wire format 7 is answered with status 4; R100 leaves how a packet with it is
rejected to the packet's chapter, and R214 does not say. -/
def State.answerRowRequest (s : State) (q : RowReq) (id since : Nat) : Bool × State :=
  let send (s : State) (p : OutPacket) : Bool × State := (true, s.sendPacket (s.granulePort q.srcdev q.addr) p)
  match (s.ctxAt q.ctx).filter (fun _ => bitAt s.host.podpair.toNat q.ctx && q.w != 7) with
  | none => send s (responseTo q 4 [])
  | some x =>
    let a := s.servingAgent q.ctx x id
    if since + 76000 ≤ s.time.toNat then send s (responseTo q 3 [])
    else if !s.routeOpen (s.wayTo a q.addr) then (false, s)
    else
      match (s.touchRoute (s.wayTo a q.addr)).engineRead a q.addr (2 ^ q.rlog) true with
      | (.row bs, s1) => send s1 (responseTo q 0 bs)
      | (.failed status, s1) => send s1 (responseTo q status [])
      | (.held, s1) => (false, s1)
      | (.remote _, s1) => send s1 (responseTo q 4 [])

/-- The acknowledgement of a row update of another device. -/
def State.sendRowAck (s : State) (u : RowUpd) (status : Nat) : Bool × State :=
  (true, s.sendPacket (s.granulePort u.device u.addr) (.rowAck u.device u.ctx u.reqid status))

/-- A row update of another device, under the paired context, and its acknowledgement (R100, R199, R285, R287), in the same way. -/
def State.answerRowUpdate (s : State) (u : RowUpd) (id since : Nat) : Bool × State :=
  match (s.ctxAt u.ctx).filter (fun _ => bitAt s.host.podpair.toNat u.ctx && u.w != 7) with
  | none => s.sendRowAck u 4
  | some x =>
    let a := s.servingAgent u.ctx x id
    if since + 76000 ≤ s.time.toNat then s.sendRowAck u 3
    else if !s.routeOpen (s.wayTo a u.addr) then (false, s)
    else
      match (s.touchRoute (s.wayTo a u.addr)).primaryOf a u.addr u.add with
      | (.ok pa, s1) =>
        match s1.updateAt a pa u.add u.dbl u.delta (wireWiden u.w u.row) with
        | (.failed status, s2) => s2.sendRowAck u status
        | (_, s2) => s2.sendRowAck u 0
      | (.error (.failed status), s1) => s1.sendRowAck u status
      | (.error .held, s1) => (false, s1)
      | (.error _, s1) => s1.sendRowAck u 4

/-- One try of a row packet of another device. -/
def State.answerAsk (s : State) (ask : RowAsk) (id since : Nat) : Bool × State :=
  match ask with
  | .lookup q => s.answerRowRequest q id since
  | .update u => s.answerRowUpdate u id since

/-- A row packet of another device arrives: it is answered, or waits here. -/
def State.takeAsk (s : State) (ask : RowAsk) : State :=
  match ({ s with nextId := s.nextId + 1 } : State).answerAsk ask s.nextId s.time.toNat with
  | (true, s1) => s1
  | (false, s1) => { s1 with serves := s1.serves ++ [{ id := s.nextId, since := s.time.toNat, ask := ask }] }

/-- A row packet that waits here is tried again; one whose page was held, not before 1,024 ticks (R229). -/
def State.serveRow (s : State) (id : Nat) : State :=
  match s.serves.find? (fun r => r.id == id) with
  | none => s
  | some r =>
    if s.held.any (fun e => e.who == .serve id) && decide (s.time.toNat < r.since + 1024) then s
    else
      match s.answerAsk r.ask id r.since with
      | (true, s1) => { s1 with serves := s1.serves.filter (fun x => x.id != id) }
      | (false, s1) => s1

/-- ROW_REQUEST. -/
def execRowRequest (q : RowReq) (s : State) : Res := .next (s.takeAsk (.lookup q))

/-- What waits under a request id takes an answer: the position of a command, or the running command of a row unit. -/
def State.takeAnswer (s : State) (w : RowWait) (status : Nat) (row : List Byte) : State :=
  let s1 : State := { s with rowWaits := s.rowWaits.filter (fun x => x != w) }
  match s1.copyAt w.station w.cmd with
  | some c =>
    let ps := if w.update then [w.position] else (c.sameAs w.position).filter c.wants
    if status ≠ 0 then s1.setAll w.station c.id (.failed status) ps
    else if w.update then s1.setAll w.station c.id .written ps
    else
      s1.serveRowTo w.station c w.position (decide (c.d.rows ≤ c.entries.getD w.position 0)) (wireWiden (tblWire c.table) row)
  | none =>
    (List.range 8).foldl (fun s i => s.modRow (w.station * 8 + i) w.cmd (fun c =>
      { c with answer := some (status, wireWiden (rowWire c.word) row) })) s1

/-- One request id of a response: the waiting position takes the row where its recorded address agrees, else fails with
status 1. -/
def State.takeResponse (s : State) (p : RowResp) (reqid : Nat) : State :=
  match s.rowWaits.find? (fun w => w.reqid == reqid && !w.update) with
  | none => s
  | some w => s.takeAnswer w (if w.addr = p.addr then p.status else 1) p.row

/-- A row response serves every request id that it lists (R214). -/
def State.takeRowResponse (s : State) (p : RowResp) : State := p.reqids.foldl (fun s i => s.takeResponse p i) s

/-- The acknowledgement of a row update (R285). -/
def State.takeRowAck (s : State) (reqid status : Nat) : State :=
  match s.rowWaits.find? (fun w => w.reqid == reqid && w.update) with
  | none => s
  | some w => s.takeAnswer w status []

/-- ROW_RESPONSE. -/
def execRowResponse (p : RowResp) (s : State) : Res := .next (s.takeRowResponse p)

end Sys2Proof.Machine
end

