-- ==== Sys2Proof/Machine/Fabric.lean ====
section
/-! DEFINITION. The memory's refresh windows, router power, the migration engine and the Phomund links (21_fabric R275,
R276, R281 to R288). -/

namespace Sys2Proof.Machine

/-! ### The refresh window (R281) -/

/-- Releases the pinned lines of a slice; dirty ones have been written back. -/
def releasePins (l : List SliceLine) : List SliceLine :=
  l.map (fun x => if x.pinned then { x with pinned := false, dirty := false } else x)

/-- The dirty pinned lines of all slices. -/
def State.dirtyPins (s : State) : List SliceLine :=
  s.stations.flatMap (fun p => p.2.slice.filter (fun x => x.pinned && x.dirty))

/-- REFRESH_WINDOW_END: after 60,800,000 ticks pinned lines are released, every row's count restarts, and the write-backs of the
dirty ones are the new window's first DRAM requests. -/
def execRefreshWindowEnd (s : State) : Res :=
  if s.time.toNat < s.dram.windowStart + 60800000 then .next s
  else
    let l := s.dirtyPins
    let s1 := l.foldl State.writeBack s
    .next (State.dramRun (1024 + l.length) (l.map (fun x => (x.line * 64, false)))
      { s1 with
        stations := s1.stations.map (fun p => (p.1, { p.2 with slice := releasePins p.2.slice }))
        dram := { s1.dram with activations := [], windowStart := s.time.toNat } })

/-- A refresh closes the row that a bank holds open (R280). -/
def State.refresh (s : State) (bank : Nat) : State :=
  { s with dram := { s.dram with openRow := aerase s.dram.openRow bank } }

/-! ### Router power (R275, R276) -/

/-- The ways of the requests, answers and messages under way. -/
def State.packetWays (s : State) : List (List Nat) :=
  (s.accesses.filter (fun x => x.sp != 0)).map (fun x => match x.stage with
    | .travelling => s.requestRoute x
    | .held _ => s.walkRoute (stationOfCore x.reader.core) x.ctx x.va
    | .answered _ _ _ _ => s.answerRoute x
    | _ => []) ++
  (s.flights.filter (fun f => f.stage == .travelling)).map (fun f => s.messageRoute f.msg)

/-- The way of what a thread waits for: an instruction line, or routers by name. -/
def State.threadWay (s : State) (t : ThreadId) (th : Thread) : List Nat :=
  match th.wait with
  | some (.line base _) => s.pageWay (stationOfCore t.core) th.ctxId.toNat base
  | some (.way path) => path
  | _ => []

/-- The way of the row of an open position of a copy-engine command that has read the position's entry. -/
def State.posWay (s : State) (c : CopyCmd) (p : Nat) : List Nat :=
  let x := c.entries.getD p 0
  if !(c.started && c.hasRows && c.open p && c.hasEntry p) || c.badEntries.contains p || x == c.d.missing ||
      (aget c.kept x).isSome then []
  else if c.d.rows ≤ x then (if c.d.oob && !c.kind.update then s.wayTo (c.agent s p) c.d.dflt else [])
  else s.rowWay (c.agent s p) c.d x (!c.kind.update)

/-- The way of the row of a running rowget or rowput. -/
def State.rowCmdWay (s : State) (c : RowCmd) : List Nat :=
  if c.started && s.rowOpen c then s.rowWay (c.agent s) c.d c.index (c.kind == .get)
  else if c.started && c.kind == .get && c.ending.isNone && c.d.oob && decide (c.d.rows ≤ c.index) then s.wayTo (c.agent s) c.d.dflt
  else []

/-- The way of a row packet of another device that waits here. -/
def State.serveWay (s : State) (r : RowServe) : List Nat :=
  match r.ask with
  | .lookup q => ((s.ctxAt q.ctx).map (fun x => s.wayTo (s.servingAgent q.ctx x r.id) q.addr)).getD []
  | .update u => ((s.ctxAt u.ctx).map (fun x => s.wayTo (s.servingAgent u.ctx x r.id) u.addr)).getD []

/-- The ways of what the engines and stations have under way: rows, late and forwarded updates, row packets of other devices,
descriptor updates. -/
def State.engineWays (s : State) : List (List Nat) :=
  s.stations.flatMap (fun k => k.2.copies.flatMap (fun c => (List.range c.entries.length).map (fun p => s.posWay c p))) ++
  s.cores.flatMap (fun k => k.2.rows.map s.rowCmdWay) ++ s.lates.map LateUpdate.way ++ s.replicas.map s.replicaWay ++
  s.serves.map s.serveWay ++ s.descs.flatMap (fun u => u.todo.map (fun st => routeOf (s.lowestOf u.ctx) st))

/-- The ways of what the threads wait for. -/
def State.threadWays (s : State) : List (List Nat) :=
  s.cores.flatMap (fun k => k.2.threads.map (fun t => s.threadWay { core := k.1, slot := t.1 } t.2))

/-- Whether a packet is on its way through a station's router (R269, R275; log entry 57). -/
def State.routerWanted (s : State) (station : Nat) : Bool :=
  (s.packetWays ++ s.threadWays ++ s.engineWays).any (fun way => way.contains station)

/-- ROUTER_POWER_DOWN: a router that has been idle for 4,096 core cycles powers down, unless pwrctl forbids it; a packet on its way
wins over the decision (R276). -/
def execRouterPowerDown (station : Nat) (s : State) : Res :=
  match (s.stationAt station).router with
  | .awake since =>
    if s.host.nodown ∨ s.cyclesAt station < since + 4096 ∨ s.routerWanted station then .next s
    else .next (s.modStation station (fun k => { k with router := .asleep }))
  | _ => .next s

/-- What a wake signal does to a router: it begins to wake, is awake 40 cycles later, and an awake router's idle count
restarts. -/
def RouterPower.wake (r : RouterPower) (now : Nat) : RouterPower :=
  match r with
  | .asleep => .waking now
  | .waking since => if since + 40 ≤ now then .awake now else .waking since
  | .awake _ => .awake now

def RouterPower.isWaking : RouterPower → Bool
  | .waking _ => true
  | _ => false

/-- ROUTER_WAKE: a packet on its way wakes the router; one that wakes is awake 40 core cycles after the signal. -/
def execRouterWake (station : Nat) (s : State) : Res :=
  if s.routerWanted station ∨ (s.stationAt station).router.isWaking then
    .next (s.modStation station (fun k => { k with router := k.router.wake (s.cyclesAt station) }))
  else .next s

/-! ### Migration between tiers (R282) -/

def State.channelAt (s : State) (c : Nat) : Channel := agetD s.host.channels c Channel.reset
def State.setChannel (s : State) (c : Nat) (k : Channel) : State :=
  { s with host := { s.host with channels := aset s.host.channels c k } }

/-- The bytes of a channel's pages. -/
def Channel.pageBytes (k : Channel) : Nat := if k.sz then 2 ^ 26 else 65536
def Channel.length (k : Channel) : Nat := k.count * k.pageBytes
/-- The first bytes; src and dst count 64 KiB. -/
def Channel.from (k : Channel) : Nat := k.src * 65536
def Channel.to (k : Channel) : Nat := k.dst * 65536

/-- The status that a started channel shows when its registers are wrong: 4, then 2, then 3 (log entry 34). -/
def State.channelFault (s : State) (k : Channel) : Nat :=
  if k.sz && (k.src % 1024 != 0 || k.dst % 1024 != 0) then 4
  else if (List.range k.count).any (fun i => !s.inMap (k.from + i * k.pageBytes) || !s.inMap (k.to + i * k.pageBytes)) then 2
  else if overlaps k.from k.length k.to k.length then 3
  else 0

/-- A write of mgcmd: sz and count, and with go the start of the channel; a running channel keeps its registers (log
entry 34). -/
def State.writeMgcmd (s : State) (c : Nat) (w : Word) : State :=
  let k := s.channelAt c
  if k.go then s
  else
    let k1 := { k with sz := w.getLsbD 16, count := wfld w 15 0 }
    if w.getLsbD 63 = false then s.setChannel c k1
    else
      let f := s.channelFault k1
      if f ≠ 0 then s.setChannel c { k1 with status := f }
      else s.setChannel c { k1 with go := true, status := 1, waits := s.sec.sweeping.isSome }

/-- MIGRATION_START: mgcmd is written with go; discarded in recovery (R325). -/
def execMigrationStart (channel : Nat) (value : Word) (s : State) : Res :=
  if s.sec.recovery then .next s else .next (s.writeMgcmd channel (value ||| 1#64 <<< 63))

/-- The numbers of a list that lie in a range go along to another place, whose own numbers go. -/
def moveNumbers (l : List Nat) (src dst n : Nat) : List Nat :=
  (l.filter (fun x => !(decide (dst ≤ x) && decide (x < dst + n)))) ++
    (l.filter (fun x => decide (src ≤ x) && decide (x < src + n))).map (fun x => x - src + dst)

/-- The tags of lines go along. -/
def moveTags (l : Assoc Nat) (src dst n : Nat) : Assoc Nat :=
  (l.filter (fun x => decide (src ≤ x.1) && decide (x.1 < src + n))).foldl (fun a x => aset a (x.1 - src + dst) x.2)
    (l.filter (fun x => !(decide (dst ≤ x.1) && decide (x.1 < dst + n))))

/-- The copy of n bytes with their full/empty bits, tags and poison, as whole-line writes (R231, R282). -/
def Phys.copy (p : Phys) (src dst n : Nat) : Phys :=
  { p with
    ram := p.ram.copyRange src dst n
    empty := sortedSet (moveNumbers p.empty (src / 8) (dst / 8) (n / 8))
    tags := moveTags p.tags (src / 64) (dst / 64) (n / 64)
    poison := moveNumbers p.poison (src / 64) (dst / 64) (n / 64)
    uncorr := p.uncorr.filter (fun x => !(decide (dst / 64 ≤ x) && decide (x < dst / 64 + n / 64))) }

/-- Logs the poisoned source lines of a copy (log entry 34). -/
def State.logPoison (s : State) : List Nat → State
  | [] => s
  | l :: r => (s.logError 10 3 0 0xFFFFFFFF#32 (l * 64)).logPoison r

/-- The lines of a range have been written back: none of them is dirty any more (R279). -/
def State.cleanLines (s : State) (pa n : Nat) : State :=
  let inside (line : Nat) : Bool := decide (pa / 64 ≤ line) && decide (line < (pa + n) / 64)
  { s with
    stations := s.stations.map (fun p => (p.1, { p.2 with
      slice := p.2.slice.map (fun x => if inside x.line then { x with dirty := false } else x) }))
    phys := { s.phys with old := s.phys.old.filter (fun e => !inside e.1) } }

/-- A channel's copy: each line is read at its source's home slice and written at its destination's, from where it has reached
DRAM when the channel is done, since a key's end leaves the copied ciphertext there (R282, R319; log entry 34). -/
def State.runChannel (s : State) (k : Channel) : State :=
  let n := k.length
  let s0 := (s.settleFills k.from n).settleFills k.to n
  let s1 := ((s0.foldRange k.from n).foldRange k.to n).findErrors k.from n 0 0xFFFFFFFF#32
  let s2 := (s1.sliceTouch k.from n false false).sliceTouch k.to n true false
  let s3 := s2.logPoison (s2.phys.poison.filter (fun l => decide (k.from / 64 ≤ l) && decide (l < (k.from + n) / 64)))
  (s3.modPhys (fun p => p.copy k.from k.to n)).cleanLines k.to n

/-- MIGRATION_COMPLETE: a running channel has copied; one that was started while a sweep runs waits for its end (R320). -/
def execMigrationComplete (channel : Nat) (s : State) : Res :=
  let k := s.channelAt channel
  if !k.go || (k.waits && s.sec.sweeping.isSome) then .next s
  else
    let s1 := (s.runChannel k).setChannel channel { k with go := false, status := 0, waits := false }
    .next { s1 with sec := { s1.sec with killWaits := s1.sec.killWaits.filter (· != channel) } }

/-! ### Phomund links (R284 to R288) -/

/-- What left by a port that fails (R288): accesses answer LINK, row commands take status 1, messages return; what waits at the
port is lost, and the port goes from every mask. -/
def State.failPort (s : State) (q : Nat) : State :=
  let lost := s.rowWaits.filter (fun w => w.port == some q)
  let msgs := s.flights.filter (fun f => f.stage == .offDevice && f.port == some q)
  let s1 : State := { s with
    accesses := s.accesses.map (fun x =>
      if x.stage == .offDevice && x.port == some q then { x with stage := .answered 17 0 0 0 } else x)
    host := { s.host with
      ports := aset s.host.ports q { s.portAt q with failed := true, out := [], replay := [] }
      porttab := s.host.porttab.map (fun p => (p.1, p.2 - p.2 / 2 ^ q % 2 * 2 ^ q)) } }
  msgs.foldl State.sendBack (lost.foldl (fun s w => s.takeAnswer w 1 []) s1)

/-- Whether a port must be declared failed: 2^20 ticks without an ack while a sent flit waits for one (R284; log entry 57). -/
def Port.mustFail (k : Port) (now : Nat) : Bool :=
  match k.replay with
  | [] => false
  | (_, sent, _) :: _ => decide (max sent k.lastAck + 2 ^ 20 ≤ now)

/-- PORT_FAILED: a port that must fail is declared failed. -/
def execPortFailed (port : Nat) (s : State) : Res :=
  if 24 ≤ port ∨ (s.portAt port).failed ∨ (s.portAt port).mustFail s.time.toNat = false then .next s
  else .next (s.failPort port)

/-- TIME_LOCK: the frequency of the count is locked; the count is never stepped (R288). -/
def execTimeLock (port : Nat) (s : State) : Res := .next (s.setPort port { s.portAt port with locked := true })

/-- The context that a packet's flit bears (R284). -/
def packetCtx : OutPacket → Nat
  | .access _ c _ | .answer _ c _ _ _ _ _ _ | .message _ c _ | .rowAck _ c _ _ => c
  | .rowRequest q => q.ctx
  | .rowResponse p => p.ctx
  | .rowUpdate _ u => u.ctx
  | .timeLock => 0

/-- The bytes of a packet with some bytes of data: a header of 32 bytes, and the data padded to 32 (R214, R284; log entry 57). -/
def packetBytes (data : Nat) : Nat := 32 + ceilDiv data 32 * 32

/-- The bytes of a packet that leaves (R169, R214, R284). -/
def outBytes : OutPacket → Nat
  | .message _ _ m => packetBytes m.wire.length
  | .rowResponse p => packetBytes p.row.length
  | .rowUpdate _ u => packetBytes u.row.length
  | .access _ _ _ | .answer _ _ _ _ _ _ _ _ | .rowAck _ _ _ _ | .rowRequest _ | .timeLock => packetBytes 0

/-- The bytes of a packet that arrives. -/
def podBytes : PodPacket → Nat
  | .message m => packetBytes m.wire.length
  | .rowResponse p => packetBytes p.row.length
  | .rowUpdate u => packetBytes u.row.length
  | .access _ | .rowAck _ _ | .rowRequest _ | .timeLock => packetBytes 0

/-- The flits of some packets together, by their sizes: one that holds them all in its 224 bytes; a single larger packet takes as
many as it needs (R284; log entry 57), and none is possible for anything else. -/
def flitsOf (sizes : List Nat) : Option Nat :=
  let total := sizes.foldl (· + ·) 0
  if total ≤ 224 then some 1 else if sizes.length = 1 then some (ceilDiv total 224) else none

/-- The packets, of some at the head of a port's queue, that one flit holds with what it holds already: as many as fit. -/
def fitting (room : Nat) : List OutPacket → List OutPacket
  | [] => []
  | p :: r => if outBytes p ≤ room then p :: fitting (room - outBytes p) r else []

/-- A flit leaves a port with up to n of the packets that wait there, all of one context, as far as they fit; it stays in the replay
buffer until its last number is acknowledged (R284). -/
def State.sendFlit (s : State) (port n : Nat) : State :=
  let k := s.portAt port
  match k.out with
  | [] => s
  | p :: _ =>
    let l := (k.out.takeWhile (fun x => packetCtx x == packetCtx p)).take n
    let run := if 224 < outBytes p then l.take 1 else fitting 224 l
    let flits := BitVec.ofNat 16 ((flitsOf (run.map outBytes)).getD 1)
    if k.failed || run.isEmpty then s
    else s.setPort port { k with
      out := k.out.drop run.length, replay := k.replay ++ [(k.sendSeq + flits - 1, s.time.toNat, run)]
      sendSeq := k.sendSeq + flits }

/-- A time and frequency lock packet waits at a port to be sent (R285, R288). -/
def State.sendTime (s : State) (port : Nat) : State :=
  if 24 ≤ port || (s.portAt port).failed then s else s.sendPacket (some port) .timeLock

/-- An access of another device: on its way to its owner where podpair admits its context, else answered with PROT, whose sub is
free (R287; log entry 21). -/
def State.takeAccess (s : State) (port ctx : Nat) (a : PodAccess) : State :=
  match (s.ctxAt ctx).filter (fun _ => bitAt s.host.podpair.toNat ctx) with
  | none =>
    s.sendPacket (s.granulePort a.device a.va) (.answer a.device ctx a.kind a.reqid 6 (s.foreignSub 6 a.va) 0 0)
  | some x =>
    s.sendAccess { id := 0, issuer := .pod port a.device a.reqid, kind := a.kind, sp := 2, va := a.va, loc := 0, n := a.n
                   x := a.x, y := a.y, rd := 0, sext := false, counter := 0, pc := 0, user := a.user, ctx := ctx
                   tag := x.tag, lu := false, issued := s.time.toNat, stage := .travelling, cancel := none
                   port := none, sent := 0 }

/-- A message of another device: on its way to its receiver where podpair admits its context, else returned (R169, R287). DESIGN
CHOICE: one with the reserved wire format 7 is returned too; R100 asks only that it is rejected. -/
def State.takeMessage (s : State) (ctx : Nat) (m : WireMessage) : State :=
  let f : Flight := { id := s.nextId, sender := none, msg := ofWire m ctx, stage := .travelling, port := none, sent := s.nextId }
  let s1 : State := { s with nextId := s.nextId + 1 }
  if bitAt s.host.podpair.toNat ctx && m.w != 7 then { s1 with flights := s1.flights ++ [f] } else s1.sendBack f

/-- A received packet of a context (R285, R287). -/
def State.takePacketOf (s : State) (port ctx : Nat) (p : PodPacket) : State :=
  match p with
  | .timeLock => s.setPort port { s.portAt port with locked := true }
  | .rowResponse r => s.takeRowResponse r
  | .rowRequest q => s.takeAsk (.lookup { q with ctx := ctx })
  | .access a => s.takeAccess port ctx a
  | .message m => s.takeMessage ctx m
  | .rowUpdate u => s.takeAsk (.update { u with ctx := ctx })
  | .rowAck reqid status => s.takeRowAck reqid status

/-- The flits that are left in a replay buffer once one of them is acknowledged: those sent behind it. -/
def ackFlits (ack : BitVec 16) (l : List (BitVec 16 × Nat × List OutPacket)) : List (BitVec 16 × Nat × List OutPacket) :=
  if l.any (fun x => x.1 == ack) then (l.dropWhile (fun x => x.1 != ack)).drop 1 else l

/-- What a port notes of an accepted flit, of a packet's last one where it takes several (R284). -/
def Port.accept (k : Port) (f : Flit) (flits now : Nat) : Port :=
  { k with
    expect := f.seq + BitVec.ofNat 16 flits, acked := f.ack, crq := k.crq + f.crq, crs := k.crs + f.crs, badFlits := 0, lastAck := now
    replay := ackFlits f.ack k.replay }

/-- LINK_FLIT: a flit with a bad crc is replayed, and 16 failed replays fail the port; so does a good crc with a bad tag. A flit
out of sequence is dropped; an accepted one's packets are served in order (R284). Packets that no flit holds come with none. -/
def execLinkFlit (f : Flit) (s : State) : Res :=
  let k := s.portAt f.port
  if 24 ≤ f.port ∨ k.failed then .next s
  else if f.crcOk = false then
    if 16 ≤ k.badFlits then .next (s.failPort f.port)
    else .next (s.setPort f.port { k with badFlits := k.badFlits + 1 })
  else if f.tagOk = false then .next (s.failPort f.port)
  else if f.seq ≠ k.expect then .next s
  else
    match flitsOf (f.packets.map podBytes) with
    | none => .next s
    | some n =>
      .next (f.packets.foldl (fun s p => s.takePacketOf f.port f.ctx p) (s.setPort f.port (k.accept f n s.time.toNat)))

end Sys2Proof.Machine
end

