-- ==== Sys2Proof/Machine/Float.lean ====
section
/-! DEFINITION. Scalar floating point (09_scalar R114 to R123). -/

namespace Sys2Proof.Machine

/-- A floating-point operand: bits [31:0] under .s, the whole register under .d (R69). -/
def fpOperand (dbl : Bool) (a : Word) : Nat := if dbl then a.toNat else a.toNat % 2 ^ 32

/-- Writes rd, ORs the flags into fcsr and completes (R69, R114). -/
def State.fpFinish (s : State) (d : Reg) (v : Word) (f : FpFlags) : State :=
  (s.modThread s.cur (fun th => { th with fcsr := th.fcsr.raise f })).finishWith 4 d v

/-- Checks of a floating-point instruction in the order of R67: registers, then the rounding mode, then the rest. ILLEGAL
reports the first word (R66, R218). -/
def State.fpGate (s : State) (th : Thread) (i : Instr) (uses reads : List Reg) (rm : Option (BitVec 3)) (rest : State) : State :=
  match uses.find? (fun r => decide (8 * th.win.wsize ≤ r.toNat)) with
  | some _ => s.gate th uses [] rest
  | none =>
    if (rm.map (roundingBad th.fcsr)).getD false then
      s.trapNow (precise 1 (BitVec.ofNat 64 ((encode i).headD 0)) 0 0)
    else s.gate th uses reads rest

/-- rd := op(a, b) under a resolved rounding mode (R115, R116). -/
def fpOp3 (s : State) (i : Instr) (r : F3) (op : Fmt → Nat → Nat → Nat → FRes) : Res :=
  s.onThread fun th =>
    s.fpGate th i [r.d, r.a, r.b] [r.a, r.b] (some r.rm)
      (let v := op (.ofDbl r.dbl) (fpOperand r.dbl (s.g r.a)) (fpOperand r.dbl (s.g r.b)) (roundingMode th.fcsr r.rm)
       s.fpFinish r.d (BitVec.ofNat 64 v.bits) v.flags)

/-- rd := op(a) under a resolved rounding mode. -/
def fpOp2 (s : State) (i : Instr) (r : F2) (op : Fmt → Nat → Nat → FRes) : Res :=
  s.onThread fun th =>
    s.fpGate th i [r.d, r.a] [r.a] (some r.rm)
      (let v := op (.ofDbl r.dbl) (fpOperand r.dbl (s.g r.a)) (roundingMode th.fcsr r.rm)
       s.fpFinish r.d (BitVec.ofNat 64 v.bits) v.flags)

/-- rd := op(a, b) without a rounding field (R118 to R120). -/
def fpCmpOp (s : State) (i : Instr) (r : FC) (op : Fmt → Nat → Nat → Nat × FpFlags) : Res :=
  s.onThread fun th =>
    s.fpGate th i [r.d, r.a, r.b] [r.a, r.b] none
      (let v := op (.ofDbl r.dbl) (fpOperand r.dbl (s.g r.a)) (fpOperand r.dbl (s.g r.b))
       s.fpFinish r.d (BitVec.ofNat 64 v.1) v.2)

/-- The encoding of x with the sign bit of y (R119). -/
def copySign (f : Fmt) (x y : Nat) : Nat := x % f.signBit + y / f.signBit % 2 * f.signBit

/-- fadd (R116). -/
def execFadd (r : F3) (s : State) : Res :=
  fpOp3 s (.fadd r) r fpAdd

/-- fsub (R116). -/
def execFsub (r : F3) (s : State) : Res :=
  fpOp3 s (.fsub r) r fpSub

/-- fmul (R116). -/
def execFmul (r : F3) (s : State) : Res :=
  fpOp3 s (.fmul r) r fpMul

/-- fdiv (R116). -/
def execFdiv (r : F3) (s : State) : Res :=
  fpOp3 s (.fdiv r) r fpDiv

/-- fma: a times b plus the old rd, rounded once (R116). -/
def execFma (r : F3) (s : State) : Res :=
  s.onThread fun th =>
    s.fpGate th (.fma r) [r.d, r.a, r.b] [r.d, r.a, r.b] (some r.rm)
      (let v := fpFma (.ofDbl r.dbl) (fpOperand r.dbl (s.g r.a)) (fpOperand r.dbl (s.g r.b)) (fpOperand r.dbl (s.g r.d))
        (roundingMode th.fcsr r.rm)
       s.fpFinish r.d (BitVec.ofNat 64 v.bits) v.flags)

/-- fsqrt (R116). -/
def execFsqrt (r : F2) (s : State) : Res :=
  fpOp2 s (.fsqrt r) r fpSqrt

/-- fmin (R118). -/
def execFmin (r : FC) (s : State) : Res :=
  fpCmpOp s (.fmin r) r (fun f x y => ((fpMinMax f false x y).bits, (fpMinMax f false x y).flags))

/-- fmax (R118). -/
def execFmax (r : FC) (s : State) : Res :=
  fpCmpOp s (.fmax r) r (fun f x y => ((fpMinMax f true x y).bits, (fpMinMax f true x y).flags))

/-- fsgn (R119). -/
def execFsgn (r : FC) (s : State) : Res :=
  fpCmpOp s (.fsgn r) r (fun f x y => (copySign f x y, FpFlags.none))

/-- fcmp (R120). -/
def execFcmp (r : FC) (cond : BitVec 3) (s : State) : Res :=
  fpCmpOp s (.fcmp r cond) r (fun f x y => (b2n (fpCompare f cond.toNat x y).1, (fpCompare f cond.toNat x y).2))

/-- fclass (R121). -/
def execFclass (r : FK) (s : State) : Res :=
  s.onThread fun th => s.gate th [r.d, r.a] [r.a]
    (s.finishWith 4 r.d (BitVec.ofNat 64 (2 ^ fpClassBit (.ofDbl r.dbl) (fpOperand r.dbl (s.g r.a)))))

/-- fcvt (R122). -/
def execFcvt (r : FV) (s : State) : Res :=
  s.onThread fun th =>
    s.fpGate th (.fcvt r) [r.d, r.a] [r.a] (some r.rm)
      (let v := fcvtValue r.dt.toNat r.st.toNat (roundingMode th.fcsr r.rm) (s.g r.a)
       s.fpFinish r.d v.1 v.2)

/-- fround (R123). -/
def execFround (r : F2) (s : State) : Res :=
  fpOp2 s (.fround r) r fpRoundInt

end Sys2Proof.Machine
end

