-- ==== Sys2Proof/Machine/HostIf.lean ====
section
/-! DEFINITION. The host's registers in BAR0, device memory through BAR2, translation and count clearing, mailbox and
Knell, and the steps on the partition control page (00_scope R11, 17_traps R236, 21_fabric R289 to R295, R300, 25_system
R321, R325 to R329). -/

namespace Sys2Proof.Machine

/-! ### Reading BAR0 -/

/-- `bar2err` etc. of the block at 0x000_0000 (R292, R293). -/
def HostIf.word (h : HostIf) (off : Nat) : Word :=
  match off with
  | 0x00 => BitVec.ofNat 64 h.ctxtab
  | 0x08 => h.hwin
  | 0x10 => BitVec.ofNat 64 h.bar2tag
  | 0x18 => h.bar2err
  | 0x20 => h.podpair
  | 0x28 => BitVec.ofNat 64 (b2n h.nodown)
  | 0x30 => h.xinvva
  | 0x38 => BitVec.ofNat 64 (b2n h.xinvGo * 2 ^ 63 + h.xinvCount)
  | _ => 0

/-- A register of a command queue (R294, R295). -/
def CmdQueue.word (k : CmdQueue) (off : Nat) : Word :=
  match off with
  | 0 => BitVec.ofNat 64 (k.base % 2 ^ 30 * 4096 + k.ctx % 64 * 64 + k.lsize % 32 * 2 + b2n k.en)
  | 8 => BitVec.ofNat 64 k.tail.toNat
  | 16 => BitVec.ofNat 64 k.head.toNat
  | _ => k.stat

/-- A register of a migration channel (R282, R294). -/
def Channel.word (k : Channel) (off : Nat) : Word :=
  match off with
  | 0 => BitVec.ofNat 64 (k.src * 65536)
  | 8 => BitVec.ofNat 64 (k.dst * 65536)
  | 16 => BitVec.ofNat 64 (b2n k.go * 2 ^ 63 + k.status % 8 * 2 ^ 60 + b2n k.sz * 65536 + k.count)
  | _ => 0

/-- A register of the partition management block (R300); reserved fields read zero. -/
def PmBlock.word (p : PmBlock) (off : Nat) : Word :=
  match off with
  | 0x00 => BitVec.ofNat 64 (b2n p.go * 2 ^ 63 + p.status % 8 * 2 ^ 60 + p.cause % 16 * 2 ^ 56 + p.kind % 256)
  | 0x08 => p.sta
  | 0x10 => BitVec.ofNat 64 (wfld p.stb 31 0)
  | 0x18 => p.ctx &&& 0x013F013F#64
  | 0x20 => p.tick
  | 0x28 => BitVec.ofNat 64 (wfld p.img 41 0)
  | _ => 0

/-- A word of the journal (R326). -/
def JournalEntry.word (e : JournalEntry) (i : Nat) : Word :=
  if i = 0 then BitVec.ofNat 64 (e.boot.toNat * 2 ^ 48 + e.step * 2 ^ 40 + e.outcome * 2 ^ 32 + e.cause.toNat) else e.detail

/-- A doubleword of an error record (R234). -/
def ErrorRecord.word (e : ErrorRecord) (i : Nat) : Word :=
  match i with
  | 0 => BitVec.ofNat 64 (e.kind * 2 ^ 56 + e.sub * 2 ^ 48 + e.ctx * 2 ^ 32 + e.place.toNat)
  | 1 => e.addr
  | 2 => e.time
  | _ => 0

/-- `pwr` (R329). -/
def PwrReg.word (p : PwrReg) : Word := BitVec.ofNat 64 (p.mhz % 65536 * 2 ^ 32 + p.mv % 65536 * 65536 + p.state % 4)

/-- `memmap` (R327). -/
def Security.memmap (c : Security) : Word := BitVec.ofNat 64 (b2n c.memCap * 4096 + c.memStacks.toNat)

/-- A byte of the identity's public point: uncompressed, so that the first is 0x04 (R322). -/
def identityByte (i : Nat) : Byte := if i = 0 then 0x04 else Config.identityPoint i

/-- A word of the block at 0x100_0000 (R321 to R329), by its offset in the block. -/
def Security.word (c : Security) (off : Nat) : Word :=
  if 0x10000 ≤ off then
    BitVec.ofNat 64 (ofBytesLE ((List.range 8).map (fun i => if off + i < 0x10000 + 97 then identityByte (off + i - 0x10000) else 0)))
  else if 0x8000 ≤ off ∧ off < 0x10000 then ((aget c.errlog ((off - 0x8000) / 32)).map (fun e => e.word (off % 32 / 8))).getD 0
  else if 0x1000 ≤ off ∧ off < 0x2000 then ((aget c.journal ((off - 0x1000) / 16)).map (fun e => e.word (off % 16 / 8))).getD 0
  else if 0x80 ≤ off ∧ off < 0xA0 then (agetD c.pwr ((off - 0x80) / 8) PwrReg.reset).word
  else
    match off with
    | 0x00 => BitVec.ofNat 64 (b2n c.go * 2 ^ 63 + c.status % 8 * 2 ^ 60 + c.kind % 256)
    | 0x08 => c.arg
    | 0x10 => BitVec.ofNat 64 c.addr
    | 0x18 => c.res
    | 0x20 => BitVec.ofNat 64 c.jtail
    | 0x28 => c.memmap
    | 0x30 => BitVec.ofNat 64 c.errtail
    | 0x38 => BitVec.ofNat 64 c.errhead
    | 0x40 => BitVec.ofNat 64 c.errlost
    | _ => 0

/-- The word at an aligned offset of BAR0 (R292); in recovery only the security block shows (R325). -/
def State.bar0 (s : State) (off : Nat) : Word :=
  if 0x1000000 ≤ off then s.sec.word (off - 0x1000000)
  else if s.sec.recovery then 0
  else if off < 0x100000 then s.host.word off
  else if off < 0x100000 + 256 * 32 then (s.queueAt ((off - 0x100000) / 32)).word (off % 32)
  else if 0x200000 ≤ off ∧ off < 0x200000 + 4 * 32 then (s.channelAt ((off - 0x200000) / 32)).word (off % 32)
  else if 0x300000 ≤ off ∧ off < 0x300040 then s.host.pm.word (off - 0x300000)
  else if 0x400000 ≤ off ∧ off < 0x410000 then
    BitVec.ofNat 64 (agetD s.host.porttab ((off - 0x400000) / 4) 0 + agetD s.host.porttab ((off - 0x400000) / 4 + 1) 0 * 2 ^ 32)
  else if off = 0x500008 then pageView s.host.hknell s.host.hknellLost
  else if 0x600000 ≤ off ∧ off < 0x600200 then s.host.msixWord ((off - 0x600000) / 8)
  else if off = 0x600200 then s.host.pendingBits
  else 0

/-- The host reads a word: it is the data of the last host read (log entry 22). -/
def State.hostReads (s : State) (off : Nat) : State := { s with hostData := bytesLE 8 (s.bar0 off).toNat }

/-! ### xinvreg, cntclr, hmail, hknell, bar2err, errlost -/

/-- A write of xinvreg (R293): count, and with go the removal at every translation station (log entry 17). -/
def State.writeXinvreg (s : State) (w : Word) : State :=
  if s.host.xinvGo then s
  else
    let s1 : State := { s with host := { s.host with xinvCount := wfld w 31 0, xinvGo := w.getLsbD 63 } }
    if w.getLsbD 63 then
      let ctx := wfld s.host.xinvva 61 56
      let page := wfld s.host.xinvva 55 16
      let s2 := s1.invalidate ctx (page * 65536) (wfld w 31 0)
      { s2 with host := { s2.host with xinvIds := s.translatedThrough ctx page (wfld w 31 0) } }
    else s1

/-- XINVREG_START; discarded in recovery (R325). -/
def execXinvregStart (value : Word) (s : State) : Res :=
  if s.sec.recovery then .next s else .next (s.writeXinvreg (value ||| 1#64 <<< 63))

/-- XINVREG_COMPLETE: go reads 0 once every station has removed the entries and completed what it translated through
them. -/
def execXinvregComplete (s : State) : Res :=
  if !s.host.xinvGo || s.anyPending s.host.xinvIds then .next s
  else .next { s with host := { s.host with xinvGo := false, xinvIds := [] } }

/-- Clears every access count (R230, R293). -/
def State.clearCounts (s : State) : State := { s with xlats := s.xlats.map (fun p => (p.1, { p.2 with counts := [] })) }
/-- Clears the count of a physical page. -/
def State.clearCount (s : State) (page : Nat) : State :=
  s.modXlat (countStation (page * 65536)) (fun x => { x with counts := aerase x.counts page })

/-- CNTCLR_ALL; discarded in recovery (R325). -/
def execCntclrAll (s : State) : Res := if s.sec.recovery then .next s else .next s.clearCounts
/-- CNTCLR_PAGE: page 0 included; discarded in recovery (R325). -/
def execCntclrPage (page : Nat) (s : State) : Res := if s.sec.recovery then .next s else .next (s.clearCount page)

/-- The context whose partition takes a mailbox value: the running one; where several run, the register names none, so
which of them is free (log entry 32). -/
def State.mailboxCtx (s : State) : Option Nat :=
  let l := (s.ctxs.filter (fun c => c.2.running)).map Prod.fst
  if l.length ≤ 1 then l.head? else l[(s.undefined 32).toNat % l.length]?

/-- Queues a value in the host mailbox of 16 (R236, R292). -/
def State.queueMail (s : State) (w : Word) : State :=
  match s.mailboxCtx with
  | none => s
  | some c =>
    s.modCtx c (fun x =>
      let q := pushBounded 16 x.page.mailbox x.page.mailboxLost (BitVec.ofNat 64 (wfld w 61 0))
      { x with page := { x.page with mailbox := q.1, mailboxLost := q.2 } })

/-- HMAIL_WRITE; discarded in recovery (R325). -/
def execHmailWrite (value : Word) (s : State) : Res := if s.sec.recovery then .next s else .next (s.queueMail value)

/-- HKNELL_READ: returns and removes the oldest Knell sent to the host (R292); in recovery the register reads zero (R325). -/
def execHknellRead (s : State) : Res :=
  let s1 := s.hostReads 0x500008
  if s.sec.recovery then .next s1
  else .next { s1 with host := { s1.host with
    hknell := s1.host.hknell.drop 1, hknellLost := s1.host.hknell == [] && s1.host.hknellLost } }

/-- BAR2ERR_READ: returns and clears bar2err (R293); in recovery the register reads zero (R325). -/
def execBar2errRead (s : State) : Res :=
  let s1 := s.hostReads 0x18
  if s.sec.recovery then .next s1 else .next { s1 with host := { s1.host with bar2err := 0 } }

/-- ERRLOST_READ: returns and clears the dropped-record count (R328). -/
def execErrlostRead (s : State) : Res :=
  let s1 := s.hostReads 0x1000040
  .next { s1 with sec := { s1.sec with errlost := 0 } }

/-! ### Register writes (R11, R293, R294) -/

/-- A write of the block at 0x000_0000. -/
def State.writeBlock0 (s : State) (off : Nat) (w : Word) : State :=
  let h := s.host
  match off with
  | 0x00 => { s with host := { h with ctxtab := wfld w 41 12 * 4096 } }
  | 0x08 => { s with host := { h with hwin := w &&& 0xFFFFFFFFFFFF0000#64 } }
  | 0x10 => { s with host := { h with bar2tag := wfld w 7 0 } }
  | 0x20 => { s with host := { h with podpair := w } }
  | 0x28 => { s with host := { h with nodown := w.getLsbD 0 } }
  | 0x30 => if h.xinvGo then s else { s with host := { h with xinvva := w &&& 0x3FFFFFFFFFFF0000#64 } }
  | 0x38 => s.writeXinvreg w
  | 0x40 => if w.getLsbD 0 then s.clearCounts else s.clearCount (wfld w 41 16)
  | _ => s

/-- A write of a queue's register: qhead and qstat are read only. -/
def State.writeQueue (s : State) (q off : Nat) (w : Word) : State :=
  match off with
  | 0 => s.writeQbase q w
  | 8 => s.writeQtail q w
  | _ => s

/-- A write of a migration channel's register (log entry 34). -/
def State.writeChannel (s : State) (c off : Nat) (w : Word) : State :=
  let k := s.channelAt c
  match off with
  | 0 => if k.go then s else s.setChannel c { k with src := wfld w 41 16 }
  | 8 => if k.go then s else s.setChannel c { k with dst := wfld w 41 16 }
  | 16 => s.writeMgcmd c w
  | _ => s

/-- The stations of the management block's mask. -/
def PmBlock.stations (p : PmBlock) : List Nat :=
  (List.range 96).filter (fun i => if i < 64 then p.sta.getLsbD i else p.stb.getLsbD (i - 64))

/-- A request that gives cause 1 (R300): a nonzero reserved bit, a bad kind, an empty mask, a switch of nothing. -/
def PmBlock.malformed (p : PmBlock) : Bool :=
  wfld p.req 55 8 != 0 || wfld p.stb 63 32 != 0 || wfld p.ctx 63 25 != 0 || wfld p.ctx 23 22 != 0 || wfld p.ctx 15 9 != 0 ||
    wfld p.ctx 7 6 != 0 || wfld p.img 63 42 != 0 || p.kind == 0 || decide (4 < p.kind) || p.stations.isEmpty ||
    (p.kind == 2 && p.ctx.getLsbD 24 && p.ctx.getLsbD 8)

/-- A write of the partition management block: discarded while go reads 1; go starts the request (R300). -/
def State.writePm (s : State) (off : Nat) (w : Word) : State :=
  let p := s.host.pm
  if p.go then s
  else
    let p1 : PmBlock :=
      match off with
      | 0x00 =>
        let p2 := { p with req := w, kind := wfld w 7 0 }
        if w.getLsbD 63 = false then p2
        else if p2.malformed then { p2 with status := 2, cause := 1 }
        else { p2 with go := true, status := 1, cause := 0 }
      | 0x08 => { p with sta := w }
      | 0x10 => { p with stb := w }
      | 0x18 => { p with ctx := w }
      | 0x20 => { p with tick := w }
      | 0x28 => { p with img := w }
      | _ => p
    { s with host := { s.host with pm := p1 } }

/-- What makes a security request malformed (R321): its kind, argument bits that its kind does not name, a tag of 0, an
address of ATTEST that is not aligned. -/
def Security.malformed (c : Security) : Bool :=
  match c.kind with
  | 1 => decide (256 ≤ c.arg.toNat) || c.arg == 0
  | 2 => decide (256 ≤ c.arg.toNat) || c.arg == 0
  | 3 => decide (256 ≤ c.arg.toNat) || c.arg == 0
  | 4 => wfld c.arg 63 9 != 0 || wfld c.arg 7 6 != 0 || c.addr % 64 != 0
  | 5 => wfld c.arg 63 50 != 0 || wfld c.arg 15 0 != 0
  | 6 => c.arg != 0
  | _ => true

/-- A write of the block at 0x100_0000 (R321, R328). -/
def Security.write (c : Security) (off : Nat) (w : Word) : Security :=
  match off with
  | 0x00 =>
    if c.go then c
    else
      let c1 := { c with kind := wfld w 7 0 }
      if w.getLsbD 63 = false then c1
      else if c1.malformed then { c1 with status := 2 }
      else { c1 with go := true, status := 1 }
  | 0x08 => if c.go then c else { c with arg := w }
  | 0x10 => if c.go then c else { c with addr := wfld w 41 0 }
  | 0x38 => { c with errhead := w.toNat % 1024 }
  | _ => c

/-- REGISTER_WRITE: a write of a BAR0 register; other offsets, and in recovery all but the security block, discard it
(R292, R325). -/
def execRegisterWrite (offset : Nat) (value : Word) (s : State) : Res :=
  if 0x1000000 ≤ offset then
    .next { s with sec := { s.sec.write (offset - 0x1000000) value with
      killWaits := if s.sec.go then s.sec.killWaits else (s.host.channels.filter (fun c => c.2.go)).map Prod.fst } }
  else if s.sec.recovery then .next s
  else if offset < 0x100000 then .next (s.writeBlock0 offset value)
  else if offset < 0x100000 + 256 * 32 then .next (s.writeQueue ((offset - 0x100000) / 32) (offset % 32) value)
  else if 0x200000 ≤ offset ∧ offset < 0x200000 + 4 * 32 then
    .next (s.writeChannel ((offset - 0x200000) / 32) (offset % 32) value)
  else if 0x300000 ≤ offset ∧ offset < 0x300040 then .next (s.writePm (offset - 0x300000) value)
  else if 0x400000 ≤ offset ∧ offset < 0x410000 ∧ offset % 4 = 0 then
    .next { s with host := { s.host with porttab := aset s.host.porttab ((offset - 0x400000) / 4) (wfld value 23 0) } }
  else if offset = 0x500000 then .next (s.queueMail value)
  else if 0x600000 ≤ offset ∧ offset < 0x600200 ∧ offset % 8 = 0 then
    .next (s.writeMsix ((offset - 0x600000) / 8) value)
  else .next s

/-! ### BAR2 (R290) -/

/-- Notes a read that another line's tag turned into all ones (R293). -/
def HostIf.noteMismatch (h : HostIf) (a : Nat) : HostIf :=
  { h with bar2err := if h.bar2err.getLsbD 63 then h.bar2err ||| 1#64 <<< 62 else BitVec.ofNat 64 (2 ^ 63 + a % 2 ^ 42) }

/-- Free bytes, where a read gives no stated ones. -/
def State.freeBytes (s : State) (a n : Nat) : List Byte := (List.range n).map (fun i => BitVec.ofNat 8 (s.undefined (a + i)).toNat)

/-- A host read within one line: all ones outside the map and for another tag; poison gives free bytes (log entry 35). -/
def State.readLine2 (s : State) (a n : Nat) : List Byte × State :=
  if !s.inMap a then (List.replicate n 0xFF#8, s)
  else
    let s1 := (((s.settleFills a n).foldRange a n).findErrors a n 0 0xFFFFFFFF#32).sliceTouch a n false false
    match s1.tagRead s.host.bar2tag a n with
    | .ok bs => (bs, s1)
    | .error code =>
      if code = 11 then (List.replicate n 0xFF#8, { s1 with host := s1.host.noteMismatch a })
      else (s1.freeBytes a n, s1)

/-- A host read of n bytes, line by line. -/
def State.readBar2 (s : State) (a n : Nat) : Nat → List Byte × State
  | 0 => ([], s)
  | fuel + 1 =>
    if n = 0 then ([], s)
    else
      let m := min n (64 - a % 64)
      let r := s.readLine2 a m
      let q := r.2.readBar2 (a + m) (n - m) fuel
      (r.1 ++ q.1, q.2)

/-- BAR2_READ. -/
def execBar2Read (offset n : Nat) (s : State) : Res :=
  let r := s.readBar2 offset n n
  .next { r.2 with hostData := r.1 }

/-- A host write within one line: discarded outside the map, and not performed on a line of another tag (R290, R318). -/
def State.writeLine2 (s : State) (a : Nat) (bs : List Byte) : State :=
  if !s.inMap a then s
  else
    match (((s.settleFills a bs.length).foldRange a bs.length).sliceTouch a bs.length true false).tagWrite s.host.bar2tag a bs 0 0xFFFFFFFF#32 with
    | .ok s1 => s1
    | .error _ => s

/-- A host write, line by line. -/
def State.writeBar2 (s : State) (a : Nat) (bs : List Byte) : Nat → State
  | 0 => s
  | fuel + 1 =>
    if bs.isEmpty then s
    else
      let m := min bs.length (64 - a % 64)
      (s.writeLine2 a (bs.take m)).writeBar2 (a + m) (bs.drop m) fuel

/-- BAR2_WRITE. -/
def execBar2Write (offset : Nat) (bytes : List Byte) (s : State) : Res := .next (s.writeBar2 offset bytes bytes.length)

/-! ### The partition control page (R236) -/

/-- A read of a field of the control page, as a step of its own: its value is the data of the last read (log entry 22). -/
def State.readPage (s : State) (ctx off : Nat) : State :=
  match s.ctxAt ctx with
  | none => s
  | some x => { s.setCtx ctx { x with page := (x.page.read off).2 } with hostData := bytesLE 8 (x.page.read off).1.toNat }

/-- KNELL_READ. -/
def execKnellRead (ctx : Nat) (s : State) : Res := .next (s.readPage ctx 32)
/-- MIGRATE_READ. -/
def execMigrateRead (ctx : Nat) (s : State) : Res := .next (s.readPage ctx 40)
/-- HOST_READ. -/
def execHostRead (ctx : Nat) (s : State) : Res := .next (s.readPage ctx 48)
/-- TIMER_WRITE. -/
def execTimerWrite (ctx : Nat) (value : Word) (s : State) : Res :=
  .next (s.modCtx ctx (fun x => { x with page := x.page.write 24 value }))
/-- REMAP: a store to the remap field requests recovery (R239). -/
def execRemap (ctx : Nat) (value : Word) (s : State) : Res :=
  .next (s.modCtx ctx (fun x => { x with page := x.page.write 0 value }))

end Sys2Proof.Machine
end

