-- ==== Sys2Proof/Machine/MemoryIns.lean ====
section
/-! DEFINITION. Loads, stores, full/empty operations and atomics of a thread (11_memory_isa R147 to R156). -/

namespace Sys2Proof.Machine

/-- The access that a memory instruction asks for goes to the own bank, or is sent to its owner: posted where `posted`,
else waiting for the answer (R79, R80, R148, R152). -/
def State.launchAccess (s : State) (th : Thread) (posted : Bool) (x : Access) : State :=
  if x.sp = 0 then s.ownAccess s.cur x
  else if posted then s.post s.cur th x
  else s.request s.cur x

/-- Whether an access is posted (R80, R152): a store, stf or fest that leaves the core; an stf or fest on the discovery page
is answered instead, because it fails there precisely (R22). -/
def State.posts (s : State) (kind : AccessKind) (sp va : Nat) : Bool :=
  kind == .store || ((kind == .stf || kind == .fest) && !(sp == 2 && s.region va == .discovery))

/-- An M-format instruction on n bytes (R148, R152): the counter wait, the checks of mem_read, the watch units, the
access. -/
def memOp (s : State) (m : MemOp) (kind : AccessKind) (n : Nat) (sext storesT : Bool) : Res :=
  s.onThread fun th =>
    s.gate th [m.t, m.a] (if storesT then [m.a, m.t] else [m.a])
      (let ea := effAddr (s.g m.a) m.off n
       State.orElse (s.counterStop s.cur th (wkMask m.wk))
         (s.orTrap (s.addrFault s.cur m.sp.toNat ea n)
           (State.orElse (s.watchStop s.cur th m.sp.toNat ea n (AccessKind.watchKind kind))
             (s.launchAccess th (s.posts kind m.sp.toNat ea.toNat)
               (Access.make s.cur th kind m.sp.toNat ea.toNat n (if storesT then s.g m.t else 0) 0 m.t sext m.lu 0
                 s.time)))))

/-- An atomic on n bytes (R155, R156): the release, the checks of mem_read, the watch units, the access; `pair` for cas,
which uses rt and rt + 1 (R63). -/
def atomicOp (s : State) (m : AmoOp) (kind : AccessKind) (sext pair : Bool) : Res :=
  s.onThread fun th =>
    let n := if m.wide then 8 else 4
    let uses := if pair then [m.t, m.t + 1, m.a] else [m.t, m.a]
    s.gate th uses uses
      (let ea := s.g m.a
       State.orElse (if m.ord.toNat = 2 ∨ m.ord.toNat = 3 then s.releaseStop s.cur th m.scope.toNat else none)
         (s.orTrap (s.addrFault s.cur m.sp.toNat ea n)
           (State.orElse (s.watchStop s.cur th m.sp.toNat ea n (AccessKind.watchKind kind))
             (s.launchAccess th false
               (Access.make s.cur th kind m.sp.toNat ea.toNat n (s.g m.t) (if pair then s.g (m.t + 1) else 0) m.t sext
                 false 0 s.time)))))

/-- ld.b (R148). -/
def execLdB (m : MemOp) (s : State) : Res := memOp s m .load 1 true false

/-- ld.h (R148). -/
def execLdH (m : MemOp) (s : State) : Res := memOp s m .load 2 true false

/-- ld.w (R148). -/
def execLdW (m : MemOp) (s : State) : Res := memOp s m .load 4 true false

/-- ld.d (R148). -/
def execLdD (m : MemOp) (s : State) : Res := memOp s m .load 8 false false

/-- ld.bu (R148). -/
def execLdBu (m : MemOp) (s : State) : Res := memOp s m .load 1 false false

/-- ld.hu (R148). -/
def execLdHu (m : MemOp) (s : State) : Res := memOp s m .load 2 false false

/-- ld.wu (R148). -/
def execLdWu (m : MemOp) (s : State) : Res := memOp s m .load 4 false false

/-- st.b (R148). -/
def execStB (m : MemOp) (s : State) : Res := memOp s m .store 1 false true

/-- st.h (R148). -/
def execStH (m : MemOp) (s : State) : Res := memOp s m .store 2 false true

/-- st.w (R148). -/
def execStW (m : MemOp) (s : State) : Res := memOp s m .store 4 false true

/-- st.d (R148). -/
def execStD (m : MemOp) (s : State) : Res := memOp s m .store 8 false true

/-- ldfe (R152). -/
def execLdfe (m : MemOp) (s : State) : Res := memOp s m .ldfe 8 false false

/-- ldff (R152). -/
def execLdff (m : MemOp) (s : State) : Res := memOp s m .ldff 8 false false

/-- stfe (R152). -/
def execStfe (m : MemOp) (s : State) : Res := memOp s m .stfe 8 false true

/-- stf (R152). -/
def execStf (m : MemOp) (s : State) : Res := memOp s m .stf 8 false true

/-- fest (R152). -/
def execFest (m : MemOp) (s : State) : Res := memOp s m .fest 8 false true

/-- amo.add (R155). -/
def execAmoAdd (m : AmoOp) (s : State) : Res := atomicOp s m (.amo .add) true false

/-- amo.and (R155). -/
def execAmoAnd (m : AmoOp) (s : State) : Res := atomicOp s m (.amo .and) true false

/-- amo.or (R155). -/
def execAmoOr (m : AmoOp) (s : State) : Res := atomicOp s m (.amo .or) true false

/-- amo.xor (R155). -/
def execAmoXor (m : AmoOp) (s : State) : Res := atomicOp s m (.amo .xor) true false

/-- amo.min (R155). -/
def execAmoMin (m : AmoOp) (s : State) : Res := atomicOp s m (.amo .min) true false

/-- amo.max (R155). -/
def execAmoMax (m : AmoOp) (s : State) : Res := atomicOp s m (.amo .max) true false

/-- amo.minu (R155). -/
def execAmoMinu (m : AmoOp) (s : State) : Res := atomicOp s m (.amo .minu) true false

/-- amo.maxu (R155). -/
def execAmoMaxu (m : AmoOp) (s : State) : Res := atomicOp s m (.amo .maxu) true false

/-- amo.swap (R155). -/
def execAmoSwap (m : AmoOp) (s : State) : Res := atomicOp s m (.amo .swap) true false

/-- cas (R155). -/
def execCas (m : AmoOp) (s : State) : Res := atomicOp s m (.amo .cas) true true

/-- famo.fadd (R156). -/
def execFamoFadd (m : AmoOp) (s : State) : Res := atomicOp s m (.famo .fadd) false false

/-- famo.fmin (R156). -/
def execFamoFmin (m : AmoOp) (s : State) : Res := atomicOp s m (.famo .fmin) false false

/-- famo.fmax (R156). -/
def execFamoFmax (m : AmoOp) (s : State) : Res := atomicOp s m (.famo .fmax) false false

end Sys2Proof.Machine
end

