-- ==== Sys2Proof/Machine/Slice.lean ====
section
/-! DEFINITION. The slice array of a station (19_matrix R240 to R267). Each slice pair is one step of its own (log
entry 1). -/

namespace Sys2Proof.Machine

/-! ### Control and address words (R250, R253, R255, R257) -/

def arrS (c : Nat) : Nat := fld c 31 29
def arrSideB (c : Nat) : Bool := bitAt c 28
def arrSparse (c : Nat) : Bool := bitAt c 27
def arrEmode (c : Nat) : Nat := fld c 26 25
def arrSlot (c : Nat) : Nat := fld c 24 19
def arrFmt (c : Nat) : Nat := fld c 18 15
def arrJ (c : Nat) : Nat := fld c 18 16
def arrPitch (c : Nat) : Nat := fld c 14 0
def adrExv (a : Word) : Nat := wfld a 53 36
def adrAux (a : Word) : Nat := wfld a 35 18
def adrSrc (a : Word) : Nat := wfld a 17 0
def adrN (a : Word) : Nat := wfld a 59 54 + 1
def mulB (c : Nat) : Nat := fld c 13 8
def mulSh (c : Nat) : Nat := fld c 7 4
def slcFull (c : Nat) : Bool := bitAt c 4
def slcFirst (c : Nat) : Bool := bitAt c 3
def slcS (c : Nat) : Nat := fld c 2 0
def cmbTile (c : Nat) : Nat := fld c 27 24
def cmbZap (c : Nat) : Bool := bitAt c 23
def cmbPair (c : Nat) : Bool := bitAt c 22
def cmbRm (c : Nat) : Nat := fld c 19 17

/-- The output format of a recombination (R257). -/
def cmbFmt (c : Nat) : Fmt :=
  match fld c 21 20 with
  | 0 => .fp64
  | 1 => .fp32
  | _ => .bf16

/-- Whether a split format is an MX kind (R250). -/
def mxFmt (f : Nat) : Bool := decide (4 ≤ f) && decide (f ≤ 7)

/-- The element format of a split format code. -/
def splitFmt (f : Nat) : Fmt :=
  match f with
  | 0 => .fp32
  | 1 => .fp64
  | 2 => .fp16
  | 3 => .bf16
  | 4 => .e4m3
  | 5 => .e5m2
  | 6 => .e3m2
  | 7 => .e2m1
  | 8 => .e4m3
  | _ => .e5m2

/-- The elements of a row (R250). -/
def rowElems (c : Nat) (a : Word) : Nat := if arrSparse c then adrN a else 128

/-- The bytes of a row: containers in mload, elements in msplit. -/
def loadRowBytes (k : ArrKind) (c : Nat) (a : Word) : Nat :=
  if k = .mload then 2 * rowElems c a else rowElems c a * (splitFmt (arrFmt c)).width / 8

/-- The row pitch in bytes (R250, R257). -/
def pitchBytes (pitch rowBytes : Nat) : Nat := 8 * (if pitch = 0 then ceilDiv rowBytes 8 else pitch)

/-- Whether a pitch is malformed. -/
def pitchBad (pitch rowBytes : Nat) : Bool := pitch != 0 && decide (pitch < ceilDiv rowBytes 8)

def ArrKind.load (k : ArrKind) : Bool := k == .mload || k == .msplit
/-- The unit of a command (R240): the multiply unit, or the load unit. -/
def ArrKind.multiplies (k : ArrKind) : Bool := k == .mmul || k == .mslice || k == .mzero

/-- The major opcode of a command (R247). -/
def ArrKind.major : ArrKind → Nat
  | .mload => 0x6E
  | .msplit => 0x6F
  | .mmul => 0x70
  | .mslice => 0x71
  | .mcomb => 0x72
  | .mzero => 0x73
  | .mdrain => 0x74

/-- The control word of mload or msplit is malformed (R250). -/
def loadCtlBad (k : ArrKind) (c : Nat) (a : Word) : Bool :=
  let s := arrS c
  decide (2 ^ 32 ≤ c) || (arrSparse c && arrSideB c) ||
    (if k = .mload then
      arrEmode c != 0 || bitAt c 15 || s == 0 || arrJ c == 0 || decide (s < arrJ c) || decide (63 < arrSlot c + s - 1)
    else
      arrEmode c == 3 || decide (9 < arrFmt c) || (arrSparse c && mxFmt (arrFmt c)) ||
        (if arrEmode c = 2 then s != 0 || arrSlot c != 0 else s == 0 || decide (63 < arrSlot c + s - 1))) ||
    pitchBad (arrPitch c) (loadRowBytes k c a)

/-- Whether aux holds scales or positions. -/
def usesAuxRange (k : ArrKind) (c : Nat) : Bool := arrSparse c || (k == .msplit && mxFmt (arrFmt c))

/-- The address word of mload or msplit is malformed (R250). -/
def loadAdrBad (k : ArrKind) (c : Nat) (a : Word) : Bool :=
  a.getLsbD 63 || (!arrSparse c && wfld a 59 54 != 0) || (!usesAuxRange k c && adrAux a != 0)

/-- The control word of mmul (R253) or mslice (R255) is malformed; A slots past 63 are log entry 31. -/
def mulCtlBad (k : ArrKind) (tile slot c : Nat) : Bool :=
  if k = .mmul then
    decide (2 ^ 31 ≤ c) || fld c 27 14 != 0 || fld c 3 1 != 0 || decide (12 < mulSh c)
  else
    decide (2 ^ 31 ≤ c) || fld c 27 14 != 0 || fld c 7 5 != 0 || slcS c == 0 || decide (63 < mulB c + slcS c - 1) ||
      decide (63 < slot + slcS c - 1) || (slcFull c && decide (14 < tile))

/-- The packed row of a recombination in bytes. -/
def combRow (c : Nat) : Nat := 64 * (cmbFmt c).width / 8

/-- The control word of mcomb or mdrain is malformed (R257). -/
def combCtlBad (c : Nat) (f : Fcsr) : Bool :=
  decide (2 ^ 31 ≤ c) || fld c 16 15 != 0 || (cmbPair c && cmbTile c == 15) || fld c 21 20 == 3 || cmbRm c == 5 ||
    cmbRm c == 6 || (cmbRm c == 7 && decide (5 ≤ f.rm.toNat)) || pitchBad (arrPitch c) (combRow c)

/-- The bytes that a recombination's destination spans. -/
def combSpan (c : Nat) : Nat := 63 * pitchBytes (arrPitch c) (combRow c) + combRow c

/-- mdrain's destination (R259). -/
def drainCore (a : Word) : Nat := (threadOfPlace (wfld a 31 0)).core
def drainAddr (a : Word) : Nat := wfld a 49 32

/-! ### What a command names (R244) -/

/-- The operand slots that a command names. -/
def ArrCmd.slotsOf (k : ArrKind) (slot ctl : Nat) : List Nat :=
  let run (n s : Nat) : List Nat := (List.range s).map (fun i => n + i)
  match k with
  | .mload => [arrSlot ctl]
  | .msplit => run (arrSlot ctl) (arrS ctl)
  | .mmul => [slot, mulB ctl]
  | .mslice => run slot (slcS ctl) ++ run (mulB ctl) (slcS ctl)
  | _ => []

/-- The tiles that a command names. -/
def ArrCmd.tilesOf (k : ArrKind) (tile ctl : Nat) : List Nat :=
  match k with
  | .mmul => [tile]
  | .mzero => [tile]
  | .mslice => if slcFull ctl then [tile, tile + 1] else [tile]
  | .mcomb => if cmbPair ctl then [cmbTile ctl, cmbTile ctl + 1] else [cmbTile ctl]
  | .mdrain => if cmbPair ctl then [cmbTile ctl, cmbTile ctl + 1] else [cmbTile ctl]
  | _ => []

def ArrCmd.slots (c : ArrCmd) : List Nat := ArrCmd.slotsOf c.kind c.slot c.ctl
def ArrCmd.tiles (c : ArrCmd) : List Nat := ArrCmd.tilesOf c.kind c.tile c.ctl

/-! ### Issue (R245, R248) -/

/-- The scratchpad ranges of a command: source, exponents and aux of a load; the destination of a recombination within
the issuer's chiplet (R250, R258, R259). -/
def arrRanges (core : Nat) (k : ArrKind) (a : Word) (ctl : Nat) : List SpadRange :=
  match k with
  | .mcomb => [{ sp := 0, addr := wfld a 17 0, len := combSpan ctl, align := 8 }]
  | .mdrain =>
    if drainCore a / 96 = core / 96 then
      [{ sp := 1, addr := drainCore a % 96 * 2 ^ 18 + drainAddr a, len := combSpan ctl, align := 8 }]
    else []
  | .mload =>
    let row := loadRowBytes k ctl a
    [{ sp := 0, addr := adrSrc a, len := 63 * pitchBytes (arrPitch ctl) row + row, align := 8 },
     { sp := 0, addr := adrExv a, len := 128, align := 8 }] ++
      (if arrSparse ctl then [{ sp := 0, addr := adrAux a, len := 4096, align := 8 }] else [])
  | .msplit =>
    let row := loadRowBytes k ctl a
    [{ sp := 0, addr := adrSrc a, len := 63 * pitchBytes (arrPitch ctl) row + row, align := 8 },
     { sp := 0, addr := adrExv a, len := 128, align := 8 }] ++
      (if arrSparse ctl then [{ sp := 0, addr := adrAux a, len := 4096, align := 8 }]
       else if mxFmt (arrFmt ctl) then [{ sp := 0, addr := adrAux a, len := 256, align := 8 }] else [])
  | _ => []

/-- Step 1 of R248: the malformed word. -/
def arrWordBad (k : ArrKind) (rc a w : Word) (tile slot : Nat) (f : Fcsr) : Option Word :=
  match k with
  | .mzero => none
  | .mmul => if mulCtlBad k tile slot w.toNat then some w else none
  | .mslice => if mulCtlBad k tile slot w.toNat then some w else none
  | .mcomb => if combCtlBad w.toNat f then some w else if wfld a 63 18 ≠ 0 then some a else none
  | .mdrain =>
    if combCtlBad w.toNat f then some w else if wfld a 63 50 ≠ 0 then some a
    else if rc ≠ 0 ∧ postBad rc = true then some rc else none
  | _ => if loadCtlBad k w.toNat a then some w else if loadAdrBad k w.toNat a then some a else none

/-- Whether an operand slot is claimed by a thread (R243). -/
def State.claims (s : State) (t : ThreadId) (slot : Nat) : Bool :=
  let o := agetD (s.stationAt (stationOfCore t.core)).slots slot OpSlot.reset
  o.claim == some t && o.state != .releasing

/-- Step 3: a tensor scale of NaN, infinity or zero (R99). -/
def scaleBad (k : ArrKind) (rc : Word) : Bool := k.load && (decodeF .fp32 (wfld rc 31 0)).cls != .finite

/-- Whether mdrain's destination is no core of the partition on this device (R248 step 5). -/
def State.drainBad (s : State) (th : Thread) (a : Word) : Bool :=
  let w := wfld a 31 0
  placeBad w || fld w 31 18 != s.pkg.device.toNat ||
    !(((s.ctxAt th.ctxId.toNat).map Context.stations).getD []).contains (stationOfPlace w)

/-- The destination of mdrain as steps 4 and 5 check it, whatever the chiplet. -/
def checkRanges (core : Nat) (k : ArrKind) (a : Word) (ctl : Nat) : List SpadRange :=
  if k = .mdrain then [{ sp := 0, addr := drainAddr a, len := combSpan ctl, align := 8 }] else arrRanges core k a ctl

/-- The checks of R248. DESIGN CHOICE: where one step fails for several reasons, tval names the control word before the address
word and that before the Gong word, the first slot or range in the order of R250, and a range past the scratchpad before a
destination that is no core of the partition; R248 does not say which. -/
def State.arrayFault (s : State) (t : ThreadId) (th : Thread) (k : ArrKind) (rc a w : Word) (tile slot : Nat) :
    Option TrapCause :=
  let checks := checkRanges t.core k a w.toNat
  match arrWordBad k rc a w tile slot th.fcsr with
  | some x => some (precise 16 x 0x30 0)
  | none =>
    match (ArrCmd.slotsOf k slot w.toNat).find? (fun n => !s.claims t n) with
    | some n => some (precise 18 (BitVec.ofNat 64 n) 1 0)
    | none =>
      if scaleBad k rc then some (precise 16 rc 0x31 0)
      else
        match checks.find? (fun r => r.addr % 8 != 0) with
        | some r => some (precise 4 (BitVec.ofNat 64 r.addr) 0 0)
        | none =>
          match checks.find? SpadRange.outside with
          | some r => some (precise 6 (BitVec.ofNat 64 r.addr) 5 0)
          | none =>
            if k = .mdrain ∧ s.drainBad th a then some (precise 6 a 5 0)
            else
              match (arrRanges t.core k a w.toNat).find? (fun r =>
                  (s.coreAt t.core).locked s.time.toNat (spadNumber t.core r.sp r.addr) r.len) with
              | some r => some (precise 7 (BitVec.ofNat 64 (if k = .mdrain then drainAddr a else r.addr)) 0 0)
              | none => none

/-- Issue of an array command of n bytes (R245, R248): the checks, the range-lock entries, its acceptance. DESIGN CHOICE: where it
has waited for entries, the whole instruction is executed again, its checks included; R248 does not say whether they are taken
anew. -/
def issueArray (s : State) (k : ArrKind) (rc ra rb : Option Reg) (imm : Word) (tile slot : Nat) (ev : BitVec 4) (n : Nat) :
    Res :=
  s.onThread fun th =>
    let regs := rc.toList ++ ra.toList ++ rb.toList
    s.gate th regs regs
      (let c := (rc.map s.g).getD 0
       let a := (ra.map s.g).getD 0
       let w := (rb.map s.g).getD imm
       s.orTrap (s.arrayFault s.cur th k c a w tile slot)
         (let rs := arrRanges s.cur.core k a w.toNat
          let entries := if rs.isEmpty then [({ sp := 0, addr := 0, len := 0, align := 8 } : SpadRange)] else rs
          if (s.coreAt s.cur.core).lockRoom < entries.length then s.waitFor s.cur (.arrayRoom entries.length)
          else
            let cmd : ArrCmd :=
              { id := s.nextId, thread := s.cur, kind := k, tile := tile, slot := slot, rc := c, addrs := a, ctl := w.toNat
                ev := ev.toNat, rm := if cmbRm w.toNat = 7 then th.fcsr.rm.toNat else cmbRm w.toNat, issued := s.time.toNat, started := false
                pair := 0, ready := false, seen := [], out := [], ending := none, closed := false }
            ({ (s.modCore s.cur.core (fun x => x.lock s.cur.core s.nextId entries)).modStation (stationOfCore s.cur.core)
                (fun x => { x with array := x.array ++ [cmd] }) with nextId := s.nextId + 1 } : State).finish s.cur n))

/-- mload (R252). -/
def execMload (x : XC) (s : State) : Res := issueArray s .mload (some x.c) (some x.a) (some x.b) 0 0 0 x.ev 4
/-- msplit (R251). -/
def execMsplit (x : XC) (s : State) : Res := issueArray s .msplit (some x.c) (some x.a) (some x.b) 0 0 0 x.ev 4
/-- mmul (R253): the register fields hold the tile and the A slot. -/
def execMmul (x : XC) (s : State) : Res := issueArray s .mmul none none (some x.b) 0 x.c.toNat x.a.toNat x.ev 4
/-- mslice (R255). -/
def execMslice (x : XC) (s : State) : Res := issueArray s .mslice none none (some x.b) 0 x.c.toNat x.a.toNat x.ev 4
/-- mcomb (R258). -/
def execMcomb (x : X2) (s : State) : Res := issueArray s .mcomb none (some x.a) (some x.b) 0 0 0 x.ev 4
/-- mzero (R256). -/
def execMzero (tile : Reg) (s : State) : Res := issueArray s .mzero none none none 0 tile.toNat 0 0 4
/-- mdrain (R259). -/
def execMdrain (x : XC) (s : State) : Res := issueArray s .mdrain (some x.c) (some x.a) (some x.b) 0 0 0 x.ev 4
/-- mload, long form (R64). -/
def execMloadLong (x : XL) (s : State) : Res := issueArray s .mload (some x.c) (some x.a) none (imm32z x.imm) 0 0 x.ev 8
/-- msplit, long form (R64). -/
def execMsplitLong (x : XL) (s : State) : Res := issueArray s .msplit (some x.c) (some x.a) none (imm32z x.imm) 0 0 x.ev 8
/-- mmul, long form (R64). -/
def execMmulLong (x : XL) (s : State) : Res := issueArray s .mmul none none none (imm32z x.imm) x.c.toNat x.a.toNat x.ev 8
/-- mslice, long form (R64). -/
def execMsliceLong (x : XL) (s : State) : Res := issueArray s .mslice none none none (imm32z x.imm) x.c.toNat x.a.toNat x.ev 8
/-- mcomb, long form (R64). -/
def execMcombLong (x : X2L) (s : State) : Res := issueArray s .mcomb none (some x.a) none (imm32z x.imm) 0 0 x.ev 8
/-- mdrain, long form (R64). -/
def execMdrainLong (x : XL) (s : State) : Res := issueArray s .mdrain (some x.c) (some x.a) none (imm32z x.imm) 0 0 x.ev 8

/-! ### Claims (R249) -/

def Station.slotAt (k : Station) (n : Nat) : OpSlot := agetD k.slots n OpSlot.reset
def Station.setSlot (k : Station) (n : Nat) (o : OpSlot) : Station := { k with slots := aset k.slots n o }
def Station.tileAt (k : Station) (n : Nat) : Tile := agetD k.tiles n Tile.reset
def Station.setTile (k : Station) (n : Nat) (t : Tile) : Station := { k with tiles := aset k.tiles n t }

/-- The SLOT subcode with which a claim of a slot fails, 0 where it succeeds (R249). -/
def OpSlot.claimSub (o : OpSlot) : Nat := if o.state = .releasing then 3 else if o.claim.isSome then 2 else 0

/-- mclaim: decided at the array in arrival order; the thread waits for the answer, as for a remote load (R249). -/
def execMclaim (slot : Reg) (s : State) : Res :=
  s.onThread fun _ =>
    let st := stationOfCore s.cur.core
    let sub := ((s.stationAt st).slotAt slot.toNat).claimSub
    if sub ≠ 0 then s.waitFor s.cur (.array 0 0 (some (18, BitVec.ofNat 64 slot.toNat, sub)))
    else
      (s.modStation st (fun k => k.setSlot slot.toNat { OpSlot.reset with claim := some s.cur })).waitFor s.cur
        (.array 0 0 none)

/-- A releasing slot becomes free once no accepted command names it (R249). -/
def Station.freeSlots (k : Station) : Station :=
  { k with slots := k.slots.map (fun p =>
      if p.2.state == .releasing && !k.array.any (fun c => c.slots.contains p.1) then (p.1, OpSlot.reset) else p) }

/-- mrel (R249). -/
def execMrel (slot : Reg) (s : State) : Res :=
  s.onThread fun _ =>
    if s.claims s.cur slot.toNat then
      (s.modStation (stationOfCore s.cur.core) (fun k =>
        (k.setSlot slot.toNat { k.slotAt slot.toNat with claim := none, state := .releasing }).freeSlots)).finish s.cur 4
    else s.trapNow (precise 18 (BitVec.ofNat 64 slot.toNat) 1 0)

/-! ### Splitting and loading (R251, R252) -/

/-- Element k of a row of an element format; six-bit and four-bit kinds are packed (R96). -/
def elementAt (f : Fmt) (row : List Byte) (k : Nat) : Nat :=
  if 8 ≤ f.width then ofBytesLE ((row.drop (k * (f.width / 8))).take (f.width / 8))
  else ofBytesLE row / 2 ^ (f.width * k) % 2 ^ f.width

/-- The decoded elements of row i of a split (R86, R97). -/
def splitElems (k : Core) (c : ArrCmd) (i : Nat) : List FVal :=
  let f := splitFmt (arrFmt c.ctl)
  let row := loadRowBytes .msplit c.ctl c.addrs
  let bs := k.spad.readBytes (adrSrc c.addrs + i * pitchBytes (arrPitch c.ctl) row) row
  (List.range (rowElems c.ctl c.addrs)).map (fun e =>
    if mxFmt (arrFmt c.ctl) then
      decodeMx f (k.spad.read (adrAux c.addrs + 4 * i + e / 32)).toNat (elementAt f bs e)
    else decodeF f (elementAt f bs e))

/-- The exponent that an element needs: e + bitlength(m) of a finite nonzero one. -/
def FVal.expNeed (v : FVal) : Option Int := if v.cls == .finite then some (v.e + bitLength v.m) else none

/-- e_max of a row (R251). -/
def rowExp (vs : List FVal) : Int :=
  match vs.filterMap FVal.expNeed with
  | [] => -32768
  | x :: r => r.foldl max x

/-- The positions of row i of a sparse operand. -/
def sparsePositions (k : Core) (c : ArrCmd) (i : Nat) : List Nat :=
  (k.spad.readBytes (adrAux c.addrs + 64 * i) (adrN c.addrs)).map BitVec.toNat

/-- The positions that are not above their predecessor or not below 128 (R251). -/
def badPositions (l : List Nat) : List Nat :=
  (List.range l.length).filter (fun i => decide (128 ≤ l.getD i 0) || (i != 0 && decide (l.getD i 0 ≤ l.getD (i - 1) 0)))

/-- Slices at their positions of a row of 128, zero elsewhere. -/
def spreadRow (sparse : Bool) (pos : List Nat) (vs : List Int) : List Int :=
  if sparse then (List.range 128).map (fun x => if pos.contains x then vs.getD (rankIn x pos) 0 else 0) else vs

/-- The exponent stored for row i. -/
def storedExp (k : Core) (c : ArrCmd) (i : Nat) : Int := signedOf 16 (k.spad.readLE (adrExv c.addrs + 2 * i) 2)

/-- A data failure: subcode, slot or tile, row and element (R245). -/
def dataFail (sub unit row elem : Nat) : ArrFail := { fault := 16, sub := sub, unit := unit, detail := 128 * row + elem }

/-- The exponent of row i of a split under its mode (R251). -/
def splitExp (k : Core) (c : ArrCmd) (i : Nat) (vs : List FVal) : Int :=
  match arrEmode c.ctl with
  | 0 => rowExp vs
  | 1 => storedExp k c i
  | _ => max (storedExp k c i) (rowExp vs)

/-- Row i's bad positions as failures of a load (R251, R252). -/
def positionFailures (k : Core) (c : ArrCmd) (i : Nat) : List ArrFail :=
  if arrSparse c.ctl then (badPositions (sparsePositions k c i)).map (fun e => dataFail 0x34 (arrSlot c.ctl) i e) else []

/-- The elements of row i that do not fit their given exponent, as failures of a split (R251). -/
def fitFailures (k : Core) (c : ArrCmd) (i : Nat) : List ArrFail :=
  if arrEmode c.ctl ≠ 1 then []
  else
    (splitElems k c i).zipIdx.filterMap (fun v => match v.1.expNeed with
      | some x => if storedExp k c i < x then some (dataFail 0x33 (arrSlot c.ctl) i v.2) else none
      | none => none)

/-- The malformed containers of row i, as failures of an mload (R252). -/
def containerFailures (k : Core) (c : ArrCmd) (i : Nat) : List ArrFail :=
  let row := loadRowBytes .mload c.ctl c.addrs
  ((chunkNats 2 (row / 2) (k.spad.readBytes (adrSrc c.addrs + i * pitchBytes (arrPitch c.ctl) row) row)).zipIdx.filter
    (fun x => !sliceWf x.1)).map (fun x => dataFail 0x32 (arrSlot c.ctl) i x.2)

/-- The failure of a split: its first row that fails, and of that row's failures any (R251; log entry 31). -/
def State.splitFailure (s : State) (k : Core) (c : ArrCmd) : Option ArrFail :=
  (List.range 64).findSome? (fun i => s.anyOf (positionFailures k c i ++ fitFailures k c i))

/-- The failure of an mload: of several any (R252; log entry 31). -/
def State.loadFailure (s : State) (k : Core) (c : ArrCmd) : Option ArrFail :=
  s.anyOf ((List.range 64).flatMap (fun i => positionFailures k c i ++ containerFailures k c i))

/-- The address of a bad word that a load reads (R252), of several any (log entry 6): of the source rows, of the
exponents it reads, of scales or positions. -/
def State.loadParity (s : State) (k : Core) (c : ArrCmd) : Option Nat :=
  let row := loadRowBytes c.kind c.ctl c.addrs
  let rows := (List.range 64).map (fun i => (adrSrc c.addrs + i * pitchBytes (arrPitch c.ctl) row, row))
  let exps := if c.kind = .mload ∨ arrEmode c.ctl ≠ 0 then [(adrExv c.addrs, 128)] else []
  let aux := if arrSparse c.ctl then (List.range 64).map (fun i => (adrAux c.addrs + 64 * i, adrN c.addrs))
    else if usesAuxRange c.kind c.ctl then [(adrAux c.addrs, 256)] else []
  (s.anyOf (k.spadBad.filter (fun w => (rows ++ exps ++ aux).any (fun r => overlaps (8 * w) 8 r.1 r.2)))).map (8 * ·)

/-- The failure of a load: a bad word before a failing element (log entry 31). DESIGN CHOICE: a split into several slots names its
first slot as the one concerned; R245 asks for one slot or tile number. -/
def State.loadFails (s : State) (k : Core) (c : ArrCmd) : Option ArrFail :=
  match s.loadParity k c with
  | some a => some { fault := 20, sub := 0, unit := arrSlot c.ctl, detail := a }
  | none => if c.kind = .mload then s.loadFailure k c else s.splitFailure k c

/-- A loaded slot of a claimed one. -/
def OpSlot.loadedWith (o : OpSlot) (c : ArrCmd) (j : Nat) (exps : List Int) (flags : List Bool) (pos : List (List Nat))
    (data : List (List Int)) : OpSlot :=
  { o with
    state := if o.state = .releasing then .releasing else .loaded, sideB := arrSideB c.ctl, s := arrS c.ctl, j := j
    exps := exps, flags := flags, scale := BitVec.ofNat 32 (wfld c.rc 31 0)
    sparse := if arrSparse c.ctl then adrN c.addrs else 0, positions := pos, data := data }

/-- The slots of a successful msplit, or of a successful mload (R251, R252). -/
def loadSlots (k : Core) (c : ArrCmd) (st : Station) : Station :=
  let sp := arrSparse c.ctl
  let pos := if sp then (List.range 64).map (sparsePositions k c) else []
  if c.kind = .mload then
    let row := loadRowBytes .mload c.ctl c.addrs
    let data := (List.range 64).map (fun i => spreadRow sp (pos.getD i [])
      ((chunkNats 2 (row / 2) (k.spad.readBytes (adrSrc c.addrs + i * pitchBytes (arrPitch c.ctl) row) row)).map sliceOf))
    st.setSlot (arrSlot c.ctl) ((st.slotAt (arrSlot c.ctl)).loadedWith c (arrJ c.ctl)
      ((List.range 64).map (storedExp k c)) (List.replicate 64 false) pos data)
  else
    let rows := (List.range 64).map (splitElems k c)
    let exps := rows.zipIdx.map (fun r => splitExp k c r.2 r.1)
    let flags := rows.map (fun vs => vs.any (fun v => v.isNan || v.cls == .inf))
    (List.range (arrS c.ctl)).foldl (fun st i =>
      let data := rows.zipIdx.map (fun r => spreadRow sp (pos.getD r.2 []) (r.1.map (fun v =>
        if v.cls == .finite then splitSlice v.neg v.m v.e (exps.getD r.2 0) (arrS c.ctl) (i + 1) else 0)))
      st.setSlot (arrSlot c.ctl + i) ((st.slotAt (arrSlot c.ctl + i)).loadedWith c (i + 1) exps flags pos data)) st

/-- The exponents that a split writes at exv. -/
def splitExps (k : Core) (c : ArrCmd) : List Byte :=
  (List.range 64).flatMap (fun i => bytesLE 2 (splitExp k c i (splitElems k c i) % 65536).toNat)

def State.modArr (s : State) (st id : Nat) (f : ArrCmd → ArrCmd) : State :=
  s.modStation st (fun k => { k with array := k.array.map (fun c => if c.id == id then f c else c) })

/-- A command has what it writes and its failure or none. -/
def State.endArr (s : State) (st : Nat) (c : ArrCmd) (f : Option ArrFail) (out : List SpadWrite) : State :=
  s.modArr st c.id (fun c => { c with out := out, ending := some f })

/-- A write to the issuing core's scratchpad, by its number in the package. -/
def ArrCmd.own (c : ArrCmd) (a : Nat) (bs : List Byte) : SpadWrite := { pos := 0, addr := c.thread.core * 2 ^ 18 + a, bytes := bs }

/-- What mload or msplit makes of its slots, and what it writes at exv: a failed one leaves its slots empty, and undefined
exponents where it would have written them (R251, R252). -/
def State.loadTurn (s : State) (st : Nat) (c : ArrCmd) (k : Core) : State :=
  let writes := c.kind = .msplit ∧ arrEmode c.ctl ≠ 1
  match s.loadFails k c with
  | some f =>
    (s.modStation st (fun x => c.slots.foldl (fun x n =>
      x.setSlot n { OpSlot.reset with
        claim := (x.slotAt n).claim, state := if (x.slotAt n).state = .releasing then .releasing else .empty }) x)).endArr
      st c (some f) (if writes then
        [c.own (adrExv c.addrs) ((List.range 64).flatMap (fun i => bytesLE 2 (s.undefined (64 + i)).toNat))] else [])
  | none =>
    (if c.kind = .msplit ∧ arrEmode c.ctl = 2 then s else s.modStation st (loadSlots k c)).endArr st c none
      (if writes then [c.own (adrExv c.addrs) (splitExps k c)] else [])

/-! ### Products (R253 to R256) -/

/-- A tile emptied: the flags of its last recombination stay (R242). -/
def Tile.emptied (t : Tile) : Tile := { Tile.reset with ofl := t.ofl, ufl := t.ufl, nxl := t.nxl }

def orFlags (a b : List Bool) : List Bool := List.zipWith (fun x y => x || y) a b

/-- The header of a tile after operands enter it under a key: opened from them, or its flags joined (R254). -/
def Tile.header (t : Tile) (a b : OpSlot) (key : Nat) : Tile :=
  if t.state = .empty then
    { t with state := .opened, key := key, rowE := a.exps, colE := b.exps, rowF := a.flags, colF := b.flags
             sA := a.scale, sB := b.scale }
  else { t with rowF := orFlags t.rowF a.flags, colF := orFlags t.colF b.flags }

/-- Whether a tile takes operands under a key (R254). -/
def Tile.accepts (t : Tile) (a b : OpSlot) (key : Nat) : Bool :=
  match t.state with
  | .empty => true
  | .incomplete => false
  | .opened => t.key == key && t.rowE == a.exps && t.colE == b.exps && t.sA == a.scale && t.sB == b.scale

/-- Whether a slot holds an operand of a side (R254). -/
def OpSlot.onSide (o : OpSlot) (sideB : Bool) : Bool := o.state != .empty && !o.data.isEmpty && o.sideB == sideB

/-- The sides that products need (R254). -/
def sidesOk (a b : OpSlot) : Bool := a.onSide false && b.onSide true

def dotRow (a b : List Int) : Int := (List.zipWith (fun x y => x * y) a b).foldl (fun s x => s + x) 0

/-- One entry increased modulo 2^96, with the overflow flag (R95). -/
def Tile.addEntry (t : Tile) (i : Nat) (x : Int) : Tile :=
  if x = 0 then t
  else
    let sum := (agetD t.entries i 0).toInt + x
    { t with entries := aset t.entries i (BitVec.ofInt 96 sum)
             ovf := t.ovf || decide (sum < -2 ^ 95) || decide (2 ^ 95 ≤ sum) }

/-- One slice-pair product added into a tile (R253). -/
def Tile.addPair (t : Tile) (a b : OpSlot) (sh : Nat) : Tile :=
  let t1 := (List.range 64).foldl (fun t i => (List.range 64).foldl (fun t j =>
    t.addEntry (64 * i + j) (256 ^ sh * dotRow (a.data.getD i []) (b.data.getD j []))) t) t
  { t1 with products := min (2 ^ 32 - 1) (t1.products + 1) }

/-- A tile as the `first` bit of a command leaves it. -/
def Tile.begun (t : Tile) (first : Bool) : Tile := if first then t.emptied else t

/-- The end of an mmul (R253, R254). DESIGN CHOICE: where several of its operands and its tile fail, the failure names the A slot
before the B slot and that before the tile; R245 does not say which. -/
def State.endMmul (s : State) (st : Nat) (c : ArrCmd) : Option ArrFail × State :=
  let k := s.stationAt st
  let a := k.slotAt c.slot
  let b := k.slotAt (mulB c.ctl)
  let key := a.j + b.j + mulSh c.ctl
  let t := (k.tileAt c.tile).begun (bitAt c.ctl 0)
  if sidesOk a b && t.accepts a b key then
    (none, s.setStation st (k.setTile c.tile ((t.header a b key).addPair a b (mulSh c.ctl))))
  else (some (dataFail 0x35 (if !a.onSide false then c.slot else if !b.onSide true then mulB c.ctl else c.tile) 0 0), s)

/-- The slice pairs of an mslice, in order (R255). -/
def slicePairs (n : Nat) (full : Bool) : List (Nat × Nat) :=
  (List.range (2 * n + 1)).flatMap (fun d =>
    (List.range (n + 1)).filterMap (fun p =>
      if 1 ≤ p ∧ p < d ∧ d - p ≤ n ∧ (full || decide (d ≤ n + 1)) then some (p, d - p) else none))

/-- Whether slot p is the i-th slice of the operand whose first slice is o (R255). -/
def isSliceOf (o p : OpSlot) (i s : Nat) (sideB : Bool) : Bool :=
  p.state != .empty && !p.data.isEmpty && p.sideB == sideB && p.s == s && p.j == i + 1 && p.exps == o.exps &&
    p.flags == o.flags && p.scale == o.scale && p.sparse == o.sparse && p.positions == o.positions

/-- The first of slots n to n + s - 1 that does not hold its slice j = 1 to s of one operand (R255). -/
def Station.oddSlice (k : Station) (n s : Nat) (sideB : Bool) : Option Nat :=
  ((List.range s).find? (fun i => !isSliceOf (k.slotAt n) (k.slotAt (n + i)) i s sideB)).map (n + ·)

/-- What fails the checks of an mslice at its start: an A slot, a B slot or a tile (R254, R255). DESIGN CHOICE: of several, the
first in this order is named; R245 does not say which. -/
def Station.sliceFault (k : Station) (c : ArrCmd) : Option Nat :=
  let n := slcS c.ctl
  let a := k.slotAt c.slot
  let b := k.slotAt (mulB c.ctl)
  match k.oddSlice c.slot n false, k.oddSlice (mulB c.ctl) n true with
  | some x, _ => some x
  | none, some x => some x
  | none, none =>
    if !((k.tileAt c.tile).begun (slcFirst c.ctl)).accepts a b (n + 1) then some c.tile
    else if slcFull c.ctl && !((k.tileAt (c.tile + 1)).begun (slcFirst c.ctl)).accepts a b (2 * n) then some (c.tile + 1)
    else none

/-- The checks of an mslice at its start. -/
def Station.sliceOk (k : Station) (c : ArrCmd) : Bool := (k.sliceFault c).isNone

/-- The start of an mslice: mcur, its checks, its tiles emptied where it asks for it (R255, R265). -/
def Station.beginSlice (k : Station) (c : ArrCmd) : Station :=
  let ok := c.ready || k.sliceOk c
  let k1 := if ok && !c.ready && slcFirst c.ctl then
      c.tiles.foldl (fun x n => x.setTile n (x.tileAt n).emptied) k else k
  { k1 with
    mcur := { abort := k.mcur.abort && c.pair != 0, busy := true, tslot := c.thread.slot, tcore := c.thread.core % 8, tile := c.tile
              aslot := c.slot, bslot := mulB c.ctl, full := slcFull c.ctl, s := slcS c.ctl, pair := c.pair }
    array := k1.array.map (fun x => if x.id == c.id then { x with ready := ok } else x) }

/-- One pair of an mslice (R255). -/
def Station.runPair (k : Station) (c : ArrCmd) : Station :=
  match (slicePairs (slcS c.ctl) (slcFull c.ctl))[c.pair]? with
  | none => k
  | some (p, q) =>
    let n := slcS c.ctl
    let a := k.slotAt (c.slot + p - 1)
    let b := k.slotAt (mulB c.ctl + q - 1)
    let k1 := if p + q ≤ n + 1 then
        k.setTile c.tile (((k.tileAt c.tile).header a b (n + 1)).addPair a b (n + 1 - p - q))
      else k.setTile (c.tile + 1) (((k.tileAt (c.tile + 1)).header a b (2 * n)).addPair a b (2 * n - p - q))
    { k1 with mcur := { k1.mcur with pair := c.pair + 1 }
              array := k1.array.map (fun x => if x.id == c.id then { x with pair := c.pair + 1 } else x) }

/-- The running mslice of a station. -/
def Station.runningSlice (k : Station) : Option ArrCmd := k.array.find? (fun c => c.kind == .mslice && c.started)

/-- Whether pairs remain of an mslice that passed its checks. -/
def ArrCmd.pairsLeft (c : ArrCmd) : Bool := c.ready && decide (c.pair < (slicePairs (slcS c.ctl) (slcFull c.ctl)).length)

/-- One pair of the running mslice, unless an abort stops it at this boundary. -/
def Station.stepSlice (k : Station) : Station :=
  match k.runningSlice with
  | none => k
  | some c => if c.pairsLeft && !k.mcur.abort then k.runPair c else k

/-- The pairs that are left, one after the other. -/
def Station.runSlices (k : Station) : Nat → Station
  | 0 => k
  | n + 1 => k.stepSlice.runSlices n

/-! ### Recombination (R257 to R259) -/

/-- X_t times 2^(Ea + Eb - 8 key) times sA sB, as a sign, a Nat and an exponent. -/
def Tile.term (t : Tile) (i j : Nat) : FVal :=
  let x := (agetD t.entries (64 * i + j) 0).toInt
  let a := decodeF .fp32 t.sA.toNat
  let b := decodeF .fp32 t.sB.toNat
  if t.state = .empty ∨ x = 0 then { cls := .zero, neg := false, m := 0, e := 0 }
  else { cls := .finite, neg := (decide (x < 0) != a.neg) != b.neg, m := x.natAbs * a.m * b.m
         e := t.rowE.getD i 0 + t.colE.getD j 0 - 8 * t.key + a.e + b.e }

def Tile.flagged (t : Tile) (i j : Nat) : Bool := t.state != .empty && (t.rowF.getD i false || t.colF.getD j false)

/-- One output element with its flags (R257). -/
def combElem (f : Fmt) (rm : Nat) (ts : List Tile) (i j : Nat) : FRes :=
  if ts.any (fun t => t.flagged i j) then .exact f.canon
  else
    let vs := (ts.map (fun t => t.term i j)).filter (fun v => v.cls == .finite)
    match vs with
    | [] => .exact 0
    | v :: r =>
      let base := r.foldl (fun b w => min b w.e) v.e
      let x : Int := vs.foldl (fun a w => a + w.scaled base) 0
      if x = 0 then .exact 0 else roundF f (decide (x < 0)) x.natAbs base rm false

/-- The tiles of a recombination. -/
def Station.combTiles (k : Station) (c : ArrCmd) : List Tile := c.tiles.map k.tileAt

/-- The 64 rows of a result. -/
def combRows (c : ArrCmd) (ts : List Tile) : List (List FRes) :=
  (List.range 64).map (fun i => (List.range 64).map (fun j => combElem (cmbFmt c.ctl) c.rm ts i j))

/-- The rows as bytes with their offsets. -/
def combBytes (c : ArrCmd) (rows : List (List FRes)) : List (Nat × List Byte) :=
  rows.zipIdx.map (fun r => (r.2 * pitchBytes (arrPitch c.ctl) (combRow c.ctl),
    r.1.flatMap (fun x => bytesLE ((cmbFmt c.ctl).width / 8) x.bits)))

/-- What a recombination leaves in its tiles: of, uf and nx, and emptiness under zap (R257). -/
def Station.closeTiles (k : Station) (c : ArrCmd) (rows : List (List FRes)) (zap : Bool) : Station :=
  let any (p : FpFlags → Bool) : Bool := rows.any (fun r => r.any (fun x => p x.flags))
  c.tiles.foldl (fun k n =>
    let t := { k.tileAt n with ofl := any FpFlags.ovf, ufl := any FpFlags.uf, nxl := any FpFlags.nx }
    k.setTile n (if zap then t.emptied else t)) k

/-- The incomplete tile of a recombination. -/
def Station.incompleteTile (k : Station) (c : ArrCmd) : Option Nat := c.tiles.find? (fun n => (k.tileAt n).state == .incomplete)

/-- Where a recombination is written, by a scratchpad address that counts in the package (R258, R259). -/
def ArrCmd.dest (c : ArrCmd) : Nat :=
  if c.kind = .mdrain then drainCore c.addrs * 2 ^ 18 + drainAddr c.addrs else c.thread.core * 2 ^ 18 + wfld c.addrs 17 0

/-- The rows of an mcomb or mdrain to be written (R257 to R259). -/
def State.combTurn (s : State) (st : Nat) (c : ArrCmd) : State :=
  let k := s.stationAt st
  match k.incompleteTile c with
  | some n => s.endArr st c (some (dataFail 0x36 n 0 0)) []
  | none =>
    s.endArr st c none
      ((combBytes c (combRows c (k.combTiles c))).map (fun r => { pos := 0, addr := c.dest + r.1, bytes := r.2 }))

/-- The flags and the emptiness that a recombination leaves in its tiles. -/
def State.combClose (s : State) (st : Nat) (c : ArrCmd) (zap : Bool) : State :=
  s.modStation st (fun k => k.closeTiles c (combRows c (k.combTiles c)) zap)

/-- One of a command's writes is made: into a lost core's scratchpad none, and an mdrain's into a closed or lost one fails it
(R207, R259). -/
def State.putArr (s : State) (st : Nat) (c : ArrCmd) (x : SpadWrite) : State :=
  let core := x.addr / 2 ^ 18
  if c.kind ≠ .mdrain then s.ownWrite c.thread (x.addr % 2 ^ 18) x.bytes
  else if (s.coreAt core).lost || !(s.coreAt core).peersOpen then s.modArr st c.id (fun c => { c with closed := true })
  else s.modCore core (fun k => k.spadWrite (x.addr % 2 ^ 18) x.bytes)

/-- All the writes that a command has still to make. -/
def State.flushArr (s : State) (st id : Nat) : State :=
  match (s.stationAt st).array.find? (fun c => c.id == id) with
  | none => s
  | some c => (c.out.foldl (fun s x => s.putArr st c x) s).modArr st id (fun c => { c with out := [] })

/-- A started command of the load unit reads what is left of its sources, and has its slots or its rows. -/
def State.turnArr (s : State) (st : Nat) (c : ArrCmd) : State :=
  if c.ending.isSome then s
  else
    match c.kind with
    | .mload => s.loadTurn st c ((s.coreAt c.thread.core).overlay c.thread.core c.seen)
    | .msplit => s.loadTurn st c ((s.coreAt c.thread.core).overlay c.thread.core c.seen)
    | .mcomb => s.combTurn st c
    | .mdrain => s.combTurn st c
    | _ => s

/-- The same, by number. -/
def State.arrayTurn (s : State) (st id : Nat) : State :=
  match (s.stationAt st).array.find? (fun c => c.id == id && c.started) with
  | none => s
  | some c => s.turnArr st c

/-- A scratchpad doubleword of a started command, by its number in the package: its write, else its read (R172, R177). -/
def State.arrayWord (s : State) (st id word : Nat) : State :=
  match (s.stationAt st).array.find? (fun c => c.id == id && c.started) with
  | none => s
  | some c =>
    match takeFirst (fun x => x.covers word) c.out with
    | some (x, r) => (s.putArr st c (x.cut word).1).modArr st id (fun c => { c with out := (x.cut word).2 ++ r })
    | none =>
      if word / 2 ^ 15 != c.thread.core || c.ending.isSome || (aget c.seen word).isSome then s
      else s.modArr st id (fun k => { k with seen := aset k.seen word ((s.coreAt c.thread.core).wordAt (word % 2 ^ 15)) })

/-- The dynamic instance of a Gong (R259). -/
def State.gongInst (s : State) (c : ArrCmd) : DynInst :=
  { postInst (s.place c.thread) c.rc
      (BitVec.ofNat 64 (s.place c.thread * 2 ^ 32 + cmbTile c.ctl * 2 ^ 18 + drainAddr c.addrs)) s.time.toNat s.nextId with
    node := 0xFFFE }

/-- Enqueues a Gong at the dispenser of the destination's station. -/
def State.ring (s : State) (c : ArrCmd) : State :=
  { s.modStation (stationOfCore (drainCore c.addrs)) (fun k => { k with dyn := k.dyn ++ [s.gongInst c] }) with
    nextId := s.nextId + 1 }

/-! ### Summaries (R261) -/

/-- The summary of a tile. -/
def Tile.summary (t : Tile) : Word :=
  BitVec.ofNat 64 (b2n (t.state != .empty) * 2 ^ 63 + b2n (t.state == .incomplete) * 2 ^ 62 + b2n t.ovf * 2 ^ 61 +
    b2n (t.rowF.any id || t.colF.any id) * 2 ^ 60 + b2n t.ofl * 2 ^ 58 + b2n t.ufl * 2 ^ 57 + b2n t.nxl * 2 ^ 56 +
    t.key % 256 * 2 ^ 48 + t.products % 2 ^ 32)

/-- A command has completed: an mstat that waited for it last takes its summary now. -/
def Thread.captureStats (th : Thread) (k : Station) (id : Nat) : Thread :=
  let left := th.mstats.map (fun m => { m with after := m.after.filter (· != id) })
  let ripe := left.filter (fun m => m.after.isEmpty)
  { th with
    mstats := left.filter (fun m => !m.after.isEmpty)
    owed := th.owed.map (fun o =>
      match ripe.find? (fun m => m.id == o.id) with
      | none => o
      | some m => { o with value := some (k.tileAt m.tile).summary }) }

/-- The same for every thread of a station. -/
def State.captureAll (s : State) (st id : Nat) : State :=
  (threadsOf st).foldl (fun s t => s.modThread t (fun th => th.captureStats (s.stationAt st) id)) s

/-- mstat: a summary of a tile as an exposed-latency result (R261). -/
def execMstat (d tile : Reg) (s : State) : Res :=
  s.onThread fun th =>
    s.gate th [d] []
      (let k := s.stationAt (stationOfCore s.cur.core)
       let after := (k.array.filter (fun c => c.tiles.contains tile.toNat)).map ArrCmd.id
       let o : Owed :=
         { id := s.nextId, kind := .mstat, reg := d, spoiled := false
           value := if after.isEmpty then some (k.tileAt tile.toNat).summary else none }
       let m : List MstatOwed := if after.isEmpty then [] else [{ id := s.nextId, tile := tile.toNat, after := after }]
       if d = 0 then s.finish s.cur 4
       else
         (({ s with nextId := s.nextId + 1 } : State).setThread s.cur
           { th with owed := th.owed ++ [o], mstats := th.mstats ++ m }).finish s.cur 4)

/-- MSTAT_RESULT: the summary is written to its register when due (R261). -/
def execMstatResult (t : ThreadId) (id : Nat) (s : State) : Res :=
  match (s.threadAt t).bind (fun th => th.owed.find? (fun o => o.id == id)) with
  | none => .next s
  | some o => if o.kind = .mstat ∧ o.value.isSome then .next (s.payOwed t id o.value) else .next s

/-! ### Start and completion (R244, R245, R265) -/

/-- Whether an accepted command may start (R244). -/
def Station.mayStart (k : Station) (c : ArrCmd) : Bool :=
  let earlier := k.array.takeWhile (fun x => x.id != c.id)
  !c.started && !k.array.any (fun x => x.started && x.kind.multiplies == c.kind.multiplies) &&
    !earlier.any (fun x => x.kind.multiplies == c.kind.multiplies) &&
    !earlier.any (fun x => x.slots.any c.slots.contains || x.tiles.any c.tiles.contains)

/-- ARRAY_COMMAND_START: an accepted command starts when its unit and what it names are free (R244). -/
def execArrayCommandStart (station id : Nat) (s : State) : Res :=
  let k := s.stationAt station
  match k.array.find? (fun c => c.id == id) with
  | none => .next s
  | some c =>
    if k.mayStart c && (s.ctxOfStation station).isSome then
      let k1 := { k with array := k.array.map (fun x => if x.id == id then { x with started := true } else x) }
      .next (s.setStation station (if c.kind = .mslice then k1.beginSlice { c with started := true } else k1))
    else .next s

/-- The recorded value of a failure (R245). -/
def failValue (major : Nat) (f : ArrFail) : Word :=
  BitVec.ofNat 64 ((if f.fault = 16 then f.sub else 0) * 2 ^ 56 + major * 2 ^ 48 + f.unit % 256 * 2 ^ 40 + f.detail % 2 ^ 32)

/-- The completion tick of a command: it leaves the queue, its locks go, its line is raised, released slots become free
and summaries are taken (R245, R249, R261). -/
def State.closeArray (s : State) (st : Nat) (c : ArrCmd) (f : Option ArrFail) : State :=
  let s1 := s.modStation st (fun k => ({ k with array := k.array.filter (fun x => x.id != c.id) } : Station).freeSlots)
  let s2 := (s1.modCore c.thread.core (fun k => k.unlock s.time.toNat c.id)).captureAll st c.id
  if c.kind = .mzero then s2 else s2.raiseChime c.thread c.ev (f.map (fun f => (f.fault, failValue c.kind.major f)))

/-- The end of a running mslice (R255, R265): mcur is not busy and abort is 0. -/
def State.endSlice (s : State) (st : Nat) (c : ArrCmd) (f : Option ArrFail) : State :=
  (s.modStation st (fun k => { k with mcur := { k.mcur with busy := false, abort := false } })).closeArray st c f

/-- The end of an mdrain whose writes are made: its Gong, which waits while the dispenser holds 64 instances (R259; log entry
31). -/
def State.endDrain (s : State) (st : Nat) (c : ArrCmd) (force : Bool) : State :=
  if c.closed then
    (s.combClose st c false).closeArray st c
      (some { fault := 9, sub := 0, unit := cmbTile c.ctl, detail := drainAddr c.addrs })
  else
    let s1 := if c.ready then s else s.combClose st c (cmbZap c.ctl)
    if c.rc = 0 then s1.closeArray st c none
    else if force || decide ((s1.stationAt (stationOfCore (drainCore c.addrs))).dyn.length < 64) then
      (s1.ring c).closeArray st c none
    else s1.modArr st c.id (fun c => { c with ready := true })

/-- The end of a command of the load unit whose writes are made. -/
def State.endLoads (s : State) (st : Nat) (c : ArrCmd) (force : Bool) : State :=
  match c.ending with
  | none => s
  | some (some f) => s.closeArray st c (some f)
  | some none =>
    match c.kind with
    | .mcomb => (s.combClose st c (cmbZap c.ctl)).closeArray st c none
    | .mdrain => s.endDrain st c force
    | _ => s.closeArray st c none

/-- What is left of a command of the load unit. -/
def State.runLoads (s : State) (st : Nat) (c : ArrCmd) (force : Bool) : State :=
  let s1 := (s.turnArr st c).flushArr st c.id
  match (s1.stationAt st).array.find? (fun x => x.id == c.id) with
  | none => s1
  | some c1 => s1.endLoads st c1 force

/-- The end of a started command; `force` lets a Gong in whatever its dispenser holds (R266). -/
def State.endArray (s : State) (st : Nat) (c : ArrCmd) (force : Bool) : State :=
  match c.kind with
  | .mmul => let r := s.endMmul st c; r.2.closeArray st c r.1
  | .mzero => (s.modStation st (fun k => k.setTile c.tile (k.tileAt c.tile).emptied)).closeArray st c none
  | .mslice =>
    if !c.ready then s.endSlice st c (some (dataFail 0x35 (((s.stationAt st).sliceFault c).getD c.tile) 0 0))
    else if c.pairsLeft && (s.stationAt st).mcur.abort then s
    else (s.modStation st (fun k => k.runSlices 49)).endSlice st c none
  | _ => s.runLoads st c force

/-- ARRAY_COMMAND_COMPLETION: a started command ends (R245); nothing while an abort or a full dispenser holds it. -/
def execArrayCommandCompletion (station id : Nat) (s : State) : Res :=
  match (s.stationAt station).array.find? (fun c => c.id == id) with
  | none => .next s
  | some c => if c.started then .next (s.endArray station c false) else .next s

/-- MCUR_ABORT: a write of 1 to mcur.abort requests a stop of the running mslice (R265). -/
def execMcurAbort (station : Nat) (s : State) : Res :=
  .next (s.modStation station (fun k => { k with mcur := k.mcur.requestAbort (1#64 <<< 63) }))

/-- MSLICE_ABORT_STOP: at a boundary after which a pair remains, an aborted mslice ends with ENGINE 0x37 and leaves its tiles
incomplete (R265). DESIGN CHOICE: in full mode, where it concerns tiles t and t + 1, its unit is t; R245 asks for one number. -/
def execMsliceAbortStop (station : Nat) (s : State) : Res :=
  let k := s.stationAt station
  match k.runningSlice with
  | none => .next s
  | some c =>
    if k.mcur.abort && c.pairsLeft then
      .next ((s.modStation station (fun k => c.tiles.foldl (fun k n =>
        k.setTile n { k.tileAt n with state := .incomplete }) k)).endSlice station c (some (dataFail 0x37 c.tile 0 0)))
    else .next s

/-! ### Reading and writing tiles (R260) -/

/-- Whether a tile is locked against a request in a tick: an accepted command names it (R244), but not one that has only arrived in
that tick, before which the request is served (R260). -/
def Station.tileLocked (k : Station) (now n : Nat) : Bool :=
  k.array.any (fun c => c.tiles.contains n && (c.started || decide (c.issued < now)))

/-- The answer of a served request: mrdacc's value. -/
def TileReq.answer (q : TileReq) (e : BitVec 96) : Word :=
  if q.half then sextW 32 (e.toNat / 2 ^ 64) else BitVec.ofNat 64 (e.toNat % 2 ^ 64)

/-- A request at the array: a retry while the tile is locked, else served; its thread waits for the answer (R260). -/
def State.tileRequest (s : State) (t : ThreadId) (q : TileReq) : State :=
  let st := stationOfCore t.core
  let k := s.stationAt st
  let tl := k.tileAt q.tile
  let e := agetD tl.entries q.index 0
  if k.tileLocked s.time.toNat q.tile then s.waitFor t (.tile q)
  else if !q.write then s.waitFor t (.array q.reg (q.answer e) none)
  else if tl.state = .empty then s.waitFor t (.array 0 0 (some (16, BitVec.ofNat 64 q.tile, 0x36)))
  else
    let v := if q.half then q.value.toNat % 2 ^ 32 * 2 ^ 64 + e.toNat % 2 ^ 64 else e.toNat / 2 ^ 64 * 2 ^ 64 + q.value.toNat
    (s.modStation st (fun k => k.setTile q.tile { k.tileAt q.tile with
      entries := aset (k.tileAt q.tile).entries q.index (BitVec.ofNat 96 v) })).waitFor t (.array 0 0 none)

/-- The array's answer reaches its thread (R249, R260). -/
def State.arrayAnswer (s : State) (t : ThreadId) (reg : Reg) (value : Word) (fault : Option (Nat × Word × Nat)) : State :=
  match fault with
  | some (code, tval, sub) => s.takeTrap t (precise code tval sub 0)
  | none => (s.setReg t reg value).finish t 4

/-- mrdacc (R260). -/
def execMrdacc (d tile b : Reg) (s : State) : Res :=
  s.onThread fun th =>
    s.gate th [d, b] [b]
      (if wfld (s.g b) 63 13 ≠ 0 then s.trapNow (precise 16 (s.g b) 0x30 0)
       else s.tileRequest s.cur { write := false, reg := d, tile := tile.toNat, index := wfld (s.g b) 11 0
                                  half := (s.g b).getLsbD 12, value := 0 })

/-- mwracc (R260). -/
def execMwracc (tile a b : Reg) (s : State) : Res :=
  s.onThread fun th =>
    s.gate th [a, b] [a, b]
      (if wfld (s.g b) 63 13 ≠ 0 then s.trapNow (precise 16 (s.g b) 0x30 0)
       else s.tileRequest s.cur { write := true, reg := 0, tile := tile.toNat, index := wfld (s.g b) 11 0
                                  half := (s.g b).getLsbD 12, value := s.g a })

/-- TILE_REQUEST_RETRY: a request that was answered with a retry is sent again (R260). -/
def execTileRequestRetry (t : ThreadId) (s : State) : Res :=
  match (s.threadAt t).bind Thread.wait with
  | some (.tile q) => if s.hasSlots t then .next (s.tileRequest t q) else .next s
  | _ => .next s

end Sys2Proof.Machine
end

