-- ==== Sys2Proof/Machine/Partition.lean ====
section
/-! DEFINITION. Partitions: load, switch, unload, unpause, the Peal with its save and restore, and the loss and recovery
of cores (03_execution R26 to R28, R51, R52, 17_traps R233 to R239, 19_matrix R266, R267, 21_fabric R299 to R301, 25_system
R322). -/

namespace Sys2Proof.Machine

/-! ### The management block (R300) -/

/-- The request has been performed. -/
def State.pmDone (s : State) : State := { s with host := { s.host with pm := { s.host.pm with go := false, status := 0, cause := 0 } } }
/-- The request ends in error. -/
def State.pmError (s : State) (cause : Nat) : State :=
  { s with host := { s.host with pm := { s.host.pm with go := false, status := 2, cause := cause } } }

def PmBlock.inctx (p : PmBlock) : Nat := wfld p.ctx 21 16
def PmBlock.outctx (p : PmBlock) : Nat := wfld p.ctx 5 0
def PmBlock.inone (p : PmBlock) : Bool := p.ctx.getLsbD 24
def PmBlock.onone (p : PmBlock) : Bool := p.ctx.getLsbD 8

/-- Whether a station is taken by the partition of another context: one that runs or is being switched (log entry 37). -/
def State.stationTaken (s : State) (stations : List Nat) (but : List Nat) : Bool :=
  s.ctxs.any (fun c => !but.contains c.1 && c.2.running && c.2.stations.any stations.contains)

/-- What follows a request that is being performed. -/
def State.pmAct (s : State) (kind : Nat) (act : PmBlock → State) : Res :=
  if s.host.pm.go && s.host.pm.kind == kind then .next (act s.host.pm) else .next s

/-! ### The load image (R299, R301) -/

/-- A read by firmware under a context's tag (R301): none outside the map, under any other tag, or of poison. -/
def State.firmRead (s : State) (tag pa n : Nat) : Option (List Byte) :=
  if (linesOf pa n).any (fun l => !s.inMap (l * 64) || s.phys.lineTag l != tag) then none
  else
    match s.tagRead tag pa n with
    | .ok bs => some bs
    | .error _ => none

/-- A part of a load image, which is fast-tier memory (R299). -/
def State.imageRead (s : State) (tag pa n : Nat) : Option (List Byte) := if inFast (pa + n - 1) then s.firmRead tag pa n else none

/-- What reads by firmware do at the home slices: fills return, pending accumulates are folded, an uncorrectable line is poisoned
and logged (R186, R231, R279). -/
def State.firmTouch (s : State) (ctx : Nat) (ranges : List (Nat × Nat)) : State :=
  ranges.foldl (fun s r =>
    if (linesOf r.1 r.2).any (fun l => !s.inMap (l * 64)) then s
    else (((s.settleFills r.1 r.2).foldRange r.1 r.2).findErrors r.1 r.2 ctx 0xFFFFFFFF#32).sliceTouch r.1 r.2 false false) s

/-- Doublewords of bytes. -/
def dwords (bs : List Byte) : List Word := wordsOf (bs.length / 8) bs

/-- A context record (R224) that firmware accepts: valid, no reserved field, a tag. -/
def recordOk (w : List Word) : Bool :=
  let f (i hi lo : Nat) : Nat := wfld (w.getD i 0) hi lo
  bitAt (w.getD 0 0).toNat 0 && f 0 63 42 == 0 && f 0 12 1 == 0 && f 1 63 48 == 0 && f 2 63 16 == 0 && f 3 63 42 == 0 &&
    f 3 20 0 == 0 && f 4 63 8 == 0 && f 4 7 0 != 0 && f 6 63 32 == 0 && f 7 63 0 == 0

/-- Whether the header of a load image agrees with the request (R301). -/
def headerOk (w : List Word) (p : PmBlock) : Bool :=
  w.getD 0 0 == BitVec.ofNat 64 p.inctx && w.getD 1 0 == p.sta && w.getD 2 0 == p.stb && (w.drop 5).all (fun x => x == 0)

/-- A thread record (R301): its four doublewords. -/
def threadRecord (w : List Word) (p : Nat) : List Word := (w.drop (8 + 4 * p)).take 4
def recCreated (r : List Word) : Bool := (r.getD 0 0).getLsbD 63
def recMode (r : List Word) : Nat := wfld (r.getD 0 0) 17 16
def recSize (r : List Word) : Nat := wfld (r.getD 0 0) 12 8
def recBase (r : List Word) : Nat := wfld (r.getD 0 0) 7 0

/-- The checks of one thread record (R33, R301). -/
def recordGood (r : List Word) : Bool :=
  if recCreated r then
    wfld (r.getD 0 0) 62 18 == 0 && wfld (r.getD 0 0) 15 13 == 0 && recMode r != 3 && decide (1 ≤ recSize r) &&
      decide (recSize r ≤ 16) && decide (recBase r + recSize r ≤ 256) && decide ((r.getD 1 0).toNat < 2 ^ 56) &&
      wfld (r.getD 1 0) 1 0 == 0 && r.getD 3 0 == 0
  else r.all (fun x => x == 0)

/-- Whether two windows of a core overlap (R33). -/
def windowsClash : List (Nat × Nat) → Bool
  | [] => false
  | (b, n) :: r => r.any (fun x => overlaps b n x.1 x.2) || windowsClash r

/-- The created threads of a core block. -/
def createdSlots (w : List Word) : List Nat := (List.range 64).filter (fun p => recCreated (threadRecord w p))

/-- The checks of a core block (R33, R301). -/
def blockGood (w : List Word) : Bool :=
  decide ((w.getD 0 0).toNat ≤ 3) && decide ((w.getD 1 0).toNat < 2 ^ 42) && wfld (w.getD 1 0) 5 0 == 0 &&
    ((w.drop 2).take 6).all (fun x => x == 0) && (w.drop 264).all (fun x => x == 0) &&
    (List.range 64).all (fun p => recordGood (threadRecord w p)) &&
    !windowsClash ((createdSlots w).map (fun p => (recBase (threadRecord w p), recSize (threadRecord w p))))

/-- The bytes of a scratchpad image (R301): none for a zero scratchpad. -/
def State.spadImage (s : State) (tag : Nat) (w : List Word) : Option (List Byte) :=
  if w.getD 1 0 = 0 then some [] else s.firmRead tag (w.getD 1 0).toNat 294912

/-- The full/empty bytes of a scratchpad image hold no other bit. -/
def imageGood (bs : List Byte) : Bool := (bs.drop 262144).all (fun b => decide (b.toNat ≤ 1))

/-- The words whose full/empty byte is 0. -/
def emptyWords (bs : List Byte) : List Nat := ((bs.drop 262144).zipIdx).filterMap (fun p => if p.1 = 0 then some p.2 else none)

/-- Undefined register values, entry by entry (R27). -/
def State.freeRegs (s : State) (core : Nat) : Assoc Word := (List.range 2048).map (fun i => (i, s.undefined (core * 2048 + i)))

/-- A thread of a record (R27, R301); the reserved bits of its `tvec` stay zero (R216; log entry 37). -/
def recThread (r : List Word) (tag : BitVec 8) (ctx : BitVec 6) : Thread :=
  Thread.create (recBase r) (recSize r) (Mode.ofCode (recMode r)) (r.getD 1 0) (r.getD 2 0 &&& tvecMask) tag ctx

/-- A core as the loader sets it (R27, R30, R301); what belongs to the place stays. -/
def State.loadedCore (s : State) (core : Nat) (tag : BitVec 8) (ctx : BitVec 6) (w : List Word) (spad : List Byte) : Core :=
  let old := s.coreAt core
  { Core.reset with
    rotLen := BitVec.ofNat 2 (w.getD 0 0).toNat, loadRot := BitVec.ofNat 2 (w.getD 0 0).toNat, rf := s.freeRegs core
    spad := Memory.writeBytes [] 0 (spad.take 262144), spadEmpty := emptyWords spad
    threads := (createdSlots w).map (fun p => (p, recThread (threadRecord w p) tag ctx))
    lastBeat := old.lastBeat, stopped := old.stopped, lost := old.lost, spare := old.spare }

/-- A core block with its scratchpad image, if both pass. -/
def State.readBlock (s : State) (tag image i : Nat) : Option (List Word × List Byte × List Byte) :=
  match s.imageRead tag (image + 64 + 4096 * i) 4096 with
  | none => none
  | some bs =>
    if !blockGood (dwords bs) then none
    else
      match s.spadImage tag (dwords bs) with
      | none => none
      | some sp => if imageGood sp then some (dwords bs, bs, sp) else none

/-- The values of a list, where every one is there. -/
def allThere {α : Type} : List (Option α) → Option (List α)
  | [] => some []
  | none :: _ => none
  | some a :: r => (allThere r).map (a :: ·)

/-- The core blocks of a load image. -/
def State.readBlocks (s : State) (tag image : Nat) (blocks : List Nat) : Option (List (List Word × List Byte × List Byte)) :=
  allThere (blocks.map (s.readBlock tag image))

/-- The pages of a context with x = 1, in ascending virtual order, as physical address and size: those that a walk can reach, and
that lie in the map (R225, R318, R322). -/
def State.execPages (s : State) : Nat → Nat → Nat → List (Nat × Nat)
  | 0, _, _ => []
  | fuel + 1, table, level =>
    (List.range 1024).flatMap (fun i =>
      match s.bareRead (table + 8 * i) 8 with
      | .error _ => []
      | .ok bs =>
        let e := ofBytesLE bs
        if !bitAt e 0 || fld e 63 42 != 0 || fld e 12 7 != 0 then []
        else if !bitAt e 1 then (if level = 4 then [] else s.execPages fuel (fld e 41 13 * 8192) (level + 1))
        else if leafBad level e || !bitAt e 4 || !s.inMap (leafAddress level e 0) then []
        else [(leafAddress level e 0, 2 ^ pageBits level)])

/-- A line as firmware reads it under a tag (R318): free where the line carries another tag or is poisoned. -/
def State.areaLine (s : State) (tag line : Nat) : List Byte :=
  match s.tagRead tag (line * 64) 64 with
  | .error _ => s.freeBytes (line * 64) 64
  | .ok bs => bs

/-- Whole lines as firmware reads them under a tag. -/
def State.areaBytes (s : State) (tag a n : Nat) : List Byte :=
  (List.range (n / 64)).flatMap (fun i => s.areaLine tag (a / 64 + i))

/-- The context measurement (R322): the load image, its scratchpad images, the executable pages. -/
def State.measure (s : State) (tag root : Nat) (image : List Byte) (spads : List (List Byte)) : List Byte :=
  sha384 (image ++ spads.flatten ++
    (s.execPages 4 (root * 8192) 1).flatMap (fun p => s.areaBytes tag p.1 p.2))

/-- The context that a load makes resident (R159, R224, R236). -/
def loadedContext (rcd header : List Word) (stations : List Nat) (measurement : List Byte) : Context :=
  let f (i hi lo : Nat) : Nat := wfld (rcd.getD i 0) hi lo
  { root := f 0 41 13, retry := f 1 47 0, thresh := f 2 15 0, save := f 3 41 21 * 2 ^ 21, tag := f 4 7 0, stations := stations
    running := true, stoppedAt := 0
    barriers := (List.range 8).map (fun u =>
      (u, { p := wfld (header.getD (3 + u / 4) 0) (16 * (u % 4) + 15) (16 * (u % 4)), arrived := [] }))
    page := ControlPage.reset, graphs := [], served := none, trace := TraceBuf.reset, falloutRegion := [], saved := none
    peal := none, measurement := measurement }

/-- A station as the loader leaves it (R158, R163, R189, R241, R242): what belongs to memory and to the router stays. -/
def Station.loaded (k : Station) : Station :=
  { Station.reset with slice := k.slice, park := k.park, fallout := k.fallout, router := k.router }

/-- Loads a context whose image has passed every check. -/
def State.loadContext (s : State) (p : PmBlock) (rcd header : List Word) (bytes : List Byte)
    (blocks : List (List Word × List Byte × List Byte)) : State :=
  let tag := wfld (rcd.getD 4 0) 7 0
  let m := s.measure tag (wfld (rcd.getD 0 0) 41 13) (bytes ++ blocks.flatMap (fun b => b.2.1))
    ((blocks.map (fun b => b.2.2)).filter (fun b => !b.isEmpty))
  let cores := p.stations.flatMap (fun st => (List.range 8).map (fun c => st * 8 + c))
  let s1 := (cores.zip blocks).foldl (fun t b =>
    t.setCore b.1 (s.loadedCore b.1 (BitVec.ofNat 8 tag) (BitVec.ofNat 6 p.inctx) b.2.1 b.2.2.2)) s
  (p.stations.foldl (fun t st => t.modStation st Station.loaded) s1).setCtx p.inctx (loadedContext rcd header p.stations m)

/-- The scratchpad images that the core blocks of a load image name, as far as these can be read (R301). -/
def State.spadRanges (s : State) (tag image n : Nat) : List (Nat × Nat) :=
  (List.range n).filterMap (fun i => (s.imageRead tag (image + 64 + 4096 * i) 4096).bind (fun bs =>
    if (dwords bs).getD 1 0 = 0 then none else some (((dwords bs).getD 1 0).toNat, 294912)))

/-- What the reads of a load leave at the home slices: those of the image, of its scratchpad images, and of the executable pages
(R231, R301, R322). -/
def State.loadTouch (s : State) (ctx tag root image n : Nat) : State :=
  let s1 := s.firmTouch ctx [(image, 64 + 4096 * n)]
  let s2 := s1.firmTouch ctx (s1.spadRanges tag image n)
  s2.firmTouch ctx (s2.execPages 4 (root * 8192) 1)

/-- The load of an image under a record that has passed its checks. -/
def State.loadImage (s : State) (p : PmBlock) (rcd : List Word) : State :=
  let image := wfld p.img 41 0
  let tag := wfld (rcd.getD 4 0) 7 0
  match s.imageRead tag image 64 with
  | none => s.pmError 2
  | some hb =>
    if !headerOk (dwords hb) p then s.pmError 2
    else
      match s.readBlocks tag image (List.range (8 * p.stations.length)) with
      | none => s.pmError 2
      | some blocks => (s.loadContext p rcd (dwords hb) hb blocks).pmDone

/-- The load of a request: its checks in the order 5, 6, 3, 2 (log entry 37), then the context. -/
def State.load (s : State) (p : PmBlock) : State :=
  let record := s.host.ctxtab + 64 * p.inctx
  if s.loaded p.inctx then s.pmError 5
  else if 64 ≤ s.ctxs.length then s.pmError 6
  else if s.stationTaken p.stations [] then s.pmError 3
  else if wfld p.img 5 0 ≠ 0 then s.pmError 2
  else
    match s.bareRead record 64 with
    | .error _ => (s.bareTouch record 64 p.inctx).pmError 2
    | .ok rb =>
      let s1 := s.bareTouch record 64 p.inctx
      let rcd := dwords rb
      if !recordOk rcd then s1.pmError 2
      else
        (s1.loadTouch p.inctx (wfld (rcd.getD 4 0) 7 0) (wfld (rcd.getD 0 0) 41 13) (wfld p.img 41 0)
          (8 * p.stations.length)).loadImage p rcd

/-- PARTITION_LOAD. -/
def execPartitionLoad (s : State) : Res := s.pmAct 1 (fun p => s.load p)

/-! ### Draining at a Peal (R183, R235 steps 2 to 4) -/

/-- Keeps a state where a step has no next one. -/
def State.after (s : State) (r : Res) : State :=
  match r with
  | .next t => t
  | _ => s

/-- Takes a parked or retrying request back (R143): its instruction executes again on resume. -/
def State.cancelAccess (s : State) (x : Access) (t : ThreadId) : State :=
  let s1 := ((s.setPark x.owner ((s.parkOf x.owner).filter (· != x.id))).serveWord x.owner x.loc).dropAccess x.id
  s1.modThread t (fun th => { th with wait := none })

/-- The station whose partition an access belongs to. -/
def Issuer.station : Issuer → Option Nat
  | .thread t => some (stationOfCore t.core)
  | .trace core => some (stationOfCore core)
  | _ => none

/-- An answer that has come, delivered into its thread (R235 step 2). That of a halted thread leaves its instruction to complete
when it is resumed; one that faults executes again then (log entry 39). -/
def State.settleAnswer (s : State) (x : Access) (fault : Nat) (value : Word) : State :=
  let ext : ExtAnswer := { fault := 0, sub := 0, data := 0, bytes := [] }
  match x.issuer with
  | .thread t =>
    if x.counter = 0 ∧ ((s.threadAt t).map Thread.halted).getD false then
      let s1 := s.dropAccess x.id
      if fault ≠ 0 then s1.modThread t (fun th => { th with wait := none })
      else (if AccessKind.reads x.kind then s1.setReg t x.rd value else s1).waitFor t .granted
    else
      let s1 := s.after (execRemoteAnswer x.id ext s)
      s1.after (execPostedStoreAck x.id ext s1)
  | _ => s.after (execPostedStoreAck x.id ext s)

/-- One step of an access of the partition towards its end. A request at another device that may be parked there is cancelled. -/
def State.settleAccess (s : State) (stations : List Nat) (id : Nat) : State :=
  match s.accessAt id with
  | none => s
  | some x =>
    if !((Issuer.station x.issuer).map stations.contains).getD false then s
    else
      match x.stage with
      | .travelling => s.after (execRemoteAccessArrival id s)
      | .filling =>
        if s.fillUnderWay (x.loc / 64) then s.after (execSliceFill (homeStation x.loc) (x.loc / 64) s)
        else s.after (execRemoteAccessArrival id s)
      | .held since =>
        if since + 76000 ≤ s.time.toNat then s.deliver x (.bad 5 3 0) else s.meetGlobal x (stationOfCore x.reader.core)
      | .parked => s.cancelAccess x x.reader
      | .refused => s.cancelAccess x x.reader
      | .offDevice =>
        if AccessKind.parks x.kind ∧ x.cancel = none then s.modAccess id (fun y => { y with cancel := some .peal }) else s
      | .answered fault _ _ value => s.settleAnswer x fault value

/-- Every access of the partition, several steps each. -/
def State.settleAccesses (s : State) (stations : List Nat) : Nat → State
  | 0 => s
  | n + 1 => ((s.accesses.map Access.id).foldl (fun s id => s.settleAccess stations id) s).settleAccesses stations n

/-- A timed command whose start tick came before a Peal's has started (R205, R207). -/
def State.startDue (s : State) (st tick : Nat) : State :=
  s.modStation st (fun k => { k with
    copies := k.copies.map (fun c => if c.startAt.getD 0 < tick then { c with started := true } else c) })

/-- Started copy-engine commands of a station complete, those that wait for another device once it has answered (R207). -/
def State.endCopies (s : State) (st : Nat) : State :=
  ((s.stationAt st).copies.filter (fun c => c.started)).foldl (fun s c =>
    s.after (execCopyEngineCompletion st c.id { fault := 0, sub := 0, data := 0, bytes := [] } s)) s

/-- Whether a row command completes before a Peal's save: it has started, or a rowdot that owes its result stands at or behind it
(R207, R217). -/
def State.mustEndRow (s : State) (core : Nat) (c : RowCmd) : Bool :=
  c.started || (s.coreAt core).rows.any (fun x => x.kind == .dot)

/-- The row-unit commands of a core that a Peal completes, oldest first, up to `fuel` of them. -/
def State.endRows (s : State) (core : Nat) : Nat → State
  | 0 => s
  | fuel + 1 =>
    match (s.coreAt core).rows with
    | [] => s
    | c :: _ =>
      if s.mustEndRow core c then
        ((s.modRow core c.id (fun c => { c with started := true })).completeRow core).endRows core fuel
      else s

/-- Started slice-array commands complete; an mslice stops where it is (R266). -/
def State.endArrays (s : State) (st : Nat) : State :=
  ((s.stationAt st).array.filter (fun c => c.started && c.kind != .mslice)).foldl (fun s c => s.endArray st c true) s

/-- Exposed-latency results are written: a segred's total, which its lists and its descriptor decide, and an mstat's summary that is
known (R203, R217). -/
def State.writeOwed (s : State) (t : ThreadId) : State :=
  match s.threadAt t with
  | none => s
  | some th =>
    th.owed.foldl (fun s o =>
      match o.kind with
      | .segred => s.after (execSegredCountResult t o.id s)
      | .mstat => if o.value.isSome then s.payOwed t o.id o.value else s
      | .dot => s) s

/-- A thread's line request to another device is forgotten. -/
def State.dropFetch (s : State) (t : ThreadId) : State :=
  { s with accesses := s.accesses.filter (fun x => x.issuer != .fetch t) }

/-- A wait at the Peal: what an array has answered, a finished xinv and a spread descriptor are delivered; a fetch, a held page, a
router and a refused tile request are tried afresh on resume (R143, R235, R260). -/
def State.pauseThread (s : State) (t : ThreadId) : State :=
  match s.threadAt t with
  | none => s
  | some th =>
    match th.wait with
    | some (.line _ _) | some (.held _) | some (.tile _) | some (.way _) => (s.dropFetch t).setThread t { th with wait := none }
    | some (.spread id) => if th.halted || s.descs.any (fun u => u.id == id) then s else s.finish t 4
    | some (.array reg value fault) => if th.halted then s else s.arrayAnswer t reg value fault
    | some (.xlat ids) => if th.halted || s.anyPending ids then s else s.finish t 4
    | _ => s

/-- The cores of stations. -/
def coresOf (stations : List Nat) : List Nat := stations.flatMap (fun st => (List.range 8).map (fun c => st * 8 + c))

/-- The row updates that a context's completed commands still have under way are performed (R179, R183). -/
def State.endLates (s : State) (ctx : Nat) : State :=
  ((s.lates.filter (fun l => l.agent.ctx == ctx)).map LateUpdate.id).foldl State.performLate s

/-- Steps 2 to 4 of R235 for a Peal of a tick, as far as this device alone can take them. -/
def State.drain (s : State) (ctx tick : Nat) (stations : List Nat) : State :=
  let s0 := stations.foldl (fun s st => s.startDue st tick) (s.settleDescs ctx)
  let s1 := s0.settleAccesses stations 6
  let s2 := stations.foldl (fun s st => (s.endCopies st).endArrays st) s1
  let s3 := ((coresOf stations).foldl (fun s c => s.endRows c ((s.coreAt c).rows.length)) s2).endLates ctx
  (stations.flatMap threadsOf).foldl (fun s t => (s.writeOwed t).pauseThread t) s3

/-- Whether something of the partition is still under way. -/
def State.busy (s : State) (ctx : Nat) (stations : List Nat) : Bool :=
  s.accesses.any (fun x => ((Issuer.station x.issuer).map stations.contains).getD false) ||
  stations.any (fun st => (s.stationAt st).copies.any CopyCmd.started ||
    (s.stationAt st).array.any (fun c => c.started && c.kind != .mslice)) ||
  (coresOf stations).any (fun c => (s.coreAt c).rows.any (fun x => x.started || x.kind == .dot)) ||
  s.lates.any (fun l => l.agent.ctx == ctx) || s.descs.any (fun u => u.ctx == ctx)

/-! ### The save area (R236) -/

/-- Firmware's whole-line write under a tag: a line of another tag stays as it is (R231, R318). -/
def Phys.putLine (p : Phys) (tag line : Nat) (bs : List Byte) : Phys :=
  if p.lineTag line = tag ∨ p.lineTag line = 0 then
    { p with
      ram := p.ram.writeBytes (line * 64) bs, tags := aset p.tags line tag
      poison := p.poison.filter (· != line), uncorr := p.uncorr.filter (· != line) }
  else p

/-- Firmware's write of n bytes from an address on, as a memory holds them from 0 on. -/
def Phys.putArea (p : Phys) (tag a n : Nat) (m : Memory) : Phys :=
  (List.range (n / 64)).foldl (fun p i => p.putLine tag (a / 64 + i) (m.readBytes (64 * i) 64)) p

/-- Firmware's write of records in its own format: their bytes are free (R236; log entry 39). -/
def State.putRecords (s : State) (tag a n : Nat) (p : Phys) : Phys :=
  (List.range (n / 64)).foldl (fun p i => p.putLine tag (a / 64 + i) (s.freeBytes (a + 64 * i) 64)) p

/-- Bits by number, as a memory, and the numbers of the bits that are set in some bytes. -/
def bitMemory (l : List Nat) : Memory := l.foldl (fun m i => m.writeLE (i / 8) 1 (m.readLE (i / 8) 1 + 2 ^ (i % 8))) []
def bitNumbers (bs : List Byte) : List Nat :=
  (bs.zipIdx).flatMap (fun b => (List.range 8).filterMap (fun j => if b.1.getLsbD j then some (8 * b.2 + j) else none))

/-- Doublewords by number, as a memory. -/
def wordMemory (l : List (Nat × Word)) : Memory := l.foldl (fun m e => m.writeLE (8 * e.1) 8 e.2.toNat) []

/-- Where a core block lies in a save area. -/
def coreBlock (save i core : Nat) : Nat := save + 0x200000 + 0x600000 * i + 0x60000 * (core % 8)

/-- Saves a core's scratchpad and register file as data, and its full/empty and parity bits as the model lays them out: a set bit
for an empty word, and in the second half for one with bad parity (R236; log entry 39). -/
def Phys.saveCore (p : Phys) (tag a : Nat) (k : Core) : Phys :=
  (((p.putArea tag a 0x40000 k.spad).putArea tag (a + 0x40000) 0x1000 (bitMemory k.spadEmpty)).putArea tag (a + 0x41000) 0x1000
    (bitMemory k.spadBad)).putArea tag (a + 0x42000) 0x4000 (wordMemory k.rf)

/-- The header (R236). -/
def saveHeader (x : Context) (ctx tick state : Nat) : List Byte :=
  bytesLE 4 1 ++ bytesLE 4 state ++ bytesLE 8 tick ++ bytesLE 4 ctx ++ bytesLE 4 x.stations.length ++
    bytesLE 12 (x.stations.foldl (fun a n => a + 2 ^ n) 0) ++ bytesLE 4 x.falloutRegion.length ++ List.replicate 24 0

/-- Writes the header and the descriptor registers. -/
def Phys.saveContext (p : Phys) (x : Context) (ctx tick : Nat) (descs : Assoc (List Word)) : Phys :=
  (p.putLine x.tag (x.save / 64) (saveHeader x ctx tick 2)).putArea x.tag (x.save + 0x10000) 0x4000
    (wordMemory (descs.flatMap (fun d => (d.2.zipIdx).map (fun w => (8 * d.1 + w.2, w.1)))))

/-- The bytes of a save area. -/
def Context.saveSize (x : Context) : Nat := 0x200000 + 0x600000 * x.stations.length

/-- The state in the header while a save begins or a restore runs (R236). -/
def State.markHeader (s : State) (ctx : Nat) (x : Context) (tick state : Nat) : State :=
  (s.foldRange x.save 64).modPhys (fun p => p.putLine x.tag (x.save / 64) (saveHeader x ctx tick state))

/-- Writes a context's state to its save area and to firmware's records, with the tick of its Peal (R235 step 6; log entry 39). -/
def State.saveOut (s0 : State) (ctx : Nat) (x : Context) (tick : Nat) : State :=
  let s := (s0.settleFills x.save x.saveSize).foldRange x.save x.saveSize
  let cores := (coresOf x.stations).map (fun c => (c, s.coreAt c))
  let p0 := s.putRecords x.tag (x.save + 0x14000) (x.saveSize - 0x14000) s.phys
  let p1 := p0.saveContext x ctx tick (s.stationAt (lowestStation x.stations)).descs
  let p2 := (x.stations.zipIdx).foldl (fun p n =>
    (List.range 8).foldl (fun p c => p.saveCore x.tag (coreBlock x.save n.2 c) (s.coreAt (n.1 * 8 + c))) p) p1
  let s1 : State := { s with phys := p2 }
  s1.setCtx ctx { x with
    running := false, stoppedAt := tick, peal := none
    saved := some { tick := tick, cores := cores, stations := x.stations.map (fun st => (st, s.stationAt st)) } }

/-- The register file of a save area. -/
def State.takeRegs (s : State) (tag a : Nat) : Assoc Word :=
  ((dwords (s.areaBytes tag (a + 0x42000) 0x4000)).zipIdx).filterMap (fun w => if w.1 = 0 then none else some (w.2, w.1))

/-- A tick since which running ticks count, once the ticks from a Peal's tick to now do not (R44, R50). -/
def resumedTick (stopped now since : Nat) : Nat := since + (now - max since stopped)

/-- Shifts what counts running ticks by a pause (R44, R50). -/
def Thread.shift (th : Thread) (stopped now : Nat) : Thread :=
  { th with
    haltedAt := resumedTick stopped now th.haltedAt
    wait := match th.wait with
      | some (.step since skipped known) => some (.step (resumedTick stopped now since) skipped (resumedTick stopped now known))
      | w => w }

def NodeState.shift (n : NodeState) (stopped now : Nat) : NodeState :=
  { n with since := resumedTick stopped now n.since
           again := n.again.map (fun a => { a with since := resumedTick stopped now a.since }) }

/-- An inbox forgets the entries and records of messages that fell out. -/
def Inbox.clean (b : Inbox) (live : Nat → Bool) : Inbox :=
  { b with reserved := b.reserved.filter live, refused := b.refused.filter live }

/-- A saved core as it comes back onto its place (R235, R239). -/
def State.restoredCore (s : State) (x : Context) (i core : Nat) (k : Core) : Core :=
  let here := s.coreAt core
  let live (id : Nat) : Bool := s.flights.any (fun f => f.id == id)
  { k with
    spad := Memory.writeBytes [] 0 (s.areaBytes x.tag (coreBlock x.save i core) 0x40000)
    spadEmpty := bitNumbers (s.areaBytes x.tag (coreBlock x.save i core + 0x40000) 0x1000)
    spadBad := bitNumbers (s.areaBytes x.tag (coreBlock x.save i core + 0x41000) 0x1000)
    rf := s.takeRegs x.tag (coreBlock x.save i core)
    threads := k.threads.map (fun p =>
      (p.1, { p.2.shift x.stoppedAt s.time.toNat with inbox := p.2.inbox.clean live, sendq := p.2.sendq.filter live }))
    lastBeat := here.lastBeat, stopped := here.stopped, lost := here.lost, spare := here.spare }

/-- A saved station as it comes back. -/
def State.restoredStation (s : State) (x : Context) (ctx st : Nat) (k : Station) : Station :=
  let here := s.stationAt st
  { k with
    slice := here.slice, park := here.park, router := here.router, fallout := here.fallout.filter (fun m => m.ctx != ctx)
    dyn := k.dyn.map (fun i => { i with since := resumedTick x.stoppedAt s.time.toNat i.since })
    descs := k.descs.map (fun e => (e.1, dwords (s.areaBytes x.tag (x.save + 0x10000 + 64 * e.1) 64))) }

/-- The fall-out messages of a context go into the inboxes in the order in which they fell out, ahead of what is under way (R235
step 7). -/
def State.reinject (s : State) (ms : List Message) : State :=
  let fs : List Flight := (ms.zipIdx).map (fun m => { id := s.nextId + m.2, sender := none, msg := m.1, stage := .travelling, port := none, sent := s.nextId + m.2 })
  fs.foldl State.deliverMessage { s with flights := fs ++ s.flights, nextId := s.nextId + ms.length }

/-- A Knell entry (R236, R237). -/
def knellEntry (reason place : Nat) : Word := BitVec.ofNat 64 (reason * 2 ^ 32 + place / 64 * 64)

/-- Appends to a context's Knell queue. -/
def State.knellTo (s : State) (ctx : Nat) (w : Word) : State :=
  s.modCtx ctx (fun x =>
    let q := pushBounded 256 x.page.knell x.page.knellLost w
    { x with page := { x.page with knell := q.1, knellLost := q.2 } })

/-- Appends to the host's Knell queue, with MSI-X vector 0 (R292). DESIGN CHOICE: the vector is raised for a Knell that the full
queue drops too; R292 names none for it. -/
def State.knellToHost (s : State) (w : Word) : State :=
  let q := pushBounded 256 s.host.hknell s.host.hknellLost w
  ({ s with host := { s.host with hknell := q.1, hknellLost := q.2 } } : State).msix 0

/-- The Knell of a lost core: to its running partition, or to the host where it holds the supervisor thread or no
partition runs (R237). -/
def State.knell (s : State) (core : Nat) : State :=
  let w := knellEntry (if (s.coreAt core).stopped then 4 else 1) (s.place { core := core, slot := 0 })
  match s.ctxOfStation (stationOfCore core) with
  | none => s.knellToHost w
  | some c =>
    match s.ctxAt c with
    | none => s.knellToHost w
    | some x => if x.supervisor.core = core then s.knellToHost w else s.knellTo c w

/-- A switched-out context comes back (R235 steps 7 and 8): its state, its fall-out messages, a Knell for each place that
has died since the save, to where R237 sends it (R239). -/
def State.restore (s0 : State) (ctx : Nat) (x : Context) (v : Saved) : State :=
  let s := (s0.firmTouch ctx [(x.save, x.saveSize)]).markHeader ctx x v.tick 3
  let lost := x.stations.flatMap (fun st => (s.stationAt st).fallout.filter (fun m => m.ctx == ctx))
  let order (c : Nat) : Nat := (x.stations.filter (fun n => decide (n < c / 8))).length
  let s1 := v.cores.foldl (fun t c => t.setCore c.1 (s.restoredCore x (order c.1) c.1 c.2)) s
  let s2 := v.stations.foldl (fun t k => t.setStation k.1 (s.restoredStation x ctx k.1 k.2)) s1
  let s3 := (s2.setCtx ctx { x with
    running := true, saved := none, peal := none, falloutRegion := []
    graphs := x.graphs.map (fun g => { g with
      nodes := g.nodes.map (fun n => n.shift x.stoppedAt s.time.toNat) }) }).reinject (x.falloutRegion ++ lost)
  (v.cores.filter (fun c => (s.coreAt c.1).lost && !c.2.lost)).foldl (fun t c => t.knell c.1) s3

/-- The cores and stations of a partition that has gone: no thread, nothing that belongs to a context. -/
def State.vacate (s : State) (stations : List Nat) : State :=
  let s1 := (coresOf stations).foldl (fun t c =>
    t.modCore c (fun k => { Core.reset with lastBeat := k.lastBeat, stopped := k.stopped, lost := k.lost, spare := k.spare })) s
  stations.foldl (fun t st => t.modStation st Station.loaded) s1

/-- The context that comes in, if any; a request that named it is then done. -/
def State.comeIn (s : State) (incoming : Option Nat) : State :=
  match incoming with
  | none => s.pmDone
  | some c =>
    match s.ctxAt c with
    | none => s.pmDone
    | some x =>
      match x.saved with
      | none => s.pmDone
      | some v => (s.restore c x v).pmDone

/-- PEAL: at its tick or later the save begins and the partition drains; once nothing of it is under way it is saved, and the
incoming context is restored (R235). What only another device can answer is waited for. -/
def execPeal (ctx : Nat) (s : State) : Res :=
  match s.ctxAt ctx with
  | none => .next s
  | some x =>
    match x.peal with
    | none => .next s
    | some p =>
      if s.time.toNat < p.tick then .next s
      else if !x.running then .next ((s.setCtx ctx { x with peal := none }).comeIn p.incoming)
      else
        let s1 := (s.markHeader ctx x p.tick 1).drain ctx p.tick x.stations
        if s1.busy ctx x.stations then .next s1
        else
          match s1.ctxAt ctx with
          | none => .next s1
          | some y =>
            let s2 := (s1.saveOut ctx y p.tick).vacate y.stations
            let s3 : State := if p.unload then { s2 with ctxs := aerase s2.ctxs ctx } else s2
            .next (s3.comeIn p.incoming)

/-! ### Switch, unload, unpause (R235, R299, R300) -/

/-- The error of a request about contexts: 4 not resident; 1 an outgoing context that does not run on the named stations or
an incoming one that is not switched out from them; 3 a station of another partition (log entry 37). -/
def State.pmFault (s : State) (p : PmBlock) (out inc : Option Nat) : Nat :=
  let resident (c : Option Nat) : Bool := (c.map s.loaded).getD true
  let same (x : Context) : Bool := sortedSet x.stations == p.stations
  let outOk := ((out.bind s.ctxAt).map (fun x => x.running && x.peal.isNone && same x)).getD true
  let incOk := ((inc.bind s.ctxAt).map (fun x => !x.running && x.peal.isNone && same x)).getD true
  if !(resident out && resident inc) then 4
  else if !(outOk && incOk) then 1
  else if s.stationTaken p.stations (out.toList ++ inc.toList) then 3
  else 0

/-- Schedules a Peal on a context. -/
def State.schedulePeal (s : State) (ctx : Nat) (p : Peal) : State := s.modCtx ctx (fun x => { x with peal := some p })

/-- A switch: the Peal at T, or 4,096 ticks after the request (R235). -/
def State.switch (s : State) (p : PmBlock) : State :=
  let out := if p.onone then none else some p.outctx
  let inc := if p.inone then none else some p.inctx
  if s.ctxs.any (fun c => c.2.peal.isSome) then s
  else if s.pmFault p out inc ≠ 0 then s.pmError (s.pmFault p out inc)
  else
    match out, inc with
    | some o, _ => s.schedulePeal o { tick := max p.tick.toNat (s.time.toNat + 4096), incoming := inc, unload := false }
    | none, some i => s.schedulePeal i { tick := max p.tick.toNat (s.time.toNat + 4096), incoming := inc, unload := false }
    | none, none => s.pmError 1

/-- PARTITION_SWITCH. -/
def execPartitionSwitch (s : State) : Res := s.pmAct 2 (fun p => s.switch p)

/-- An unload: a running partition is saved by a Peal at once, then the context is removed (R299). -/
def State.unload (s : State) (p : PmBlock) : State :=
  match s.ctxAt p.outctx with
  | none => s.pmError 4
  | some x =>
    if sortedSet x.stations != p.stations then s.pmError 1
    else if x.peal.isSome then s
    else if x.running then s.schedulePeal p.outctx { tick := s.time.toNat, incoming := none, unload := true }
    else ({ s with ctxs := aerase s.ctxs p.outctx } : State).pmDone

/-- PARTITION_UNLOAD. -/
def execPartitionUnload (s : State) : Res := s.pmAct 3 (fun p => s.unload p)

/-- An unpause: a resident context that is switched out starts (R299). -/
def State.unpause (s : State) (p : PmBlock) : State :=
  if s.pmFault p none (some p.inctx) ≠ 0 then s.pmError (s.pmFault p none (some p.inctx)) else s.comeIn (some p.inctx)

/-- PARTITION_UNPAUSE. -/
def execPartitionUnpause (s : State) : Res := s.pmAct 4 (fun p => s.unpause p)

/-! ### Core loss and recovery (R233, R237 to R239) -/

/-- HEARTBEAT: every 2^16 ticks a core that has not stopped sends one (R237). -/
def execHeartbeat (core : Nat) (s : State) : Res :=
  let k := s.coreAt core
  if k.stopped ∨ k.lost ∨ s.time.toNat < k.lastBeat + 65536 then .next s
  else .next (s.setCore core { k with lastBeat := s.time.toNat })

/-- CORE_STATE_STOP: an uncorrectable core-state error logs a record of kind PARITY and sub 4; the core stops (R233,
R234). -/
def execCoreStateStop (core : Nat) (addr : Word) (s : State) : Res :=
  let ctx := (s.ctxOfStation (stationOfCore core)).getD 0
  .next ((s.logError 20 4 ctx (BitVec.ofNat 32 (s.place { core := core, slot := 0 })) addr.toNat).modCore core (fun k =>
    { k with stopped := true }))

/-- What the threads of a lost core issued goes to no thread. -/
def orphan (core : Nat) (t : ThreadId) : ThreadId := if t.core = core ∧ t.slot < 64 then { t with slot := t.slot + 64 } else t

/-- Answers PEERGONE with sub 2 to the peer requests parked at a lost scratchpad, and removes the lost core's own parked
requests wherever they are parked (R238). -/
def State.clearParked (s : State) (core : Nat) : State :=
  let own (x : Access) : Bool := match x.issuer with
    | .thread t => t.core == core && (x.stage == .parked || x.stage == .refused)
    | _ => false
  let gone := (s.accesses.filter own).map Access.id
  let here := (s.coreAt core).park
  { s with
    accesses := (s.accesses.filter (fun x => !own x)).map (fun x =>
      if here.contains x.id then { x with stage := .answered 9 2 0 0 } else x)
    cores := s.cores.map (fun p => (p.1, { p.2 with park := if p.1 = core then [] else p.2.park.filter (fun i => !gone.contains i) }))
    stations := s.stations.map (fun p => (p.1, { p.2 with park := p.2.park.filter (fun i => !gone.contains i) })) }

/-- What a lost core's threads have under way belongs to no thread any more (R183, R207, R267). -/
def State.orphanWork (s : State) (core : Nat) : State :=
  { s with
    accesses := s.accesses.map (fun x => match x.issuer with
      | .thread t => { x with issuer := .thread (orphan core t) }
      | _ => x)
    flights := s.flights.map (fun f => { f with sender := f.sender.map (orphan core) })
    cores := s.cores.map (fun p => if p.1 = core then
        (p.1, { p.2 with rows := p.2.rows.map (fun c => { c with thread := orphan core c.thread }) }) else p)
    stations := s.stations.map (fun p => (p.1, { p.2 with
      copies := p.2.copies.map (fun c => { c with thread := orphan core c.thread })
      array := p.2.array.map (fun c => { c with thread := orphan core c.thread })
      sems := p.2.sems.map (fun m => (m.1, { m.2 with waiters := m.2.waiters.filter (fun t => t.core != core) })) })) }

/-- Messages that were refused by, or have an entry reserved in, an inbox of a lost core are returned (R238). -/
def State.returnRefused (s : State) (core : Nat) : State :=
  (s.flights.filter (fun f => (threadOfPlace f.msg.dst.toNat).core == core &&
    fld f.msg.dst.toNat 31 18 == s.pkg.device.toNat && f.stage != .travelling && f.stage != .offDevice)).foldl (fun s f => s.sendBack f) s

/-- Whether a core of a die layer that fails now is the layer's third: two places of the layer have a spare already, or are
lost and will take one, which is theirs (R20, R21; log entry 40). -/
def State.thirdLoss (s : State) (core : Nat) : Bool :=
  let layer := layerOf (stationOfCore core)
  let waiting := s.cores.filter (fun p =>
    p.2.lost && p.1 != core && layerOf (stationOfCore p.1) == layer && !s.pkg.deadPlaces.contains p.1)
  decide (2 ≤ agetD s.pkg.spares layer 0 + waiting.length)

/-- A place without a spare stays dead (R21). -/
def State.markDead (s : State) (core : Nat) : State :=
  { s with pkg := { s.pkg with deadPlaces := insertNat core s.pkg.deadPlaces } }

/-- The commands of a lost core that have started, or whose start tick has come, have read their lists (R205, R207). -/
def State.readLost (s : State) (core : Nat) : State :=
  let st := stationOfCore core
  ((s.stationAt st).copies.filter (fun c => c.thread.core == core && (c.started || decide (c.startAt.getD 0 ≤ s.time.toNat)))).foldl
    (fun s c => s.readLists st c c.listWords) s

/-- The slots that a lost core's threads claimed become releasing (R267). -/
def Station.releaseClaims (k : Station) (core : Nat) : Station :=
  ({ k with slots := k.slots.map (fun p =>
      if (p.2.claim.map ThreadId.core) == some core then (p.1, { p.2 with claim := none, state := .releasing })
      else p) } : Station).freeSlots

/-- A place is declared dead: its threads' slots become releasing (R21, R267). When that is, for a place without a spare, is log
entry 40. -/
def State.declareDead (s : State) (core : Nat) : State :=
  (s.markDead core).modStation (stationOfCore core) (fun k => k.releaseClaims core)

/-- CORE_LOST: after three missed heartbeats the core is declared lost (R237, R238); the third of a layer leaves its place
dead (R21, R267). -/
def execCoreLost (core : Nat) (s : State) : Res :=
  let k := s.coreAt core
  if k.lost ∨ s.time.toNat < k.lastBeat + 3 * 65536 then .next s
  else
    let s1 := ((s.readLost core).knell core).clearParked core
    let s2 := ((s1.orphanWork core).modCore core (fun k => { k with lost := true })).returnRefused core
    .next (if s.thirdLoss core then s2.declareDead core else s2).rewriteTable

/-- Whether a lost core holds a placement that has not executed DONE. -/
def NodeState.replay (n : NodeState) (core now : Nat) : NodeState :=
  let mine (p : Placed) : Bool := p.thread.core == core && !p.finished && !p.abandoned
  { n with
    placed := n.placed.filter (fun p => !mine p)
    again := n.again ++ (n.placed.filter mine).map (fun p =>
      { inst := p.inst, contributed := p.contributed, prio := n.image.prio, since := now }) }

/-- Step 5 of R239: the lost core's instances are pending again (R52). -/
def Context.replay (x : Context) (core now : Nat) : Context :=
  { x with graphs := x.graphs.map (fun g => { g with nodes := g.nodes.map (fun n => n.replay core now) }) }

/-- Step 4 of R239. -/
def Context.resetUnits (x : Context) (units : Nat) : Context :=
  { x with barriers := x.barriers.map (fun b => if bitAt units b.1 then (b.1, { b.2 with arrived := [] }) else b) }

/-- Steps 1 to 3 of R239: a spare with the lost core's threads as the loader created them and a zero scratchpad. What
the engines still owe, and the counters, stay with the place. -/
def State.spareCore (s : State) (core ctx tag : Nat) : Core :=
  let k := s.coreAt core
  { Core.reset with
    rotLen := k.loadRot, loadRot := k.loadRot, rf := s.freeRegs core, rows := k.rows, counts := k.counts, bins := k.bins
    threads := k.threads.map (fun p => (p.1,
      Thread.create p.2.win.wbase p.2.win.wsize p.2.entryMode p.2.entry p.2.entryTvec (BitVec.ofNat 8 tag)
        (BitVec.ofNat 6 ctx)))
    lastBeat := s.time.toNat, spare := true }

/-- REMAP_COMPLETE: firmware performs the recovery that the remap field asked for (R239). A place that has been declared dead takes
no spare: those of its layer are others' (R21; log entry 40). A place that is not lost keeps its core (log entry 40). DESIGN CHOICE:
a spare that is itself lost later still counts in the header's spares field, because R22 does not say whether "in use" ends with its
loss, and a layer has no third spare either way. -/
def execRemapComplete (ctx : Nat) (s0 : State) : Res :=
  let s := s0.settleSteps
  match s.ctxAt ctx with
  | none => .next s
  | some x =>
    if x.page.rstat ≠ 1 then .next s
    else
      let core := (threadOfPlace x.page.rplace.toNat).core
      let finish (s : State) (stat : Nat) : State :=
        s.modCtx ctx (fun x => { x.resetUnits x.page.runits.toNat with page := { x.page with rstat := stat } })
      if (s.coreAt core).lost = false ∨ x.stations.contains (stationOfCore core) = false then .next (finish s 2)
      else
        let layer := layerOf (stationOfCore core)
        let s1 := ((finish s 2).modCtx ctx (fun x => x.replay core s.time.toNat)).modStation (stationOfCore core) (fun k =>
          k.releaseClaims core)
        if agetD s.pkg.spares layer 0 < 2 ∧ s.pkg.deadPlaces.contains core = false then
          let s2 := s1.setCore core (s1.spareCore core ctx x.tag)
          .next ({ s2 with pkg := { s2.pkg with
            spares := aset s2.pkg.spares layer (agetD s2.pkg.spares layer 0 + 1) } } : State).rewriteTable
        else
          .next ((finish (s1.declareDead core) 3).rewriteTable)

end Sys2Proof.Machine
end

