-- ==== Sys2Proof/Machine/Security.lean ====
section
/-! DEFINITION. Key tags, security requests, attestation, boot, supply and clock (25_system R317 to R330). -/

namespace Sys2Proof.Machine

/-! ### Requests (R321) -/

def State.modSec (s : State) (f : Security → Security) : State := { s with sec := f s.sec }

/-- A request ends with a status and a result. -/
def State.secEnd (s : State) (status : Nat) (res : Word) : State :=
  s.modSec (fun c => { c with go := false, status := status, res := res })

/-- Performs the pending request of a kind. -/
def State.secAct (s : State) (kind : Nat) (act : State) : Res := if s.sec.go && s.sec.kind == kind then .next act else .next s

/-- The tag that a request names. -/
def Security.argTag (c : Security) : Nat := wfld c.arg 7 0

/-- KEYSET: a free tag takes a fresh key (R317). -/
def execKeyset (s : State) : Res :=
  s.secAct 1
    (if s.sec.tagState s.sec.argTag = .free then
       (s.modSec (fun c => { c with tags := aset c.tags c.argTag .live })).secEnd 0 0
     else s.secEnd 3 0)

/-- Whether a tag is in use (R319): by a valid record, by bar2tag, by the context of an enabled queue. -/
def State.tagInUse (s : State) (tag : Nat) : Bool :=
  let recTag (c : Nat) : Nat := s.phys.ram.readLE (s.host.ctxtab + 64 * c + 32) 1
  (List.range 64).any (fun c => s.recordValid c && recTag c == tag) || s.host.bar2tag == tag ||
    s.host.queues.any (fun q => q.2.en && recTag q.2.ctx == tag)

/-- The old line comes back from DRAM. -/
def Phys.revert (p : Phys) (line : Nat) : Phys :=
  match aget p.old line with
  | none => p
  | some o =>
    { p with
      ram := p.ram.writeBytes (line * 64) o.bytes, tags := aset p.tags line o.tag, old := aerase p.old line
      empty := sortedSet (o.empty ++ p.empty.filter (fun w => w / 8 != line)) }

/-- Whether n bytes touch a line of a tag. -/
def Phys.touchesTag (p : Phys) (tag pa n : Nat) : Bool := (linesOf pa n).any (fun l => p.lineTag l == tag)

/-- Tick D (R319): the slices lose every line of the tag, dirty ones without a write-back, with what they hold unfolded and what is
still on its way under the tag; and the key is destroyed. -/
def State.killTag (s : State) (tag : Nat) : State :=
  let mine (x : SliceLine) : Bool := s.phys.lineTag x.line == tag
  let dirty := s.stations.flatMap (fun p => ((p.2.slice.filter (fun x => mine x && x.dirty))).map SliceLine.line)
  let s1 : State := { s with
    stations := s.stations.map (fun p => (p.1, { p.2 with slice := p.2.slice.filter (fun x => !mine x) }))
    folds := s.folds.filter (fun f => !s.phys.touchesTag tag f.pa f.row.length)
    replicas := s.replicas.filter (fun r => r.agent.tag != tag)
    lates := s.lates.filter (fun l => l.agent.tag != tag)
    phys := dirty.foldl Phys.revert s.phys }
  s1.modSec (fun c => { c with tags := aset c.tags tag .dead })

/-- KEYKILL: refused in use; else it waits for the channels that were busy and takes effect in one tick (R319). -/
def execKeykill (s : State) : Res :=
  s.secAct 2
    (if s.sec.tagState s.sec.argTag ≠ .live then s.secEnd 3 0
     else if s.tagInUse s.sec.argTag then s.secEnd 4 0
     else if s.sec.killWaits ≠ [] then s
     else (s.killTag s.sec.argTag).secEnd 0 s.time)

/-- SWEEP: starts the scan of a dead tag's lines (R320). -/
def execSweep (s : State) : Res :=
  s.secAct 3
    (if s.sec.tagState s.sec.argTag ≠ .dead then s.secEnd 3 0
     else s.modSec (fun c => { c with sweeping := some c.argTag }))

/-- The lines that carry a tag. -/
def Phys.linesOfTag (p : Phys) (tag : Nat) : List Nat := (p.tags.filter (fun x => x.2 == tag)).map Prod.fst

/-- A scrub write of a line: zero, tag 0, full, no poison. -/
def Phys.scrub (p : Phys) (line : Nat) : Phys :=
  { p with
    ram := p.ram.clear (line * 64) 64, tags := aerase p.tags line, empty := p.empty.filter (fun w => w / 8 != line)
    poison := p.poison.filter (· != line), uncorr := p.uncorr.filter (· != line), old := aerase p.old line }

/-- The channels that waited for a sweep go on behind its end (R320). -/
def HostIf.release (h : HostIf) : HostIf :=
  { h with channels := h.channels.map (fun c => (c.1, { c.2 with waits := false })) }

/-- SWEEP_COMPLETE: every line of the tag has been rewritten, what was pending on it folded before (R186), and the tag is free
(R320). -/
def execSweepComplete (s : State) : Res :=
  match s.sec.sweeping with
  | none => .next s
  | some tag =>
    let lines := s.phys.linesOfTag tag
    let s1 := (lines.foldl (fun s l => (s.settleFills (l * 64) 64).foldRange (l * 64) 64) s).modPhys (fun p => lines.foldl Phys.scrub p)
    .next (({ s1 with host := s1.host.release } : State).modSec (fun c => { c with tags := aset c.tags tag .free, sweeping := none }) |>.secEnd 0
      (BitVec.ofNat 64 lines.length))

/-! ### Attestation (R323) -/

/-- Exactly n bytes. -/
def fitBytes (n : Nat) (bs : List Byte) : List Byte := (bs ++ List.replicate n 0).take n

/-- Bytes 0 to 199 of a report. -/
def State.reportBody (s : State) (ctx : Option Nat) (nonce : List Byte) : List Byte :=
  bytesLE 8 (2 ^ 48 + s.pkg.device.toNat * 2 ^ 32 + s.sec.bootCount.toNat * 65536 + ctx.getD 0xFF) ++ fitBytes 48 nonce ++
    fitBytes 48 s.sec.fwMeasure ++ fitBytes 48 s.sec.cfgMeasure ++
    fitBytes 48 (((ctx.bind s.ctxAt).map Context.measurement).getD [])

/-- The whole report. -/
def State.report (s : State) (ctx : Option Nat) (nonce : List Byte) : List Byte :=
  s.reportBody ctx nonce ++ fitBytes 96 (Config.identitySignature (sha384 (s.reportBody ctx nonce)))

/-- Whether n bytes lie in the map, line by line. -/
def State.rangeInMap (s : State) (pa n : Nat) : Bool := (linesOf pa n).all (fun l => s.inMap (l * 64))

/-- ATTEST: reads the nonce and writes the report under tag 0; a context that is not loaded, or memory that cannot be
read or written so, gives status 5 (R323). -/
def execAttest (s : State) : Res :=
  let ctx := if s.sec.arg.getLsbD 8 then none else some (wfld s.sec.arg 5 0)
  s.secAct 4
    (if ((ctx.map s.loaded).getD true) = false ∨ s.rangeInMap s.sec.addr 360 = false then s.secEnd 5 0
     else
       let s1 := (((s.settleFills s.sec.addr 360).foldRange s.sec.addr 360).findErrors s.sec.addr 48 0 0xFFFFFFFF#32).sliceTouch s.sec.addr 48 false false
       match s1.tagRead 0 s.sec.addr 48 with
       | .error _ => s1.secEnd 5 0
       | .ok nonce =>
         match (s1.sliceTouch (s.sec.addr + 64) 296 true false).tagWrite 0 (s.sec.addr + 64) (s1.report ctx nonce) 0 0xFFFFFFFF#32 with
         | .error _ => s1.secEnd 5 0
         | .ok s2 => s2.secEnd 0 0)

/-! ### Supply and clock (R329, R330) -/

/-- The highest clock for a supply. -/
def clockLimit (mv : Nat) : Nat :=
  if mv ≤ 450 then 1500 + 8 * (mv - 400)
  else if mv ≤ 550 then 1900 + 5 * (mv - 450)
  else 2400 + 4 * (mv - 550)

def powerReticle (arg : Word) : Nat := wfld arg 49 48
def powerMv (arg : Word) : Nat := wfld arg 47 32
def powerMhz (arg : Word) : Nat := wfld arg 31 16

/-- Whether POWER's values are out of range. -/
def powerBad (arg : Word) : Bool :=
  decide (powerMv arg < 400) || decide (600 < powerMv arg) || powerMv arg % 10 != 0 || decide (powerMhz arg < 400) ||
    powerMhz arg % 25 != 0 || decide (clockLimit (powerMv arg) < powerMhz arg)

def Security.pwrAt (c : Security) (r : Nat) : PwrReg := agetD c.pwr r PwrReg.reset

/-- POWER: the change begins; the reticle runs at the lower of the two clocks until it ends, and where that lowers its clock,
firmware rewrites the table at once (R23). A supply that rises does so at once, before the clock; one that falls does so at the
end, behind the clock (R329; log entry 41). -/
def execPower (s : State) : Res :=
  s.secAct 5
    (if powerBad s.sec.arg then s.secEnd 2 0
     else
       let arg := s.sec.arg
       let p := s.sec.pwrAt (powerReticle arg)
       if p.changing then s
       else
         let s1 := s.modSec (fun c => { c with pwr := aset c.pwr (powerReticle arg) { p with
           mhz := min p.mhz (powerMhz arg), mv := max p.mv (powerMv arg), changing := true
           state := if p.state = 2 then 2 else 1, targetMhz := powerMhz arg, targetMv := powerMv arg } })
         if powerMhz arg < p.mhz then s1.rewriteTable else s1)

/-- POWER_CHANGE_COMPLETE: the new clock and supply stand, and the table is rewritten; a thermally limited reticle goes on to the
new clock in steps (R330). -/
def execPowerChangeComplete (reticle : Nat) (s : State) : Res :=
  let p := s.sec.pwrAt reticle
  if p.changing = false then .next s
  else
    let s1 := (s.modSec (fun c => { c with
      pwr := aset c.pwr reticle { p with
        mhz := if p.state = 2 then p.mhz else p.targetMhz, mv := p.targetMv, changing := false
        state := if p.state = 2 then 2 else 0 } })).rewriteTable
    if s.sec.go && s.sec.kind == 5 && powerReticle s.sec.arg == reticle then .next (s1.secEnd 0 0) else .next s1

/-- THERMAL_THROTTLE: one step of 100 MHz down; the clock to return to is kept, that of a POWER under way included (R330). -/
def execThermalThrottle (reticle : Nat) (s : State) : Res :=
  let p := s.sec.pwrAt reticle
  .next (s.modSec (fun c => { c with
    pwr := aset c.pwr reticle { p with
      mhz := p.mhz - 100, state := 2, targetMhz := if p.state = 0 then p.mhz else p.targetMhz } })).rewriteTable

/-- THERMAL_RECOVER: one step of 100 MHz up, to steady at the clock before; not while a POWER keeps the lower clock (R329). -/
def execThermalRecover (reticle : Nat) (s : State) : Res :=
  let p := s.sec.pwrAt reticle
  if p.state ≠ 2 ∨ p.changing then .next s
  else
    let mhz := min p.targetMhz (p.mhz + 100)
    .next (s.modSec (fun c => { c with
      pwr := aset c.pwr reticle { p with mhz := mhz, state := if mhz = p.targetMhz then 0 else 2 } })).rewriteTable

/-- JCLR: takes effect at the next boot (R325). -/
def execJclr (s : State) : Res := s.secAct 6 ((s.modSec (fun c => { c with jclr := true })).secEnd 0 0)

/-! ### Boot (R324 to R327) -/

/-- Appends a journal entry; a step that failed has a cause (R325, R326). -/
def State.journal (s : State) (step outcome : Nat) (detail : Word) : State :=
  s.modSec (fun c =>
    let e : JournalEntry :=
      { boot := c.bootCount, step := step, outcome := outcome
        cause := if outcome = 1 then Config.firmwareCause c.bootCount.toNat step else 0, detail := detail }
    { c with journal := aset c.journal c.jtail e, jtail := (c.jtail + 1) % 256 })

/-- The failed cores of a layer, in ascending order. -/
def failedIn (b : BootInput) (layer : Nat) : List Nat :=
  sortedSet (b.badCores.filter (fun c => decide (c < 768) && layerOf (stationOfCore c) == layer))

/-- Step 3: in each layer the first two failed cores move to spares, and the places of any others stay dead. -/
def State.testCores (s : State) (b : BootInput) : State :=
  (List.range 16).foldl (fun s l =>
    let bad := failedIn b l
    let s1 := (bad.take 2).foldl (fun s c => s.modCore c (fun k => { k with spare := true })) s
    let s2 := (bad.drop 2).foldl (fun s c => s.modCore c (fun k => { k with lost := true })) s1
    { s2 with pkg := { s2.pkg with
        spares := aset s2.pkg.spares l (min 2 bad.length)
        deadPlaces := (bad.drop 2).foldl (fun a c => insertNat c a) s2.pkg.deadPlaces } }) s

/-- Step 2 at a clock. -/
def State.setClocks (s : State) (mhz : Nat) : State :=
  s.modSec (fun c => { c with pwr := (List.range 4).map (fun r =>
    (r, { mhz := mhz, mv := 450, state := 0, changing := false, targetMhz := mhz, targetMv := 450 })) })

/-- Lines that fail the scrub are written poisoned and logged (log entry 34). -/
def State.poisonLines (s : State) : List Nat → State
  | [] => s
  | l :: r =>
    (({ s with phys := { s.phys with poison := insertNat l s.phys.poison } } : State).logError 10 3 0 0xFFFFFFFF#32 (l * 64)).poisonLines r

/-- Step 6: both tiers zero, tag 0, full, with fresh ECC. -/
def State.scrubAll (s : State) : State := s.modPhys (fun p => { Phys.reset with host := p.host })

/-- Ports that did not train are disabled. -/
def State.disablePorts (s : State) (good : Nat) : State :=
  (List.range 24).foldl (fun s q => if bitAt good q then s else s.setPort q { s.portAt q with failed := true }) s

/-- The configuration measurement (R322): this boot's entries in order, then memmap. -/
def State.configInput (s : State) : List Byte :=
  ((List.range 256).filterMap (fun i => aget s.sec.journal ((s.sec.jtail + i) % 256))).flatMap (fun e =>
    if e.boot = s.sec.bootCount then bytesLE 8 (e.word 0).toNat ++ bytesLE 8 (e.word 1).toNat else []) ++
    bytesLE 8 s.sec.memmap.toNat

/-- What a step does, in the normal way or the alternative one. -/
def State.bootAct (s : State) (b : BootInput) (step : Nat) (normal : Bool) : State :=
  match step with
  | 1 => s.modSec (fun c => { c with fwMeasure := sha384 (Config.firmwareImage c.bootCount.toNat) })
  | 2 => s.setClocks (if normal then 1900 else 1500)
  | 3 => s.testCores b
  | 4 => s.modSec (fun c => { c with memStacks := if normal then 0xFFF else b.goodStacks })
  | 5 => s.modSec (fun c => { c with memCap := normal })
  | 6 => if normal then s.scrubAll else s.scrubAll.poisonLines b.badLines
  | 8 => if normal then s else s.disablePorts b.goodPorts.toNat
  | 9 => { s with pkg := { s.pkg with inPod := b.inPod, device := if b.inPod then b.device else 0 } }
  | 10 => s.writeTable.modSec (fun c => { c with cfgMeasure := sha384 s.configInput, booted := true })
  | _ => s

/-- The detail word of a step's entry (R326). -/
def bootDetail (b : BootInput) (step : Nat) (normal : Bool) : Word :=
  if normal then 0
  else if step = 4 then BitVec.ofNat 64 (4095 - b.goodStacks.toNat)
  else if step = 8 then BitVec.ofNat 64 (2 ^ 24 - 1 - b.goodPorts.toNat)
  else 0

/-- Whether a step succeeds: the environment says so; more than two failed cores in a layer fail step 3's normal way; steps
1 and 10 have no alternative way. -/
def stepWorks (b : BootInput) (step : Nat) (normal : Bool) : Bool :=
  if normal then b.normalOk.getD (step - 1) true && (step != 3 || (List.range 16).all (fun l => decide ((failedIn b l).length ≤ 2)))
  else b.altOk.getD (step - 1) true && step != 1 && step != 10

/-- The device in recovery (R325). -/
def State.recover (s : State) : State := s.modSec (fun c => { c with recovery := true, booted := false })

/-- What stays over a reset: the journal and what it remembers, host memory, and the model's own fields. -/
def State.restart (s : State) : State :=
  { State.reset with
    schedule := s.schedule, focus := s.focus, cur := s.cur, free := s.free, nextId := s.nextId, hostData := s.hostData
    phys := { s.phys with old := [] }
    sec := { Security.reset with
      journal := s.sec.journal, jtail := s.sec.jtail, bootCount := s.sec.bootCount, failedSteps := s.sec.failedSteps
      jclr := s.sec.jclr } }

/-- The boot steps from a list on (R324, R325): a step that failed on an earlier boot is skipped if it is optional and
done its alternative way if it is mandatory; a new failure is journalled and resets the device, but at step 1, or in an
alternative way, it leads to recovery. -/
def State.bootSteps (s : State) (b : BootInput) : List Nat → State
  | [] => s
  | n :: rest =>
    let before := s.sec.failedSteps.contains n
    if before && n == 9 then (s.journal 9 2 0).bootSteps b rest
    else if before then
      if stepWorks b n false then ((s.journal n 3 (bootDetail b n false)).bootAct b n false).bootSteps b rest
      else (s.journal n 1 (bootDetail b n false)).recover
    else if stepWorks b n true then ((s.bootAct b n true).journal n 0 (bootDetail b n true)).bootSteps b rest
    else if n = 1 then (s.journal n 1 0).recover
    else
      ((s.journal n 1 0).modSec (fun c => { c with failedSteps := insertNat n c.failedSteps })).restart

/-- A boot: the count rises; a JCLR before it has every step run normally. -/
def State.boot (s : State) (b : BootInput) : State :=
  (s.restart.modSec (fun c => { c with
    bootCount := c.bootCount + 1, failedSteps := if c.jclr then [] else c.failedSteps, jclr := false })).bootSteps b
    [1, 2, 3, 4, 5, 6, 7, 8, 9, 10]

/-- BOOT. -/
def execBoot (b : BootInput) (s : State) : Res := .next (s.boot b)

/-- RECOVERY_IMAGE: in recovery the mailbox takes a new image and the device reboots (R325). -/
def execRecoveryImage (b : BootInput) (s : State) : Res := if s.sec.recovery then .next (s.boot b) else .next s

/-! ### Upsets and evictions -/

/-- What an upset or an eviction that no rule schedules does (R139, R149, R228, R231, R233). -/
def State.upset (s : State) (u : Upset) : State :=
  match u with
  | .regParity core entry => s.modCore core (fun k => { k with rfBad := insertNat entry k.rfBad })
  | .spadParity core word => s.modCore core (fun k => { k with spadBad := insertNat word k.spadBad })
  | .dramPoison line => s.modPhys (fun p => { p with uncorr := insertNat line p.uncorr })
  | .icacheEvict core line => s.modCore core (fun k => { k with icache := k.icache.filter (fun x => x.base / 64 != line) })
  | .tlbDrop station page => s.modXlat station (fun x => { x with
      tlb := x.tlb.filter (fun t => t.vpage * 2 ^ (pageBits t.level - 16) / 2 ^ (pageBits t.level - 16) != page / 2 ^ (pageBits t.level - 16)) })
  | .hostStore addr bytes => s.modPhys (fun p => { p with host := p.host.writeBytes addr bytes })

end Sys2Proof.Machine
end

