-- ==== Sys2Proof/Machine/Dispatch.lean ====
section
/-! DEFINITION. One arm for each instruction and step of the opcode table: a direct call of its meaning. -/

namespace Sys2Proof.Machine

/-- What an instruction or step does. -/
def exec (i : Instr) (s : State) : Host.Outcome State Fault Refusal :=
  match i with
  | .add r => Sys2Proof.Machine.execAdd r s
  | .sub r => Sys2Proof.Machine.execSub r s
  | .mul r => Sys2Proof.Machine.execMul r s
  | .mulh r => Sys2Proof.Machine.execMulh r s
  | .mulhu r => Sys2Proof.Machine.execMulhu r s
  | .mulhsu r => Sys2Proof.Machine.execMulhsu r s
  | .madd r => Sys2Proof.Machine.execMadd r s
  | .div r => Sys2Proof.Machine.execDiv r s
  | .divu r => Sys2Proof.Machine.execDivu r s
  | .rem r => Sys2Proof.Machine.execRem r s
  | .remu r => Sys2Proof.Machine.execRemu r s
  | .and r => Sys2Proof.Machine.execAnd r s
  | .or r => Sys2Proof.Machine.execOr r s
  | .xor r => Sys2Proof.Machine.execXor r s
  | .andn r => Sys2Proof.Machine.execAndn r s
  | .orn r => Sys2Proof.Machine.execOrn r s
  | .shl r => Sys2Proof.Machine.execShl r s
  | .shr r => Sys2Proof.Machine.execShr r s
  | .sar r => Sys2Proof.Machine.execSar r s
  | .rotl r => Sys2Proof.Machine.execRotl r s
  | .min r => Sys2Proof.Machine.execMin r s
  | .max r => Sys2Proof.Machine.execMax r s
  | .minu r => Sys2Proof.Machine.execMinu r s
  | .maxu r => Sys2Proof.Machine.execMaxu r s
  | .slt r => Sys2Proof.Machine.execSlt r s
  | .sltu r => Sys2Proof.Machine.execSltu r s
  | .sel r => Sys2Proof.Machine.execSel r s
  | .clz r => Sys2Proof.Machine.execClz r s
  | .ctz r => Sys2Proof.Machine.execCtz r s
  | .popc r => Sys2Proof.Machine.execPopc r s
  | .bswap r => Sys2Proof.Machine.execBswap r s
  | .sextB r => Sys2Proof.Machine.execSextB r s
  | .sextH r => Sys2Proof.Machine.execSextH r s
  | .sextW r => Sys2Proof.Machine.execSextW r s
  | .zextB r => Sys2Proof.Machine.execZextB r s
  | .zextH r => Sys2Proof.Machine.execZextH r s
  | .zextW r => Sys2Proof.Machine.execZextW r s
  | .hashm r => Sys2Proof.Machine.execHashm r s
  | .addi r => Sys2Proof.Machine.execAddi r s
  | .andi r => Sys2Proof.Machine.execAndi r s
  | .ori r => Sys2Proof.Machine.execOri r s
  | .xori r => Sys2Proof.Machine.execXori r s
  | .slti r => Sys2Proof.Machine.execSlti r s
  | .sltiu r => Sys2Proof.Machine.execSltiu r s
  | .addiLong r => Sys2Proof.Machine.execAddiLong r s
  | .andiLong r => Sys2Proof.Machine.execAndiLong r s
  | .oriLong r => Sys2Proof.Machine.execOriLong r s
  | .xoriLong r => Sys2Proof.Machine.execXoriLong r s
  | .sltiLong r => Sys2Proof.Machine.execSltiLong r s
  | .sltiuLong r => Sys2Proof.Machine.execSltiuLong r s
  | .luiH d imm => Sys2Proof.Machine.execLuiH d imm s
  | .shli r => Sys2Proof.Machine.execShli r s
  | .shri r => Sys2Proof.Machine.execShri r s
  | .sari r => Sys2Proof.Machine.execSari r s
  | .rotli r => Sys2Proof.Machine.execRotli r s
  | .lui r => Sys2Proof.Machine.execLui r s
  | .addpc r => Sys2Proof.Machine.execAddpc r s
  | .bfx r => Sys2Proof.Machine.execBfx r s
  | .bfxu r => Sys2Proof.Machine.execBfxu r s
  | .bfi r => Sys2Proof.Machine.execBfi r s
  | .fadd r => Sys2Proof.Machine.execFadd r s
  | .fsub r => Sys2Proof.Machine.execFsub r s
  | .fmul r => Sys2Proof.Machine.execFmul r s
  | .fma r => Sys2Proof.Machine.execFma r s
  | .fdiv r => Sys2Proof.Machine.execFdiv r s
  | .fsqrt r => Sys2Proof.Machine.execFsqrt r s
  | .fmin r => Sys2Proof.Machine.execFmin r s
  | .fmax r => Sys2Proof.Machine.execFmax r s
  | .fsgn r => Sys2Proof.Machine.execFsgn r s
  | .fcmp r cond => Sys2Proof.Machine.execFcmp r cond s
  | .fclass r => Sys2Proof.Machine.execFclass r s
  | .fcvt r => Sys2Proof.Machine.execFcvt r s
  | .fround r => Sys2Proof.Machine.execFround r s
  | .bl r => Sys2Proof.Machine.execBl r s
  | .jr a => Sys2Proof.Machine.execJr a s
  | .jlr r => Sys2Proof.Machine.execJlr r s
  | .beq r => Sys2Proof.Machine.execBeq r s
  | .bne r => Sys2Proof.Machine.execBne r s
  | .blt r => Sys2Proof.Machine.execBlt r s
  | .bge r => Sys2Proof.Machine.execBge r s
  | .bltu r => Sys2Proof.Machine.execBltu r s
  | .bgeu r => Sys2Proof.Machine.execBgeu r s
  | .xborrow r => Sys2Proof.Machine.execXborrow r s
  | .xreturn => Sys2Proof.Machine.execXreturn s
  | .xget r => Sys2Proof.Machine.execXget r s
  | .xput j a => Sys2Proof.Machine.execXput j a s
  | .ldB m => Sys2Proof.Machine.execLdB m s
  | .ldH m => Sys2Proof.Machine.execLdH m s
  | .ldW m => Sys2Proof.Machine.execLdW m s
  | .ldD m => Sys2Proof.Machine.execLdD m s
  | .ldBu m => Sys2Proof.Machine.execLdBu m s
  | .ldHu m => Sys2Proof.Machine.execLdHu m s
  | .ldWu m => Sys2Proof.Machine.execLdWu m s
  | .stB m => Sys2Proof.Machine.execStB m s
  | .stH m => Sys2Proof.Machine.execStH m s
  | .stW m => Sys2Proof.Machine.execStW m s
  | .stD m => Sys2Proof.Machine.execStD m s
  | .ldfe m => Sys2Proof.Machine.execLdfe m s
  | .ldff m => Sys2Proof.Machine.execLdff m s
  | .stfe m => Sys2Proof.Machine.execStfe m s
  | .stf m => Sys2Proof.Machine.execStf m s
  | .fest m => Sys2Proof.Machine.execFest m s
  | .amoAdd m => Sys2Proof.Machine.execAmoAdd m s
  | .amoAnd m => Sys2Proof.Machine.execAmoAnd m s
  | .amoOr m => Sys2Proof.Machine.execAmoOr m s
  | .amoXor m => Sys2Proof.Machine.execAmoXor m s
  | .amoMin m => Sys2Proof.Machine.execAmoMin m s
  | .amoMax m => Sys2Proof.Machine.execAmoMax m s
  | .amoMinu m => Sys2Proof.Machine.execAmoMinu m s
  | .amoMaxu m => Sys2Proof.Machine.execAmoMaxu m s
  | .amoSwap m => Sys2Proof.Machine.execAmoSwap m s
  | .cas m => Sys2Proof.Machine.execCas m s
  | .famoFadd m => Sys2Proof.Machine.execFamoFadd m s
  | .famoFmin m => Sys2Proof.Machine.execFamoFmin m s
  | .famoFmax m => Sys2Proof.Machine.execFamoFmax m s
  | .fence scope => Sys2Proof.Machine.execFence scope s
  | .fenceSc scope => Sys2Proof.Machine.execFenceSc scope s
  | .waitk mask => Sys2Proof.Machine.execWaitk mask s
  | .scope r => Sys2Proof.Machine.execScope r s
  | .semp n => Sys2Proof.Machine.execSemp n s
  | .semv n => Sys2Proof.Machine.execSemv n s
  | .bar scope u => Sys2Proof.Machine.execBar scope u s
  | .step => Sys2Proof.Machine.execStep s
  | .rdtime d => Sys2Proof.Machine.execRdtime d s
  | .attime a => Sys2Proof.Machine.execAttime a s
  | .waitw => Sys2Proof.Machine.execWaitw s
  | .done => Sys2Proof.Machine.execDone s
  | .trig => Sys2Proof.Machine.execTrig s
  | .post a b => Sys2Proof.Machine.execPost a b s
  | .evwait a => Sys2Proof.Machine.execEvwait a s
  | .evpoll r => Sys2Proof.Machine.execEvpoll r s
  | .evclr a => Sys2Proof.Machine.execEvclr a s
  | .popr d => Sys2Proof.Machine.execPopr d s
  | .peekr d => Sys2Proof.Machine.execPeekr d s
  | .send a b w => Sys2Proof.Machine.execSend a b w s
  | .recv r => Sys2Proof.Machine.execRecv r s
  | .tbldef a b => Sys2Proof.Machine.execTbldef a b s
  | .tblinv a => Sys2Proof.Machine.execTblinv a s
  | .shardof r => Sys2Proof.Machine.execShardof r s
  | .gather x => Sys2Proof.Machine.execGather x s
  | .scatter x => Sys2Proof.Machine.execScatter x s
  | .scadd x => Sys2Proof.Machine.execScadd x s
  | .dedup x => Sys2Proof.Machine.execDedup x s
  | .segred x => Sys2Proof.Machine.execSegred x s
  | .isect x => Sys2Proof.Machine.execIsect x s
  | .gatherLong x => Sys2Proof.Machine.execGatherLong x s
  | .scatterLong x => Sys2Proof.Machine.execScatterLong x s
  | .scaddLong x => Sys2Proof.Machine.execScaddLong x s
  | .dedupLong x => Sys2Proof.Machine.execDedupLong x s
  | .segredLong x => Sys2Proof.Machine.execSegredLong x s
  | .isectLong x => Sys2Proof.Machine.execIsectLong x s
  | .rowget x => Sys2Proof.Machine.execRowget x s
  | .rowput x => Sys2Proof.Machine.execRowput x s
  | .rowadd x => Sys2Proof.Machine.execRowadd x s
  | .rowaxpy x => Sys2Proof.Machine.execRowaxpy x s
  | .rowscale x => Sys2Proof.Machine.execRowscale x s
  | .rowdot x => Sys2Proof.Machine.execRowdot x s
  | .rowcvt x => Sys2Proof.Machine.execRowcvt x s
  | .rowzero x => Sys2Proof.Machine.execRowzero x s
  | .rowcopy x => Sys2Proof.Machine.execRowcopy x s
  | .rowtopk x => Sys2Proof.Machine.execRowtopk x s
  | .rowgetLong x => Sys2Proof.Machine.execRowgetLong x s
  | .rowputLong x => Sys2Proof.Machine.execRowputLong x s
  | .rowaddLong x => Sys2Proof.Machine.execRowaddLong x s
  | .rowaxpyLong x => Sys2Proof.Machine.execRowaxpyLong x s
  | .rowscaleLong x => Sys2Proof.Machine.execRowscaleLong x s
  | .rowdotLong x => Sys2Proof.Machine.execRowdotLong x s
  | .rowcvtLong x => Sys2Proof.Machine.execRowcvtLong x s
  | .rowzeroLong x => Sys2Proof.Machine.execRowzeroLong x s
  | .rowcopyLong x => Sys2Proof.Machine.execRowcopyLong x s
  | .rowtopkLong x => Sys2Proof.Machine.execRowtopkLong x s
  | .mclaim slot => Sys2Proof.Machine.execMclaim slot s
  | .mrel slot => Sys2Proof.Machine.execMrel slot s
  | .mload x => Sys2Proof.Machine.execMload x s
  | .msplit x => Sys2Proof.Machine.execMsplit x s
  | .mmul x => Sys2Proof.Machine.execMmul x s
  | .mslice x => Sys2Proof.Machine.execMslice x s
  | .mcomb x => Sys2Proof.Machine.execMcomb x s
  | .mzero tile => Sys2Proof.Machine.execMzero tile s
  | .mdrain x => Sys2Proof.Machine.execMdrain x s
  | .mloadLong x => Sys2Proof.Machine.execMloadLong x s
  | .msplitLong x => Sys2Proof.Machine.execMsplitLong x s
  | .mmulLong x => Sys2Proof.Machine.execMmulLong x s
  | .msliceLong x => Sys2Proof.Machine.execMsliceLong x s
  | .mcombLong x => Sys2Proof.Machine.execMcombLong x s
  | .mdrainLong x => Sys2Proof.Machine.execMdrainLong x s
  | .mrdacc d tile b => Sys2Proof.Machine.execMrdacc d tile b s
  | .mwracc tile a b => Sys2Proof.Machine.execMwracc tile a b s
  | .mstat d tile => Sys2Proof.Machine.execMstat d tile s
  | .ecall => Sys2Proof.Machine.execEcall s
  | .eret => Sys2Proof.Machine.execEret s
  | .brk => Sys2Proof.Machine.execBrk s
  | .trapc a => Sys2Proof.Machine.execTrapc a s
  | .wfi => Sys2Proof.Machine.execWfi s
  | .rdc d n => Sys2Proof.Machine.execRdc d n s
  | .wrc a n => Sys2Proof.Machine.execWrc a n s
  | .iinv a b => Sys2Proof.Machine.execIinv a b s
  | .ifence => Sys2Proof.Machine.execIfence s
  | .xinv a b => Sys2Proof.Machine.execXinv a b s
  | .taskPlacement station => Sys2Proof.Machine.execTaskPlacement station s
  | .priorityAging ctx => Sys2Proof.Machine.execPriorityAging ctx s
  | .stepTimeout t => Sys2Proof.Machine.execStepTimeout t s
  | .rotLengthChange core => Sys2Proof.Machine.execRotLengthChange core s
  | .remoteAccessArrival id => Sys2Proof.Machine.execRemoteAccessArrival id s
  | .remoteAnswer id ext => Sys2Proof.Machine.execRemoteAnswer id ext s
  | .postedStoreAck id ext => Sys2Proof.Machine.execPostedStoreAck id ext s
  | .parkRetry id => Sys2Proof.Machine.execParkRetry id s
  | .parkCancelAnswer id => Sys2Proof.Machine.execParkCancelAnswer id s
  | .fetimeout id => Sys2Proof.Machine.execFetimeout id s
  | .interruptEntry t => Sys2Proof.Machine.execInterruptEntry t s
  | .timerExpiry ctx => Sys2Proof.Machine.execTimerExpiry ctx s
  | .ifetchLineFill t ext => Sys2Proof.Machine.execIfetchLineFill t ext s
  | .sliceFill station line => Sys2Proof.Machine.execSliceFill station line s
  | .refreshWindowEnd => Sys2Proof.Machine.execRefreshWindowEnd s
  | .scaddFold id => Sys2Proof.Machine.execScaddFold id s
  | .replicaUpdate id => Sys2Proof.Machine.execReplicaUpdate id s
  | .movingRewalk id => Sys2Proof.Machine.execMovingRewalk id s
  | .movingTimeout id => Sys2Proof.Machine.execMovingTimeout id s
  | .messageArrival id => Sys2Proof.Machine.execMessageArrival id s
  | .messageNotice id => Sys2Proof.Machine.execMessageNotice id s
  | .messageRetry id => Sys2Proof.Machine.execMessageRetry id s
  | .timedCommandStart station id => Sys2Proof.Machine.execTimedCommandStart station id s
  | .copyEngineCompletion station id ext => Sys2Proof.Machine.execCopyEngineCompletion station id ext s
  | .segredCountResult t id => Sys2Proof.Machine.execSegredCountResult t id s
  | .rowCommandStart core => Sys2Proof.Machine.execRowCommandStart core s
  | .rowCommandCompletion core ext => Sys2Proof.Machine.execRowCommandCompletion core ext s
  | .rowRequest q => Sys2Proof.Machine.execRowRequest q s
  | .rowResponse p => Sys2Proof.Machine.execRowResponse p s
  | .arrayCommandStart station id => Sys2Proof.Machine.execArrayCommandStart station id s
  | .arrayCommandCompletion station id => Sys2Proof.Machine.execArrayCommandCompletion station id s
  | .mstatResult t id => Sys2Proof.Machine.execMstatResult t id s
  | .mcurAbort station => Sys2Proof.Machine.execMcurAbort station s
  | .msliceAbortStop station => Sys2Proof.Machine.execMsliceAbortStop station s
  | .heartbeat core => Sys2Proof.Machine.execHeartbeat core s
  | .coreStateStop core addr => Sys2Proof.Machine.execCoreStateStop core addr s
  | .coreLost core => Sys2Proof.Machine.execCoreLost core s
  | .remap ctx value => Sys2Proof.Machine.execRemap ctx value s
  | .remapComplete ctx => Sys2Proof.Machine.execRemapComplete ctx s
  | .timerWrite ctx value => Sys2Proof.Machine.execTimerWrite ctx value s
  | .knellRead ctx => Sys2Proof.Machine.execKnellRead ctx s
  | .migrateRead ctx => Sys2Proof.Machine.execMigrateRead ctx s
  | .hostRead ctx => Sys2Proof.Machine.execHostRead ctx s
  | .qtailDoorbell q value => Sys2Proof.Machine.execQtailDoorbell q value s
  | .qstatRead q => Sys2Proof.Machine.execQstatRead q s
  | .qbaseWrite q value => Sys2Proof.Machine.execQbaseWrite q value s
  | .launch q => Sys2Proof.Machine.execLaunch q s
  | .signal q => Sys2Proof.Machine.execSignal q s
  | .wait q => Sys2Proof.Machine.execWait q s
  | .waitPoll q => Sys2Proof.Machine.execWaitPoll q s
  | .halt q => Sys2Proof.Machine.execHalt q s
  | .resume q => Sys2Proof.Machine.execResume q s
  | .dbgStep q => Sys2Proof.Machine.execDbgStep q s
  | .rdreg q => Sys2Proof.Machine.execRdreg q s
  | .wrreg q => Sys2Proof.Machine.execWrreg q s
  | .rdspad q => Sys2Proof.Machine.execRdspad q s
  | .wrspad q => Sys2Proof.Machine.execWrspad q s
  | .setbp q => Sys2Proof.Machine.execSetbp q s
  | .setwp q => Sys2Proof.Machine.execSetwp q s
  | .count q => Sys2Proof.Machine.execCount q s
  | .trace q => Sys2Proof.Machine.execTrace q s
  | .flush q => Sys2Proof.Machine.execFlush q s
  | .traceSample core => Sys2Proof.Machine.execTraceSample core s
  | .partitionLoad => Sys2Proof.Machine.execPartitionLoad s
  | .partitionSwitch => Sys2Proof.Machine.execPartitionSwitch s
  | .partitionUnload => Sys2Proof.Machine.execPartitionUnload s
  | .partitionUnpause => Sys2Proof.Machine.execPartitionUnpause s
  | .peal ctx => Sys2Proof.Machine.execPeal ctx s
  | .migrationStart channel value => Sys2Proof.Machine.execMigrationStart channel value s
  | .migrationComplete channel => Sys2Proof.Machine.execMigrationComplete channel s
  | .xinvregStart value => Sys2Proof.Machine.execXinvregStart value s
  | .xinvregComplete => Sys2Proof.Machine.execXinvregComplete s
  | .cntclrAll => Sys2Proof.Machine.execCntclrAll s
  | .cntclrPage page => Sys2Proof.Machine.execCntclrPage page s
  | .hmailWrite value => Sys2Proof.Machine.execHmailWrite value s
  | .hknellRead => Sys2Proof.Machine.execHknellRead s
  | .bar2errRead => Sys2Proof.Machine.execBar2errRead s
  | .errlostRead => Sys2Proof.Machine.execErrlostRead s
  | .registerWrite offset value => Sys2Proof.Machine.execRegisterWrite offset value s
  | .bar2Read offset n => Sys2Proof.Machine.execBar2Read offset n s
  | .bar2Write offset bytes => Sys2Proof.Machine.execBar2Write offset bytes s
  | .routerPowerDown station => Sys2Proof.Machine.execRouterPowerDown station s
  | .routerWake station => Sys2Proof.Machine.execRouterWake station s
  | .linkFlit f => Sys2Proof.Machine.execLinkFlit f s
  | .portFailed port => Sys2Proof.Machine.execPortFailed port s
  | .timeLock port => Sys2Proof.Machine.execTimeLock port s
  | .keyset => Sys2Proof.Machine.execKeyset s
  | .keykill => Sys2Proof.Machine.execKeykill s
  | .sweep => Sys2Proof.Machine.execSweep s
  | .sweepComplete => Sys2Proof.Machine.execSweepComplete s
  | .attest => Sys2Proof.Machine.execAttest s
  | .power => Sys2Proof.Machine.execPower s
  | .jclr => Sys2Proof.Machine.execJclr s
  | .boot b => Sys2Proof.Machine.execBoot b s
  | .recoveryImage b => Sys2Proof.Machine.execRecoveryImage b s
  | .thermalThrottle reticle => Sys2Proof.Machine.execThermalThrottle reticle s
  | .thermalRecover reticle => Sys2Proof.Machine.execThermalRecover reticle s
  | .attimeReached t => Sys2Proof.Machine.execAttimeReached t s
  | .powerChangeComplete reticle => Sys2Proof.Machine.execPowerChangeComplete reticle s
  | .tileRequestRetry t => Sys2Proof.Machine.execTileRequestRetry t s

end Sys2Proof.Machine
end

