-- ==== Sys2Proof/Machine/Fetch.lean ====
section
/-! DEFINITION. One cycle of a core's barrel (03_execution R29 to R32, 17_traps R217, 23_observe
R302). Log entry 1 says how cycles and events follow one another. -/

namespace Sys2Proof.Machine

def SlotCounts.add (c : SlotCounts) : SlotClass → SlotCounts
  | .issued => { c with issued := (c.issued + 1) % 2 ^ 64 }
  | .mem => { c with mem := (c.mem + 1) % 2 ^ 64 }
  | .msg => { c with msg := (c.msg + 1) % 2 ^ 64 }
  | .vacant => { c with vacant := (c.vacant + 1) % 2 ^ 64 }

/-- The end of a cycle: the slot's counter, the histogram's bin and the rotation's next position; behind the last
position a written rotation length is due (R29, R30, R302). DESIGN CHOICE: a wrc of rot that issues in the last position itself
takes effect behind that cycle; "next reaches position L - 1" of R30 could also mean one rotation later. -/
def Core.endCycle (k : Core) (cls : SlotClass) (ready : Nat) : Core :=
  let p := k.position
  let last := decide (rotLength k.rotLen ≤ p + 1)
  { k with
    counts := aset k.counts p ((agetD k.counts p SlotCounts.reset).add cls)
    bins := aset k.bins ready ((agetD k.bins ready 0 + 1) % 2 ^ 64)
    position := if last && k.rotNext.isNone then 0 else p + 1 }

/-- What one cycle of a barrel comes to. -/
inductive Plan where
  /-- Execute an instruction; `again` marks one whose thread waits at it (R143); `ready` is the bin of the cycle. -/
  | run (i : Instr) (s : State) (again : Bool) (ready : Nat)
  /-- Nothing is executed. -/
  | settled (s : State)

/-- The end of a cycle of a core with a slot class and its bin of the histogram. -/
def State.endCycle (s : State) (core : Nat) (cls : SlotClass) (ready : Nat) : State :=
  s.modCore core (fun k => k.endCycle cls ready)

/-- The instruction that a waiting thread executes again, from its fetch register, or nothing where its wait ends in another
way. -/
def State.polled (s : State) (t : ThreadId) (th : Thread) : Fetched :=
  match th.wait with
  | some (.answer _) | some (.line _ _) | some .work | some (.bar _) | some (.semp _) | some .owed | some .granted
  | some (.array _ _ _) | some (.xlat _) | some (.tile _) | some (.spread _) => .stopped s
  | _ => s.fetchInstr t th false

/-- The end of a wait that no instruction is executed again for: results that were owed are there, a unit or an array has answered,
the accesses behind an xinv are complete, or every station holds a descriptor (R142, R143, R189, R217, R249). -/
def State.endWait (s : State) (t : ThreadId) (th : Thread) : Option State :=
  match th.wait with
  | some .owed => if th.owed = [] ∧ th.mstats = [] then some (s.modThread t (fun th => { th with wait := none })) else none
  | some .granted => some (s.finish t 4)
  | some (.array reg value fault) => some (s.arrayAnswer t reg value fault)
  | some (.xlat ids) => if s.anyPending ids then none else some (s.finish t 4)
  | some (.spread id) => if s.descs.any (fun u => u.id == id) then none else some (s.finish t 4)
  | _ => none

/-- The class that a slot's cycle would have: what needs no slot comes first, a due interrupt and the end of its thread's wait, up
to `fuel` of them; a thread that then does not wait and has its instruction's line issues (R32, R139, R302). -/
def State.classFrom : Nat → State → ThreadId → SlotClass
  | 0, s, t => s.slotClassOf t
  | fuel + 1, s, t =>
    match s.threadAt t with
    | none => .vacant
    | some th =>
      if th.halted || th.win.lent then .vacant
      else
        match s.tryInterrupt t th, th.wait, s.endWait t th with
        | some s1, _, _ => s1.classFrom fuel t
        | none, none, _ => if s.canFetch t th then .issued else .mem
        | none, some _, some s1 => s1.classFrom fuel t
        | none, some w, none =>
          match s.polled t th with
          | .stopped _ => w.slotClass
          | .instr i s1 =>
            match exec i { s1 with cur := t } with
            | .next s2 =>
              match (s2.threadAt t).bind Thread.wait with
              | some w => w.slotClass
              | none => s2.classFrom fuel t
            | _ => w.slotClass

/-- The class that a slot's cycle would have if the rotation stood there (R32, R45, R302, R306). -/
def State.slotWould (s : State) (t : ThreadId) : SlotClass := s.classFrom 4 t

/-- Whether a thread would be classed issued if the rotation stood at its slot (R302). -/
def State.wouldIssue (s : State) (t : ThreadId) : Bool := s.slotWould t == .issued

/-- The threads of a core with the classes of their slots. -/
def State.classesOf (s : State) (core : Nat) : List (ThreadId × SlotClass) :=
  (s.coreAt core).threads.map (fun p => ({ core := core, slot := p.1 }, s.slotWould { core := core, slot := p.1 }))

/-- The classes that a placement or a sample asks for (R45, R306). -/
def State.findClasses (s : State) (i : Instr) : State :=
  match i with
  | .taskPlacement st => { s with classes := (List.range 8).flatMap (fun c => s.classesOf (st * 8 + c)) }
  | .traceSample core => { s with classes := s.classesOf core }
  | _ => s

/-- The bin of a cycle: how many threads of the core would be classed issued (R302). -/
def State.readyThreads (s : State) (core : Nat) : Nat :=
  (List.range (rotLength (s.coreAt core).rotLen)).countP (fun p => s.wouldIssue { core := core, slot := p })

/-- One cycle of a core (R29, R32): nothing where no partition runs or the core has stopped. A due interrupt and the
end of a wait take no slot. -/
def State.plan (s : State) (core : Nat) : Plan :=
  let k := s.coreAt core
  let t : ThreadId := { core := core, slot := k.position }
  if (s.ctxOfStation (stationOfCore core)).isNone || k.stopped || k.lost then .settled s
  else if rotLength k.rotLen ≤ k.position then
    match exec (.rotLengthChange core) s with
    | .next s1 => .settled s1
    | _ => .settled s
  else
    let ready := s.readyThreads core
    match s.threadAt t with
    | none => .settled (s.endCycle core .vacant ready)
    | some th =>
      if th.halted || th.win.lent then .settled (s.endCycle core .vacant ready)
      else
        match s.tryInterrupt t th with
        | some s1 => .settled s1
        | none =>
          match th.wait with
          | none =>
            match s.fetchInstr t th true with
            | .instr i s1 => .run i { s1 with cur := t } false ready
            | .stopped s1 =>
              .settled (s1.endCycle core (match s1.slotClassOf t with | .mem => .mem | _ => .issued) ready)
          | some w =>
            match s.endWait t th with
            | some s1 => .settled s1
            | none =>
              match s.polled t th with
              | .instr i s1 => .run i { s1 with cur := t } true ready
              | .stopped s1 => .settled (s1.endCycle core w.slotClass ready)

/-- A thread behind an issued instruction: the task that it holds has begun (R45). -/
def Thread.begin (th : Thread) : Thread :=
  if th.task.valid && !th.held.begun then { th with held := { th.held with begun := true } } else th

/-- What follows an executed instruction in its cycle: it was issued, and its thread's task has begun where it was the task's own,
in user mode, and no handler's (R45); or its thread still waits; or its wait has ended, which takes no slot. -/
def State.afterIssue (s : State) (t : ThreadId) (user again : Bool) (ready : Nat) : State :=
  if !again then (if user then s.modThread t Thread.begin else s).endCycle t.core .issued ready
  else
    match (s.threadAt t).bind Thread.wait with
    | some w => s.endCycle t.core w.slotClass ready
    | none => s

/-- The place of an actor among those of one tick (R331): the cycles of the barrels first, with the accesses to own scratchpads,
evclr, xborrow and the tile requests of the threads, and with the array, which a thread may look at; then every other effect; the
views from outside last. -/
def rankOf : Actor → Nat
  | .cycle _ => 0
  | .slicePair _ => 0
  | .sample _ => 2
  | .event i =>
    match i with
    | .count _ | .rdreg _ | .rdspad _ => 2
    | .tileRequestRetry _ | .arrayCommandStart _ _ | .msliceAbortStop _ => 0
    | _ => 1
  | _ => 1

/-- The station whose `mcur` an actor changes (R265). -/
def turnsMcur : Actor → Option Nat
  | .slicePair st => some st
  | .event i =>
    match i with
    | .arrayCommandStart st _ | .arrayCommandCompletion st _ | .msliceAbortStop st | .mcurAbort st => some st
    | _ => none
  | _ => none

/-- Whether an actor comes too late for the tick: something has acted that the tick's order puts behind it, or a thread has seen the
`mcur` that it changes (R331). -/
def State.tooLate (s : State) (a : Actor) : Bool :=
  decide (rankOf a < s.phase) || ((turnsMcur a).map (fun st => (s.stationAt st).viewed == some s.time.toNat)).getD false

/-- Lets ticks pass: the count rises, and the core cycles of each reticle with it, at its clock (R8, R160). -/
def State.pass (s : State) (ticks : Nat) : State :=
  { s with
    time := s.time + BitVec.ofNat 64 ticks
    cycles := (List.range 4).foldl (fun a r =>
      let f := (agetD s.sec.pwr r PwrReg.reset).mhz
      if f = 0 ∨ ticks = 0 then a else aset a r (agetD a r 0 + ticks * f)) s.cycles }

/-- The ticks that pass before an actor acts: one that comes too late for the tick acts in the next (R331). -/
def State.ticksTo (s : State) (u : Turn) : Nat := if u.ticks = 0 ∧ s.tooLate u.who then 1 else u.ticks

/-- An actor acts after its ticks. Each step draws its own free values (log entry 3). -/
def State.turn (s : State) (u : Turn) : Actor × State :=
  (u.who, { s.pass (s.ticksTo u) with free := s.free + 1, phase := rankOf u.who })

/-- The ticks to the next sampling tick of a running core, this tick counting where its record is not written yet (R306, R307). -/
def State.sampleIn (s : State) (core : Nat) : Option Nat :=
  match (s.ctxOfStation (stationOfCore core)).bind s.ctxAt with
  | none => none
  | some x =>
    if x.trace.on && x.trace.s != 0 && !(s.coreAt core).stopped && !(s.coreAt core).lost then
      let gone := s.time.toNat % 2 ^ x.trace.s
      if gone = 0 ∧ aget x.trace.sampled core ≠ some s.time.toNat then some 0 else some (2 ^ x.trace.s - gone)
    else none

/-- The core of the next sampling tick, with the ticks to it, where that tick would pass before an actor acts: its record comes
first (R306). -/
def State.sampleDue (s : State) (u : Turn) : Option (Nat × Nat) :=
  (leastBy Prod.snd (s.cores.filterMap (fun k => (s.sampleIn k.1).map (fun n => (k.1, n))))).filter
    (fun k => decide (k.2 < s.ticksTo u))

/-- The turn of an actor, or that of a sample which comes before it; the actor keeps what is left of its ticks then. -/
def State.turnOr (s : State) (u : Turn) (wait : Turn → State) : Actor × State :=
  match s.sampleDue u with
  | none => s.turn u
  | some (core, n) => (wait { u with ticks := u.ticks - n }).turn { ticks := n, who := .sample core }

/-- The next actor: the head of the schedule, else the focused core after one tick (log entry 1). -/
def State.nextTurn (s : State) : Actor × State :=
  match s.schedule with
  | [] => s.turnOr { ticks := 1, who := .cycle s.focus } (fun _ => s)
  | u :: r => ({ s with schedule := r } : State).turnOr u (fun v => { s with schedule := v :: r })

/-! ### Interrupts that become pending (R136) -/

/-- A thread in wfi completes in the tick in which an interrupt becomes pending (R136). -/
def State.wake (s : State) (t : ThreadId) : State :=
  match s.threadAt t with
  | none => s
  | some th => if th.wait = some .interrupt ∧ !th.halted ∧ s.threadRuns t ∧ s.pending t th ≠ 0 then s.finish t 4 else s

/-- The threads that wait in wfi. -/
def State.sleepers (s : State) : List ThreadId :=
  s.cores.flatMap (fun c => (c.2.threads.filter (fun p => p.2.wait == some .interrupt)).map (fun p => { core := c.1, slot := p.1 }))

def State.wakeAll (s : State) : State := s.sleepers.foldl State.wake s

/-! ### Placing an instruction where the next step fetches (log entry 2) -/

/-- A context as it stands when it runs and nothing else is known of it. -/
def Context.bare (stations : List Nat) (tag : Nat) : Context :=
  { root := 0, retry := 0, thresh := 0, save := 0, tag := tag, stations := stations, running := true, stoppedAt := 0
    barriers := [], page := ControlPage.reset, graphs := [], served := none, trace := TraceBuf.reset
    falloutRegion := [], saved := none, peal := none, measurement := [] }

/-- Context 0 runs on station 0 where no context does: what the partition loader does before any fetch (R51, R27). -/
def State.withPartition (s : State) : State :=
  if (s.ctxOfStation 0).isSome then s else s.setCtx 0 (Context.bare [0] 1)

/-- The 64-byte line at the base of an address, zero but for the bytes of an instruction at the address. -/
def lineWith (pc : Nat) (bs : List Byte) : FetchLine :=
  { base := lineBase pc, bytes := (List.replicate (pc - lineBase pc) 0 ++ bs ++ List.replicate 64 0).take 64 }

/-- A PC whose instruction of two words lies in one line. -/
def fetchablePc (pc : Word) : Word :=
  if pc.toNat % 4 = 0 ∧ pc.toNat % 64 ≤ 56 ∧ wfld pc 63 56 = 0 then pc else BitVec.ofNat 64 (lineBase (pc.toNat % 2 ^ 56))

/-- The thread whose slot comes next on core 0, ready, with the instruction in its fetch register. -/
def Thread.fetching (th : Thread) (bs : List Byte) : Thread :=
  { th with
    pc := fetchablePc th.pc, fetch := some (lineWith (fetchablePc th.pc).toNat bs), wait := none, halted := false
    win := { th.win with lent := false }, status := { th.status with ie := false }, dbg := { th.dbg with ben := 0 } }

/-- The thread of core 0's next slot: the one created there, or one that the loader would create in machine mode with
a window of 128 registers (R27). -/
def State.fetchThread (s : State) (t : ThreadId) : Thread :=
  match s.threadAt t with
  | some th => th
  | none => Thread.create 0 16 .machine 0x100000000#64 0 1 0

/-- Places an instruction's bytes where the next step fetches. -/
def State.placeInstr (s : State) (bs : List Byte) : State :=
  let s1 := { s.withPartition with schedule := [], focus := 0 }
  let s2 := s1.modCore 0 (fun k =>
    { k with stopped := false, lost := false, position := if rotLength k.rotLen ≤ k.position then 0 else k.position })
  let t : ThreadId := { core := 0, slot := (s2.coreAt 0).position }
  s2.setThread t ((s2.fetchThread t).fetching bs)

end Sys2Proof.Machine
end

