-- ==== Sys2Proof/Machine/Step.lean ====
section
/-! DEFINITION. One step of the machine: the next actor of the schedule acts (log entry 1). -/

namespace Sys2Proof.Machine

/-- What an actor that has no row in the opcode table does. -/
def State.act (s : State) (a : Actor) : State :=
  match a with
  | .cycle _ | .event _ => s
  | .copyRow station id position => s.stepCopy station id position
  | .copyLate station id position => s.stepLate station id position
  | .copyWord station id word => s.copyWord station id word
  | .copyTurn station id => s.copyTurn station id
  | .rowWord core word => s.rowWord core word
  | .rowTurn core => s.rowTurn core
  | .copyDevice station id position => s.copyDevice station id position
  | .rowDevice core => s.readRowDevice core
  | .rowLate core => s.rowLate core
  | .descApply id station => s.applyDesc id station
  | .serveRow id => s.serveRow id
  | .timeSend port => s.sendTime port
  | .lateWrite id => s.lateArrives id
  | .arrayWord station id word => s.arrayWord station id word
  | .arrayTurn station id => s.arrayTurn station id
  | .slicePair station => s.modStation station Station.stepSlice
  | .tableWrite => s.writeEntry
  | .refresh bank => s.refresh bank
  | .linkSend port packets => s.sendFlit port packets
  | .sample core => s.after (execTraceSample core { s with classes := s.classesOf core })
  | .upset u => s.upset u

/-- What follows a step: threads in wfi complete in the tick in which an interrupt becomes pending (R136), and the classes that the
step has found are used up. -/
def settled (r : Res) : Res :=
  match r with
  | .next s => .next { s.wakeAll with classes := [] }
  | .fault f => .fault f
  | .refused x => .refused x

/-- A cycle of a core's barrel. -/
def State.runCycle (s : State) (core : Nat) : Res :=
  match s.plan core with
  | .settled s1 => .next s1
  | .run i s1 again ready =>
    match exec i s1 with
    | .next s2 => .next (s2.afterIssue s1.cur (((s1.threadAt s1.cur).map (fun th => th.status.mode == .user)).getD false) again ready)
    | .fault f => .fault f
    | .refused r => .refused r

/-- One step: a cycle of one core's barrel, or one step of an engine, owner, firmware, debugger or host. -/
def step (s : State) : Host.Outcome State Fault Refusal :=
  match s.nextTurn with
  | (.cycle core, s1) => settled (s1.runCycle core)
  | (.event i, s1) => settled (if i.hasEncoding then .next s1 else exec i (s1.findClasses i))
  | (a, s1) => settled (.next (s1.act a))

/-- The state with an instruction placed where step fetches next: its bits numbered as the opcode table numbers them,
those from nbits up zero. -/
def State.withFetchWord (s : State) (nbits w : Nat) : State := s.placeInstr (tableBytes (w % 2 ^ nbits))

end Sys2Proof.Machine
end

