-- ==== Sys2Proof/Safety.lean ====
section
/-! DEFINITION. What counts as a safe state and a safe run, and the words in which claims speak of one instruction: when a
thread executes it, and what a completed instruction leaves. -/

namespace Sys2Proof

open Sys2Proof.Machine

/-- Every byte memory of the state is in its canonical form. -/
def State.memoriesWf (s : State) : Bool :=
  s.phys.ram.wf && s.phys.host.wf && s.cores.all (fun p => p.2.spad.wf)

/-- A step that goes on: neither a fault nor a refusal. -/
def Goes (s : State) : Prop := ∃ t, step s = .next t

/-- States that some run from reset reaches. -/
inductive Reaches : State → Prop where
  | reset : Reaches State.reset
  | next {s t : State} : Reaches s → step s = .next t → Reaches t

/-- A safe state: its memories are canonical and its next step goes on. -/
def Safe (s : State) : Prop := State.memoriesWf s = true ∧ Goes s

/-! ### One instruction of a thread -/

/-- The thread th executes an instruction word: it is created, the registers that the word names lie in its window (R33, R34),
those that it reads have good parity (R233), and neither a single step (R311) nor a debug step (R316) follows. -/
structure Executes (s : State) (th : Thread) (uses reads : List Reg) : Prop where
  created : s.threadAt s.cur = some th
  window : ∀ r ∈ uses, r.toNat < 8 * th.win.wsize
  parity : ∀ r ∈ reads, r ≠ 0 → th.rfEntry r.toNat ∉ (s.coreAt s.cur.core).rfBad
  single : th.dbg.ss = false ∨ th.status.mode ≠ .user
  stepped : th.stepsLeft = none

/-- A thread that goes on at a pc and waits for nothing. -/
def Thread.goTo (th : Thread) (pc : Word) : Thread := { th with pc := pc, wait := none }

/-- A thread behind a write of its register d: a result that is owed to d is spoiled (R203); g0 discards the write. -/
def Thread.wrote (th : Thread) (d : Reg) : Thread := if d = 0 then th else th.spoil d

/-- t is s after an instruction of its executing thread th: the thread is th', register d holds v where it is not g0, and no
other register-file entry, no other thread and nothing else differs. -/
structure Ran (s : State) (th : Thread) (t : State) (th' : Thread) (d : Reg) (v : Word) : Prop where
  thread : t.threadAt s.cur = some th'
  value : d ≠ 0 → aget (t.coreAt s.cur.core).rf (th.rfEntry d.toNat) = some v
  entries : ∀ c e, (d = 0 ∨ c ≠ s.cur.core ∨ e ≠ th.rfEntry d.toNat) → aget (t.coreAt c).rf e = aget (s.coreAt c).rf e
  parity : ∀ c e, e ∈ (t.coreAt c).rfBad ↔
    e ∈ (s.coreAt c).rfBad ∧ (d = 0 ∨ c ≠ s.cur.core ∨ e ≠ th.rfEntry d.toNat)
  others : ∀ u, u ≠ s.cur → t.threadAt u = s.threadAt u
  cores : ∀ c, t.coreAt c = { s.coreAt c with
    rf := (t.coreAt c).rf, rfBad := (t.coreAt c).rfBad, threads := (t.coreAt c).threads }
  rest : t = { s with cores := t.cores }

/-- An instruction of n bytes completes: it writes v to d, the pc goes on behind it, and nothing else happens. -/
def Completes (i : Instr) (s : State) (th : Thread) (n : Nat) (d : Reg) (v : Word) : Prop :=
  ∃ t, exec i s = .next t ∧ Ran s th t (Thread.goTo (Thread.wrote th d) (th.pc + BitVec.ofNat 64 n)) d v

/-- An instruction goes to a pc: it writes v to d and nothing else happens. -/
def JumpsTo (i : Instr) (s : State) (th : Thread) (pc : Word) (d : Reg) (v : Word) : Prop :=
  ∃ t, exec i s = .next t ∧ Ran s th t (Thread.goTo (Thread.wrote th d) pc) d v

/-- An instruction does what it does to the rest of the machine (the state b) and to its thread (thb), and then completes
as one of n bytes that writes v to d. -/
def CompletesIn (b : State) (thb : Thread) (i : Instr) (s : State) (n : Nat) (d : Reg) (v : Word) : Prop :=
  ∃ t, exec i s = .next t ∧ Ran b thb t (Thread.goTo (Thread.wrote thb d) (thb.pc + BitVec.ofNat 64 n)) d v

/-- An instruction takes a trap and does nothing else. -/
def Traps (i : Instr) (s : State) (c : TrapCause) : Prop := exec i s = .next (s.takeTrap s.cur c)

/-- The thread th' is th behind a trap entry (R215) that saves pc, with tcause code, tval and tinfo: it goes to tvec, from user
mode to supervisor mode, with interrupts off, and waits for the results that it is owed (R217); nothing else of it changes. -/
structure Entered (th th' : Thread) (pc : Word) (code : Nat) (tval tinfo : Word) : Prop where
  goes : th'.pc = th.trap.tvec
  saves : th'.trap = ⟨th.trap.tvec, pc &&& 0x00FFFFFFFFFFFFFF#64, BitVec.ofNat 64 code, tval, tinfo⟩
  mode : th'.status =
    { mode := if th.status.mode = .user then .supervisor else th.status.mode, pmode := th.status.mode
      pie := th.status.ie, ie := false, ien := th.status.ien }
  waits : th'.wait = if th.owed = [] ∧ th.mstats = [] then none else some .owed
  rest : th' = { th with pc := th'.pc, trap := th'.trap, status := th'.status, wait := th'.wait }

/-- The executing thread takes a trap and nothing else changes. -/
def TrapsWith (i : Instr) (s : State) (th : Thread) (pc : Word) (code : Nat) (tval tinfo : Word) : Prop :=
  ∃ th', exec i s = .next (s.setThread s.cur th') ∧ Entered th th' pc code tval tinfo

/-! ### The registers of an instruction word (R34, R56 to R67) -/

/-- The registers that the fields of an instruction word name, and those of them that it reads; none for a step without a
word. -/
def Machine.wordRegs : Instr → List Reg × List Reg
  | .add r | .sub r | .mul r | .mulh r | .mulhu r | .mulhsu r | .div r | .divu r | .rem r | .remu r | .and r | .or r | .xor r
  | .andn r | .orn r | .shl r | .shr r | .sar r | .rotl r | .min r | .max r | .minu r | .maxu r | .slt r | .sltu r | .hashm r
  | .scope r | .shardof r => ([r.d, r.a, r.b], [r.a, r.b])
  | .madd r | .sel r => ([r.d, r.a, r.b], [r.d, r.a, r.b])
  | .clz r | .ctz r | .popc r | .bswap r | .sextB r | .sextH r | .sextW r | .zextB r | .zextH r | .zextW r | .jlr r | .xborrow r
  | .evpoll r | .recv r => ([r.d, r.a], [r.a])
  | .addi r | .andi r | .ori r | .xori r | .slti r | .sltiu r => ([r.d, r.a], [r.a])
  | .addiLong r | .andiLong r | .oriLong r | .xoriLong r | .sltiLong r | .sltiuLong r => ([r.d, r.a], [r.a])
  | .shli r | .shri r | .sari r | .rotli r => ([r.d, r.a], [r.a])
  | .bfx r | .bfxu r => ([r.d, r.a], [r.a])
  | .bfi r => ([r.d, r.a], [r.d, r.a])
  | .lui r | .addpc r | .bl r => ([r.d], [])
  | .luiH d _ | .rdtime d | .popr d | .peekr d | .mstat d _ | .rdc d _ => ([d], [])
  | .fadd r | .fsub r | .fmul r | .fdiv r => ([r.d, r.a, r.b], [r.a, r.b])
  | .fma r => ([r.d, r.a, r.b], [r.d, r.a, r.b])
  | .fsqrt r | .fround r => ([r.d, r.a], [r.a])
  | .fmin r | .fmax r | .fsgn r | .fcmp r _ => ([r.d, r.a, r.b], [r.a, r.b])
  | .fclass r => ([r.d, r.a], [r.a])
  | .fcvt r => ([r.d, r.a], [r.a])
  | .jr a | .attime a | .evwait a | .evclr a | .tblinv a | .trapc a | .wrc a _ | .xput _ a => ([a], [a])
  | .beq r | .bne r | .blt r | .bge r | .bltu r | .bgeu r => ([r.a, r.b], [r.a, r.b])
  | .xget r => ([r.d], [])
  | .ldB m | .ldH m | .ldW m | .ldD m | .ldBu m | .ldHu m | .ldWu m | .ldfe m | .ldff m => ([m.t, m.a], [m.a])
  | .stB m | .stH m | .stW m | .stD m | .stfe m | .stf m | .fest m => ([m.t, m.a], [m.a, m.t])
  | .amoAdd m | .amoAnd m | .amoOr m | .amoXor m | .amoMin m | .amoMax m | .amoMinu m | .amoMaxu m | .amoSwap m | .famoFadd m
  | .famoFmin m | .famoFmax m => ([m.t, m.a], [m.t, m.a])
  | .cas m => ([m.t, m.t + 1, m.a], [m.t, m.t + 1, m.a])
  | .post a b | .send a b _ | .tbldef a b | .iinv a b | .xinv a b => ([a, b], [a, b])
  | .gather x | .scatter x | .scadd x | .dedup x | .segred x | .isect x | .rowget x | .rowput x | .rowadd x | .rowaxpy x
  | .rowscale x | .rowtopk x | .mload x | .msplit x | .mdrain x => ([x.c, x.a, x.b], [x.c, x.a, x.b])
  | .rowdot x => ([x.c, x.a, x.b], [x.a, x.b])
  | .gatherLong x | .scatterLong x | .scaddLong x | .dedupLong x | .segredLong x | .isectLong x | .rowgetLong x | .rowputLong x
  | .rowaddLong x | .rowaxpyLong x | .rowscaleLong x | .rowtopkLong x | .mloadLong x | .msplitLong x | .mdrainLong x =>
    ([x.c, x.a], [x.c, x.a])
  | .rowdotLong x => ([x.c, x.a], [x.a])
  | .rowcvt x | .rowzero x | .rowcopy x | .mcomb x => ([x.a, x.b], [x.a, x.b])
  | .rowcvtLong x | .rowzeroLong x | .rowcopyLong x | .mcombLong x => ([x.a], [x.a])
  | .mmul x | .mslice x => ([x.b], [x.b])
  | .mrdacc d _ b => ([d, b], [b])
  | .mwracc _ a b => ([a, b], [a, b])
  | _ => ([], [])

/-- The mode of the thread admits the instruction (R68, R138): step 4 of R67. -/
def Machine.ModeAdmits (i : Instr) (th : Thread) : Prop :=
  match i with
  | .rdc _ n => th.status.mode ≠ .user ∨ n ∉ [6, 8, 9, 10, 11, 12, 15]
  | .wrc _ n => n ∈ [7] ∨ (th.status.mode ≠ .user ∧ n ∈ [2, 6, 8, 9, 10, 11, 12, 14, 15]) ∨
      (th.status.mode = .machine ∧ n ∈ [4, 13])
  | .xinv _ _ => th.status.mode ≠ .user
  | _ => True

/-- The rounding code of a floating-point instruction resolves to a mode (R66, R115): step 6 of R67. -/
def Machine.RoundingAdmits (i : Instr) (th : Thread) : Prop :=
  let ok (rm : BitVec 3) : Prop := rm = 7 → th.fcsr.rm.toNat < 5
  match i with
  | .fadd r | .fsub r | .fmul r | .fdiv r | .fma r => ok r.rm
  | .fsqrt r | .fround r => ok r.rm
  | .fcvt r => ok r.rm
  | _ => True

/-! ### Exact values and their rounding (R82, R86, R89) -/

/-- The number that a decoded encoding stands for (R86). -/
def Machine.FVal.value (v : FVal) : ℚ := (if v.neg then -1 else 1) * (v.m * 2 ^ v.e)

/-- A decoded encoding that is a number other than an infinity. -/
def Machine.FVal.isNumber (v : FVal) : Prop := v.cls = .finite ∨ v.cls = .zero

/-- The magnitude of the encoding with code number c and sign 0 (R85, R86), with exponents that go on without an upper bound: the
subnormals below 2^p, then 2^p codes to an exponent. -/
def Machine.Fmt.magnitude (f : Fmt) (c : Nat) : ℚ :=
  if c < 2 ^ f.p then c * 2 ^ f.emin else (2 ^ f.p + (c % 2 ^ f.p : ℕ)) * 2 ^ (f.emin + (c / 2 ^ f.p : ℕ) - 1)

/-- A positive number by what lies below it and what equals it, so that a square root can be one. -/
structure Exact where
  above : ℚ → Prop
  eq : ℚ → Prop

/-- A rational magnitude. -/
def Exact.of (v : ℚ) : Exact := ⟨fun q => q < v, fun q => q = v⟩

/-- The square root of a rational. -/
def Exact.sqrt (v : ℚ) : Exact := ⟨fun q => q * q < v, fun q => q * q = v⟩

/-- Between two neighbouring magnitudes of which the lower does not exceed it, a value rounds to the upper one (R89); `odd` says
that the code of the lower one is odd. -/
def RoundsUp (rm : Nat) (neg odd : Bool) (v : Exact) (lo hi : ℚ) : Prop :=
  v.above lo ∧
    ((rm = 0 ∧ (v.above ((lo + hi) / 2) ∨ (v.eq ((lo + hi) / 2) ∧ odd = true))) ∨
      (rm = 1 ∧ (v.above ((lo + hi) / 2) ∨ v.eq ((lo + hi) / 2))) ∨ (rm = 3 ∧ neg = false) ∨ (rm = 4 ∧ neg = true))

/-- r is the encoding that round of R82 gives for a value of a sign and a positive magnitude, with its flags: the value is rounded
between the two codes around it, and an overflow gives what the table of R82 says. -/
structure Rounded (f : Fmt) (rm : Nat) (sat neg : Bool) (v : Exact) (r : FRes) : Prop where
  result : ∃ c code : Nat, (v.above (f.magnitude c) ∨ v.eq (f.magnitude c)) ∧
    ¬ v.above (f.magnitude (c + 1)) ∧ ¬ v.eq (f.magnitude (c + 1)) ∧
    (RoundsUp rm neg (decide (c % 2 = 1)) v (f.magnitude c) (f.magnitude (c + 1)) → code = c + 1) ∧
    (¬ RoundsUp rm neg (decide (c % 2 = 1)) v (f.magnitude c) (f.magnitude (c + 1)) → code = c) ∧
    (code ≤ f.maxCode → r.bits = code + (if neg then f.signBit else 0) ∧ r.flags.ovf = false ∧
      (r.flags.nx = true ↔ v.above (f.magnitude c))) ∧
    (f.maxCode < code → r.flags.ovf = true ∧ r.flags.nx = true ∧
      r.bits = if sat = true ∨ rm = 2 ∨ (rm = 4 ∧ neg = false) ∨ (rm = 3 ∧ neg = true) then
          f.maxCode + (if neg then f.signBit else 0)
        else if f.specials = .ieee then f.infCode + (if neg then f.signBit else 0) else f.canon)
  underflow : r.flags.uf = true ↔ r.flags.nx = true ∧
    ∃ (n k : Nat) (q : ℤ), 2 ^ f.p ≤ n ∧ n < 2 ^ (f.p + 1) ∧
      let lo : ℚ := n * 2 ^ q
      let hi : ℚ := (n + 1) * 2 ^ q
      (v.above lo ∨ v.eq lo) ∧ ¬ v.above hi ∧ ¬ v.eq hi ∧
      (RoundsUp rm neg (decide (n % 2 = 1)) v lo hi → k = n + 1) ∧ (¬ RoundsUp rm neg (decide (n % 2 = 1)) v lo hi → k = n) ∧
      (k : ℚ) * 2 ^ q < 2 ^ (1 - (f.bias : ℤ))
  quiet : r.flags.nv = false ∧ r.flags.dz = false

/-- r is the encoding of a rational value: rounded, or the zero of a sign with no flag where it is zero (R82, R89, R117). -/
def RoundedSum (f : Fmt) (rm : Nat) (sat zeroNeg : Bool) (v : ℚ) (r : FRes) : Prop :=
  (v = 0 → r = ⟨if zeroNeg then f.signBit else 0, ⟨false, false, false, false, false⟩⟩) ∧
  (v ≠ 0 → Rounded f rm sat (decide (v < 0)) (Exact.of |v|) r)

/-! ### Translations that an invalidation removes (R142, R293) -/

/-- A cached leaf of a context maps one of `pages` pages of 64 KiB from a page number on; no page is named where `pages` is 0, and
every leaf of the context counts. -/
def Machine.TlbEntry.Covers (e : TlbEntry) (ctx page pages : Nat) : Prop :=
  e.ctx = ctx ∧ (pages = 0 ∨ ∃ k, page ≤ k ∧ k < page + pages ∧ k * 65536 / 2 ^ (if e.level = 3 then 26 else 16) = e.vpage)

/-- t is s without the cached leaves of a context that map those pages. -/
def Removed (s t : State) (ctx page pages : Nat) : Prop :=
  ∃ keep : TlbEntry → Bool, (∀ e, keep e = false ↔ e.Covers ctx page pages) ∧
    t = { s with xlats := s.xlats.map (fun p => (p.1, { p.2 with tlb := p.2.tlb.filter keep })) }

/-- An address of a context is translated through such a leaf: its page is one of them, or a leaf of 64 MiB over it is. -/
def Machine.State.Maps (s : State) (ctx page pages va : Nat) : Prop :=
  pages = 0 ∨ (page ≤ va / 65536 ∧ va / 65536 < page + pages) ∨
    ((∃ k, page ≤ k ∧ k < page + pages ∧ k / 1024 = va / 2 ^ 26) ∧
      ∃ p ∈ s.xlats, ∃ e ∈ p.2.tlb, e.ctx = ctx ∧ e.level = 3 ∧ e.vpage = va / 2 ^ 26)

/-- The number of an access that is not complete and was translated through such a leaf (log entry 17): it waits at its home slice
for a fill or is parked there; or it is an engine's update on its way to its row, a forwarded one among them. -/
def Machine.State.Through (s : State) (ctx page pages id : Nat) : Prop :=
  (∃ x ∈ s.accesses, x.id = id ∧ x.ctx = ctx ∧ x.sp = 2 ∧ (x.stage = .filling ∨ x.stage = .parked) ∧ s.Maps ctx page pages x.va) ∨
    (∃ l ∈ s.lates, l.id = id ∧ l.agent.ctx = ctx ∧ s.Maps ctx page pages l.va) ∨
    ∃ r ∈ s.replicas, r.id = id ∧ r.agent.ctx = ctx ∧ r.pa ≠ none ∧ r.failed = none ∧ s.Maps ctx page pages r.va

/-- An access of a list of numbers is not complete: it is not answered, or its row is not updated. -/
def Machine.State.Incomplete (s : State) (ids : List Nat) : Prop :=
  (∃ x ∈ s.accesses, x.id ∈ ids ∧ ∀ f sub info v, x.stage ≠ .answered f sub info v) ∨ (∃ l ∈ s.lates, l.id ∈ ids) ∨
    ∃ r ∈ s.replicas, r.id ∈ ids ∧ r.failed = none

/-! ### Waits (R143) -/

/-- The waits that an enabled interrupt abandons with no effect (R143): for counters, a release, an instruction line, and each wait
of the class message but a counted arrival at a barrier, wfi and what an engine decides. -/
def Machine.Wait.abandoned : Wait → Bool
  | .work | .counters _ | .counterRoom _ | .release _ | .line _ _ | .evwait _ | .popr | .recv | .attime _ | .semp _
  | .step _ _ _ | .sendRoom | .replyRoom | .lockRoom _ | .arrayRoom _ | .postRoom | .tile _ | .behind _ _ | .way _ => true
  | .answer _ | .bar _ | .interrupt | .held _ | .owed | .xlat _ | .array _ _ _ | .granted | .spread _ => false

/-! ### Memory of one thread's own scratchpad -/

/-- The counters of a mask are zero and have no failure on record (R150, R222). -/
def Thread.quiet (th : Thread) (mask : Nat) : Prop :=
  ∀ k ∈ [1, 2, 3], selected mask k = true → th.counter k = 0 ∧ th.failure k = none

/-- No watch unit that the thread enables matches the access (R310). -/
def Unwatched (s : State) (th : Thread) (sp a n kind : Nat) : Prop :=
  th.status.mode = .user → ∀ u < 2, th.dbg.wen.getLsbD u = true →
    ∀ w, aget (s.coreAt s.cur.core).watches u = some w → w.hits sp a n kind = false

/-- No access bears the next number. -/
def FreshId (s : State) : Prop := ∀ x ∈ s.accesses, x.id ≠ s.nextId

/-- No request is parked at a scratchpad's word, nor under the next number. -/
def NoParked (s : State) (core a : Nat) : Prop :=
  ∀ i ∈ (s.coreAt core).park, i ≠ s.nextId ∧ ∀ x, s.accessAt i = some x → x.loc / 8 ≠ (core * 2 ^ 18 + a) / 8

/-- An access of n bytes at a of the own scratchpad may be performed: aligned (R147), inside it (R148), under no range lock
(R178), unwatched (R310), by a thread that is not halted, with a fresh number, nothing parked at its word, and no posted store of
the thread to its doubleword under way (R173). -/
structure OwnAccess (s : State) (th : Thread) (a n kind : Nat) : Prop where
  aligned : a % n = 0
  inside : a < 0x40000
  unlocked : (s.coreAt s.cur.core).locked s.time.toNat (s.cur.core * 2 ^ 18 + a) n = false
  unwatched : Unwatched s th 0 a n kind
  fresh : FreshId s
  unparked : NoParked s s.cur.core a
  goes : th.halted = false
  unposted : s.posting s.cur (0, (s.cur.core * 2 ^ 18 + a) / 8) = false

/-- The state behind an access to the own scratchpad: one number is drawn and the core is changed. -/
def Machine.State.ownTouched (s : State) (f : Core → Core) : State :=
  State.modCore { s with nextId := s.nextId + 1 } s.cur.core f

/-- The core k behind a write of the n bytes of v at a of its scratchpad: those bytes and no other change, and the
doublewords that the write covers take fresh parity (R149). -/
structure Stored (k k' : Core) (a n : Nat) (v : Word) : Prop where
  bytes : ∀ x, k'.spad.read x = if a ≤ x ∧ x < a + n then v.extractLsb' (8 * (x - a)) 8 else k.spad.read x
  parity : ∀ w, w ∈ k'.spadBad ↔ w ∈ k.spadBad ∧ ¬ (a ≤ 8 * w ∧ 8 * w + 8 ≤ a + n)
  rest : k' = { k with spad := k'.spad, spadBad := k'.spadBad }

/-! ### What an access does to its word (R148, R152, R155, R156) -/

/-- What an access of n bytes stores over the old value, given its operands: nothing for one that only reads, and for fest. -/
def AccessKind.stores (k : AccessKind) (n : Nat) (old x y : BitVec (8 * n)) : Option (BitVec (8 * n)) :=
  let f := if n = 8 then Fmt.fp64 else Fmt.fp32
  match k with
  | .load | .ldfe | .ldff | .fest => none
  | .store | .stfe | .stf => some x
  | .amo .add => some (old + x)
  | .amo .and => some (old &&& x)
  | .amo .or => some (old ||| x)
  | .amo .xor => some (old ^^^ x)
  | .amo .min => some (if old.toInt < x.toInt then old else x)
  | .amo .max => some (if x.toInt < old.toInt then old else x)
  | .amo .minu => some (if old.toNat < x.toNat then old else x)
  | .amo .maxu => some (if x.toNat < old.toNat then old else x)
  | .amo .swap => some x
  | .amo .cas => some (if old = x then y else old)
  | .famo .fadd => some (BitVec.ofNat (8 * n) (fpAdd f old.toNat x.toNat 0).bits)
  | .famo .fmin => some (BitVec.ofNat (8 * n) (fpMinMax f false old.toNat x.toNat).bits)
  | .famo .fmax => some (BitVec.ofNat (8 * n) (fpMinMax f true old.toNat x.toNat).bits)

/-- The full/empty bit that an access needs, if it needs one (R152). -/
def AccessKind.waitsFor : AccessKind → Option Bool
  | .ldfe | .ldff => some true
  | .stfe => some false
  | _ => none

/-- The full/empty bit that an access leaves (R152). -/
def AccessKind.leaves (k : AccessKind) (full : Bool) (x : Word) : Bool :=
  match k with
  | .ldfe => false
  | .stfe | .stf => true
  | .fest => x.getLsbD 0
  | _ => full

/-- The bytes from a on that an access of n bytes stores, over what a byte held. -/
def storedByte (a n : Nat) (v : Option (BitVec (8 * n))) (z : Nat) (b : Byte) : Byte :=
  match v with
  | none => b
  | some v => if a ≤ z ∧ z < a + n then v.extractLsb' (8 * (z - a)) 8 else b

/-- A value of n bytes as an access's answer brings it: sign- or zero-extended. -/
def Machine.Access.answers (x : Access) (old : BitVec (8 * x.n)) : Word :=
  if x.sext then old.signExtend 64 else old.zeroExtend 64

/-- The core k behind an access x at address a of its scratchpad: the bytes that it stores, the word's full/empty bit, fresh
parity of the doublewords that it covers, and no other change (R145, R149). -/
structure BankServed (k k' : Core) (x : Access) (a : Nat) (old : BitVec (8 * x.n)) : Prop where
  bytes : ∀ z, k'.spad.read z =
    storedByte a x.n (x.kind.stores x.n old (x.x.setWidth _) (x.y.setWidth _)) z (k.spad.read z)
  bits : ∀ w, w ∈ k'.spadEmpty ↔
    if w = a / 8 then x.kind.leaves (!decide (w ∈ k.spadEmpty)) x.x = false else w ∈ k.spadEmpty
  parity : ∀ w, w ∈ k'.spadBad ↔ w ∈ k.spadBad ∧
    ¬ ((x.kind.stores x.n old (x.x.setWidth _) (x.y.setWidth _)).isSome = true ∧ a ≤ 8 * w ∧ 8 * w + 8 ≤ a + x.n)
  rest : k' = { k with spad := k'.spad, spadEmpty := k'.spadEmpty, spadBad := k'.spadBad }

/-- A byte of a line as an access with a key tag sees it: zero on a line of tag 0 (R318). -/
def Machine.Phys.seen (p : Phys) (tag z : Nat) : Byte := if tag ≠ 0 ∧ p.lineTag (z / 64) = 0 then 0 else p.ram.read z

/-- The global memory p behind an access x performed at its home slice: the bytes that it stores, over a line that takes the
access's tag and becomes zero where it had tag 0 and the access writes, and the word's full/empty bit (R145, R318). -/
structure SliceServed (p p' : Phys) (x : Access) (old : BitVec (8 * x.n)) : Prop where
  bytes : ∀ z, p'.ram.read z =
    storedByte x.loc x.n (x.kind.stores x.n old (x.x.setWidth _) (x.y.setWidth _)) z
      (if z / 64 = x.loc / 64 ∧ x.kind ∉ [.load, .ldfe, .ldff] then p.seen x.tag z else p.ram.read z)
  bits : ∀ w, w ∈ p'.empty ↔
    if w = x.loc / 8 then x.kind.leaves (!decide (w ∈ p.empty)) x.x = false else w ∈ p.empty
  tags : ∀ l, p'.lineTag l =
    if l = x.loc / 64 ∧ x.kind ∉ [.load, .ldfe, .ldff] ∧ p.lineTag l = 0 then x.tag else p.lineTag l
  host : p'.host = p.host

/-! ### What a dispenser chooses (R43 to R45) -/

/-- A thread of a station may take an instance that needs a window of 8 × wsize registers (R35, R43, R130): it waits for work in the
rotation, neither halted nor lent, with no window held, is no supervisor thread, and its core is not lost. -/
def Machine.State.MayTake (s : State) (st wsize : Nat) (t : ThreadId) : Prop :=
  t.core / 8 = st ∧ t.slot < 64 ∧ (s.coreAt t.core).lost = false ∧ s.inRotation t = true ∧ s.isSupervisor t = false ∧
    ∃ th, s.threadAt t = some th ∧ th.wait = some .work ∧ th.halted = false ∧ th.win.lent = false ∧ th.win.held = false ∧
      wsize ≤ th.win.wsize ∧ th.idleFrom ≤ s.cyclesAt st

/-- Instance inst of a node is pending with a priority that has grown by one for each 2^20 ticks up to 3 (R42, R44); `again` says
that a remap has made it pending again. -/
def Machine.NodeState.Pends (n : NodeState) (now inst : Nat) (again : Bool) (prio : Nat) : Prop :=
  (again = false ∧ n.released = true ∧ n.next < n.image.count ∧ inst = n.next ∧ prio = min 3 (n.prio + (now - n.since) / 2 ^ 20)) ∨
    (again = true ∧ ∃ a ∈ n.again, inst = a.inst ∧ prio = min 3 (a.prio + (now - a.since) / 2 ^ 20))

/-- What the dispenser of a station may hand out for a context (R43): of each node the pending instance of the highest priority, of
those the lowest index, where the node's affinity names no station, this one, none of the partition, or one that has no thread for
it; and the dynamic instances of the station; each only where a thread of the station may take it. -/
def Machine.State.Offered (s : State) (x : Context) (st : Nat) (c : Candidate) : Prop :=
  (∃ t, s.MayTake st c.wsize t) ∧
    ((∃ g ∈ x.graphs, ∃ node n inst again prio, g.nodes[node]? = some n ∧ c = ⟨.node g.id node inst again, prio, n.key, n.image.wsize⟩ ∧
        n.Pends s.time.toNat inst again prio ∧
        (∀ j again' p, n.Pends s.time.toNat j again' p → p < prio ∨ (p = prio ∧ inst ≤ j)) ∧
        ∀ a, n.image.affStation = some a → a = st ∨ a ∉ x.stations ∨ ∀ t, ¬ s.MayTake a n.image.wsize t) ∨
      ∃ i d, (s.stationAt st).dyn[i]? = some d ∧
        c = ⟨.dyn i, min 3 (d.prio + (s.time.toNat - d.since) / 2 ^ 20), d.key, d.wsize⟩)

/-- A candidate is the one that R43 chooses: of the highest priority, the next in the turns behind the one served last, and where
none is behind that, the first. -/
def Machine.State.Chosen (s : State) (x : Context) (st : Nat) (c : Candidate) : Prop :=
  s.Offered x st c ∧ ∀ d, s.Offered x st d → d.prio < c.prio ∨ (d.prio = c.prio ∧
    match x.served with
    | none => c.key ≤ d.key
    | some k => (k < c.key ∧ (d.key ≤ k ∨ c.key ≤ d.key)) ∨ (c.key ≤ k ∧ d.key ≤ k ∧ c.key ≤ d.key))

/-- The threads of a core that count as ready (R45): in the rotation, neither halted nor lent, with a task that has not begun, or
that would issue. -/
def Machine.State.readyOn (s : State) (core : Nat) : Nat :=
  ((s.coreAt core).threads.filter (fun p => s.inRotation ⟨core, p.1⟩ && !p.2.halted && !p.2.win.lent &&
    ((p.2.task.valid && !p.2.held.begun) || s.classNow ⟨core, p.1⟩ == .issued))).length

/-- The thread that R45 chooses: on the core with the fewest ready threads, then the lowest core, then the lowest slot. -/
def Machine.State.Taker (s : State) (st wsize : Nat) (t : ThreadId) : Prop :=
  s.MayTake st wsize t ∧ ∀ u, s.MayTake st wsize u → s.readyOn t.core < s.readyOn u.core ∨
    (s.readyOn t.core = s.readyOn u.core ∧ (t.core < u.core ∨ (t.core = u.core ∧ t.slot ≤ u.slot)))

/-- The state t is s with packets moved along routers: idle counts of routers, and nothing else of the stations, differ. -/
def RoutersTouched (s t : State) : Prop := ∀ st, t.stationAt st = { s.stationAt st with router := (t.stationAt st).router }

/-! ### What the engines check and compute (R100, R178, R198, R203, R209, R213, R248, R257) -/

/-- The words of n bytes in a row, in order. -/
def elementsOf (n : Nat) (row : List Byte) : List Nat :=
  (List.range (row.length / n)).map (fun i => ofBytesLE ((row.drop (n * i)).take n))

/-- r is the first member of a list that meets p. -/
def FirstOf {α : Type} (l : List α) (p : α → Prop) (r : α) : Prop := ∃ a b, l = a ++ r :: b ∧ p r ∧ ∀ x ∈ a, ¬ p x

/-- Steps 5 to 7 of R198 on the ranges of a command of a core: of the first step that fails, f names the first range that fails it
(the order of the ranges is the model's choice, stated at `malformedWord`); where no range fails, f is none. -/
def RangesChecked (s : State) (core : Nat) (rs : List SpadRange) (f : Option TrapCause) : Prop :=
  let odd (r : SpadRange) : Prop := r.addr % r.align ≠ 0
  let past (r : SpadRange) : Prop :=
    0x40000 < (if r.sp = 0 then r.addr else r.addr % 2 ^ 18) + r.len ∨ (r.sp ≠ 0 ∧ 95 < r.addr / 2 ^ 18)
  let held (r : SpadRange) : Prop := (s.coreAt core).locked s.time.toNat (spadNumber core r.sp r.addr) r.len = true
  (∀ r, FirstOf rs odd r → f = some (precise 4 (BitVec.ofNat 64 r.addr) 0 0)) ∧
  ((∀ r ∈ rs, ¬ odd r) →
    (∀ r, FirstOf rs past r → f = some (precise 6 (BitVec.ofNat 64 r.addr) 5 0)) ∧
    ((∀ r ∈ rs, ¬ past r) →
      (∀ r, FirstOf rs held r → f = some (precise 7 (BitVec.ofNat 64 r.addr) 0 0)) ∧ ((∀ r ∈ rs, ¬ held r) → f = none)))

/-- A wire code is 7, or does not suit an element format (R198 step 4, R209). -/
def WireUnfit (w efmt : Nat) : Prop := w = 7 ∨ (1 ≤ w ∧ w ≤ 4 ∧ efmt ≠ 0) ∨ ((w = 5 ∨ w = 6) ∧ efmt ≠ 1)

/-- The range-lock entries of a core that commands hold and have not given back (R178). -/
def Machine.Core.locksHeld (k : Core) : Nat := (k.locks.filter (fun l => l.freed.isNone)).length

/-- The range locks of a core behind the completion of a command in a tick: its entries still lock in that tick and no longer, and
the others stay (R178, R179). -/
def Released (k k' : Core) (id now : Nat) : Prop :=
  (∀ l ∈ k'.locks, l.id = id → l.freed = some now) ∧ ∀ l, l.id ≠ id → l.freed = none → (l ∈ k'.locks ↔ l ∈ k.locks)

/-- The core that a copy-engine command's write goes to: one of its chiplet (R14, R197). -/
def Machine.CopyCmd.target (c : CopyCmd) (w : SpadWrite) : Nat := c.thread.core / 96 * 96 + w.addr / 2 ^ 18

/-- A copy-engine command completes (R179, R199): it writes ws and nothing else of any scratchpad, its reply entry and its line
carry a status and a value, its locks are given back, and it has left the engine. -/
def CopyCloses (s : State) (st : Nat) (c : CopyCmd) (ext : ExtAnswer) (ws : List SpadWrite) (status value : Nat) : Prop :=
  let entry := replyEntry c.ev status c.kind.major value
  ∃ t, exec (.copyEngineCompletion st c.id ext) s = .next t ∧ t.copyAt st c.id = none ∧ t.phys = s.phys ∧
    Released (s.coreAt c.thread.core) (t.coreAt c.thread.core) c.id s.time.toNat ∧
    (∀ k, (t.coreAt k).spad =
      (ws.filter (fun w => c.target w == k)).foldl (fun m w => m.writeBytes (w.addr % 2 ^ 18) w.bytes) (s.coreAt k).spad) ∧
    ∀ th, s.threadAt c.thread = some th → t.threadAt c.thread = some { th with
      replies := th.replies ++ [entry], replyReserved := th.replyReserved - 1
      chimes := aset th.chimes c.ev ((th.chime c.ev).raise
        (if status = 0 then none else some (statusFault status, entry))) }

/-- The scratchpads of writes are open to the engine: the issuing core's own, or that of a peer that is open and not lost (R48). -/
def OpenAreas (s : State) (c : CopyCmd) (ws : List SpadWrite) : Prop :=
  c.thread.slot < 64 ∧
    ∀ w ∈ ws, c.target w = c.thread.core ∨ ((s.coreAt (c.target w)).lost = false ∧ (s.coreAt (c.target w)).peersOpen = true)

/-- A copy-engine command has its lists, has made every write, and has no replica behind (R187): what is left are its results and
its record. -/
structure Ripe (s : State) (c : CopyCmd) : Prop where
  started : c.started = true
  loaded : c.loaded = true
  unended : c.ending = none
  short : c.entries.length ≤ 4096
  replicas : ∀ r ∈ s.replicas, r.cmd ≠ c.id

/-- Every position of a command has its result. -/
def Machine.CopyCmd.Settled (c : CopyCmd) : Prop :=
  c.results.map Prod.fst = List.range c.entries.length ∧ ∀ p ∈ c.results, (∀ t, p.2 ≠ .held t) ∧ p.2 ≠ .requested

/-- The positions of a command whose result is one of a list. -/
def Machine.CopyCmd.having (c : CopyCmd) (l : List PosResult) : List Nat :=
  (List.range c.entries.length).filter (fun p => decide (∃ r ∈ l, aget c.results p = some r))

/-- The positions that failed. -/
def Machine.CopyCmd.failures (c : CopyCmd) : List Nat :=
  (List.range c.entries.length).filter (fun p => match aget c.results p with | some (.failed _) => true | _ => false)

/-- The completion record of R199 but for a segred's counts: status and first are those of the lowest failed position. -/
def Machine.CopyCmd.Record (c : CopyCmd) (status first value : Nat) (r : List Byte) : Prop :=
  (c.failures = [] ∧ status = 0 ∧ first = 0 ∨
    c.failures.head? = some first ∧ aget c.results first = some (.failed status)) ∧
  r = bytesLE 8 (status % 256 * 2 ^ 56 + first * 2 ^ 16 + value) ++
    bytesLE 8 ((c.having [.defaulted, .writtenDefault]).length * 2 ^ 16 + (c.having [.skipped, .zeroed]).length) ++
    bytesLE (8 * ((c.entries.length + 63) / 64)) ((c.failures.map (2 ^ ·)).sum)

/-- One element of a segment's reduction, from the elements of its rows in list order (R203): sums and quotients rounded to nearest
even, or fmax; a NaN is canonical (R88; log entry 54). -/
def segmentElement (f : Fmt) (op : Nat) : List Nat → Nat
  | [] => 0
  | x :: l =>
    let v := l.foldl (fun a b => if op = 2 then (fpMinMax f true a b).bits else (fpAdd f a b 0).bits) x
    let sum := if (decodeF f v).isNan then f.canon else v
    if op = 1 then (fpDiv f sum (roundF f false (l.length + 1) 0 0 false).bits 0).bits else sum

/-- The order of rowtopk (R213): larger numbers first, NaNs below -infinity and -0 below +0; equal ones by their index. -/
def TopkBefore (f : Fmt) (xs : List Nat) (i j : Nat) : Prop :=
  let above (x y : FVal) : Prop :=
    (x.isNan = false ∧ y.isNan = true) ∨
      (x.isNan = false ∧ y.isNan = false ∧ (y.lt x = true ∨ (x.cls = .zero ∧ y.cls = .zero ∧ x.neg = false ∧ y.neg = true)))
  let x := decodeF f (xs.getD i 0)
  let y := decodeF f (xs.getD j 0)
  above x y ∨ (¬ above y x ∧ i < j)

/-- An array command of a station locks a tile against requests in a tick: it names the tile and has not only arrived in that tick
(R244, R260). -/
def Machine.ArrCmd.LocksTile (c : ArrCmd) (now tile : Nat) : Prop := tile ∈ c.tiles ∧ (c.started = true ∨ c.issued < now)

/-- u is s behind a tile request of a thread at its array (R260): a locked tile makes the thread wait to send it again; mrdacc's
answer is the low 64 bits of its entry, or the high 32 bits sign-extended; mwracc writes them and changes nothing else, and an empty
tile fails it with ENGINE 0x36. The thread waits for the answer. -/
structure TileServed (s : State) (t : ThreadId) (q : TileReq) (u : State) : Prop where
  locked : (∃ c ∈ (s.stationAt (t.core / 8)).array, c.LocksTile s.time.toNat q.tile) → u = s.waitFor t (.tile q)
  read : (∀ c ∈ (s.stationAt (t.core / 8)).array, ¬ c.LocksTile s.time.toNat q.tile) → q.write = false →
    let e := agetD ((s.stationAt (t.core / 8)).tileAt q.tile).entries q.index 0
    u = s.waitFor t (.array q.reg (if q.half then (e.extractLsb' 64 32).signExtend 64 else e.extractLsb' 0 64) none)
  empty : (∀ c ∈ (s.stationAt (t.core / 8)).array, ¬ c.LocksTile s.time.toNat q.tile) → q.write = true →
    ((s.stationAt (t.core / 8)).tileAt q.tile).state = .empty →
    u = s.waitFor t (.array 0 0 (some (16, BitVec.ofNat 64 q.tile, 0x36)))
  write : (∀ c ∈ (s.stationAt (t.core / 8)).array, ¬ c.LocksTile s.time.toNat q.tile) → q.write = true →
    ((s.stationAt (t.core / 8)).tileAt q.tile).state ≠ .empty →
    let e := agetD ((s.stationAt (t.core / 8)).tileAt q.tile).entries q.index 0
    let v : BitVec 96 := if q.half then q.value.setWidth 32 ++ e.extractLsb' 0 64 else e.extractLsb' 64 32 ++ q.value
    u = (s.modStation (t.core / 8) (fun k => k.setTile q.tile { k.tileAt q.tile with
      entries := aset (k.tileAt q.tile).entries q.index v })).waitFor t (.array 0 0 none)

/-! ### The slice array (R242, R245, R250 to R257) -/

/-- The elements of a row of a load (R250). -/
def Machine.ArrCmd.len (c : ArrCmd) : Nat := if c.ctl.testBit 27 then wfld c.addrs 59 54 + 1 else 128

/-- The bits of an element of a split's format (R250). -/
def Machine.ArrCmd.bits (c : ArrCmd) : Nat := [32, 64, 16, 16, 8, 8, 6, 4, 8, 8].getD (fld c.ctl 18 15) 8

/-- The bytes of a row of a load's source (R250). -/
def Machine.ArrCmd.rowBytes (c : ArrCmd) : Nat := if c.kind = .mload then 2 * c.len else c.len * c.bits / 8

/-- The distance in bytes of two rows of some bytes (R250, R257). -/
def Machine.ArrCmd.pitch (c : ArrCmd) (row : Nat) : Nat := 8 * (if fld c.ctl 14 0 = 0 then (row + 7) / 8 else fld c.ctl 14 0)

/-- A split of MX blocks (R250). -/
def Machine.ArrCmd.blocks (c : ArrCmd) : Bool := c.kind = .msplit && decide (4 ≤ fld c.ctl 18 15) && decide (fld c.ctl 18 15 ≤ 7)

/-- Row i of a load's source, as a little-endian number. -/
def Machine.ArrCmd.rowNumber (c : ArrCmd) (k : Core) (i : Nat) : Nat :=
  k.spad.readLE (wfld c.addrs 17 0 + i * c.pitch c.rowBytes) c.rowBytes

/-- The position of element e of row i of a sparse operand. -/
def Machine.ArrCmd.position (c : ArrCmd) (k : Core) (i e : Nat) : Nat := (k.spad.read (wfld c.addrs 35 18 + 64 * i + e)).toNat

/-- The exponent at exv of row i. -/
def Machine.ArrCmd.given (c : ArrCmd) (k : Core) (i : Nat) : Int :=
  (BitVec.ofNat 16 (k.spad.readLE (wfld c.addrs 53 36 + 2 * i) 2)).toInt

/-- The slice in container e of row i of an mload (R94). -/
def Machine.ArrCmd.container (c : ArrCmd) (k : Core) (i e : Nat) : Int := (BitVec.ofNat 16 (c.rowNumber k i / 2 ^ (16 * e))).toInt

/-- The scale of the MX block of element e of row i (R97, R250). -/
def Machine.ArrCmd.scale (c : ArrCmd) (k : Core) (i e : Nat) : Nat := (k.spad.read (wfld c.addrs 35 18 + 4 * i + e / 32)).toNat

/-- Element e of row i of a split, without its block's scale. -/
def Machine.ArrCmd.element (c : ArrCmd) (k : Core) (i e : Nat) : FVal :=
  decodeF ([Fmt.fp32, .fp64, .fp16, .bf16, .e4m3, .e5m2, .e3m2, .e2m1, .e4m3, .e5m2].getD (fld c.ctl 18 15) .e5m2)
    (c.rowNumber k i / 2 ^ (c.bits * e) % 2 ^ c.bits)

/-- Element e of row i of a split is a NaN or an infinity. -/
def Machine.ArrCmd.special (c : ArrCmd) (k : Core) (i e : Nat) : Bool :=
  (c.blocks && c.scale k i e == 255) || (c.element k i e).isNan || (c.element k i e).cls == .inf

/-- The number that element e of row i of a split stands for, 0 for a special one. -/
def Machine.ArrCmd.number (c : ArrCmd) (k : Core) (i e : Nat) : ℚ :=
  if c.special k i e then 0 else (c.element k i e).value * (if c.blocks then 2 ^ ((c.scale k i e : ℤ) - 127) else 1)

/-- E is the exponent of row i of a split (R251): the least power of two above its elements, or the given one, or the larger. -/
def Machine.ArrCmd.Exponent (c : ArrCmd) (k : Core) (i : Nat) (E : Int) : Prop :=
  ∃ top : Int, ((∀ e < c.len, c.number k i e = 0) ∧ top = -32768 ∨
      (∀ e < c.len, |c.number k i e| < 2 ^ top) ∧ ∃ e < c.len, (2 : ℚ) ^ (top - 1) ≤ |c.number k i e|) ∧
    E = match fld c.ctl 26 25 with
      | 0 => top
      | 1 => c.given k i
      | _ => max (c.given k i) top

/-- Slice j of S of element e of row i under an exponent: split of R83. -/
def Machine.ArrCmd.slice (c : ArrCmd) (k : Core) (E : Int) (j i e : Nat) : Int :=
  let S := fld c.ctl 31 29
  (if c.number k i e < 0 then -1 else 1) * (⌊|c.number k i e| * 2 ^ (8 * (S : ℤ) - E)⌋ / 256 ^ (S - j) % 256)

/-- A bad word that a load reads (R149, R252): of its rows, of the exponents where it reads them, of positions or scales. -/
def Machine.ArrCmd.BadWord (c : ArrCmd) (k : Core) (w : Nat) : Prop :=
  let meets (a n : Nat) : Prop := overlaps (8 * w) 8 a n = true
  w ∈ k.spadBad ∧ ((∃ i < 64, meets (wfld c.addrs 17 0 + i * c.pitch c.rowBytes) c.rowBytes) ∨
    ((c.kind = .mload ∨ fld c.ctl 26 25 ≠ 0) ∧ meets (wfld c.addrs 53 36) 128) ∨
    (c.ctl.testBit 27 = true ∧ ∃ i < 64, meets (wfld c.addrs 35 18 + 64 * i) c.len) ∨
    (c.ctl.testBit 27 = false ∧ c.blocks = true ∧ meets (wfld c.addrs 35 18) 256))

/-- Element e of row i fails a load with a subcode (R251, R252): its position, its fit under a given exponent, or its container. -/
def Machine.ArrCmd.FailsAt (c : ArrCmd) (k : Core) (i e sub : Nat) : Prop :=
  e < c.len ∧
    ((sub = 0x34 ∧ c.ctl.testBit 27 = true ∧
        (128 ≤ c.position k i e ∨ (e ≠ 0 ∧ c.position k i e ≤ c.position k i (e - 1)))) ∨
      (sub = 0x33 ∧ c.kind = .msplit ∧ fld c.ctl 26 25 = 1 ∧ (2 : ℚ) ^ c.given k i ≤ |c.number k i e|) ∨
      (sub = 0x32 ∧ c.kind = .mload ∧ (c.container k i e < -255 ∨ 255 < c.container k i e)))

/-- The slot o' is o loaded by a command with slice j of an operand: exponents E, flags, and slices x at their positions, zero at
absent ones (R241, R251, R252). -/
structure SlotLoaded (k : Core) (c : ArrCmd) (o o' : OpSlot) (j : Nat) (E : Nat → Int) (flag : Nat → Bool) (x : Nat → Nat → Int) :
    Prop where
  header : o' = { o with
    state := if o.state = .releasing then .releasing else .loaded
    sideB := c.ctl.testBit 28, s := fld c.ctl 31 29, j := j
    exps := (List.range 64).map E, flags := (List.range 64).map flag, scale := c.rc.setWidth 32
    sparse := if c.ctl.testBit 27 then c.len else 0
    positions := if c.ctl.testBit 27 then (List.range 64).map (fun i => (List.range c.len).map (c.position k i)) else []
    data := o'.data }
  shape : o'.data.length = 64 ∧ ∀ row ∈ o'.data, row.length = 128
  dense : c.ctl.testBit 27 = false → ∀ i < 64, ∀ e < 128, (o'.data.getD i []).getD e 0 = x i e
  placed : c.ctl.testBit 27 = true → ∀ i < 64, ∀ e < c.len, (o'.data.getD i []).getD (c.position k i e) 0 = x i e
  absent : c.ctl.testBit 27 = true → ∀ i < 64, ∀ p < 128, (∀ e < c.len, c.position k i e ≠ p) →
    (o'.data.getD i []).getD p 0 = 0

/-- A tile emptied: its flags of the last recombination stay (R242, R256). -/
def Machine.Tile.cleared (t : Tile) : Tile := { Tile.reset with ofl := t.ofl, ufl := t.ufl, nxl := t.nxl }

/-- A tile takes an operand pair under a key (R254): it is empty, or open with equal exponents, scales and key. -/
def Machine.Tile.Takes (t : Tile) (a b : OpSlot) (key : Nat) : Prop :=
  t.state = .empty ∨
    (t.state = .opened ∧ t.key = key ∧ t.rowE = a.exps ∧ t.colE = b.exps ∧ t.sA = a.scale ∧ t.sB = b.scale)

/-- The tile t' is t behind the addition of the product of two slots under a place shift (R253, R254): an empty tile opens with
their header, an open one joins their special flags; each entry grows by 256^sh times its dot product modulo 2^96. -/
structure PairAdded (t t' : Tile) (a b : OpSlot) (key sh : Nat) : Prop where
  opens : t.state = .empty → t'.state = .opened ∧ t'.key = key ∧ t'.rowE = a.exps ∧ t'.colE = b.exps ∧ t'.rowF = a.flags ∧
    t'.colF = b.flags ∧ t'.sA = a.scale ∧ t'.sB = b.scale
  joins : t.state ≠ .empty → t'.state = t.state ∧ t'.key = t.key ∧ t'.rowE = t.rowE ∧ t'.colE = t.colE ∧ t'.sA = t.sA ∧
    t'.sB = t.sB ∧ t'.rowF = List.zipWith (· || ·) t.rowF a.flags ∧ t'.colF = List.zipWith (· || ·) t.colF b.flags
  entries : ∀ i < 64, ∀ j < 64,
    let sum : Int := (agetD t.entries (64 * i + j) 0).toInt +
      256 ^ sh * (List.zipWith (· * ·) (a.data.getD i []) (b.data.getD j [])).sum
    agetD t'.entries (64 * i + j) 0 = BitVec.ofInt 96 sum ∧ (sum < -2 ^ 95 ∨ 2 ^ 95 ≤ sum → t'.ovf = true)
  overflow : t'.ovf = true → t.ovf = true ∨ ∃ i < 64, ∃ j < 64,
    let sum : Int := (agetD t.entries (64 * i + j) 0).toInt +
      256 ^ sh * (List.zipWith (· * ·) (a.data.getD i []) (b.data.getD j [])).sum
    sum < -2 ^ 95 ∨ 2 ^ 95 ≤ sum
  sticky : t.ovf = true → t'.ovf = true
  products : t'.products = min (2 ^ 32 - 1) (t.products + 1)
  flags : t'.ofl = t.ofl ∧ t'.ufl = t.ufl ∧ t'.nxl = t.nxl

/-- A slot holds an operand of a side: slice i + 1 of the s slices of the operand whose first slice is o (R255). -/
def Machine.OpSlot.Holds (o p : OpSlot) (i s : Nat) (sideB : Bool) : Prop :=
  p.state ≠ .empty ∧ p.data ≠ [] ∧ p.sideB = sideB ∧ p.s = s ∧ p.j = i + 1 ∧ p.exps = o.exps ∧ p.flags = o.flags ∧
    p.scale = o.scale ∧ p.sparse = o.sparse ∧ p.positions = o.positions

/-- What a tile contributes to an output element (R257): its entry, times 2^(Ea + Eb - 8 key), times both tensor scales. -/
def Machine.Tile.contributes (t : Tile) (i j : Nat) : ℚ :=
  if t.state = .empty then 0
  else
    ((agetD t.entries (64 * i + j) 0).toInt : ℚ) * 2 ^ (t.rowE.getD i 0 + t.colE.getD j 0 - 8 * (t.key : ℤ)) *
      (decodeF .fp32 t.sA.toNat).value * (decodeF .fp32 t.sB.toNat).value

/-- r is output element (i, j) of tiles (R257): the canonical NaN where a row or column flag is set in one of them, else the rounded
sum of what they contribute, +0 where it is zero. -/
def CombinedTo (f : Fmt) (rm : Nat) (ts : List Tile) (i j : Nat) (r : FRes) : Prop :=
  let flagged := ∃ t ∈ ts, t.state ≠ .empty ∧ (t.rowF.getD i false = true ∨ t.colF.getD j false = true)
  (flagged → r = ⟨f.canon, ⟨false, false, false, false, false⟩⟩) ∧
  (¬ flagged → RoundedSum f rm false false ((ts.map (fun t => t.contributes i j)).sum) r)

/-- The tile t' is t behind a recombination with results r: their flags, and emptiness under zap (R257). -/
def RecordedIn (t t' : Tile) (r : Nat → Nat → FRes) (zap : Bool) : Prop :=
  let some (p : FpFlags → Bool) : Prop := ∃ i < 64, ∃ j < 64, p (r i j).flags = true
  (t'.ofl = true ↔ some FpFlags.ovf) ∧ (t'.ufl = true ↔ some FpFlags.uf) ∧ (t'.nxl = true ↔ some FpFlags.nx) ∧
    (zap = true → t' = t'.cleared) ∧ (zap = false → t' = { t with ofl := t'.ofl, ufl := t'.ufl, nxl := t'.nxl })

/-- The memory m' is m with the 64 rows of 64 elements of a result at an address (R257). -/
def ResultWritten (m m' : Memory) (dest pitch size : Nat) (r : Nat → Nat → FRes) : Prop :=
  (∀ i < 64, ∀ j < 64, ∀ b < size,
    m'.read (dest + i * pitch + j * size + b) = BitVec.ofNat 8 ((r i j).bits / 256 ^ b)) ∧
  ∀ z, (∀ i < 64, z < dest + i * pitch ∨ dest + i * pitch + 64 * size ≤ z) → m'.read z = m.read z

/-- The failure that a command records (R245): its fault, and the fields of the recorded value. -/
def Machine.ArrCmd.record (c : ArrCmd) (fault sub unit detail : Nat) : Option (Nat × Word) :=
  let major := match c.kind with
    | .mload => 0x6E
    | .msplit => 0x6F
    | .mmul => 0x70
    | .mslice => 0x71
    | .mcomb => 0x72
    | .mzero => 0x73
    | .mdrain => 0x74
  some (fault, BitVec.ofNat 64 (sub * 2 ^ 56 + major * 2 ^ 48 + unit % 256 * 2 ^ 40 + detail % 2 ^ 32))

/-- A step completes an array command (R245, R249): it has left the queue and its locks are given back; slots and tiles are as
given, but that a releasing slot which no accepted command names is free; its line is raised with a failure or none, except
mzero's. -/
structure ArrayCloses (i : Instr) (s : State) (st : Nat) (c : ArrCmd) (slots : Nat → OpSlot) (tiles : Nat → Tile)
    (failure : Option (Nat × Word)) (t : State) : Prop where
  ends : exec i s = .next t
  queue : (t.stationAt st).array = (s.stationAt st).array.filter (fun x => x.id != c.id)
  slot : ∀ n, (t.stationAt st).slotAt n =
    if (slots n).state = .releasing ∧ ∀ x ∈ (t.stationAt st).array, n ∉ x.slots then OpSlot.reset else slots n
  tile : ∀ n, (t.stationAt st).tileAt n = tiles n
  locks : Released (s.coreAt c.thread.core) (t.coreAt c.thread.core) c.id s.time.toNat
  line : ∀ th, s.threadAt c.thread = some th → ∃ th', t.threadAt c.thread = some th' ∧
    th'.chimes = if c.kind = .mzero then th.chimes else aset th.chimes c.ev ((th.chime c.ev).raise failure)
  memory : t.phys = s.phys

/-- Nothing delays a release of a thread at a scope: every posted store that it encloses is performed, and no failure that
it encloses is on record (R81, R221). -/
def ReleaseFree (s : State) (th : Thread) (scope : Nat) : Prop :=
  (∀ x ∈ s.accesses, x.postedBy s.cur = true → scope < s.storeScope s.cur x) ∧
  ∀ k ∈ [1, 2, 3], ∀ f, th.failure k = some f → scope < f.scope

/-! ### Command queues and debug requests -/

/-- The packet p, of a type and of a resident context x, stands at the head of the queue q, whose registers are k: it is enabled,
in order, and has read the packet (R295 to R297). -/
structure AtHead (s : State) (q : Nat) (k : CmdQueue) (x : Context) (p : List Word) (type : Nat) : Prop where
  queue : s.queueAt q = k
  packet : k.packet = some p
  enabled : k.en = true
  error : k.err = 0
  size : 6 ≤ k.lsize ∧ k.lsize ≤ 16
  ahead : (k.tail - k.head).toNat ≤ 2 ^ k.lsize
  context : s.ctxAt k.ctx = some x
  kind : packetType p = type

/-- A port fails (R284, R288): it stays failed and holds no packet, it is in no port mask, and every access that had left by it
answers LINK. -/
def PortFails (s t : State) (q : Nat) : Prop :=
  t.portAt q = { s.portAt q with failed := true, out := [], replay := [] } ∧ (∀ p ∈ t.host.porttab, p.2 / 2 ^ q % 2 = 0) ∧
    ∀ x ∈ s.accesses, x.stage = .offDevice → x.port = some q → { x with stage := .answered 17 0 0 0 } ∈ t.accesses

/-- The state behind a packet of a queue (R297): head is one further, and MSI-X vector 1 + (q mod 31) is raised where the packet
asks for it (R289): sent, or pending while the host masks it. -/
def Machine.State.passed (u : State) (q : Nat) (k : CmdQueue) (p : List Word) : State :=
  let v := u.setQueue q { k with head := k.head + 1, packet := none, waiting := none, heldSince := none, givenUp := [] }
  if packetWord p 0 / 2 ^ 40 % 2 = 1 then
    (if (v.host.msixWord (2 * (1 + q % 31) + 1)).getLsbD 32 then
      { v with host := { v.host with msixPending := insertNat (1 + q % 31) v.host.msixPending } }
     else { v with host := { v.host with msix := v.host.msix ++ [1 + q % 31] } })
  else v

/-- A debug request whose effect is u finishes with a code and a value (R314): they go to its status doubleword, if it names one,
and the queue goes on. -/
def Reports (u : State) (q : Nat) (k : CmdQueue) (p : List Word) (code value : Nat) (r : Res) : Prop :=
  (packetAddr p 5 = 0 → r = .next (u.passed q k p)) ∧
  (packetAddr p 5 ≠ 0 → ∀ v, (u.frontStore (.access u.nextId) k.ctx (packetAddr p 5)
      (BitVec.ofNat 64 (code * 2 ^ 56 + value % 2 ^ 56)) false).1 = .ok v → r = .next (v.passed q k p))

/-- A debug request of an op stands at the head of a queue of a running context, and its target t is a place of the context's
partition that is not lost (R313, R314). -/
structure Asked (s : State) (q : Nat) (k : CmdQueue) (x : Context) (p : List Word) (op : Nat) (t : ThreadId) : Prop where
  head : AtHead s q k x p 4
  op : packetWord p 1 / 2 ^ 56 % 2 ^ 8 = op
  runs : x.active s.time = true
  device : packetWord p 1 / 2 ^ 18 % 2 ^ 14 = s.pkg.device.toNat
  place : placeBad (packetWord p 1 % 2 ^ 32) = false
  target : t = threadOfPlace (packetWord p 1 % 2 ^ 32)
  station : t.core / 8 ∈ x.stations
  alive : (s.coreAt t.core).lost = false

end Sys2Proof
end

