-- ==== Sys2Proof/Certificates/Slice0/Obligations.lean ====
section
/-! DEFINITION. The statements about this model for the provers: what the numbered rules of spec/ say that each
instruction and the machine do. -/

open Sys2Proof Sys2Proof.Machine

/-! ### Integer arithmetic (09_scalar R104 to R113) -/

/-- R104, R105: sums, products and halves of products modulo 2^64, for every operand; quotients rounded toward zero and
remainders a − b × q, with the special cases of a zero divisor and of the overflowing quotient. The destination g0 discards. -/
def Obligations.IntegerArithmetic : Prop :=
  (∀ (s : State) (th : Thread) (r : R3),
    (Executes s th [r.d, r.a, r.b] [r.a, r.b] →
      Completes (.add r) s th 4 r.d (BitVec.ofNat 64 ((s.g r.a).toNat + (s.g r.b).toNat)) ∧
      Completes (.sub r) s th 4 r.d (BitVec.ofInt 64 ((s.g r.a).toNat - (s.g r.b).toNat)) ∧
      Completes (.mul r) s th 4 r.d (BitVec.ofNat 64 ((s.g r.a).toNat * (s.g r.b).toNat)) ∧
      Completes (.mulh r) s th 4 r.d (BitVec.ofInt 64 ((s.g r.a).toInt * (s.g r.b).toInt / 2 ^ 64)) ∧
      Completes (.mulhu r) s th 4 r.d (BitVec.ofNat 64 ((s.g r.a).toNat * (s.g r.b).toNat / 2 ^ 64)) ∧
      Completes (.mulhsu r) s th 4 r.d (BitVec.ofInt 64 ((s.g r.a).toInt * (s.g r.b).toNat / 2 ^ 64))) ∧
    (Executes s th [r.d, r.a, r.b] [r.d, r.a, r.b] →
      Completes (.madd r) s th 4 r.d (BitVec.ofNat 64 ((s.g r.d).toNat + (s.g r.a).toNat * (s.g r.b).toNat)))) ∧
  (∀ (s : State) (th : Thread) (r : R3), Executes s th [r.d, r.a, r.b] [r.a, r.b] →
    let a := s.g r.a
    let b := s.g r.b
    (b = 0 →
      Completes (.div r) s th 4 r.d 0xFFFFFFFFFFFFFFFF#64 ∧ Completes (.rem r) s th 4 r.d a ∧
      Completes (.divu r) s th 4 r.d 0xFFFFFFFFFFFFFFFF#64 ∧ Completes (.remu r) s th 4 r.d a) ∧
    (a = 0x8000000000000000#64 → b = 0xFFFFFFFFFFFFFFFF#64 →
      Completes (.div r) s th 4 r.d 0x8000000000000000#64 ∧ Completes (.rem r) s th 4 r.d 0) ∧
    (b ≠ 0 → ¬ (a = 0x8000000000000000#64 ∧ b = 0xFFFFFFFFFFFFFFFF#64) →
      Completes (.div r) s th 4 r.d (BitVec.ofInt 64 (a.toInt.tdiv b.toInt)) ∧
      Completes (.rem r) s th 4 r.d (BitVec.ofInt 64 (a.toInt - b.toInt * a.toInt.tdiv b.toInt))) ∧
    (b ≠ 0 →
      Completes (.divu r) s th 4 r.d (BitVec.ofNat 64 (a.toNat / b.toNat)) ∧
      Completes (.remu r) s th 4 r.d (BitVec.ofInt 64 (a.toNat - b.toNat * (a.toNat / b.toNat : Nat)))))

/-- R106, R107: each bit of the result of a logical instruction, and of a shift or rotation by n, the low six bits of the
register or the immediate amount. -/
def Obligations.LogicalAndShiftBits : Prop :=
  (∀ (s : State) (th : Thread) (r : R3), Executes s th [r.d, r.a, r.b] [r.a, r.b] →
    ∃ vAnd vOr vXor vAndn vOrn : Word,
      Completes (.and r) s th 4 r.d vAnd ∧ Completes (.or r) s th 4 r.d vOr ∧ Completes (.xor r) s th 4 r.d vXor ∧
      Completes (.andn r) s th 4 r.d vAndn ∧ Completes (.orn r) s th 4 r.d vOrn ∧
      ∀ i < 64,
        vAnd.getLsbD i = ((s.g r.a).getLsbD i && (s.g r.b).getLsbD i) ∧
        vOr.getLsbD i = ((s.g r.a).getLsbD i || (s.g r.b).getLsbD i) ∧
        vXor.getLsbD i = ((s.g r.a).getLsbD i != (s.g r.b).getLsbD i) ∧
        vAndn.getLsbD i = ((s.g r.a).getLsbD i && !(s.g r.b).getLsbD i) ∧
        vOrn.getLsbD i = ((s.g r.a).getLsbD i || !(s.g r.b).getLsbD i)) ∧
  (∀ (s : State) (th : Thread) (a : Word) (d : Reg) (n : Nat) (left right arith rot : Instr),
    ((∃ r : R3, Executes s th [r.d, r.a, r.b] [r.a, r.b] ∧ a = s.g r.a ∧ d = r.d ∧ n = (s.g r.b).toNat % 64 ∧
        left = .shl r ∧ right = .shr r ∧ arith = .sar r ∧ rot = .rotl r) ∨
      (∃ r : RS, Executes s th [r.d, r.a] [r.a] ∧ a = s.g r.a ∧ d = r.d ∧ n = r.n.toNat ∧
        left = .shli r ∧ right = .shri r ∧ arith = .sari r ∧ rot = .rotli r)) →
    ∃ vl vr va vt : Word,
      Completes left s th 4 d vl ∧ Completes right s th 4 d vr ∧ Completes arith s th 4 d va ∧ Completes rot s th 4 d vt ∧
      ∀ i < 64,
        vl.getLsbD i = (decide (n ≤ i) && a.getLsbD (i - n)) ∧
        vr.getLsbD i = (decide (i + n < 64) && a.getLsbD (i + n)) ∧
        va.getLsbD i = (if i + n < 64 then a.getLsbD (i + n) else a.getLsbD 63) ∧
        vt.getLsbD ((i + n) % 64) = a.getLsbD i)

/-- R108 to R110: minima, maxima, comparisons and the select; what the counts say of the bits, the reversed byte order, and the
extensions of the low byte, halfword and word; and hashm, major 0x06 with fn 0, which folds two 128-bit products. -/
def Obligations.CompareSelectCountHash : Prop :=
  (∀ (s : State) (th : Thread) (r : R3),
    let a := s.g r.a
    let b := s.g r.b
    (Executes s th [r.d, r.a, r.b] [r.a, r.b] →
      Completes (.min r) s th 4 r.d (if a.toInt < b.toInt then a else b) ∧
      Completes (.max r) s th 4 r.d (if a.toInt > b.toInt then a else b) ∧
      Completes (.minu r) s th 4 r.d (if a.toNat < b.toNat then a else b) ∧
      Completes (.maxu r) s th 4 r.d (if a.toNat > b.toNat then a else b) ∧
      Completes (.slt r) s th 4 r.d (if a.toInt < b.toInt then 1 else 0) ∧
      Completes (.sltu r) s th 4 r.d (if a.toNat < b.toNat then 1 else 0)) ∧
    (Executes s th [r.d, r.a, r.b] [r.d, r.a, r.b] →
      Completes (.sel r) s th 4 r.d (if s.g r.d ≠ 0 then a else b))) ∧
  (∀ (s : State) (th : Thread) (r : R2), Executes s th [r.d, r.a] [r.a] →
    let a := s.g r.a
    (∃ n ≤ 64, Completes (.clz r) s th 4 r.d (BitVec.ofNat 64 n) ∧
      (∀ i < n, a.getLsbD (63 - i) = false) ∧ (n < 64 → a.getLsbD (63 - n) = true)) ∧
    (∃ n ≤ 64, Completes (.ctz r) s th 4 r.d (BitVec.ofNat 64 n) ∧
      (∀ i < n, a.getLsbD i = false) ∧ (n < 64 → a.getLsbD n = true)) ∧
    Completes (.popc r) s th 4 r.d (BitVec.ofNat 64 ((List.range 64).filter (fun i => a.getLsbD i)).length) ∧
    (∃ v : Word, Completes (.bswap r) s th 4 r.d v ∧
      ∀ j < 8, ∀ i < 8, v.getLsbD (8 * j + i) = a.getLsbD (8 * (7 - j) + i)) ∧
    Completes (.sextB r) s th 4 r.d ((a.setWidth 8).signExtend 64) ∧
    Completes (.sextH r) s th 4 r.d ((a.setWidth 16).signExtend 64) ∧
    Completes (.sextW r) s th 4 r.d ((a.setWidth 32).signExtend 64) ∧
    Completes (.zextB r) s th 4 r.d ((a.setWidth 8).zeroExtend 64) ∧
    Completes (.zextH r) s th 4 r.d ((a.setWidth 16).zeroExtend 64) ∧
    Completes (.zextW r) s th 4 r.d ((a.setWidth 32).zeroExtend 64)) ∧
  (∀ (s : State) (th : Thread) (r : R3), Executes s th [r.d, r.a, r.b] [r.a, r.b] →
    let k : BitVec 128 := 0xD6E8FEB86659FD93#128
    let key := s.g r.b
    let p1 : BitVec 128 := (s.g r.a ^^^ key).zeroExtend 128 * k
    let x : Word := p1.extractLsb' 64 64 ^^^ p1.setWidth 64
    let p2 : BitVec 128 := (x ^^^ key.rotateLeft 32).zeroExtend 128 * k
    Completes (.hashm r) s th 4 r.d (p2.extractLsb' 64 64 ^^^ p2.setWidth 64)) ∧
  (∀ r : R3, encode (.hashm r) = [0x06 * 2 ^ 25 + r.d.toNat * 2 ^ 18 + r.a.toNat * 2 ^ 11 + r.b.toNat * 2 ^ 4])

/-- R64, R111 to R113: the immediate instructions, short with a sign-extended 11-bit immediate and long with a 32-bit one; the
address instructions; and the bits of an extracted and of an inserted field, for every position and length that R66 admits. -/
def Obligations.ImmediatesAndFields : Prop :=
  (∀ (s : State) (th : Thread) (d a : Reg) (size : Nat) (i : Word) (add and or xor slt sltu : Instr),
    Executes s th [d, a] [a] →
    ((∃ imm : BitVec 11, size = 4 ∧ i = imm.signExtend 64 ∧ add = .addi ⟨d, a, imm⟩ ∧ and = .andi ⟨d, a, imm⟩ ∧
        or = .ori ⟨d, a, imm⟩ ∧ xor = .xori ⟨d, a, imm⟩ ∧ slt = .slti ⟨d, a, imm⟩ ∧ sltu = .sltiu ⟨d, a, imm⟩) ∨
      (∃ imm : BitVec 32, size = 8 ∧ i = imm.signExtend 64 ∧ add = .addiLong ⟨d, a, imm⟩ ∧ and = .andiLong ⟨d, a, imm⟩ ∧
        or = .oriLong ⟨d, a, imm⟩ ∧ xor = .xoriLong ⟨d, a, imm⟩ ∧ slt = .sltiLong ⟨d, a, imm⟩ ∧
        sltu = .sltiuLong ⟨d, a, imm⟩)) →
    Completes add s th size d (BitVec.ofNat 64 ((s.g a).toNat + i.toNat)) ∧
    Completes and s th size d (s.g a &&& i) ∧
    Completes or s th size d (s.g a ||| i) ∧
    Completes xor s th size d (s.g a ^^^ i) ∧
    Completes slt s th size d (if (s.g a).toInt < i.toInt then 1 else 0) ∧
    Completes sltu s th size d (if (s.g a).toNat < i.toNat then 1 else 0)) ∧
  (∀ (s : State) (th : Thread) (d : Reg), Executes s th [d] [] →
    (∀ j : BitVec 18, Completes (.lui ⟨d, j⟩) s th 4 d (BitVec.ofInt 64 (j.toInt * 2048)) ∧
      Completes (.addpc ⟨d, j⟩) s th 4 d (BitVec.ofInt 64 (th.pc.toNat + 4 * j.toInt))) ∧
    (∀ imm : BitVec 32, Completes (.luiH d imm) s th 8 d (BitVec.ofNat 64 (imm.toNat * 2 ^ 32)))) ∧
  (∀ (s : State) (th : Thread) (r : RF), r.pos.toNat + (r.lenm1.toNat + 1) ≤ 64 →
    let pos := r.pos.toNat
    let len := r.lenm1.toNat + 1
    let a := s.g r.a
    (Executes s th [r.d, r.a] [r.a] →
      ∃ vs vu : Word, Completes (.bfx r) s th 4 r.d vs ∧ Completes (.bfxu r) s th 4 r.d vu ∧
        ∀ i < 64, vs.getLsbD i = (if i < len then a.getLsbD (pos + i) else a.getLsbD (pos + len - 1)) ∧
          vu.getLsbD i = (decide (i < len) && a.getLsbD (pos + i))) ∧
    (Executes s th [r.d, r.a] [r.d, r.a] →
      ∃ v : Word, Completes (.bfi r) s th 4 r.d v ∧
        ∀ i < 64, v.getLsbD i = (if pos ≤ i ∧ i < pos + len then a.getLsbD (i - pos) else (s.g r.d).getLsbD i)))

/-! ### Scalar floating point (09_scalar R114 to R123) -/

/-- R114 to R116, R118 to R123: a floating-point instruction writes the result of its operation on its operands, read and placed
as R69 says, under the rounding mode of R115, and ORs the flags of that operation into fcsr. R66, R67: with fcsr.rm at 5, 6 or 7
a dynamic rounding field raises ILLEGAL with the word in tval, and changes no flag and no register. -/
def Obligations.FloatingPointResults : Prop :=
  (∀ (s : State) (th : Thread) (d a b : Reg) (dbl : Bool) (rm : BitVec 3), roundingBad th.fcsr rm = false →
    let f := Fmt.ofDbl dbl
    let mode := if rm = 7 then th.fcsr.rm.toNat else rm.toNat
    let read (w : Word) : Nat := if dbl then w.toNat else w.toNat % 2 ^ 32
    let x := read (s.g a)
    let y := read (s.g b)
    let raised (fl : FpFlags) (t : Thread) : Thread := { t with fcsr := { t.fcsr with flags := t.fcsr.flags.or fl } }
    let gives (i : Instr) (bits : Nat) (fl : FpFlags) : Prop :=
      CompletesIn (s.modThread s.cur (raised fl)) (raised fl th) i s 4 d (BitVec.ofNat 64 bits)
    (Executes s th [d, a, b] [a, b] →
      gives (.fadd ⟨d, a, b, dbl, rm⟩) (fpAdd f x y mode).bits (fpAdd f x y mode).flags ∧
      gives (.fsub ⟨d, a, b, dbl, rm⟩) (fpSub f x y mode).bits (fpSub f x y mode).flags ∧
      gives (.fmul ⟨d, a, b, dbl, rm⟩) (fpMul f x y mode).bits (fpMul f x y mode).flags ∧
      gives (.fdiv ⟨d, a, b, dbl, rm⟩) (fpDiv f x y mode).bits (fpDiv f x y mode).flags ∧
      gives (.fmin ⟨d, a, b, dbl⟩) (fpMinMax f false x y).bits (fpMinMax f false x y).flags ∧
      gives (.fmax ⟨d, a, b, dbl⟩) (fpMinMax f true x y).bits (fpMinMax f true x y).flags ∧
      gives (.fsgn ⟨d, a, b, dbl⟩) (x % f.signBit + y / f.signBit % 2 * f.signBit) FpFlags.none ∧
      (∀ cond, gives (.fcmp ⟨d, a, b, dbl⟩ cond) (if (fpCompare f cond.toNat x y).1 then 1 else 0)
        (fpCompare f cond.toNat x y).2)) ∧
    (Executes s th [d, a, b] [d, a, b] →
      gives (.fma ⟨d, a, b, dbl, rm⟩) (fpFma f x y (read (s.g d)) mode).bits (fpFma f x y (read (s.g d)) mode).flags) ∧
    (Executes s th [d, a] [a] →
      gives (.fsqrt ⟨d, a, dbl, rm⟩) (fpSqrt f x mode).bits (fpSqrt f x mode).flags ∧
      gives (.fround ⟨d, a, dbl, rm⟩) (fpRoundInt f x mode).bits (fpRoundInt f x mode).flags ∧
      Completes (.fclass ⟨d, a, dbl⟩) s th 4 d (BitVec.ofNat 64 (2 ^ fpClassBit f x)) ∧
      (∀ dt st, gives (.fcvt ⟨d, a, dt, st, rm⟩) (fcvtValue dt.toNat st.toNat mode (s.g a)).1.toNat
        (fcvtValue dt.toNat st.toNat mode (s.g a)).2))) ∧
  (∀ (s : State) (th : Thread) (d a b : Reg) (dbl : Bool), 5 ≤ th.fcsr.rm.toNat →
    (Executes s th [d, a, b] [] →
      ∀ i ∈ [Instr.fadd ⟨d, a, b, dbl, 7⟩, .fsub ⟨d, a, b, dbl, 7⟩, .fmul ⟨d, a, b, dbl, 7⟩, .fma ⟨d, a, b, dbl, 7⟩,
        .fdiv ⟨d, a, b, dbl, 7⟩], Traps i s (precise 1 (BitVec.ofNat 64 ((encode i).headD 0)) 0 0)) ∧
    (Executes s th [d, a] [] →
      ∀ i ∈ [Instr.fsqrt ⟨d, a, dbl, 7⟩, .fround ⟨d, a, dbl, 7⟩],
        Traps i s (precise 1 (BitVec.ofNat 64 ((encode i).headD 0)) 0 0)) ∧
    (Executes s th [d, a] [] → ∀ dt st : BitVec 4,
      Traps (.fcvt ⟨d, a, dt, st, 7⟩) s (precise 1 (BitVec.ofNat 64 ((encode (.fcvt ⟨d, a, dt, st, 7⟩)).headD 0)) 0 0)))

/-- R116's table, R118, R120, R123: what the operations give for NaN, infinite and zero operands, in both formats and
under every rounding code. R82, R86, R89, R92, R93, R116, R117: for finite operands they give the exact result rounded once, the
comparisons compare the exact values, and the conversions round to the destination's format or to an integer of its range. -/
def Obligations.FloatingPointSpecialOperands : Prop :=
  (∀ (dbl : Bool) (x y z rm : Nat),
    let f := Fmt.ofDbl dbl
    let a := decodeF f x
    let b := decodeF f y
    let c := decodeF f z
    let invalid : FRes := ⟨f.canon, ⟨true, false, false, false, false⟩⟩
    let silent (bits : Nat) : FRes := ⟨bits, ⟨false, false, false, false, false⟩⟩
    let inf (neg : Bool) : Nat := f.infCode + (if neg then f.signBit else 0)
    (a.cls = .snan ∨ b.cls = .snan →
      fpAdd f x y rm = invalid ∧ fpSub f x y rm = invalid ∧ fpMul f x y rm = invalid ∧ fpDiv f x y rm = invalid ∧
      fpMinMax f false x y = invalid ∧ fpMinMax f true x y = invalid ∧ fpFma f x y z rm = invalid) ∧
    (c.cls = .snan → fpFma f x y z rm = invalid) ∧
    (a.cls = .snan → fpSqrt f x rm = invalid ∧ fpRoundInt f x rm = invalid) ∧
    (a.cls ≠ .snan → b.cls ≠ .snan → a.cls = .qnan ∨ b.cls = .qnan →
      fpAdd f x y rm = silent f.canon ∧ fpSub f x y rm = silent f.canon ∧ fpMul f x y rm = silent f.canon ∧
      fpDiv f x y rm = silent f.canon ∧ (fpCompare f 0 x y).1 = false ∧ (fpCompare f 1 x y).1 = false ∧
      (fpCompare f 2 x y).1 = false ∧ (fpCompare f 3 x y).1 = true ∧ (fpCompare f 1 x y).2.nv = true ∧
      (fpCompare f 0 x y).2.nv = false) ∧
    (a.cls = .qnan → b.cls = .qnan → fpMinMax f false x y = silent f.canon ∧ fpMinMax f true x y = silent f.canon) ∧
    (a.cls = .qnan → b.cls ≠ .qnan → b.cls ≠ .snan →
      fpMinMax f false x y = silent y ∧ fpMinMax f true x y = silent y ∧
      fpMinMax f false y x = silent y ∧ fpMinMax f true y x = silent y) ∧
    (a.cls = .inf → b.cls = .inf →
      fpAdd f x y rm = (if a.neg = b.neg then silent (inf a.neg) else invalid) ∧
      fpSub f x y rm = (if a.neg = b.neg then invalid else silent (inf a.neg)) ∧ fpDiv f x y rm = invalid) ∧
    (a.cls = .zero → b.cls = .inf → fpMul f x y rm = invalid ∧ fpMul f y x rm = invalid ∧
      (c.cls ≠ .snan → fpFma f x y z rm = invalid)) ∧
    (a.cls = .inf → b.cls = .finite → c.cls = .inf → c.neg ≠ (a.neg != b.neg) → fpFma f x y z rm = invalid) ∧
    (a.cls = .zero → b.cls = .zero → fpDiv f x y rm = invalid) ∧
    (a.cls = .finite → b.cls = .zero →
      fpDiv f x y rm = ⟨inf (a.neg != b.neg), ⟨false, true, false, false, false⟩⟩) ∧
    (a.cls = .finite → a.neg = true → fpSqrt f x rm = invalid) ∧
    (a.cls = .inf → a.neg = true → fpSqrt f x rm = invalid) ∧
    (a.cls = .zero → fpSqrt f x rm = silent (if a.neg then f.signBit else 0)) ∧
    (a.cls = .zero ∨ a.cls = .inf → fpRoundInt f x rm = silent x)) ∧
  (∀ (dbl : Bool) (x y z rm : Nat), rm ≤ 4 →
    let f := Fmt.ofDbl dbl
    let a := decodeF f x
    let b := decodeF f y
    let c := decodeF f z
    let rounded (zeroNeg : Bool) (v : ℚ) (r : FRes) : Prop := RoundedSum f rm false zeroNeg v r
    let sumZero (p q : FVal) (pz : Prop) (pneg : Bool) (r : Bool → FRes → Prop) (res : FRes) : Prop :=
      (pz ∧ q.cls = .zero ∧ pneg = q.neg → r pneg res) ∧
      (¬ (pz ∧ q.cls = .zero ∧ pneg = q.neg) → r (decide (rm = 4)) res)
    (a.isNumber → b.isNumber →
      sumZero a b (a.cls = .zero) a.neg (fun n r => rounded n (a.value + b.value) r) (fpAdd f x y rm) ∧
      (a.cls = .zero ∧ b.cls = .zero ∧ a.neg = !b.neg → rounded a.neg (a.value - b.value) (fpSub f x y rm)) ∧
      (¬ (a.cls = .zero ∧ b.cls = .zero ∧ a.neg = !b.neg) →
        rounded (decide (rm = 4)) (a.value - b.value) (fpSub f x y rm)) ∧
      rounded (a.neg != b.neg) (a.value * b.value) (fpMul f x y rm) ∧
      (b.cls = .finite → rounded (a.neg != b.neg) (a.value / b.value) (fpDiv f x y rm)) ∧
      (c.isNumber → sumZero a c (a.cls = .zero ∨ b.cls = .zero) (a.neg != b.neg)
        (fun n r => rounded n (a.value * b.value + c.value) r) (fpFma f x y z rm)) ∧
      fpCompare f 0 x y = (decide (a.value = b.value), ⟨false, false, false, false, false⟩) ∧
      fpCompare f 1 x y = (decide (a.value < b.value), ⟨false, false, false, false, false⟩) ∧
      fpCompare f 2 x y = (decide (a.value ≤ b.value), ⟨false, false, false, false, false⟩) ∧
      fpCompare f 3 x y = (false, ⟨false, false, false, false, false⟩) ∧
      (a.value < b.value ∨ (a.value = b.value ∧ a.neg = true ∧ b.neg = false) →
        (fpMinMax f false x y).bits = x ∧ (fpMinMax f true x y).bits = y ∧
        (fpMinMax f false y x).bits = x ∧ (fpMinMax f true y x).bits = y)) ∧
    (a.cls = .finite → a.neg = false → Rounded f rm false false (Exact.sqrt a.value) (fpSqrt f x rm)) ∧
    (a.cls = .finite → ∃ n k : Nat, (n : ℚ) ≤ |a.value| ∧ |a.value| < n + 1 ∧
      (RoundsUp rm a.neg (decide (n % 2 = 1)) (Exact.of |a.value|) n (n + 1) → k = n + 1) ∧
      (¬ RoundsUp rm a.neg (decide (n % 2 = 1)) (Exact.of |a.value|) n (n + 1) → k = n) ∧
      let r := fpRoundInt f x rm
      (decodeF f r.bits).isNumber ∧ (decodeF f r.bits).neg = a.neg ∧ |(decodeF f r.bits).value| = k ∧
        r.flags = ⟨false, false, false, false, decide ((n : ℚ) ≠ |a.value|)⟩)) ∧
  (∀ (dt st rm : Nat) (w : Word), rm ≤ 4 →
    ∀ v ∈ [(0, decodeF .fp32 (w.toNat % 2 ^ 32)), (1, decodeF .fp64 w.toNat), (2, decodeF .fp16 (w.toNat % 2 ^ 16)),
        (3, decodeF .bf16 (w.toNat % 2 ^ 16)), (4, FVal.ofInt (w.setWidth 32).toInt), (5, FVal.ofInt (w.toNat % 2 ^ 32 : ℕ)),
        (6, FVal.ofInt w.toInt), (7, FVal.ofInt w.toNat), (8, decodeF .e4m3 (w.toNat % 2 ^ 8)),
        (9, decodeF .e5m2 (w.toNat % 2 ^ 8))], v.1 = st →
    let r := fcvtValue dt st rm w
    let invalid : FpFlags := ⟨true, false, false, false, false⟩
    (∀ f ∈ [(0, Fmt.fp32, false), (1, .fp64, false), (2, .fp16, false), (3, .bf16, false), (8, .e4m3, false), (9, .e5m2, false),
        (10, .e4m3, true), (11, .e5m2, true)], f.1 = dt →
      (v.2.cls = .snan → r = (BitVec.ofNat 64 f.2.1.canon, invalid)) ∧
      (v.2.cls = .qnan → r = (BitVec.ofNat 64 f.2.1.canon, ⟨false, false, false, false, false⟩)) ∧
      (v.2.cls = .inf →
        let signed (code : Nat) : Word := BitVec.ofNat 64 (code + if v.2.neg then f.2.1.signBit else 0)
        (f.2.1.specials = .ieee → r = (signed f.2.1.infCode, ⟨false, false, false, false, false⟩)) ∧
        (f.2.1.specials ≠ .ieee → f.2.2 = true → r = (signed f.2.1.maxCode, ⟨false, false, true, false, true⟩)) ∧
        (f.2.1.specials ≠ .ieee → f.2.2 = false → r = (BitVec.ofNat 64 f.2.1.canon, invalid))) ∧
      (v.2.isNumber → RoundedSum f.2.1 rm f.2.2 v.2.neg v.2.value ⟨r.1.toNat, r.2⟩)) ∧
    (∀ i ∈ [(4, -2 ^ 31, 2 ^ 31 - 1), (5, 0, 2 ^ 32 - 1), (6, -2 ^ 63, 2 ^ 63 - 1), (7, (0 : ℤ), (2 ^ 64 - 1 : ℤ))], i.1 = dt →
      (v.2.cls = .snan ∨ v.2.cls = .qnan → r = (0, invalid)) ∧
      (v.2.cls = .inf → r = (BitVec.ofInt 64 (if v.2.neg then i.2.1 else i.2.2), invalid)) ∧
      (v.2.isNumber → ∃ n k : Nat, (n : ℚ) ≤ |v.2.value| ∧ |v.2.value| < n + 1 ∧
        (RoundsUp rm v.2.neg (decide (n % 2 = 1)) (Exact.of |v.2.value|) n (n + 1) → k = n + 1) ∧
        (¬ RoundsUp rm v.2.neg (decide (n % 2 = 1)) (Exact.of |v.2.value|) n (n + 1) → k = n) ∧
        let z : ℤ := if v.2.neg then -k else k
        (z < i.2.1 → r = (BitVec.ofInt 64 i.2.1, invalid)) ∧ (i.2.2 < z → r = (BitVec.ofInt 64 i.2.2, invalid)) ∧
        (i.2.1 ≤ z → z ≤ i.2.2 →
          r = (BitVec.ofInt 64 z, ⟨false, false, false, false, decide ((n : ℚ) ≠ |v.2.value|)⟩)))))

/-! ### Branches, jumps and windows (09_scalar R124 to R131) -/

/-- R124 to R127: a branch goes to the label exactly when its condition holds, and bl links; jr and jlr go to an aligned target,
jlr reading it before it links, and a target with bits [1:0] nonzero raises ALIGN and changes neither pc nor register. -/
def Obligations.BranchesAndJumps : Prop :=
  ((∀ (s : State) (th : Thread) (r : RJ), Executes s th [r.d] [] →
    JumpsTo (.bl r) s th (BitVec.ofInt 64 (th.pc.toNat + 4 * r.off.toInt)) r.d (th.pc + 4)) ∧
  (∀ (s : State) (th : Thread) (r : RB), Executes s th [r.a, r.b] [r.a, r.b] →
    let a := s.g r.a
    let b := s.g r.b
    let goes (i : Instr) (c : Prop) : Prop :=
      (c → JumpsTo i s th (BitVec.ofInt 64 (th.pc.toNat + 4 * r.off.toInt)) 0 0) ∧ (¬ c → JumpsTo i s th (th.pc + 4) 0 0)
    goes (.beq r) (a = b) ∧ goes (.bne r) (a ≠ b) ∧
    goes (.blt r) (a.toInt < b.toInt) ∧ goes (.bge r) (b.toInt ≤ a.toInt) ∧
    goes (.bltu r) (a.toNat < b.toNat) ∧ goes (.bgeu r) (b.toNat ≤ a.toNat))) ∧
  ((∀ (s : State) (th : Thread) (a : Reg), Executes s th [a] [a] →
    ((s.g a).toNat % 4 = 0 → JumpsTo (.jr a) s th (s.g a) 0 0) ∧
    ((s.g a).toNat % 4 ≠ 0 → Traps (.jr a) s (precise 4 (s.g a) 0 0))) ∧
  (∀ (s : State) (th : Thread) (r : R2), Executes s th [r.d, r.a] [r.a] →
    ((s.g r.a).toNat % 4 = 0 → JumpsTo (.jlr r) s th (s.g r.a) r.d (th.pc + 4)) ∧
    ((s.g r.a).toNat % 4 ≠ 0 → Traps (.jlr r) s (precise 4 (s.g r.a) 0 0))))

/-- R35, R67, R129 to R131: xborrow takes the window of an idle slot of the core and reports 1, else it changes nothing and reports
0; xreturn gives a held window back, whose lender counts as idle from the next core cycle of its reticle on, and does nothing
without one; xget and xput
reach register j of the held window, and raise REGWIN with j without one or with j outside it, before any register is read; xget of
a register with bad parity raises PARITY with its number. -/
def Obligations.WindowsLentAndHeld : Prop :=
  ((∀ (s : State) (th : Thread) (r : R2), Executes s th [r.d, r.a] [r.a] →
    let n := (s.g r.a).toNat
    let lender : ThreadId := ⟨s.cur.core, n⟩
    (n ≤ 63 → n ≠ s.cur.slot → th.win.held = false → s.idle lender = true →
      CompletesIn
        ((s.modThread lender (fun l => { l with win := { l.win with lent := true } })).setThread s.cur
          { th with win := { th.win with held := true, bslot := n } })
        { th with win := { th.win with held := true, bslot := n } } (.xborrow r) s 4 r.d 1) ∧
    (63 < n ∨ n = s.cur.slot ∨ th.win.held = true ∨ s.idle lender = false → Completes (.xborrow r) s th 4 r.d 0)) ∧
  (∀ (s : State) (th : Thread), Executes s th [] [] →
    let lender : ThreadId := ⟨s.cur.core, th.win.bslot⟩
    (th.win.held = false → Completes .xreturn s th 4 0 0) ∧
    (th.win.held = true →
      CompletesIn
        ((s.modThread lender (fun l => { l with
            win := { l.win with lent := false }, idleFrom := agetD s.cycles (s.cur.core / 192) 0 / 1900 + 1 })).setThread s.cur
          { th with win := { th.win with held := false, bslot := 0 } })
        { th with win := { th.win with held := false, bslot := 0 } } .xreturn s 4 0 0))) ∧
  (∀ (s : State) (th lt : Thread),
    let lender : ThreadId := ⟨s.cur.core, th.win.bslot⟩
    (∀ r : R2, Executes s th [r.d] [] → th.win.held = true → s.threadAt lender = some lt → r.a.toNat < 8 * lt.win.wsize →
      (r.a ≠ 0 → lt.rfEntry r.a.toNat ∉ (s.coreAt s.cur.core).rfBad) →
      Completes (.xget r) s th 4 r.d (s.reg lender r.a)) ∧
    (∀ j a : Reg, Executes s th [a] [a] → th.win.held = true → s.threadAt lender = some lt → lender ≠ s.cur →
      j.toNat < 8 * lt.win.wsize →
      CompletesIn (s.setReg lender j (s.g a)) th (.xput j a) s 4 0 0) ∧
    (∀ r : R2, Executes s th [r.d] [] → th.win.held = true → s.threadAt lender = some lt → r.a.toNat < 8 * lt.win.wsize →
      r.a ≠ 0 → lt.rfEntry r.a.toNat ∈ (s.coreAt s.cur.core).rfBad →
      Traps (.xget r) s (precise 20 (BitVec.ofNat 64 r.a.toNat) 2 0)) ∧
    (∀ r : R2, Executes s th [r.d] [] →
      (th.win.held = false ∨ (s.threadAt lender = some lt ∧ 8 * lt.win.wsize ≤ r.a.toNat)) →
      Traps (.xget r) s (precise 3 (BitVec.ofNat 64 r.a.toNat) 0 0)) ∧
    (∀ j a : Reg, Executes s th [a] [] →
      (th.win.held = false ∨ (s.threadAt lender = some lt ∧ 8 * lt.win.wsize ≤ j.toNat)) →
      Traps (.xput j a) s (precise 3 (BitVec.ofNat 64 j.toNat) 0 0)))

/-! ### Traps, modes and control registers (09_scalar R132 to R142, 17_traps R215 to R217, R223, 23_observe R311) -/

/-- R215: taking any trap saves pc, cause, value and info, saves and changes the mode, and goes to the handler, and nothing else
changes; ECALL alone saves the address behind the instruction. R220: of the enabled pending interrupts a running thread takes
KNELL first, then MIGRATE, HOST, TIMER and MSG; a thread with ie = 0, one that is halted or one that is lent takes none. R143: a
thread that waits takes it where its wait is abandoned, a waiter of a semaphore leaving its queue, and a request that retries is
dropped; a parked full/empty request is asked for by a cancel; in every other wait it is deferred. -/
def Obligations.TrapAndInterruptEntry : Prop :=
  (∀ (s : State) (t : ThreadId) (th : Thread) (c : TrapCause), s.threadAt t = some th → th.dbg.tr = false →
    th.stepsLeft = none → (∀ n, th.wait ≠ some (.semp n)) →
    ∃ th', s.takeTrap t c = s.setThread t th' ∧
      Entered th th' (if c.completed then th.pc + 4 else th.pc)
        ((if c.intr then 2 ^ 63 else 0) + (if c.delivered then 2 ^ 8 else 0) + c.code % 2 ^ 8) c.tval
        (BitVec.ofNat 64 (c.sub % 256 * 2 ^ 56 + c.info % 2 ^ 56))) ∧
  (∀ (s : State) (t : ThreadId) (th : Thread), s.threadAt t = some th →
    let on := s.pending t th &&& th.status.ien
    (th.status.ie = true → th.halted = false → th.win.lent = false → s.threadRuns t = true → th.wait = none →
      ∀ p ∈ [([], 2), ([2], 3), ([2, 3], 4), ([2, 3, 4], 0), ([2, 3, 4, 0], 1)],
        (∀ e ∈ p.1, on.getLsbD e = false) → on.getLsbD p.2 = true →
        ∃ c, c.code = p.2 ∧ c.intr = true ∧ c.completed = false ∧ c.delivered = false ∧
          exec (.interruptEntry t) s = .next (s.takeTrap t c)) ∧
    (th.status.ie = false ∨ th.halted = true ∨ th.win.lent = true ∨ on = 0 →
      exec (.interruptEntry t) s = .next s)) ∧
  (∀ (s : State) (t : ThreadId) (th : Thread) (w : Wait), s.threadAt t = some th → th.status.ie = true → th.halted = false →
    th.win.lent = false → s.threadRuns t = true → s.pending t th &&& th.status.ien ≠ 0 → th.wait = some w →
    (w.abandoned = true → ∃ c, c.intr = true ∧ c.completed = false ∧ exec (.interruptEntry t) s = .next (s.takeTrap t c) ∧
      ∀ n, w = .semp n → th.dbg.tr = false → th.stepsLeft = none →
        t ∉ ((((s.takeTrap t c).stationAt (t.core / 8)).sem n).waiters)) ∧
    (w.abandoned = false → (∀ id, w ≠ .answer id) → exec (.interruptEntry t) s = .next s) ∧
    (∀ (id : Nat) (x : Access), w = .answer id → s.accessAt id = some x →
      (AccessKind.parks x.kind = false ∨ x.cancel.isSome = true → exec (.interruptEntry t) s = .next s) ∧
      (AccessKind.parks x.kind = true → x.cancel = none →
        (x.stage = .refused → ∃ c, c.intr = true ∧ exec (.interruptEntry t) s =
          .next (State.takeTrap { s with accesses := s.accesses.filter (fun y => y.id != id) } t c)) ∧
        (x.stage = .parked ∨ x.stage = .offDevice → exec (.interruptEntry t) s = .next { s with
          accesses := s.accesses.map (fun y => if y.id == id then { y with cancel := some .interrupt } else y) }))))

/-- R133 to R136, R216, R311, R312: ecall saves the address behind itself, brk and trapc their own, and trapc does nothing for
zero; eret restores pc, mode and interrupt enable and clears pmode and pie; wfi completes with an interrupt pending, enabled or
not, and waits without one; with dbgctl.ss an instruction completed in user mode is followed by BREAK with sub 2 and its address,
or, with dbgctl.dbg, by a halt of cause 2, whatever the instruction on registers is; and a mode above user is not stepped. -/
def Obligations.SystemInstructions : Prop :=
  (∀ (s : State) (th : Thread), th.dbg.tr = false → (∀ n, th.wait ≠ some (.semp n)) →
    (Executes s th [] [] → TrapsWith .ecall s th (th.pc + 4) 15 0 0 ∧ TrapsWith .brk s th th.pc 14 0 0) ∧
    (∀ a : Reg, Executes s th [a] [a] →
      (s.g a = 0 → Completes (.trapc a) s th 4 0 0) ∧ (s.g a ≠ 0 → TrapsWith (.trapc a) s th th.pc 14 (s.g a) 0))) ∧
  (∀ (s : State) (th : Thread), Executes s th [] [] →
    (th.status.mode ≠ .user → th.trap.tpc.toNat % 4 = 0 →
      exec .eret s = .next (s.setThread s.cur { th with
        pc := th.trap.tpc, wait := none
        status := { th.status with mode := th.status.pmode, ie := th.status.pie, pmode := .user, pie := false } })) ∧
    (th.status.mode ≠ .user → th.trap.tpc.toNat % 4 ≠ 0 → Traps .eret s (precise 4 th.trap.tpc 0 0)) ∧
    (th.status.mode = .machine → s.pending s.cur th ≠ 0 → Completes .wfi s th 4 0 0) ∧
    (th.status.mode = .machine → s.pending s.cur th = 0 → exec .wfi s = .next (s.waitFor s.cur .interrupt))) ∧
  (∀ (s : State) (th : Thread), s.threadAt s.cur = some th → th.stepsLeft = none → th.dbg.ss = true →
    th.win.wsize ≠ 0 →
    let after := s.setThread s.cur { th with pc := th.pc + 4, wait := none }
    (th.status.mode = .user → th.dbg.dbg = false →
      exec (.add ⟨0, 0, 0⟩) s = .next (after.takeTrap s.cur (precise 14 th.pc 2 0))) ∧
    (th.status.mode = .user → th.dbg.dbg = true → exec (.add ⟨0, 0, 0⟩) s = .next (after.halt s.cur 2)) ∧
    (th.status.mode ≠ .user → exec (.add ⟨0, 0, 0⟩) s = .next after)) ∧
  (∀ (s t : State) (th u : Thread) (r : R3) (q : R2) (ri : RI) (rl : RL) (rs : RS) (rj : RJ) (rb : RB) (rf : RF) (f : F3)
    (fq : F2) (fc : FC) (fk : FK) (fv : FV) (a d : Reg) (imm : BitVec 32) (cond : BitVec 3) (n : BitVec 4),
    ∀ i ∈ [Instr.add r, .sub r, .mul r, .mulh r, .mulhu r, .mulhsu r, .madd r, .div r, .divu r, .rem r, .remu r, .and r, .or r,
      .xor r, .andn r, .orn r, .shl r, .shr r, .sar r, .rotl r, .min r, .max r, .minu r, .maxu r, .slt r, .sltu r, .sel r, .clz q,
      .ctz q, .popc q, .bswap q, .sextB q, .sextH q, .sextW q, .zextB q, .zextH q, .zextW q, .hashm r, .addi ri, .andi ri, .ori ri,
      .xori ri, .slti ri, .sltiu ri, .addiLong rl, .andiLong rl, .oriLong rl, .xoriLong rl, .sltiLong rl, .sltiuLong rl,
      .luiH d imm, .shli rs, .shri rs, .sari rs, .rotli rs, .lui rj, .addpc rj, .bfx rf, .bfxu rf, .bfi rf, .fadd f, .fsub f,
      .fmul f, .fma f, .fdiv f, .fsqrt fq, .fmin fc, .fmax fc, .fsgn fc, .fcmp fc cond, .fclass fk, .fcvt fv, .fround fq, .bl rj,
      .jr a, .jlr q, .beq rb, .bne rb, .blt rb, .bge rb, .bltu rb, .bgeu rb, .trapc a, .xborrow q, .xreturn, .xget q, .xput d a,
      .scope r, .rdtime d, .attime a, .evpoll q, .evclr a, .peekr d, .rdc d n, .wrc a n, .iinv a d, .ifence],
    s.threadAt s.cur = some th → th.status.mode = .user → th.stepsLeft = none → th.dbg.ss = false → th.win.bslot ≠ s.cur.slot →
    exec i s = .next t → t.threadAt s.cur = some u → u.status.mode = .user → u.wait = none →
    let stepped (v : Thread) : Thread := { v with dbg := { v.dbg with ss := true } }
    let after := t.setThread s.cur (stepped u)
    (th.dbg.dbg = false →
      exec i (s.setThread s.cur (stepped th)) = .next (after.takeTrap s.cur (precise 14 th.pc 2 0))) ∧
    (th.dbg.dbg = true → exec i (s.setThread s.cur (stepped th)) = .next (after.halt s.cur 2)))

/-- R68, R138: a privileged instruction below its mode raises PRIV with its first word and does nothing else. R34, R67, R233: in
every instruction word, a register field that names a register outside the window raises REGWIN with its number, before any
register is read; a source with bad parity raises PARITY with its number, where no earlier check fails. Where several registers
fail, which of them is named is the model's choice (log entry 6). -/
def Obligations.PrivilegeAndRegisterFaults : Prop :=
  (∀ (s : State) (th : Thread), s.threadAt s.cur = some th →
    let priv (i : Instr) : Prop := Traps i s (precise 2 (BitVec.ofNat 64 ((encode i).headD 0)) 0 0)
    (th.status.mode = .user → priv .eret ∧ ∀ a b, priv (.xinv a b)) ∧
    (th.status.mode ≠ .machine → priv .wfi ∧ (∀ a, priv (.wrc a 4)) ∧ ∀ a, priv (.wrc a 13)) ∧
    (th.status.mode = .user → ∀ n ∈ [6, 8, 9, 10, 11, 12, 15], (∀ d, priv (.rdc d n)) ∧ ∀ a, priv (.wrc a n)) ∧
    (th.status.mode = .user → ∀ a, priv (.wrc a 2) ∧ priv (.wrc a 14)) ∧
    (∀ n ∈ [0, 1, 3, 5], ∀ a, priv (.wrc a n))) ∧
  (∀ (s : State) (th : Thread) (i : Instr), s.threadAt s.cur = some th → ModeAdmits i th →
    let regs := wordRegs i
    let outside (q : Reg) : Prop := 8 * th.win.wsize ≤ q.toNat
    let bad (q : Reg) : Prop := q ≠ 0 ∧ 8 * th.win.wbase + q.toNat ∈ (s.coreAt s.cur.core).rfBad
    ((∃ q ∈ regs.1, outside q) →
      ∃ q ∈ regs.1, outside q ∧ Traps i s (precise 3 (BitVec.ofNat 64 q.toNat) 0 0)) ∧
    ((∀ q ∈ regs.1, ¬ outside q) → RoundingAdmits i th → (∀ j a, i ≠ .xput j a) → (∃ q ∈ regs.2, bad q) →
      ∃ q ∈ regs.2, bad q ∧ Traps i s (precise 20 (BitVec.ofNat 64 q.toNat) 2 0))) ∧
  (∀ (s : State) (th lt : Thread) (j a : Reg), s.threadAt s.cur = some th → a.toNat < 8 * th.win.wsize → a ≠ 0 →
    8 * th.win.wbase + a.toNat ∈ (s.coreAt s.cur.core).rfBad → th.win.held = true →
    s.threadAt ⟨s.cur.core, th.win.bslot⟩ = some lt → j.toNat < 8 * lt.win.wsize →
    Traps (.xput j a) s (precise 20 (BitVec.ofNat 64 a.toNat) 2 0))

/-- R137, R138 and the registers' maps: what rdc of each control register reads, and what wrc of each writes, reserved and read-only
fields aside. A look at mcur leaves the model's own mark of its tick (R331, log entry 1). -/
def Obligations.ControlRegisters : Prop :=
  (∀ (s : State) (th : Thread) (d : Reg), Executes s th [d] [] →
    let bit (b : Bool) (n : Nat) : Nat := if b then 2 ^ n else 0
    let mode (m : Mode) : Nat := match m with | .user => 0 | .supervisor => 1 | .machine => 2
    let gives (n : BitVec 4) (v : Nat) : Prop := Completes (.rdc d n) s th 4 d (BitVec.ofNat 64 v)
    gives 0 (s.place s.cur) ∧
    gives 1 (bit th.win.lent 23 + bit th.win.held 22 + th.win.bslot % 64 * 2 ^ 16 + th.win.wsize % 32 * 2 ^ 8 +
      th.win.wbase % 256) ∧
    gives 2 (s.coreAt s.cur.core).rotLen.toNat ∧
    gives 3 (th.task.inst.toNat * 2 ^ 32 + th.task.node.toNat * 2 ^ 16 + th.task.launch.toNat * 2 ^ 4 +
      th.task.eprio.toNat * 2 ^ 2 + bit th.task.dyn 1 + bit th.task.valid 0) ∧
    gives 4 (th.ctxTag.toNat * 2 ^ 8 + th.ctxId.toNat) ∧
    gives 5 s.time.toNat ∧
    gives 7 (th.fcsr.rm.toNat * 2 ^ 8 + bit th.fcsr.flags.nx 4 + bit th.fcsr.flags.uf 3 + bit th.fcsr.flags.ovf 2 +
      bit th.fcsr.flags.dz 1 + bit th.fcsr.flags.nv 0) ∧
    gives 13 (th.k3.toNat * 2 ^ 32 + th.k2.toNat * 2 ^ 16 + th.k1.toNat) ∧
    (let m := (s.stationAt (s.cur.core / 8)).mcur
     CompletesIn (s.modStation (s.cur.core / 8) (fun k => { k with viewed := some s.time.toNat })) th (.rdc d 14) s 4 d
      (BitVec.ofNat 64 (bit m.abort 63 + bit m.busy 62 + m.tslot % 64 * 2 ^ 50 + m.tcore % 8 * 2 ^ 47 + m.tile % 16 * 2 ^ 36 +
        m.aslot % 64 * 2 ^ 30 + m.bslot % 64 * 2 ^ 24 + bit m.full 19 + m.s % 8 * 2 ^ 16 + m.pair % 64))) ∧
    (th.status.mode ≠ .user →
      gives 6 (th.status.ien.toNat * 2 ^ 24 + (s.pending s.cur th).toNat * 2 ^ 16 + bit th.status.pie 7 +
        bit th.status.ie 6 + mode th.status.pmode * 2 ^ 2 + mode th.status.mode) ∧
      gives 8 th.trap.tvec.toNat ∧ gives 9 th.trap.tpc.toNat ∧ gives 10 th.trap.tcause.toNat ∧
      gives 11 th.trap.tval.toNat ∧ gives 12 th.trap.tinfo.toNat ∧
      gives 15 (th.dbg.hcause.toNat * 2 ^ 12 + bit th.dbg.skip 9 + bit th.dbg.dbg 8 + bit th.dbg.ss 7 + bit th.dbg.tr 6 +
        th.dbg.wen.toNat * 2 ^ 4 + th.dbg.ben.toNat))) ∧
  (∀ (s : State) (th : Thread) (a : Reg), Executes s th [a] [a] →
    let w := s.g a
    let sets (n : BitVec 4) (th' : Thread) : Prop := CompletesIn (s.setThread s.cur th') th' (.wrc a n) s 4 0 0
    sets 7 { th with fcsr := { rm := w.extractLsb' 8 3
                               flags := { nv := w.getLsbD 0, dz := w.getLsbD 1, ovf := w.getLsbD 2, uf := w.getLsbD 3
                                          nx := w.getLsbD 4 } } } ∧
    (th.status.mode = .machine →
      sets 4 { th with ctxTag := w.extractLsb' 8 8, ctxId := w.extractLsb' 0 6 } ∧
      sets 13 { th with k1 := w.extractLsb' 0 16, k2 := w.extractLsb' 16 16, k3 := w.extractLsb' 32 16 }) ∧
    (th.status.mode ≠ .user →
      CompletesIn (s.modCore s.cur.core (fun k => { k with rotNext := some (w.extractLsb' 0 2) })) th (.wrc a 2) s 4 0 0 ∧
      sets 6 { th with status := { th.status with
        ien := w.extractLsb' 24 5, pie := w.getLsbD 7, ie := w.getLsbD 6
        pmode := if w.extractLsb' 2 2 = 0 then .user else if w.extractLsb' 2 2 = 1 then .supervisor
          else if w.extractLsb' 2 2 = 2 ∧ th.status.mode = .machine then .machine else th.status.pmode } } ∧
      sets 8 { th with trap := { th.trap with tvec := w &&& 0x00FFFFFFFFFFFFFC#64 } } ∧
      sets 9 { th with trap := { th.trap with tpc := w &&& 0x00FFFFFFFFFFFFFF#64 } } ∧
      sets 10 { th with trap := { th.trap with tcause := w &&& 0x80000000000001FF#64 } } ∧
      sets 11 { th with trap := { th.trap with tval := w } } ∧ sets 12 { th with trap := { th.trap with tinfo := w } } ∧
      CompletesIn (s.modStation (s.cur.core / 8) (fun k =>
          { k with mcur := { k.mcur with abort := k.mcur.abort || (w.getLsbD 63 && k.mcur.busy) } })) th (.wrc a 14) s 4 0 0 ∧
      sets 15 { th with dbg := { th.dbg with skip := w.getLsbD 9, dbg := w.getLsbD 8, ss := w.getLsbD 7, tr := w.getLsbD 6
                                             wen := w.extractLsb' 4 2, ben := w.extractLsb' 0 4 } }))

/-- R140 to R142: iinv removes the lines of the core's instruction cache that the range overlaps, all of them from 32,768
bytes on; ifence discards the thread's fetch register; xinv removes the context's translations of the range, completes where no
access translated through them is incomplete, and else waits until none is, an engine's row updates among them. Which accesses those
are is the model's reading (log entry 17). -/
def Obligations.CodeAndTranslationInvalidation : Prop :=
  ∀ (s : State) (th : Thread),
    (∀ a b : Reg, Executes s th [a, b] [a, b] →
      ∃ keep : ICacheLine → Bool,
        (∀ l, keep l = true ↔ (s.g b).toNat < 32768 ∧ ∀ i < (s.g b).toNat, ∀ j < 64,
          (s.g a + BitVec.ofNat 64 i) ≠ BitVec.ofNat 64 (l.base + j)) ∧
        CompletesIn (s.modCore s.cur.core (fun k => { k with icache := k.icache.filter keep })) th (.iinv a b) s 4 0 0) ∧
    (Executes s th [] [] →
      CompletesIn (s.setThread s.cur { th with fetch := none }) { th with fetch := none } .ifence s 4 0 0) ∧
    (∀ a b : Reg, Executes s th [a, b] [a, b] → th.status.mode ≠ .user →
      let ctx := th.ctxId.toNat
      let page := (s.g a).toNat / 65536
      let pages := (s.g b).toNat
      ∃ t, Removed s t ctx page pages ∧
        ((∀ id, ¬ s.Through ctx page pages id) → CompletesIn t th (.xinv a b) s 4 0 0) ∧
        ((∃ id, s.Through ctx page pages id) →
          ∃ ids, (∀ id, id ∈ ids ↔ s.Through ctx page pages id) ∧ exec (.xinv a b) s = .next (t.waitFor s.cur (.xlat ids)))) ∧
    (∀ (t : ThreadId) (ids : List Nat), s.threadAt t = some th → th.wait = some (.xlat ids) →
      (s.Incomplete ids → s.endWait t th = none) ∧ (¬ s.Incomplete ids → s.endWait t th = some (s.finish t 4)))

/-! ### Loads, stores, full/empty operations and atomics (11_memory_isa R145 to R156) -/

/-- R58, R79, R148: an own-scratchpad load reads its little-endian bytes at g[ra] + off × n, sign- or zero-extended. -/
def Obligations.OwnScratchpadLoads : Prop :=
  ∀ (s : State) (th : Thread) (m : MemOp), m.sp = 0 → Executes s th [m.t, m.a] [m.a] → Thread.quiet th (wkMask m.wk) →
    let core := s.coreAt s.cur.core
    let ea (n : Nat) : Nat := (s.g m.a + m.off.signExtend 64 * BitVec.ofNat 64 n).toNat
    let ready (n : Nat) : Prop := OwnAccess s th (ea n) n 1 ∧ core.badParity (ea n) n = false
    let byte (n i : Nat) : Nat := (core.spad.read (ea n + i)).toNat
    let gives (i : Instr) (v : Word) : Prop := CompletesIn (s.ownTouched id) th i s 4 m.t v
    let b : BitVec 8 := BitVec.ofNat 8 (byte 1 0)
    let h : BitVec 16 := BitVec.ofNat 16 (byte 2 0 + 2 ^ 8 * byte 2 1)
    let w : BitVec 32 := BitVec.ofNat 32 (byte 4 0 + 2 ^ 8 * byte 4 1 + 2 ^ 16 * byte 4 2 + 2 ^ 24 * byte 4 3)
    let d : BitVec 64 := BitVec.ofNat 64 (byte 8 0 + 2 ^ 8 * byte 8 1 + 2 ^ 16 * byte 8 2 + 2 ^ 24 * byte 8 3 +
      2 ^ 32 * byte 8 4 + 2 ^ 40 * byte 8 5 + 2 ^ 48 * byte 8 6 + 2 ^ 56 * byte 8 7)
    (ready 1 → gives (.ldB m) (b.signExtend 64) ∧ gives (.ldBu m) (b.zeroExtend 64)) ∧
    (ready 2 → gives (.ldH m) (h.signExtend 64) ∧ gives (.ldHu m) (h.zeroExtend 64)) ∧
    (ready 4 → gives (.ldW m) (w.signExtend 64) ∧ gives (.ldWu m) (w.zeroExtend 64)) ∧
    (ready 8 → gives (.ldD m) d)

/-- R58, R80, R148, R149: an own-scratchpad store changes its n bytes, at the address that the meaning computes, and no
other byte of memory. -/
def Obligations.OwnScratchpadStores : Prop :=
  ∀ (s : State) (th : Thread) (m : MemOp), m.sp = 0 → Executes s th [m.t, m.a] [m.a, m.t] → Thread.quiet th (wkMask m.wk) →
    ∀ p ∈ [(Instr.stB m, 1), (.stH m, 2), (.stW m, 4), (.stD m, 8)],
      let ea := (effAddr (s.g m.a) m.off p.2).toNat
      OwnAccess s th ea p.2 2 → ((s.coreAt s.cur.core).badParity ea p.2 = false ∨ p.2 = 8) →
      ∃ k, Stored (s.coreAt s.cur.core) k ea p.2 (s.g m.t) ∧ CompletesIn (s.ownTouched fun _ => k) th p.1 s 4 0 0

/-- R152, R153: what each full/empty operation on the own scratchpad gives when it is served: the register, the word and its
bit; ldfe and ldff on an empty word, whatever its parity, and stfe on a full one park instead and wait for the owner. -/
def Obligations.OwnFullEmptyOperations : Prop :=
  ∀ (s : State) (th : Thread) (m : MemOp), m.sp = 0 → Executes s th [m.t, m.a] [m.a, m.t] → Thread.quiet th (wkMask m.wk) →
    let core := s.coreAt s.cur.core
    let ea := (effAddr (s.g m.a) m.off 8).toNat
    let good := core.badParity ea 8 = false
    let parks (i : Instr) : Prop := core.lost = false → core.park.length < 96 → ∃ t x, exec i s = .next t ∧
      t.threadAt s.cur = some { th with wait := some (.answer s.nextId) } ∧
      t.accessAt s.nextId = some x ∧ x.stage = .parked ∧ x.loc = s.cur.core * 2 ^ 18 + ea ∧
      (t.coreAt s.cur.core).park = core.park ++ [s.nextId] ∧ (t.coreAt s.cur.core).spad = core.spad ∧
      (t.coreAt s.cur.core).spadEmpty = core.spadEmpty
    (OwnAccess s th ea 8 3 → good → core.isFull ea = true →
      CompletesIn (s.ownTouched fun k => k.setFull ea false) th (.ldfe m) s 4 m.t (core.spad.readWord ea)) ∧
    (OwnAccess s th ea 8 1 → good → core.isFull ea = true →
      CompletesIn (s.ownTouched id) th (.ldff m) s 4 m.t (core.spad.readWord ea)) ∧
    (OwnAccess s th ea 8 3 → core.isFull ea = false →
      ∃ k, Stored core k ea 8 (s.g m.t) ∧ CompletesIn (s.ownTouched fun _ => k.setFull ea true) th (.stfe m) s 4 0 0) ∧
    (OwnAccess s th ea 8 2 →
      (∃ k, Stored core k ea 8 (s.g m.t) ∧ CompletesIn (s.ownTouched fun _ => k.setFull ea true) th (.stf m) s 4 0 0) ∧
      CompletesIn (s.ownTouched fun k => k.setFull ea ((s.g m.t).getLsbD 0)) th (.fest m) s 4 0 0) ∧
    (core.isFull ea = false → (OwnAccess s th ea 8 3 → parks (.ldfe m)) ∧ (OwnAccess s th ea 8 1 → parks (.ldff m))) ∧
    (OwnAccess s th ea 8 3 → core.isFull ea = true → parks (.stfe m))

/-- R59, R155, R156: an own-scratchpad atomic returns the old value, sign-extended, and stores the new one, on four or eight bytes;
a floating-point atomic returns the old encoding and stores the sum (ties to even) or the minimum or maximum. -/
def Obligations.OwnAtomics : Prop :=
  (∀ (s : State) (th : Thread) (m : AmoOp), m.sp = 0 →
    let n := if m.wide then 8 else 4
    let ea := (s.g m.a).toNat
    let core := s.coreAt s.cur.core
    OwnAccess s th ea n 3 → core.badParity ea n = false → (2 ≤ m.ord.toNat → ReleaseFree s th m.scope.toNat) →
    let old : BitVec (8 * n) := BitVec.ofNat (8 * n) (core.spad.readLE ea n)
    let x : BitVec (8 * n) := (s.g m.t).setWidth (8 * n)
    let gives (i : Instr) (new : BitVec (8 * n)) : Prop := ∃ k, Stored core k ea n (new.setWidth 64) ∧
      CompletesIn (s.ownTouched fun _ => k) th i s 4 m.t (old.signExtend 64)
    (Executes s th [m.t, m.a] [m.t, m.a] →
      gives (.amoAdd m) (old + x) ∧ gives (.amoAnd m) (old &&& x) ∧ gives (.amoOr m) (old ||| x) ∧
      gives (.amoXor m) (old ^^^ x) ∧ gives (.amoSwap m) x ∧
      gives (.amoMin m) (if old.toInt < x.toInt then old else x) ∧ gives (.amoMax m) (if x.toInt < old.toInt then old else x) ∧
      gives (.amoMinu m) (if old.toNat < x.toNat then old else x) ∧
      gives (.amoMaxu m) (if x.toNat < old.toNat then old else x)) ∧
    (Executes s th [m.t, m.t + 1, m.a] [m.t, m.t + 1, m.a] →
      gives (.cas m) (if old = x then (s.g (m.t + 1)).setWidth (8 * n) else old))) ∧
  (∀ (s : State) (th : Thread) (m : AmoOp), m.sp = 0 → Executes s th [m.t, m.a] [m.t, m.a] →
    let n := if m.wide then 8 else 4
    let ea := (s.g m.a).toNat
    let core := s.coreAt s.cur.core
    OwnAccess s th ea n 3 → core.badParity ea n = false → (2 ≤ m.ord.toNat → ReleaseFree s th m.scope.toNat) →
    let f := if m.wide then Fmt.fp64 else Fmt.fp32
    let old := core.spad.readLE ea n
    let x := (s.g m.t).toNat % 2 ^ (8 * n)
    let gives (i : Instr) (new : Nat) : Prop := ∃ k, Stored core k ea n (BitVec.ofNat 64 new) ∧
      CompletesIn (s.ownTouched fun _ => k) th i s 4 m.t (BitVec.ofNat 64 old)
    gives (.famoFadd m) (fpAdd f old x 0).bits ∧ gives (.famoFmin m) (fpMinMax f false old x).bits ∧
    gives (.famoFmax m) (fpMinMax f true old x).bits)

/-- R58, R81, R222: a load or store whose wk field names a counter waits with no effect while it is not zero, and where its
failure is on record takes DEFSTORE with it; an atomic that releases waits while a posted store that its scope encloses is not
performed, and takes DEFSTORE likewise. R79, R147, R148, R178: then the address checks of an own or peer access, atomics included,
in their order: ALIGN, then PROT sub 5 outside the scratchpads, then RANGELOCK, up to and in the tick in which the command that
locks the range completes; each with the address in tval and no effect. A global address with bits [63:56] set raises XLATE reason
4. -/
def Obligations.AddressChecks : Prop :=
  let checked (s : State) (i : Instr) (sp : BitVec 2) (ea : Word) (n : Nat) : Prop :=
    let out : Prop := (sp = 0 ∧ 2 ^ 18 ≤ ea.toNat) ∨ (sp = 1 ∧ 96 * 2 ^ 18 ≤ ea.toNat)
    (ea.toNat % n ≠ 0 → Traps i s (precise 4 ea 0 0)) ∧
    (ea.toNat % n = 0 → out → Traps i s (precise 6 ea 5 0)) ∧
    (ea.toNat % n = 0 → sp = 2 → 2 ^ 56 ≤ ea.toNat → Traps i s (precise 5 ea 4 0)) ∧
    (ea.toNat % n = 0 → ¬ out → sp ≠ 2 →
      (∃ l ∈ (s.coreAt s.cur.core).locks, (∀ t, l.freed = some t → s.time.toNat ≤ t) ∧
        overlaps l.addr l.len (spadNumber s.cur.core sp.toNat ea.toNat) n = true) → Traps i s (precise 7 ea 0 0))
  let reports (s : State) (th : Thread) (i : Instr) (k : Nat) (f : StoreFailure) : Prop :=
    exec i s = .next ((s.setThread s.cur (th.setFailure k none)).takeTrap s.cur
      (precise 13 f.addr f.code (f.pc.toNat / 4 * 4 + if f.more then 1 else 0)))
  (∀ (s : State) (th : Thread) (m : MemOp), Executes s th [m.t, m.a] [m.a, m.t] →
    ∀ p ∈ [(Instr.ldB m, 1), (.ldH m, 2), (.ldW m, 4), (.ldD m, 8), (.ldBu m, 1), (.ldHu m, 2), (.ldWu m, 4), (.stB m, 1),
        (.stH m, 2), (.stW m, 4), (.stD m, 8), (.ldfe m, 8), (.ldff m, 8), (.stfe m, 8), (.stf m, 8), (.fest m, 8)],
      let k := m.wk.toNat
      (k ≠ 0 → th.counter k ≠ 0 → exec p.1 s = .next (s.waitFor s.cur (.counters (2 ^ (k - 1))))) ∧
      (k ≠ 0 → th.counter k = 0 → ∀ f, th.failure k = some f → reports s th p.1 k f) ∧
      (k = 0 ∨ (th.counter k = 0 ∧ th.failure k = none) → checked s p.1 m.sp (effAddr (s.g m.a) m.off p.2) p.2)) ∧
  (∀ (s : State) (th : Thread) (m : AmoOp) (i : Instr),
    ((Executes s th [m.t, m.a] [m.t, m.a] ∧ i ∈ [Instr.amoAdd m, .amoAnd m, .amoOr m, .amoXor m, .amoMin m, .amoMax m, .amoMinu m,
        .amoMaxu m, .amoSwap m, .famoFadd m, .famoFmin m, .famoFmax m]) ∨
      (Executes s th [m.t, m.t + 1, m.a] [m.t, m.t + 1, m.a] ∧ i = .cas m)) →
    (2 ≤ m.ord.toNat → (∃ x ∈ s.accesses, x.postedBy s.cur = true ∧ s.storeScope s.cur x ≤ m.scope.toNat) →
      exec i s = .next (s.waitFor s.cur (.release m.scope.toNat))) ∧
    (2 ≤ m.ord.toNat → (∀ x ∈ s.accesses, x.postedBy s.cur = true → m.scope.toNat < s.storeScope s.cur x) →
      ∀ k ∈ [1, 2, 3], ∀ f, th.failure k = some f → f.scope ≤ m.scope.toNat →
        (∀ j ∈ [1, 2, 3], j ≠ k → th.failure j = none) → reports s th i k f) ∧
    ((2 ≤ m.ord.toNat → ReleaseFree s th m.scope.toNat) → checked s i m.sp (s.g m.a) (if m.wide then 8 else 4)))

/-- R79, R148, R152, R155: a waiting access to peer or global space leaves the thread with its operands, address, mode, context and
key tag, and makes it wait for the owner's answer; nothing else changes. -/
def Obligations.RemoteRequestsLeave : Prop :=
  ∀ (s : State) (th : Thread) (sp : BitVec 2) (ea data second : Word) (n kind : Nat) (rd : Reg) (i : Instr) (k : AccessKind)
    (sext lu : Bool), sp = 1 ∨ sp = 2 →
    ((∃ m : MemOp, Executes s th [m.t, m.a] (if k = .stfe then [m.a, m.t] else [m.a]) ∧ Thread.quiet th (wkMask m.wk) ∧
        m.sp = sp ∧ ea = effAddr (s.g m.a) m.off n ∧ rd = m.t ∧ data = (if k = .stfe then s.g m.t else 0) ∧ second = 0 ∧
        lu = m.lu ∧
        (i, n, kind, k, sext) ∈ [(Instr.ldB m, 1, 1, AccessKind.load, true), (.ldH m, 2, 1, .load, true),
          (.ldW m, 4, 1, .load, true), (.ldD m, 8, 1, .load, false), (.ldBu m, 1, 1, .load, false),
          (.ldHu m, 2, 1, .load, false), (.ldWu m, 4, 1, .load, false), (.ldfe m, 8, 3, .ldfe, false),
          (.ldff m, 8, 1, .ldff, false), (.stfe m, 8, 3, .stfe, false)]) ∨
      (∃ m : AmoOp, (2 ≤ m.ord.toNat → ReleaseFree s th m.scope.toNat) ∧ m.sp = sp ∧ ea = s.g m.a ∧ rd = m.t ∧
        data = s.g m.t ∧ n = (if m.wide then 8 else 4) ∧ kind = 3 ∧ lu = false ∧
        ((Executes s th [m.t, m.a] [m.t, m.a] ∧ second = 0 ∧
            (i, k, sext) ∈ [(Instr.amoAdd m, AccessKind.amo .add, true), (.amoAnd m, .amo .and, true), (.amoOr m, .amo .or, true),
              (.amoXor m, .amo .xor, true), (.amoMin m, .amo .min, true), (.amoMax m, .amo .max, true),
              (.amoMinu m, .amo .minu, true), (.amoMaxu m, .amo .maxu, true), (.amoSwap m, .amo .swap, true),
              (.famoFadd m, .famo .fadd, false), (.famoFmin m, .famo .fmin, false), (.famoFmax m, .famo .fmax, false)]) ∨
          (Executes s th [m.t, m.t + 1, m.a] [m.t, m.t + 1, m.a] ∧ second = s.g (m.t + 1) ∧ i = .cas m ∧ k = .amo .cas ∧
            sext = true)))) →
    s.addrFault s.cur sp.toNat ea n = none → Unwatched s th sp.toNat ea.toNat n kind →
    let x : Access :=
      { id := s.nextId, issuer := .thread s.cur, kind := k, sp := sp.toNat, va := ea.toNat, loc := 0, n := n, x := data, y := second
        rd := rd, sext := sext, counter := 0, pc := th.pc, user := th.status.mode == .user, ctx := th.ctxId.toNat
        tag := th.ctxTag.toNat, lu := lu, issued := s.time.toNat, stage := .travelling, cancel := none, port := none
        sent := s.nextId }
    exec i s = .next (State.setThread { s with accesses := s.accesses ++ [x], nextId := s.nextId + 1 } s.cur
      { th with wait := some (.answer s.nextId) })

/-- R80, R150, R152: a store, stf or fest to peer or global space is posted: it raises its counter, K1 for peer space, K2 for this
device and the fixed ranges, K3 for another device, and completes; at 65,535 it waits. R22: an stf or fest on the discovery page
is none: it waits for the answer, which is PROT sub 6. -/
def Obligations.PostedStores : Prop :=
  ∀ (s : State) (th : Thread) (m : MemOp), m.sp = 1 ∨ m.sp = 2 → Executes s th [m.t, m.a] [m.a, m.t] →
    Thread.quiet th (wkMask m.wk) →
    ∀ p ∈ [(Instr.stB m, 1, AccessKind.store), (.stH m, 2, .store), (.stW m, 4, .store), (.stD m, 8, .store),
        (.stf m, 8, .stf), (.fest m, 8, .fest)],
      let ea := effAddr (s.g m.a) m.off p.2.1
      let own : Prop := s.region ea.toNat = .discovery ∨ s.region ea.toNat = .control ∨ s.region ea.toNat = .hostWindow ∨
        ea.toNat / 2 ^ 42 % 2 ^ 14 = s.pkg.device.toNat
      s.addrFault s.cur m.sp.toNat ea p.2.1 = none → Unwatched s th m.sp.toNat ea.toNat p.2.1 2 →
      (p.2.2 ≠ .store → m.sp = 2 → s.region ea.toNat = .discovery → ∃ x : Access, x.id = s.nextId ∧ x.issuer = .thread s.cur ∧
        x.kind = p.2.2 ∧ x.sp = 2 ∧ x.va = ea.toNat ∧ x.counter = 0 ∧ x.stage = .travelling ∧
        exec p.1 s = .next (State.setThread { s with accesses := s.accesses ++ [x], nextId := s.nextId + 1 } s.cur
          { th with wait := some (.answer s.nextId) }) ∧
        ∀ st, s.meetGlobal x st = s.modAccess x.id (fun y => { y with stage := .answered 6 6 0 0 })) ∧
      ∀ k, (p.2.2 = .store ∨ m.sp = 1 ∨ s.region ea.toNat ≠ .discovery) →
        (m.sp = 1 ∧ k = 1) ∨ (m.sp = 2 ∧ own ∧ k = 2) ∨ (m.sp = 2 ∧ ¬ own ∧ k = 3) →
        (th.counter k = 0xFFFF → exec p.1 s = .next (s.waitFor s.cur (.counterRoom k))) ∧
        (th.counter k ≠ 0xFFFF → ∃ x : Access, x.id = s.nextId ∧ x.issuer = .thread s.cur ∧ x.kind = p.2.2 ∧
          x.sp = m.sp.toNat ∧ x.va = ea.toNat ∧ x.n = p.2.1 ∧ x.x = s.g m.t ∧ x.counter = k ∧ x.pc = th.pc ∧
          x.stage = .travelling ∧
          CompletesIn (State.setThread { s with accesses := s.accesses ++ [x], nextId := s.nextId + 1 } s.cur
            (th.setCounter k (th.counter k + 1))) (th.setCounter k (th.counter k + 1)) p.1 s 4 0 0)

/-! ### Owners, answers, parking (11_memory_isa R143 to R153, 17_traps R221, R229, 21_fabric R279) -/

/-- R22, R48, R145, R149, R152, R153, R155, R156, R225, R270, R288: a peer request that reaches an open bank in its turn, by
routers that are awake, is performed there at once: it is answered with the old value, and its store and its full/empty bit change
and nothing else; one whose word has the other bit is parked, whatever its parity; a core that is not open to peers answers PEER
(code 9) sub 1, a lost one sub 2. R25, R145, R153, R231, R318: the same of a global access at its home slice, whose line may have
the access's key tag, or none and read zero, while another tag is KEYTAG and a poisoned line POISON; and the access that a
returning line was waited for is performed then. A load of the discovery page reads it and anything else there is PROT sub 6; an
address of another device goes to it, or is LINK where no port leads there; one outside the device and a pod is XLATE reason 4. -/
def Obligations.PeerAccessReachesItsBank : Prop :=
  (∀ (s : State) (x : Access) (t : ThreadId), s.accessAt x.id = some x → x.issuer = .thread t → x.sp = 1 →
    x.stage = .travelling → s.behindOwn x = false → s.behindWay x = false → x.va / 2 ^ 18 < 96 →
    s.routeOpen (s.requestRoute x) = true → (s.coreAt t.core).lost = false →
    let core := t.core / 96 * 96 + x.va / 2 ^ 18
    let a := x.va % 2 ^ 18
    let k := s.coreAt core
    let old : BitVec (8 * x.n) := BitVec.ofNat _ (k.spad.readLE a x.n)
    let full := !decide (a / 8 ∈ k.spadEmpty)
    let comes (stage : Stage) (u : State) : Prop := exec (.remoteAccessArrival x.id) s = .next u ∧
      u.accessAt x.id = some { x with loc := core * 2 ^ 18 + a, stage := stage } ∧ RoutersTouched s u ∧
      u = { s with accesses := u.accesses, cores := u.cores, stations := u.stations }
    x.id ∉ k.park → (∀ i ∈ k.park, ∀ y, s.accessAt i = some y → y.loc / 8 ≠ (core * 2 ^ 18 + a) / 8) →
    (k.lost = false → k.peersOpen = true →
      (k.badParity a x.n = false → a % x.n = 0 → x.n ∈ [1, 2, 4, 8] →
       x.kind.waitsFor = none ∨ x.kind.waitsFor = some full → ∃ u, comes (.answered 0 0 0 (x.answers old)) u ∧
        BankServed k (u.coreAt core) x a old ∧ ∀ c, c ≠ core → u.coreAt c = s.coreAt c) ∧
      (x.kind.waitsFor = some (!full) → k.park.length < 96 → ∃ u, comes .parked u ∧
        (u.coreAt core) = { k with park := k.park ++ [x.id] } ∧ ∀ c, c ≠ core → u.coreAt c = s.coreAt c) ∧
      (x.kind.waitsFor = some (!full) → 96 ≤ k.park.length → ∃ u, comes .refused u ∧ ∀ c, u.coreAt c = s.coreAt c)) ∧
    (k.lost = false → k.peersOpen = false → ∃ u, comes (.answered 9 1 0 0) u) ∧
    (k.lost = true → ∃ u, comes (.answered 9 2 0 0) u)) ∧
  (∀ (s : State) (x : Access) (t : ThreadId), s.accessAt x.id = some x → x.issuer = .thread t → x.sp = 2 →
    x.stage = .travelling → s.behindOwn x = false → s.behindWay x = false → s.routeOpen (s.requestRoute x) = true →
    let leaves (stage : Stage) (port : Option Nat) : Prop := ∃ u, exec (.remoteAccessArrival x.id) s = .next u ∧
      u.accessAt x.id = some { x with stage := stage, port := port } ∧ RoutersTouched s u ∧
      u = { s with accesses := u.accesses, stations := u.stations, host := u.host }
    let comes (stage : Stage) : Prop := leaves stage x.port
    (s.region x.va = .discovery →
      (x.kind = .load → x.n ∈ [1, 2, 4, 8] →
        comes (.answered 0 0 0 (x.answers (BitVec.ofNat (8 * x.n) (s.discoveryRead t (x.va % 2 ^ 16) x.n))))) ∧
      (x.kind ≠ .load → comes (.answered 6 6 0 0))) ∧
    (∀ d, s.region x.va = .remote d → (s.linked d = true → leaves .offDevice (s.granulePort d x.va)) ∧ (s.linked d = false → comes (.answered 17 0 0 0))) ∧
    (s.region x.va = .outside → comes (.answered 5 4 0 0))) ∧
  (∀ (s : State) (x : Access), x.n ∈ [1, 2, 4, 8] → x.loc % x.n = 0 → s.folds = [] → x.loc / 64 ∉ s.phys.uncorr →
    s.sec.tagState x.tag ≠ .dead →
    let line := x.loc / 64
    let own := s.phys.lineTag line
    let old : BitVec (8 * x.n) := BitVec.ofNat _ (ofBytesLE ((List.range x.n).map (fun i => s.phys.seen x.tag (x.loc + i))))
    let untouched (u : State) : Prop := u.phys.ram = s.phys.ram ∧ u.phys.empty = s.phys.empty ∧ u.phys.tags = s.phys.tags
    let reads : Prop := x.kind ∉ [.store, .stf, .fest, .stfe]
    (own = x.tag ∨ own = 0 → line ∉ s.phys.poison → ∃ u v, s.slicePerform x = (⟨0, 0, 0, v⟩, u) ∧
      (reads → v = x.answers old) ∧ SliceServed s.phys u.phys x old ∧ u.accesses = s.accesses ∧ u.cores = s.cores) ∧
    (own ≠ x.tag → own ≠ 0 → line ∉ s.phys.poison → ∃ u, s.slicePerform x = (⟨11, 0, 0, 0⟩, u) ∧ untouched u) ∧
    (own = x.tag ∨ own = 0 → line ∈ s.phys.poison → reads ∨ x.kind = .stfe →
      ∃ u, s.slicePerform x = (⟨10, 0, 0, 0⟩, u) ∧ untouched u)) ∧
  (∀ (s : State) (x : Access) (t : ThreadId) (st : Nat), s.accessAt x.id = some x → x.issuer = .thread t → x.sp = 2 →
    x.stage = .filling → st = homeStation x.loc → (s.stationAt st).park = [] →
    (x.kind.waitsFor = none ∨ x.kind.waitsFor = some (!decide (x.loc / 8 ∈ s.phys.empty))) →
    (∃ l ∈ (s.stationAt st).slice, l.line = x.loc / 64 ∧ l.fill = true) →
    (∀ y ∈ s.accesses, y.stage = .filling → y.loc / 64 = x.loc / 64 → y = x) → (s.accesses.map Access.id).Nodup →
    ∃ s1 : State, (∀ c, c ≠ st → s1.stationAt c = s.stationAt c) ∧ s1 = { s with stations := s1.stations } ∧
      (let filled (l : SliceLine) : SliceLine := if l.line = x.loc / 64 then { l with valid := 0xFF, fill := false } else l
       s1.stationAt st = { s.stationAt st with slice := (s.stationAt st).slice.map filled }) ∧
      let r := s1.slicePerform x
      exec (.sliceFill st (x.loc / 64)) s = .next { r.2 with accesses := r.2.accesses.map (fun y =>
        if y.id == x.id then { y with stage := .answered r.1.fault r.1.sub r.1.info r.1.value } else y) })

/-- R79, R80, R143, R150, R221, R271: the owner's answer, once the routers on its way are awake and where its thread is not halted,
completes the waiting access and writes its register, or its fault is taken; an acknowledgement lowers the counter by one, and a
failed store leaves its record, the first of its counter. -/
def Obligations.AnswersAndAcknowledgements : Prop :=
  ∀ (s : State) (x : Access) (t : ThreadId) (th : Thread) (ext : ExtAnswer) (f sub info : Nat) (v : Word),
    s.accessAt x.id = some x → x.issuer = .thread t → s.threadAt t = some th →
    (x.stage = .answered f sub info v ∨
      (x.stage = .offDevice ∧ s.unsent x.id = false ∧ f = ext.fault ∧ sub = ext.sub ∧ info = 0 ∧
        v = x.answers (BitVec.ofNat _ ext.data.toNat))) →
    let left := s.answered x
    left.accesses = s.accesses.filter (fun y => y.id != x.id) ∧ RoutersTouched s left ∧
    left = { s with accesses := left.accesses, stations := left.stations } ∧
    (s.answerWay x = true →
      (x.counter = 0 → f = 0 → th.dbg.ss = false → th.stepsLeft = none → th.halted = false →
        ∃ s', exec (.remoteAnswer x.id ext) s = .next s' ∧ s'.accesses = left.accesses ∧
          (AccessKind.reads x.kind = true →
            s'.threadAt t = some (Thread.goTo (Thread.wrote th x.rd) (th.pc + 4)) ∧
            (x.rd ≠ 0 → aget (s'.coreAt t.core).rf (8 * th.win.wbase + x.rd.toNat) = some v)) ∧
          (AccessKind.reads x.kind = false → s' = left.setThread t (Thread.goTo th (th.pc + 4)))) ∧
      (x.counter = 0 → f ≠ 0 → th.halted = false →
        exec (.remoteAnswer x.id ext) s = .next (left.takeTrap t (precise f (BitVec.ofNat 64 x.va) sub info))) ∧
      (x.counter ≠ 0 → f = 0 →
        exec (.postedStoreAck x.id ext) s = .next (left.setThread t (th.setCounter x.counter (th.counter x.counter - 1)))) ∧
      (x.counter ∈ [1, 2, 3] → f ≠ 0 →
        ∃ th', exec (.postedStoreAck x.id ext) s = .next (left.setThread t th') ∧
          th'.counter x.counter = th.counter x.counter - 1 ∧
          (th.failure x.counter = none → ∃ r, th'.failure x.counter = some r ∧ r.code = f ∧ r.addr = BitVec.ofNat 64 x.va ∧
            r.pc = x.pc ∧ r.more = false) ∧
          (∀ r, th.failure x.counter = some r → th'.failure x.counter = some { r with more := true }))) ∧
    (x.counter = 0 → th.halted = true ∨ s.answerWay x = false → exec (.remoteAnswer x.id ext) s = .next s) ∧
    (x.counter ≠ 0 → s.answerWay x = false → exec (.postedStoreAck x.id ext) s = .next s)

/-- R143, R146, R229, R315: a refused request is sent again in an own slot of its thread; past the retry limit a parked one, at
this device's owner or at another device, is cancelled and, once the cancel is answered, removed with no effect and FETIMEOUT
taken, or the interrupt that asked for it, while the wait of a halted thread stands as it is; an access held on a MOVING page
walks it again after 1,024 ticks, where the routers on the walk's way are awake, stays held behind one that was held earlier for
the page, and fails with XLATE reason 3 after 76,000. That a cancel has no packet of its own is the model's choice (stated at
`execParkCancelAnswer`). -/
def Obligations.ParkedAndHeldRequests : Prop :=
  ∀ (s : State) (x : Access) (t : ThreadId) (th : Thread), s.accessAt x.id = some x → x.issuer = .thread t →
    s.threadAt t = some th →
    let becomes (f : Access → Access) : State := { s with accesses := s.accesses.map (fun y => if y.id == x.id then f y else y) }
    (x.stage = .refused → x.sp ≠ 0 →
      (s.threadRuns t = true → s.inRotation t = true → th.halted = false →
        exec (.parkRetry x.id) s =
          .next { becomes (fun y => { y with stage := .travelling, sent := s.nextId }) with nextId := s.nextId + 1 }) ∧
      (s.threadRuns t = false ∨ s.inRotation t = false ∨ th.halted = true → exec (.parkRetry x.id) s = .next s)) ∧
    (x.stage = .parked ∨ x.stage = .offDevice → x.cancel = none → AccessKind.parks x.kind = true → th.halted = false →
      s.threadRuns t = true → ∀ c, s.ctxAt x.ctx = some c → c.retry ≠ 0 → c.retry < s.time.toNat - x.issued →
      exec (.fetimeout x.id) s = .next (becomes fun y => { y with cancel := some .timeout })) ∧
    (x.stage = .refused → AccessKind.parks x.kind = true → th.halted = false → s.threadRuns t = true →
      ∀ c, s.ctxAt x.ctx = some c → c.retry ≠ 0 → c.retry < s.time.toNat - x.issued →
      exec (.fetimeout x.id) s = .next ((s.dropAccess x.id).takeTrap t (precise 8 (BitVec.ofNat 64 x.va) 0 0))) ∧
    (let gone := if x.stage = .parked then
        ((s.setPark x.owner ((s.parkOf x.owner).filter (· != x.id))).serveWord x.owner x.loc).dropAccess x.id
      else s.dropAccess x.id
     x.stage = .parked ∨ x.stage = .offDevice →
      (x.cancel = some .timeout ∨ x.cancel = some .interrupt → th.halted = true → exec (.parkCancelAnswer x.id) s = .next s) ∧
      (x.cancel = some .timeout → th.halted = false →
        exec (.parkCancelAnswer x.id) s = .next (gone.takeTrap t (precise 8 (BitVec.ofNat 64 x.va) 0 0))) ∧
      (x.cancel = some .interrupt → th.halted = false →
        exec (.parkCancelAnswer x.id) s = exec (.interruptEntry t) (gone.modThread t (fun th => { th with wait := none }))) ∧
      (x.cancel = some .peal →
        exec (.parkCancelAnswer x.id) s = .next (gone.modThread t (fun th => { th with wait := none })))) ∧
    (∀ since, x.stage = .held since →
      let way := s.walkRoute (t.core / 8) x.ctx x.va
      (since + 1024 ≤ s.time.toNat → s.time.toNat < since + 76000 →
        (s.routeOpen way = false → exec (.movingRewalk x.id) s = .next s) ∧
        (s.routeOpen way = true → exec (.movingRewalk x.id) s = .next ((s.touchRoute way).meetGlobal x (t.core / 8))) ∧
        (s.routeOpen way = true → s.region x.va = .paged → s.behindHeld (.access x.id) (t.core / 8) x.ctx x.va = true →
          ∃ u, exec (.movingRewalk x.id) s = .next u ∧ u.accessAt x.id = some x ∧ u.phys = s.phys ∧ u.cores = s.cores)) ∧
      (since + 76000 ≤ s.time.toNat → x.sp ≠ 0 →
        exec (.movingRewalk x.id) s = .next (becomes fun y => { y with stage := .answered 5 3 0 0 }) ∧
        exec (.movingTimeout x.id) s = .next (becomes fun y => { y with stage := .answered 5 3 0 0 })))

/-- R139, R227, R231, R279, R281, R285, R288, R318: a fill makes every word of its line valid (log entry 15). An instruction line of
another device is asked for by a load of 64 bytes, and is LINK where no port leads there; one that has come, of another device or of
the own device's memory by routers that are awake, enters the thread's fetch register and its core's cache, a line of tag 0 as
zeros, while one under another key tag is PROT sub 7, even where it is poisoned (log entry 16), and a poisoned one PARITY sub 3. A
refresh window ends after 60,800,000 ticks, with all counts at zero where no dirty line was pinned,
and no pinned line then. -/
def Obligations.FillsAndRefreshWindows : Prop :=
  (∀ (s : State) (station line : Nat), (∃ l ∈ (s.stationAt station).slice, l.line = line ∧ l.fill = true) →
    (∀ x ∈ s.accesses, x.stage ≠ .filling) →
    ∃ t, exec (.sliceFill station line) s = .next t ∧
      (t.stationAt station).slice = (s.stationAt station).slice.map
        (fun l => if l.line = line then { l with valid := 0xFF, fill := false } else l) ∧
      t = { s with stations := t.stations }) ∧
  (∀ (s : State) (t : ThreadId) (th : Thread) (base : Nat) (held : Option Nat) (ext : ExtAnswer), s.threadAt t = some th →
    th.halted = false → th.wait = some (.line base held) → lineBase th.pc.toNat = base →
    let arrives (bytes : List Byte) : Prop := ∃ s', exec (.ifetchLineFill t ext) s = .next s' ∧
      s'.threadAt t = some { th with wait := none, fetch := some { base := base, bytes := bytes } } ∧
      ∃ l ∈ (s'.coreAt t.core).icache, l.ctx = th.ctxId.toNat ∧ l.base = base ∧ l.bytes = bytes
    let traps (code sub : Nat) : Prop := ∃ u : State, u.cores = s.cores ∧
      exec (.ifetchLineFill t ext) s = .next (u.takeTrap t (precise code th.pc sub 0))
    (∀ d, s.region base = .remote d →
      let asked (x : Access) : Prop := x.issuer = .fetch t ∧ x.va = base
      ((∀ x ∈ s.accesses, ¬ asked x) →
        (s.linked d = false → traps 17 0) ∧
        (s.linked d = true → ∃ u x, exec (.ifetchLineFill t ext) s = .next u ∧ u.threadAt t = some th ∧ x ∈ u.accesses ∧ asked x ∧
          x.kind = .load ∧ x.n = 64 ∧ x.stage = .offDevice ∧ x.port = s.granulePort d base ∧
          ∀ q, x.port = some q → (u.portAt q).out = (s.portAt q).out ++ [.access d th.ctxId.toNat x.id])) ∧
      (∀ x, FirstOf s.accesses asked x → x.stage = .offDevice → s.unsent x.id = false →
        (ext.fault = 0 → ext.bytes.length = 64 → arrives ext.bytes) ∧ (ext.fault ≠ 0 → traps ext.fault ext.sub))) ∧
    (s.region base = .paged → ∀ since, held = some since → since + 76000 ≤ s.time.toNat → traps 5 3) ∧
    (s.region base = .paged → (∀ since, held = some since → s.time.toNat < since + 76000) →
      let way := s.memRoute (t.core / 8) th.ctxId.toNat base
      (s.routeOpen way = false → exec (.ifetchLineFill t ext) s = .next s) ∧
      (s.routeOpen way = true → ∀ pa s1, (s.touchRoute way).translateIn (.line t) (t.core / 8) th.ctxId.toNat base .fetch
          (th.status.mode == .user) false = (.pa pa, s1) → pa % 64 = 0 → s1.folds = [] → pa / 64 ∉ s1.phys.uncorr →
        (∀ x ∈ s1.accesses, x.stage = .filling → x.loc / 64 ≠ pa / 64) → s1.sec.tagState th.ctxTag.toNat ≠ .dead →
        let own := s1.phys.lineTag (pa / 64)
        (own = th.ctxTag.toNat → pa / 64 ∉ s1.phys.poison → arrives (s1.phys.ram.readBytes pa 64)) ∧
        (own = 0 → own ≠ th.ctxTag.toNat → pa / 64 ∉ s1.phys.poison → arrives (List.replicate 64 0)) ∧
        (own ≠ th.ctxTag.toNat → own ≠ 0 → traps 6 7) ∧
        (own = th.ctxTag.toNat ∨ own = 0 → pa / 64 ∈ s1.phys.poison → traps 20 3)))) ∧
  (∀ s : State, s.dram.windowStart + 60800000 ≤ s.time.toNat →
    (∀ p ∈ s.stations, ∀ l ∈ p.2.slice, l.pinned = true → l.dirty = false) →
    ∃ t, exec .refreshWindowEnd s = .next t ∧ t.dram.activations = [] ∧ t.dram.windowStart = s.time.toNat ∧
      t.dram.openRow = s.dram.openRow ∧ ∀ p ∈ t.stations, ∀ l ∈ p.2.slice, l.pinned = false)

/-! ### Fences, semaphores, barriers, steps, time (03_execution R49, R50, 11_memory_isa R157 to R161) -/

/-- R19, R81, R157, R176, R271: a fence, and a fence.sc, completes once every posted store that its scope encloses is performed,
and waits before, a fence.sc also while a router on its way to its scope's order point is not awake; waitk completes with its
counters at zero and waits before; scope writes scope_of two places. R222: where all that a fence or a waitk waits for is there
and one counter that it covers has a failed store on record, it takes DEFSTORE with the failure's address, code, pc and more flag,
and the record is gone. -/
def Obligations.FencesWaitAndComplete : Prop :=
  ∀ (s : State) (th : Thread),
    (Executes s th [] [] → ∀ c : BitVec 3,
      (let way := s.orderWay (s.cur.core / 8) c.toNat
       ReleaseFree s th c.toNat → Completes (.fence c) s th 4 0 0 ∧
        (s.routeOpen way = true → CompletesIn (s.touchRoute way) th (.fenceSc c) s 4 0 0) ∧
        (s.routeOpen way = false → exec (.fenceSc c) s = .next (s.waitFor s.cur (.way way)))) ∧
      ((∃ x ∈ s.accesses, x.postedBy s.cur = true ∧ s.storeScope s.cur x ≤ c.toNat) →
        exec (.fence c) s = .next (s.waitFor s.cur (.release c.toNat)) ∧
        exec (.fenceSc c) s = .next (s.waitFor s.cur (.release c.toNat))) ∧
      (Thread.quiet th c.toNat → Completes (.waitk c) s th 4 0 0) ∧
      ((∃ k ∈ [1, 2, 3], selected c.toNat k = true ∧ th.counter k ≠ 0) →
        exec (.waitk c) s = .next (s.waitFor s.cur (.counters c.toNat))) ∧
      (∀ k ∈ [1, 2, 3], ∀ f, th.failure k = some f → (∀ j ∈ [1, 2, 3], j ≠ k → th.failure j = none) →
        let reports (i : Instr) : Prop := exec i s = .next ((s.setThread s.cur (th.setFailure k none)).takeTrap s.cur
          (precise 13 f.addr f.code (f.pc.toNat / 4 * 4 + if f.more then 1 else 0)))
        (f.scope ≤ c.toNat → (∀ x ∈ s.accesses, x.postedBy s.cur = true → c.toNat < s.storeScope s.cur x) →
          reports (.fence c) ∧ reports (.fenceSc c)) ∧
        (selected c.toNat k = true → (∀ j ∈ [1, 2, 3], selected c.toNat j = true → th.counter j = 0) →
          reports (.waitk c)))) ∧
    (∀ r : R3, Executes s th [r.d, r.a, r.b] [r.a, r.b] →
      let a := (s.g r.a).toNat % 2 ^ 32
      let b := (s.g r.b).toNat % 2 ^ 32
      Completes (.scope r) s th 4 r.d
        (if a / 2 ^ 18 ≠ b / 2 ^ 18 then 6 else if a / 2 ^ 16 ≠ b / 2 ^ 16 then 5 else if a / 2 ^ 15 ≠ b / 2 ^ 15 then 4
          else if a / 2 ^ 14 ≠ b / 2 ^ 14 then 3 else if a / 2 ^ 8 ≠ b / 2 ^ 8 then 2
          else if a % 2 ^ 6 ≠ b % 2 ^ 6 then 1 else 0))

/-- R158, R159: semp takes a unit, or joins the waiters in arrival order; semv gives a unit to the oldest waiter, whose semp
completes, or will do so when its halt ends (R143), or to the count, which stays at 2^32 − 1; bar counts the arrival and waits,
the arrival that reaches P completes the phase for every arrived thread, and a unit with P = 0 lets it pass. -/
def Obligations.SemaphoresAndBarriers : Prop :=
  (∀ (s : State) (th : Thread) (n : BitVec 6), Executes s th [] [] →
    let st := s.cur.core / 8
    let m := (s.stationAt st).sem n.toNat
    let set (m' : Semaphore) : State := s.modStation st (fun k => { k with sems := aset k.sems n.toNat m' })
    (0 < m.count → m.waiters = [] → CompletesIn (set { m with count := m.count - 1 }) th (.semp n) s 4 0 0) ∧
    (m.count = 0 ∨ m.waiters ≠ [] →
      exec (.semp n) s = .next ((set { m with waiters := m.waiters ++ [s.cur] }).waitFor s.cur (.semp n.toNat))) ∧
    (ReleaseFree s th 3 →
      (m.waiters = [] → m.count < 2 ^ 32 - 1 → CompletesIn (set { m with count := m.count + 1 }) th (.semv n) s 4 0 0) ∧
      (m.waiters = [] → m.count = 2 ^ 32 - 1 → Completes (.semv n) s th 4 0 0) ∧
      (∀ (w : ThreadId) (wt : Thread) (r : List ThreadId), m.waiters = w :: r → w ≠ s.cur → s.threadAt w = some wt →
        wt.dbg.ss = false → wt.stepsLeft = none →
        (wt.halted = false →
          CompletesIn ((set { m with waiters := r }).setThread w { wt with pc := wt.pc + 4, wait := none }) th (.semv n) s 4 0 0) ∧
        (wt.halted = true →
          CompletesIn ((set { m with waiters := r }).setThread w { wt with wait := some .granted }) th (.semv n) s 4 0 0)))) ∧
  (∀ (s : State) (th : Thread) (c u : BitVec 3) (x : Context), Executes s th [] [] → ReleaseFree s th c.toNat →
    s.ctxAt th.ctxId.toNat = some x →
    let b := x.barrier u.toNat
    let set (b' : Barrier) : State := s.setCtx th.ctxId.toNat { x with barriers := aset x.barriers u.toNat b' }
    (b.p = 0 → Completes (.bar c u) s th 4 0 0) ∧
    (b.arrived.length + 1 < b.p → exec (.bar c u) s =
      .next ((set { b with arrived := b.arrived ++ [(s.cur, c.toNat)] }).waitFor s.cur (.bar u.toNat))) ∧
    (0 < b.p → b.p ≤ b.arrived.length + 1 →
      exec (.bar c u) s = .next ((set { b with arrived := [] }).finishAll (b.arrived.map Prod.fst ++ [s.cur]))) ∧
    (b.p = 1 → b.arrived = [] → th.halted = false → CompletesIn (set { b with arrived := [] }) th (.bar c u) s 4 0 0))

/-- R49, R50: step does nothing without a task, raises the count of a dynamic task or of an instance that the drift bound lets
go on, waits where it does not, and faults with STEP at 2^32 − 1; a step that live neighbours hold back for more than 2^24 ticks
faults too, and the ticks in which a neighbour that holds it back is halted do not count. -/
def Obligations.StepCountsWithinDrift : Prop :=
  ∀ (s : State) (th : Thread), Executes s th [] [] →
    (th.task.valid = false → Completes .step s th 4 0 0) ∧
    (th.task.valid = true → s.heldPlace th = none →
      let th' : Thread := { th with held := { th.held with steps := th.held.steps + 1 } }
      (th.held.steps ≠ 2 ^ 32 - 1 → CompletesIn (s.setThread s.cur th') th' .step s 4 0 0) ∧
      (th.held.steps = 2 ^ 32 - 1 → Traps .step s (precise 19 0xFFFFFFFF#64 0 0))) ∧
    (∀ h, th.task.valid = true → s.heldPlace th = some h →
      let free := h.node.image.k = 0 ∨ ∀ p ∈ h.node.placed, p.finished = true ∨
        (p.inst + 1 ≠ h.placed.inst ∧ p.inst ≠ h.placed.inst + 1) ∨ h.placed.steps + 1 ≤ p.steps + h.node.image.k
      (h.placed.steps = 2 ^ 32 - 1 → Traps .step s (precise 19 0xFFFFFFFF#64 0 0)) ∧
      (h.placed.steps ≠ 2 ^ 32 - 1 → free →
        CompletesIn (s.modNode th.ctxId.toNat h.graph.id th.task.node.toNat (fun n => { n with
          placed := n.placed.map (fun p => if p.inst == h.placed.inst then { p with steps := p.steps + 1 } else p) })) th
          .step s 4 0 0) ∧
      (h.placed.steps ≠ 2 ^ 32 - 1 → ¬ free →
        ((∀ a b c, th.wait ≠ some (.step a b c)) →
          exec .step s = .next (s.waitFor s.cur (.step s.time.toNat 0 s.time.toNat))) ∧
        (∀ a b c, th.wait = some (.step a b c) → exec .step s = .next (s.waitFor s.cur (.step a b c))))) ∧
    (∀ (t : ThreadId) (w : Thread) (since skipped known : Nat) (h : HeldPlace), s.threadAt t = some w →
      w.wait = some (.step since skipped known) → w.halted = false → s.threadRuns t = true → s.heldPlace w = some h →
      let holds (p : Placed) : Prop := p.finished = false ∧ (p.inst + 1 = h.placed.inst ∨ p.inst = h.placed.inst + 1) ∧
        p.steps + h.node.image.k < h.placed.steps + 1
      let faults : Prop := exec (.stepTimeout t) s = .next (s.takeTrap t (precise 19 (BitVec.ofNat 64 h.placed.steps) 0 0))
      ((∀ p ∈ h.node.placed, holds p → ∀ o, s.threadAt p.thread = some o → o.halted = false) →
        ((∃ p ∈ h.node.placed, holds p) → since + skipped + 2 ^ 24 < s.time.toNat → faults) ∧
        (s.time.toNat ≤ since + skipped + 2 ^ 24 → exec (.stepTimeout t) s = .next s)) ∧
      (∀ p o, p ∈ h.node.placed → holds p → (∀ q ∈ h.node.placed, holds q → q = p) → h.node.placed.Nodup →
        s.threadAt p.thread = some o → o.halted = true → (∀ x, s.ctxAt w.ctxId.toNat = some x → x.peal = none) →
        let counted := s.time.toNat - since - (skipped + (s.time.toNat - max o.haltedAt known))
        (2 ^ 24 < counted → faults) ∧ (counted ≤ 2 ^ 24 → exec (.stepTimeout t) s = .next s)))

/-- R136, R143, R161, R220: rdtime reads the count; attime completes once the count has reached its value and waits before, and a
waiting one completes then; a wfi of the supervisor thread completes when its timer expires; a halted thread's wait stands. -/
def Obligations.TimeIsReadAndAwaited : Prop :=
  ∀ (s : State) (th : Thread),
    (∀ d : Reg, Executes s th [d] [] → Completes (.rdtime d) s th 4 d s.time) ∧
    (∀ a : Reg, Executes s th [a] [a] →
      ((s.g a).toNat ≤ s.time.toNat → Completes (.attime a) s th 4 0 0) ∧
      (s.time.toNat < (s.g a).toNat → exec (.attime a) s = .next (s.waitFor s.cur (.attime (s.g a))))) ∧
    (∀ (t : ThreadId) (w : Thread) (v : Word), s.threadAt t = some w → w.wait = some (.attime v) →
      (w.dbg.ss = false → w.stepsLeft = none → w.halted = false → v.toNat ≤ s.time.toNat → s.threadRuns t = true →
        exec (.attimeReached t) s = .next (s.setThread t { w with pc := w.pc + 4, wait := none })) ∧
      (w.halted = true ∨ s.time.toNat < v.toNat → exec (.attimeReached t) s = .next s)) ∧
    (∀ (ctx : Nat) (x : Context) (w : Thread), s.ctxAt ctx = some x → s.threadAt x.supervisor = some w →
      w.wait = some .interrupt → x.active s.time = true → x.page.timer ≠ 0 → x.page.timer.toNat ≤ s.time.toNat →
      (w.dbg.ss = false → w.stepsLeft = none → w.halted = false →
        exec (.timerExpiry ctx) s = .next (s.setThread x.supervisor { w with pc := w.pc + 4, wait := none })) ∧
      (w.halted = true → exec (.timerExpiry ctx) s = .next s))

/-! ### Chime lines, replies, tasks (03_execution R35 to R48, 11_memory_isa R162 to R167) -/

/-- R164 to R167, R199, R219: evwait takes the failure of its line as a delivered fault, else one completion, else it waits;
evpoll reads the line, evclr clears it; popr removes the oldest reply and faults on a failed one, peekr only reads it. -/
def Obligations.ChimeLinesAndReplies : Prop :=
  ∀ (s : State) (th : Thread) (a d : Reg),
    let n := (s.g a).toNat % 16
    let c := th.chime n
    let set (c' : Chime) : Thread := { th with chimes := aset th.chimes n c' }
    (Executes s th [a] [a] →
      (c.fail = true → exec (.evwait a) s = .next ((s.setThread s.cur (set { c with fail := false })).takeTrap s.cur
        (deliveredFault c.fault c.value n))) ∧
      (c.fail = false → 0 < c.pend →
        CompletesIn (s.setThread s.cur (set { c with pend := c.pend - 1 })) (set { c with pend := c.pend - 1 }) (.evwait a) s 4
          0 0) ∧
      (c.fail = false → c.pend = 0 → exec (.evwait a) s = .next (s.waitFor s.cur (.evwait n))) ∧
      CompletesIn (s.setThread s.cur (set Chime.reset)) (set Chime.reset) (.evclr a) s 4 0 0) ∧
    (Executes s th [d, a] [a] → Completes (.evpoll ⟨d, a⟩) s th 4 d
      (BitVec.ofNat 64 ((if c.ovf then 2 ^ 9 else 0) + (if c.fail then 2 ^ 8 else 0) + c.pend % 2 ^ 8))) ∧
    (Executes s th [d] [] →
      (th.replies = [] → exec (.popr d) s = .next (s.waitFor s.cur .popr) ∧ Completes (.peekr d) s th 4 d 0) ∧
      (∀ e r, th.replies = e :: r →
        Completes (.peekr d) s th 4 d e ∧
        (e.toNat / 2 ^ 48 % 2 ^ 8 = 0 →
          CompletesIn (s.setThread s.cur { th with replies := r }) { th with replies := r } (.popr d) s 4 d e) ∧
        (e.toNat / 2 ^ 48 % 2 ^ 8 ≠ 0 →
          exec (.popr d) s = .next ((s.setThread s.cur { th with replies := r }).takeTrap s.cur
            (deliveredFault (statusFault (e.toNat / 2 ^ 48 % 2 ^ 8)) e (e.toNat / 2 ^ 56 % 2 ^ 4))))))

/-- R35, R39, R40, R47, R48, R130, R162, R163: waitw drops the task, abandoned where it is a graph's and not done, and done
retires it: its instance is contributed, unless that has happened, and done, the count of its node's dones one higher, and a graph
that is complete then is finished for its queue. Both wait for work; a held window goes back to its lender; the core's scratchpad
closes to peers where no other thread holds a task, unless done's node keeps it open. trig makes the instance's contribution once;
post enqueues a dynamic instance while the dispenser holds fewer than 64. -/
def Obligations.TasksEndAndContribute : Prop :=
  ∀ (s : State) (th : Thread), Executes s th [] [] →
    let ctx := th.ctxId.toNat
    let node := th.task.node.toNat
    let inst := th.task.inst.toNat
    let idle : Thread := { th with
      task := { th.task with valid := false }, held := .none, wait := some .work
      win := if th.win.held then { th.win with held := false, bslot := 0 } else th.win }
    let lent (u : State) : State :=
      if th.win.held then u.modThread ⟨s.cur.core, th.win.bslot⟩ (fun l => { l with
        win := { l.win with lent := false }, idleFrom := agetD s.cycles (s.cur.core / 192) 0 / 1900 + 1 })
      else u
    let waits (u : State) : State := (lent u).setThread s.cur idle
    let ends (u : State) (keep : Bool) : State :=
      if ∃ p ∈ (s.coreAt s.cur.core).threads, p.1 ≠ s.cur.slot ∧ p.2.task.valid = true then waits u
      else (waits u).modCore s.cur.core (fun k => { k with peersOpen := keep })
    (th.task.valid = false → exec .waitw s = .next (waits s)) ∧
    (th.task.valid = true → th.held.graph = none → exec .waitw s = .next (ends s false)) ∧
    (∀ g, th.task.valid = true → th.held.graph = some g → exec .waitw s = .next (ends (s.modNode ctx g node (fun n => { n with
      placed := n.placed.map (fun p => if p.inst = inst ∧ p.finished = false then { p with abandoned := true } else p) })) false)) ∧
    (ReleaseFree s th 5 →
      (th.task.valid = false → exec .done s = .next (waits s)) ∧
      (th.task.valid = true → th.dbg.tr = false →
        (th.held.graph = none → th.task.dyn = true → exec .done s = .next (ends s false)) ∧
        (∀ g x h n, th.held.graph = some g → th.task.dyn = false → s.ctxAt ctx = some x →
          x.graphs.find? (fun h => h.id == g) = some h →
          let h1 := if th.held.contributed then h else h.contribute s.time.toNat node inst
          h1.nodes[node]? = some n →
          let h2 : Graph := { h1 with nodes := setAt h1.nodes node { n with
            dones := n.dones + 1
            placed := n.placed.map (fun p => if p.inst = inst ∧ p.abandoned = false then { p with finished := true } else p) } }
          (x.graphs.map Graph.id).Nodup →
          let complete : Prop := ∀ m ∈ h2.nodes, m.triggered = true ∧ m.dones = m.image.count
          let u := ends (s.setCtx ctx { x with graphs := x.graphs.map (fun k => if k.id = g then h2 else k) }) th.held.keep
          (¬ complete → exec .done s = .next u) ∧
          (complete → h2.status = 0 → h2.irq = false → exec .done s =
            .next (State.setQueue (u.setCtx ctx { x with graphs := x.graphs.filter (fun k => k.id != g) }) h2.queue
              { s.queueAt h2.queue with openGraphs := (s.queueAt h2.queue).openGraphs.filter (· != g) }))))) ∧
    (ReleaseFree s th 5 →
      (th.held.graph = none ∨ th.held.contributed = true ∨ th.task.valid = false ∨ th.task.dyn = true → Completes .trig s th 4 0 0) ∧
      (∀ g, th.held.graph = some g → th.task.valid = true → th.task.dyn = false → th.held.contributed = false →
        let th' : Thread := { th with held := { th.held with contributed := true } }
        CompletesIn ((s.setThread s.cur th').modGraph ctx g (fun h => h.contribute s.time.toNat node inst)) th' .trig s 4 0 0)) ∧
    (∀ a b : Reg, Executes s th [a, b] [a, b] →
      let w := (s.g a).toNat
      let bad := 2 ^ 63 ≤ w ∨ w / 2 ^ 56 % 2 ^ 5 = 0 ∨ 16 < w / 2 ^ 56 % 2 ^ 5 ∨ w % 4 ≠ 0
      let st := s.cur.core / 8
      (bad → Traps (.post a b) s (precise 16 (s.g a) 0x25 0)) ∧
      (¬ bad → ReleaseFree s th 3 →
        (64 ≤ (s.stationAt st).dyn.length → exec (.post a b) s = .next (s.waitFor s.cur .postRoom)) ∧
        ((s.stationAt st).dyn.length < 64 → ∃ d : DynInst, d.prio = w / 2 ^ 61 % 4 ∧ d.wsize = w / 2 ^ 56 % 2 ^ 5 ∧
          d.entry = BitVec.ofNat 64 (w % 2 ^ 56) ∧ d.g3 = s.g b ∧ d.node = 0xFFFF ∧
          d.inst = BitVec.ofNat 24 (s.place s.cur / 2 ^ 8 % 2 ^ 6 * 64 + s.place s.cur % 64) ∧ d.since = s.time.toNat ∧
          CompletesIn (State.modStation { s with nextId := s.nextId + 1 } st (fun k => { k with dyn := k.dyn ++ [d] })) th
            (.post a b) s 4 0 0)))

/-- R39, R40: the last contribution of a node's instances triggers it and takes one edge from each of its successors; a node
without edges left is released; a graph is complete when all its nodes have triggered and all instances have executed DONE. R43 to
R46, R48, R30: a dispenser places the chosen instance on the chosen thread, a dynamic one with its word in g3 and a graph's with
its node's arguments from g3 on, its task register and its entry pc, in user mode with interrupts on; a graph's node counts the
instance as placed there; which instance and which thread, R43 and R45 say, and where there is none, nothing happens. One pointer
for all turns of a partition is the model's choice (stated at `placeCandidate`). A pending instance's priority rises by one for
each 2^20 ticks, up to 3; a written rotation length takes effect behind the last position. -/
def Obligations.GraphsAndPlacement : Prop :=
  (∀ (g : Graph) (tick node inst : Nat) (n : NodeState), g.nodes[node]? = some n →
    (n.contributions + 1 ≠ n.image.count →
      ∃ n', (g.contribute tick node inst).nodes[node]? = some n' ∧ n'.contributions = n.contributions + 1 ∧
        n'.triggered = n.triggered ∧ ∀ e, e ≠ node → (g.contribute tick node inst).nodes[e]? = g.nodes[e]?) ∧
    (n.contributions + 1 = n.image.count → n.image.succ.Nodup → node ∉ n.image.succ →
      let nodes := (g.contribute tick node inst).nodes
      (∃ n', nodes[node]? = some n' ∧ n'.triggered = true ∧ n'.contributions = n.image.count) ∧
      (∀ e m, e ∈ n.image.succ → g.nodes[e]? = some m → ∃ m', nodes[e]? = some m' ∧ m'.depsLeft = m.depsLeft - 1 ∧
        (m.depsLeft ≤ 1 → m'.released = true) ∧ (1 < m.depsLeft → m'.released = m.released)) ∧
      (∀ e, e ∉ n.image.succ → e ≠ node → nodes[e]? = g.nodes[e]?)) ∧
    ((g.complete = true) ↔ ∀ m ∈ g.nodes, m.triggered = true ∧ m.dones = m.image.count)) ∧
  ((∀ (s : State) (st ctx : Nat) (x : Context), s.ctxOfStation st = some ctx → s.ctxAt ctx = some x →
    ((∀ c, ¬ s.Offered x st c) → exec (.taskPlacement st) s = .next s) ∧
    ((∃ c, s.Offered x st c) → ∃ c t th s', s.Chosen x st c ∧ s.Taker st c.wsize t ∧ s.threadAt t = some th ∧
      exec (.taskPlacement st) s = .next s' ∧
      (th.dbg.tr = false → th.dbg.ss = false → th.stepsLeft = none →
        let started : Status := { th.status with mode := .user, pmode := .user, pie := false, ie := true }
        (∀ i d, c.offer = .dyn i → (s.stationAt st).dyn[i]? = some d →
          (s'.stationAt st).dyn = (s.stationAt st).dyn.eraseIdx i ∧ (s'.coreAt t.core).peersOpen = true ∧
          aget (s'.coreAt t.core).rf (8 * th.win.wbase + 3) = some d.g3 ∧
          s'.threadAt t = some { Thread.wrote th 3 with
            task := { inst := d.inst, node := d.node, launch := 0, eprio := BitVec.ofNat 2 c.prio, dyn := true, valid := true }
            held := { graph := none, contributed := false, keep := false, steps := 0, begun := false }, pc := d.entry, wait := none
            status := started }) ∧
        (∀ gid node inst again g n, c.offer = .node gid node inst again → x.graphs.find? (fun h => h.id == gid) = some g →
          g.nodes[node]? = some n → th.owed = [] → n.image.args.length ≤ 16 →
          let given := again && n.again.any (fun a => a.inst == inst && a.contributed)
          (s'.coreAt t.core).peersOpen = true ∧
          (∀ i w, n.image.args[i]? = some w → aget (s'.coreAt t.core).rf (8 * th.win.wbase + 3 + i) = some w) ∧
          s'.threadAt t = some { th with
            task := { inst := BitVec.ofNat 24 inst, node := BitVec.ofNat 16 node, launch := BitVec.ofNat 8 g.launch
                      eprio := BitVec.ofNat 2 c.prio, dyn := false, valid := true }
            held := { graph := some gid, contributed := given, keep := n.image.keep, steps := 0, begun := false }
            pc := n.image.entry, wait := none, status := started } ∧
          ∃ x' g' n', s'.ctxAt ctx = some x' ∧ x'.served = some c.key ∧ x'.graphs.find? (fun h => h.id == gid) = some g' ∧
            g'.nodes[node]? = some n' ∧ n'.next = (if again then n.next else n.next + 1) ∧
            (∀ p ∈ n'.placed, p.inst = inst → p = ⟨inst, t, 0, false, false, given⟩) ∧
            ⟨inst, t, 0, false, false, given⟩ ∈ n'.placed ∧ ∀ a ∈ n'.again, again = true → a.inst ≠ inst)))) ∧
  (∀ (s : State) (ctx : Nat) (x : Context), s.ctxAt ctx = some x → x.active s.time = true → x.stations.Nodup →
    ∃ s', exec (.priorityAging ctx) s = .next s' ∧
      (∀ st ∈ x.stations, (s'.stationAt st).dyn.map (fun d => (d.prio, d.since, d.key)) =
        (s.stationAt st).dyn.map (fun d => let n := (s.time.toNat - d.since) / 2 ^ 20
          (min 3 (d.prio + n), d.since + n * 2 ^ 20, d.key))) ∧
      (∀ st, st ∉ x.stations → s'.stationAt st = s.stationAt st) ∧ s'.cores = s.cores) ∧
  (∀ (s : State) (core : Nat) (n : BitVec 2), (s.coreAt core).rotNext = some n →
    let k := s.coreAt core
    (8 * 2 ^ k.rotLen.toNat ≤ k.position →
      exec (.rotLengthChange core) s = .next (s.modCore core (fun k => { k with rotLen := n, rotNext := none, position := 0 }))) ∧
    (k.position < 8 * 2 ^ k.rotLen.toNat → exec (.rotLengthChange core) s = .next s)))

/-! ### Messages and descriptors (11_memory_isa R168 to R170, 15_tables R189 to R195) -/

/-- R100, R149, R168 to R170, R173, R178: send checks its operands in the order of R168, then its payload's parity, and puts a
message with its header and payload on its way once its queue of two has room, its release is made and the thread's posted stores
to the payload are performed; recv takes the oldest message, its payload to scratchpad and its header to rd, behind such stores
too, and waits for one; a message that reaches a thread of a running partition, in its turn and by routers that are awake, lands
in its inbox while there is room and leaves its sender's queue, with none it is refused and recorded, a noticed sender resends at
once and an unrecorded one after 1,024 ticks. That PARITY is checked and where is the model's choice (log entry 23). -/
def Obligations.MessagesSentReceivedAndRefused : Prop :=
  ((∀ (s : State) (th : Thread) (a b : Reg) (w : BitVec 3), Executes s th [a, b] [a, b] →
    let dst := (s.g a).toNat % 2 ^ 32
    let v := (s.g b).toNat
    let src := v % 2 ^ 18
    let words := v / 2 ^ 32 % 2 ^ 5 + 1
    let k := s.coreAt s.cur.core
    let device := dst / 2 ^ 18
    let station := dst / 2 ^ 16 % 4 * 24 + dst / 2 ^ 15 % 2 * 12 + dst / 2 ^ 14 % 2 * 6 + dst / 2 ^ 11 % 8
    let reserved : Prop := v / 2 ^ 37 % 2 ^ 11 ≠ 0 ∨ v / 2 ^ 18 % 2 ^ 14 ≠ 0
    let nowhere : Prop := dst / 2 ^ 6 % 4 ≠ 0 ∨ 6 ≤ dst / 2 ^ 11 % 8
    let foreign : Prop := device = s.pkg.device.toNat ∧ station ∉ ((s.ctxAt th.ctxId.toNat).map Context.stations).getD []
    let noPod : Prop := device ≠ 0 ∧ s.pkg.inPod = false
    let locked : Prop := k.locked s.time.toNat (s.cur.core * 2 ^ 18 + src) (8 * words) = true
    let traps (code : Nat) (tval : Nat) (sub : Nat) : Prop := Traps (.send a b w) s (precise code (BitVec.ofNat 64 tval) sub 0)
    (reserved → traps 6 v 5) ∧ (¬ reserved →
    (nowhere → traps 6 (s.g a).toNat 5) ∧ (¬ nowhere →
    (src % 8 ≠ 0 → traps 4 src 0) ∧ (src % 8 = 0 →
    (0x40000 < src + 8 * words → traps 6 src 5) ∧ (src + 8 * words ≤ 0x40000 →
    (foreign → traps 6 dst 5) ∧ (¬ foreign →
    (noPod → traps 6 dst 5) ∧ (¬ noPod →
    (locked → traps 7 src 0) ∧ (¬ locked →
    ((∃ i < words, src / 8 + i ∈ k.spadBad) → ∃ i < words, src / 8 + i ∈ k.spadBad ∧ traps 20 (src + 8 * i) 1) ∧
    ((∀ i < words, src / 8 + i ∉ k.spadBad) →
      (2 ≤ th.sendq.length → exec (.send a b w) s = .next (s.waitFor s.cur .sendRoom)) ∧
      (th.sendq.length < 2 → ReleaseFree s th (scopeOf (s.place s.cur) dst) →
        let posted (i : Nat) : Prop := s.posting s.cur (0, s.cur.core * 2 ^ 15 + src / 8 + i) = true
        (∀ i < words, posted i → (∀ j < i, ¬ posted j) →
          exec (.send a b w) s = .next (s.waitFor s.cur (.behind 0 (s.cur.core * 2 ^ 15 + src / 8 + i)))) ∧
        ((∀ i < words, ¬ posted i) →
          ∃ m : Message, m.src = BitVec.ofNat 32 (s.place s.cur) ∧ m.dst = (s.g a).setWidth 32 ∧
            m.tag = (s.g b).extractLsb' 48 16 ∧ m.w = w ∧ m.returned = false ∧ m.ctx = th.ctxId.toNat ∧
            m.payload.length = words ∧
            (w = 0 → m.payload = (List.range words).map (fun i => k.spad.readWord (src + 8 * i))) ∧
            CompletesIn
              (State.setThread { s with
                flights := s.flights ++ [{ id := s.nextId, sender := some s.cur, msg := m, stage := .travelling, port := none
                                           sent := s.nextId }]
                nextId := s.nextId + 1 } s.cur { th with sendq := th.sendq ++ [s.nextId] })
              { th with sendq := th.sendq ++ [s.nextId] } (.send a b w) s 4 0 0))))))))))) ∧
  (∀ (s : State) (th : Thread) (r : R2), Executes s th [r.d, r.a] [r.a] →
    (th.inbox.msgs = [] → exec (.recv r) s = .next (s.waitFor s.cur .recv)) ∧
    (∀ m rest, th.inbox.msgs = m :: rest →
      let dest := (s.g r.a).toNat
      let bytes := 8 * m.payload.length
      let traps (code sub : Nat) : Prop := Traps (.recv r) s (precise code (s.g r.a) sub 0)
      let locked : Prop := (s.coreAt s.cur.core).locked s.time.toNat (s.cur.core * 2 ^ 18 + dest) bytes = true
      (dest % 8 ≠ 0 → traps 4 0) ∧ (dest % 8 = 0 →
      (0x40000 < dest + bytes → traps 6 5) ∧ (dest + bytes ≤ 0x40000 →
      (locked → traps 7 0) ∧ (¬ locked →
      let posted (i : Nat) : Prop := s.posting s.cur (0, s.cur.core * 2 ^ 15 + dest / 8 + i) = true
      (∀ i < m.payload.length, posted i → (∀ j < i, ¬ posted j) →
        exec (.recv r) s = .next (s.waitFor s.cur (.behind 0 (s.cur.core * 2 ^ 15 + dest / 8 + i)))) ∧
      ((∀ i < m.payload.length, ¬ posted i) →
        let taken := ((s.modCore s.cur.core (fun k => k.spadWrite dest (messageBytes m))).setThread s.cur
          { th with inbox := { th.inbox with msgs := rest } }).freedEntry s.cur
        ∃ thb, taken.threadAt s.cur = some thb ∧ thb.pc = th.pc ∧
          CompletesIn taken thb (.recv r) s 4 r.d (BitVec.ofNat 64 (m.tag.toNat * 2 ^ 48 + (if m.returned then 2 ^ 40 else 0) +
            m.w.toNat * 2 ^ 37 + (m.payload.length - 1) % 32 * 2 ^ 32 + m.src.toNat))))))))) ∧
  (∀ (s : State) (f : Flight), s.flights.find? (fun g => g.id == f.id) = some f →
    let becomes (st : FlightStage) (s : State) : State :=
      { s with flights := s.flights.map (fun g => if g.id == f.id then { g with stage := st } else g) }
    let resent : State := { s with
      flights := s.flights.map (fun g => if g.id == f.id then { g with stage := .travelling, sent := s.nextId } else g)
      nextId := s.nextId + 1 }
    (∀ (x : Context) (th : Thread), f.stage = .travelling → s.behindMessage f = false →
      (s.inside f.msg = true → s.behindPacket f = false) → f.msg.dst.toNat / 2 ^ 18 % 2 ^ 14 = s.pkg.device.toNat →
      s.ctxAt f.msg.ctx = some x → x.active s.time = true →
      let t := threadOfPlace f.msg.dst.toNat
      let s1 := s.touchRoute (s.messageRoute f.msg)
      let gone : State := { s1 with flights := s.flights.filter (fun g => g.id != f.id) }
      let room := f.id ∈ th.inbox.reserved ∨ th.inbox.msgs.length + th.inbox.reserved.length < 4
      let landed (b : Inbox) : Inbox := { b with msgs := b.msgs ++ [f.msg], reserved := b.reserved.filter (· != f.id) }
      RoutersTouched s s1 ∧ s1 = { s with stations := s1.stations } ∧
      (s.routeOpen (s.messageRoute f.msg) = false → exec (.messageArrival f.id) s = .next s) ∧
      (s.routeOpen (s.messageRoute f.msg) = true →
        s.threadAt t = some th → (s.coreAt t.core).lost = false → t.core ∉ s.pkg.deadPlaces → t.core / 8 ∈ x.stations →
        (room → f.sender = none →
          exec (.messageArrival f.id) s = .next (gone.setThread t { th with inbox := landed th.inbox })) ∧
        (∀ (u : ThreadId) (sender : Thread), room → f.sender = some u → s.threadAt u = some sender →
          let left := gone.setThread u { sender with sendq := sender.sendq.filter (· != f.id) }
          let th1 : Thread := if u = t then { th with sendq := th.sendq.filter (· != f.id) } else th
          exec (.messageArrival f.id) s = .next (left.setThread t { th1 with inbox := landed th.inbox })) ∧
        (¬ room → f.msg.returned = false → th.inbox.refused.length < 64 →
          exec (.messageArrival f.id) s = .next (becomes .recorded
            (s1.setThread t { th with inbox := { th.inbox with refused := th.inbox.refused ++ [f.id] } }))))) ∧
    (f.stage = .noticed → exec (.messageNotice f.id) s = .next resent) ∧
    (∀ since, f.stage = .unrecorded since → since + 1024 ≤ s.time.toNat →
      exec (.messageRetry f.id) s = .next resent))

/-- R173, R189, R192 to R195, R229, R271: tbldef reads its image behind the thread's posted stores to it and by routers that are
awake, waits while its page is held, faults on an invalid image or one that cannot be read, and sends a valid one to every station
of the partition; tblinv sends the removal of a register. A station applies an update behind the lowest-numbered station and behind
the earlier updates of the register, and the instruction completes when all have. shardof answers all ones outside the table, and
else the device, station and shard of a row: the station of its home slice, whatever its permissions, 127 where its address does not
translate, and it waits while its page is held. -/
def Obligations.DescriptorsAndShards : Prop :=
  let sends (s u : State) (ctx n : Nat) (img : Option (List Word)) : Prop :=
    u = State.waitFor { s with
      descs := s.descs ++ [{ id := s.nextId, ctx := ctx, reg := n, image := img
                             todo := ((s.ctxAt ctx).map Context.stations).getD [] }]
      nextId := s.nextId + 1 } s.cur (.spread s.nextId)
  (∀ (s : State) (th : Thread) (a b : Reg), Executes s th [a, b] [a, b] →
    let n := (s.g b).toNat
    let va := (s.g a).toNat
    let posted := s.postedAmong s.cur th va 8
    let way := s.tableWay s.cur th va
    let u := s.touchRoute way
    (256 ≤ n → Traps (.tbldef a b) s (precise 16 (s.g b) 0x20 0)) ∧
    (n < 256 → va % 64 ≠ 0 → Traps (.tbldef a b) s (precise 4 (s.g a) 0 0)) ∧
    (n < 256 → va % 64 = 0 →
      (∀ w, posted = some w → exec (.tbldef a b) s = .next (s.waitFor s.cur (.behind w.1 w.2))) ∧
      (posted = none → s.routeOpen way = false → exec (.tbldef a b) s = .next (s.waitFor s.cur (.way way))) ∧
      (posted = none → s.routeOpen way = true → ∀ s1,
        (∀ img, u.loadWords s.cur th (s.g a) 8 = (.words img, s1) →
          (validImage img s.pkg.inPod = true → s1.cur = s.cur → ∃ t, exec (.tbldef a b) s = .next t ∧
            sends s1 t th.ctxId.toNat n (some img)) ∧
          (validImage img s.pkg.inPod = false →
            exec (.tbldef a b) s = .next (s1.takeTrap s1.cur (precise 16 (s.g a) 0x23 0)))) ∧
        (∀ c, u.loadWords s.cur th (s.g a) 8 = (.bad c, s1) → exec (.tbldef a b) s = .next (s1.takeTrap s1.cur c)) ∧
        (u.loadWords s.cur th (s.g a) 8 = (.held, s1) →
          ((∀ since, th.wait ≠ some (.held since)) → exec (.tbldef a b) s = .next (s1.waitFor s.cur (.held s1.time.toNat))) ∧
          (∀ since, th.wait = some (.held since) →
            (s1.time.toNat < since + 76000 → exec (.tbldef a b) s = .next s1) ∧
            (since + 76000 ≤ s1.time.toNat →
              exec (.tbldef a b) s = .next (s1.takeTrap s1.cur (precise 5 (s.g a) 3 0)))))))) ∧
  (∀ (s : State) (th : Thread) (a : Reg), Executes s th [a] [a] →
    ((s.g a).toNat < 256 → ∃ t, exec (.tblinv a) s = .next t ∧ sends s t th.ctxId.toNat (s.g a).toNat none) ∧
    (256 ≤ (s.g a).toNat → Traps (.tblinv a) s (precise 16 (s.g a) 0x20 0))) ∧
  (∀ (s : State) (v : DescUpdate) (st : Nat), FirstOf s.descs (fun w => w.id = v.id) v →
    let low := s.lowestOf v.ctx
    let first (w : DescUpdate) : Prop := w ∈ s.descs.takeWhile (fun w => w.id != v.id) ∧ w.ctx = v.ctx ∧ w.reg = v.reg ∧
      low ∉ w.todo ∧ st ∈ w.todo
    let t := s.applyDesc v.id st
    (st ∈ v.todo → s.routeOpen (routeOf low st) = true → (st = low ∨ (low ∉ v.todo ∧ ∀ w, ¬ first w)) →
      aget (t.stationAt st).descs v.reg = v.image ∧ (∀ c, c ≠ st → (t.stationAt c).descs = (s.stationAt c).descs) ∧
      (∀ r, r ≠ v.reg → aget (t.stationAt st).descs r = aget (s.stationAt st).descs r) ∧
      ((∀ c ∈ v.todo, c = st) → ∀ w ∈ t.descs, w.id ≠ v.id) ∧
      ((∃ c ∈ v.todo, c ≠ st) → { v with todo := v.todo.filter (· != st) } ∈ t.descs)) ∧
    (st ∉ v.todo ∨ (st ≠ low ∧ (low ∈ v.todo ∨ ∃ w, first w)) → t = s)) ∧
  (∀ (s : State) (t : ThreadId) (th : Thread) (id : Nat), s.threadAt t = some th → th.wait = some (.spread id) →
    ((∃ v ∈ s.descs, v.id = id) → s.endWait t th = none) ∧ ((∀ v ∈ s.descs, v.id ≠ id) → s.endWait t th = some (s.finish t 4))) ∧
  (∀ (s : State) (th : Thread) (r : R3) (img : List Word), Executes s th [r.d, r.a, r.b] [r.a, r.b] → (s.g r.a).toNat < 256 →
    aget (s.stationAt (s.cur.core / 8)).descs (s.g r.a).toNat = some img →
    let d := Desc.ofImage img
    let x := if d.iw then (s.g r.b).toNat else (s.g r.b).toNat % 2 ^ 32
    let va := d.base + x * 2 ^ d.rlog
    let way := s.tableWay s.cur th va
    (d.rows ≤ x → Completes (.shardof r) s th 4 r.d 0xFFFFFFFFFFFFFFFF#64) ∧
    (x < d.rows → d.pod = false → s.routeOpen way = false → exec (.shardof r) s = .next (s.waitFor s.cur (.way way))) ∧
    (x < d.rows → d.pod = false → s.routeOpen way = true →
      let home := (s.touchRoute way).homeOrNone (.table s.cur) (s.cur.core / 8) th.ctxId.toNat va
      (∀ st, home.1 = some st → CompletesIn home.2 th (.shardof r) s 4 r.d (BitVec.ofNat 64
        (s.pkg.device.toNat * 2 ^ 42 + st % 128 * 2 ^ 32 + (d.shardOf x).1 % 2 ^ 16))) ∧
      (home.1 = none → (∀ since, th.wait ≠ some (.held since)) →
        exec (.shardof r) s = .next (home.2.waitFor s.cur (.held s.time.toNat))))) ∧
  (∀ (s : State) (who : HeldBy) (st ctx va : Nat),
    (2 ^ 56 ≤ va ∨ s.region va ≠ .paged → s.homeOrNone who st ctx va = (some 127, s)) ∧
    (va < 2 ^ 56 → s.region va = .paged → s.behindHeld who st ctx va = true →
      s.homeOrNone who st ctx va = (none, s.hold who st ctx va)) ∧
    (va < 2 ^ 56 → s.region va = .paged → s.behindHeld who st ctx va = false →
      (∀ (s1 : State) (level e : Nat), s.leafFor (st / 8) ctx va = (.leaf level e, s1) →
        s.homeOrNone who st ctx va = (some (if s1.inMap (leafAddress level e va) then homeStation (leafAddress level e va) else 127),
          s1.unhold who st ctx va)) ∧
      (∀ s1 : State, s.leafFor (st / 8) ctx va = (.moving, s1) → s.homeOrNone who st ctx va = (none, s1.hold who st ctx va)) ∧
      (∀ (s1 : State) (reason level : Nat), s.leafFor (st / 8) ctx va = (.bad reason level, s1) →
        s.homeOrNone who st ctx va = (some 127, s1.unhold who st ctx va))))

/-! ### Engine commands (15_tables R196 to R214) -/

/-- R164, R178, R197, R198, R203: a copy-engine command makes the checks of R198 in their order and takes the trap of the first
that fails. One whose checks pass, with a free reply entry and enough range-lock entries, enters the station's engine with its
operand words and its descriptor, locks its ranges, reserves its reply entry and lets its thread go on; segred owes its total to
g[rc]. Without room it waits and changes nothing else. Which of several malformed words, or of several failing ranges, is named is
the model's choice (stated at `malformedWord`). -/
def Obligations.CopyCommandsEnterTheEngine : Prop :=
  (∀ (s : State) (th : Thread) (k : CopyKind) (rc ra : Reg) (count : Word) (ev : BitVec 4) (n : Nat) (i : Instr) (img : List Word),
    ((∃ rb, Executes s th [rc, ra, rb] [rc, ra, rb] ∧ count = s.g rb ∧ n = 4 ∧
        (k, i) ∈ [(CopyKind.gather, Instr.gather ⟨rc, ra, rb, ev⟩), (.scatter, .scatter ⟨rc, ra, rb, ev⟩),
          (.scadd, .scadd ⟨rc, ra, rb, ev⟩), (.dedup, .dedup ⟨rc, ra, rb, ev⟩), (.segred, .segred ⟨rc, ra, rb, ev⟩),
          (.isect, .isect ⟨rc, ra, rb, ev⟩)]) ∨
      (∃ imm, Executes s th [rc, ra] [rc, ra] ∧ count = imm.zeroExtend 64 ∧ n = 8 ∧
        (k, i) ∈ [(CopyKind.gather, Instr.gatherLong ⟨rc, ra, ev, imm⟩), (.scatter, .scatterLong ⟨rc, ra, ev, imm⟩),
          (.scadd, .scaddLong ⟨rc, ra, ev, imm⟩), (.dedup, .dedupLong ⟨rc, ra, ev, imm⟩),
          (.segred, .segredLong ⟨rc, ra, ev, imm⟩), (.isect, .isectLong ⟨rc, ra, ev, imm⟩)])) →
    let table := s.g rc
    let list := s.g ra
    (∀ f, s.timedFault s.cur th k rc table = some f → Traps i s f) ∧
    (∀ f, s.timedFault s.cur th k rc table = none → s.copyFault s.cur.core k table list count = some f → Traps i s f) ∧
    (s.timedFault s.cur th k rc table = none → s.copyFault s.cur.core k table list count = none →
    aget (s.stationAt (s.cur.core / 8)).descs (table.toNat / 2 ^ 32 % 2 ^ 8) = some img →
    let rs := copyRanges k (Desc.ofImage img) table list count
    let room := rs.length ≤ 16 - (s.coreAt s.cur.core).locksHeld
    let timed := table.toNat / 2 ^ 47 % 2 = 1
    (8 ≤ th.replies.length + th.replyReserved → exec i s = .next (s.waitFor s.cur .replyRoom)) ∧
    (th.replies.length + th.replyReserved < 8 → ¬ room → exec i s = .next (s.waitFor s.cur (.lockRoom rs.length))) ∧
    (th.replies.length + th.replyReserved < 8 → room → ∃ c : CopyCmd, c.id = s.nextId ∧ c.thread = s.cur ∧ c.kind = k ∧
      c.table = table ∧ c.list = list ∧ c.count = count ∧ c.desc = img ∧ c.ev = ev.toNat ∧ c.rcReg = rc ∧
      c.issued = s.time.toNat ∧ c.startAt = (if timed then some (s.g (rc + 1)).toNat else none) ∧
      (c.started = true ↔ timed → (s.g (rc + 1)).toNat ≤ s.time.toNat) ∧ c.loaded = false ∧ c.seen = [] ∧ c.results = [] ∧
      c.kept = [] ∧ c.segs = [] ∧ c.devs = [] ∧ c.out = [] ∧ c.ending = none ∧
      let th' : Thread := { th with
        replyReserved := th.replyReserved + 1
        owed := if k = .segred ∧ rc ≠ 0 then th.owed ++ [⟨s.nextId, .segred, rc, none, false⟩] else th.owed }
      CompletesIn
        (State.modStation (State.modCore (State.setThread { s with nextId := s.nextId + 1 } s.cur th') s.cur.core (fun core =>
            { core with locks := core.locks ++ rs.map (fun r => ⟨s.nextId, spadNumber s.cur.core r.sp r.addr, r.len, none⟩) }))
          (s.cur.core / 8) (fun st => { st with copies := st.copies ++ [c] })) th' i s n 0 0))) ∧
  (∀ (s : State) (t : ThreadId) (th : Thread) (k : CopyKind) (rc : Reg) (table : Word),
    let timed := (k = .gather ∨ k = .segred) ∧ wfld table 47 47 = 1
    let bad := th.rfEntry (rc.toNat + 1) ∈ (s.coreAt t.core).rfBad
    (¬ timed → s.timedFault t th k rc table = none) ∧
    (timed → 8 * th.win.wsize ≤ rc.toNat + 1 →
      s.timedFault t th k rc table = some (precise 3 (BitVec.ofNat 64 (rc.toNat + 1)) 0 0)) ∧
    (timed → rc.toNat + 1 < 8 * th.win.wsize → rc.toNat < 127 →
      (bad → s.timedFault t th k rc table = some (precise 20 (BitVec.ofNat 64 (rc.toNat + 1)) 2 0)) ∧
      (¬ bad → s.timedFault t th k rc table = none))) ∧
  (∀ (s : State) (core : Nat) (k : CopyKind) (table list count : Word),
    let n := wfld count 12 0
    let m := wfld count 28 16
    let w := wfld table 45 43
    let lists := k = .dedup ∨ k = .isect
    let seconds := k = .segred ∨ k = .isect
    let badTable := wfld table 63 48 ≠ 0 ∨ wfld table 31 27 ≠ 0 ∨ (k ≠ .gather ∧ k ≠ .segred ∧ wfld table 47 47 = 1) ∨
      (k ≠ .gather ∧ wfld table 46 46 = 1) ∨ (k ≠ .segred ∧ wfld table 26 25 ≠ 0) ∨ wfld table 26 25 = 3 ∨ (lists ∧ w ≠ 0)
    let badList := wfld list 63 54 ≠ 0 ∨ (lists ∧ wfld list 53 36 ≠ 0) ∨ (¬ lists ∧ k ≠ .segred ∧ wfld list 35 18 ≠ 0)
    let badCount := wfld count 63 29 ≠ 0 ∨ wfld count 15 13 ≠ 0 ∨ n = 0 ∨ 4096 < n ∨ (seconds ∧ (m = 0 ∨ 4096 < m)) ∨
      (¬ seconds ∧ m ≠ 0)
    let f := s.copyFault core k table list count
    (badTable → f = some (precise 16 table 0x20 0)) ∧ (¬ badTable → badList → f = some (precise 16 list 0x20 0)) ∧
    (¬ badTable → ¬ badList → badCount → f = some (precise 16 count 0x20 0)) ∧
    (¬ badTable → ¬ badList → ¬ badCount →
      (aget (s.stationAt (core / 8)).descs (wfld table 39 32) = none →
        f = some (precise 16 (BitVec.ofNat 64 (wfld table 39 32)) 0x21 0)) ∧
      (∀ img, aget (s.stationAt (core / 8)).descs (wfld table 39 32) = some img →
        let d := Desc.ofImage img
        let unfit := ¬ lists ∧ (WireUnfit w d.efmt ∨ ((k = .scadd ∨ k = .segred) ∧ d.efmt ≠ 0 ∧ d.efmt ≠ 1))
        let ib := if d.iw then 8 else 4
        let rb := 2 ^ d.rlog
        let lst : SpadRange := ⟨0, wfld list 17 0, n * ib, ib⟩
        let aux (len align : Nat) : SpadRange := ⟨0, wfld list 35 18, len, align⟩
        let area (len : Nat) : SpadRange := ⟨1, wfld table 24 0, len, 8⟩
        let record (len : Nat) : SpadRange := ⟨0, wfld list 53 36, 16 + 8 * ((n + 63) / 64) + len, 8⟩
        let rs := match k with
          | .gather | .scatter | .scadd => [lst, area (n * rb), record 0]
          | .segred => [lst, aux (2 * m) 2, area (m * rb), record ((2 * m + 7) / 8 * 8)]
          | .dedup => [lst, area (n * ib), aux (2 * n) 2]
          | .isect => [lst, aux (m * ib) ib, area (4 * min n m)]
        copyRanges k d table list count = rs ∧ (unfit → f = some (precise 16 table 0x22 0)) ∧
          (¬ unfit → RangesChecked s core rs f))))

/-- R172, R177, R179, R194, R196, R199 to R205: a timed command starts at its tick, and a started command reads its lists, each
doubleword once: a gather position its own entry, an update those up to its own, the others whole lists (that an update reads the
entries before its own is log entry 28). A gather or segred position looks its row up once for all positions with its entry, and
the row goes, narrowed and widened under w, to each of their places in the area, under dedup to that of its rank; a missing entry
writes zeros, or nothing under dedup; one past the table fails or takes the default row; a row on another device is requested, or
fails without a port to it. A pod table's device may be read in a tick of its own. A scatter or scadd position updates its row
from the row of the area, behind earlier ones of its row. Nothing moves while a router on the way is not awake. dedup writes the
distinct entries, ascending, and the inverse map; segred writes each segment's reduction; isect writes the pairs of places of the
values that both lists hold. At completion the record and the reply entry hold status, first, done, defaulted, skipped, the failed
positions and the counts, the line is raised, and the locks are given back. segred's total, decided from its lists alone, is
written to its register. That a dedup or an isect which ends with status 8 replies 0 is the model's choice (stated at
`CopyCmd.conclude`). -/
def Obligations.CopyCommandsStartAndComplete : Prop :=
  ∀ (s : State) (st : Nat) (c : CopyCmd), s.copyAt st c.id = some c →
    (c.startAt.getD 0 ≤ s.time.toNat → (s.ctxOfStation st).isSome = true →
      exec (.timedCommandStart st c.id) s = .next (s.modStation st (fun k =>
        { k with copies := k.copies.map (fun x => if x.id == c.id then { x with started := true } else x) }))) ∧
    (s.time.toNat < c.startAt.getD 0 → exec (.timedCommandStart st c.id) s = .next s) ∧
    (∀ ext : ExtAnswer, c.started = false → exec (.copyEngineCompletion st c.id ext) s = .next s) ∧
    (let k := s.coreAt c.thread.core
      let n := wfld c.count 12 0
      let m := wfld c.count 28 16
      let ib := if c.d.iw then 8 else 4
      let aw := if c.kind = .segred then 2 else ib
      let a := wfld c.list 17 0
      let b := wfld c.list 35 18
      let number (z : Nat) : Nat := c.thread.core * 2 ^ 15 + z / 8
      (∀ w, w ∈ c.listWords ↔ (∃ z, a ≤ z ∧ z < a + ib * n ∧ w = number z) ∨
        ((c.kind = .segred ∨ c.kind = .isect) ∧ ∃ z, b ≤ z ∧ z < b + aw * m ∧ w = number z)) ∧
      (∀ p w, w ∈ c.wordsFor p ↔
        if c.kind = .gather then w = number (a + ib * p)
        else if c.kind = .scatter ∨ c.kind = .scadd then ∃ z, a ≤ z ∧ z < a + ib * (p + 1) ∧ w = number z
        else w ∈ c.listWords) ∧
      (c.started = true → c.loaded = false →
        (∀ p, s.act (.copyRow st c.id p) = (s.readLists st c (c.wordsFor p)).act (.copyRow st c.id p)) ∧
        (c.kind ∈ [.segred, .dedup, .isect] →
          s.act (.copyTurn st c.id) = (s.readLists st c c.listWords).act (.copyTurn st c.id)) ∧
        (∀ w ∈ c.listWords, w / 2 ^ 15 = c.thread.core → c.out = [] →
          s.act (.copyWord st c.id w) = s.readLists st c [w])) ∧
      ∀ ws : List Nat, c.loaded = false → (c.kind = .gather → c.results = []) → (c.seen.map Prod.fst).Nodup →
        a + ib * n ≤ 2 ^ 18 → b + aw * m ≤ 2 ^ 18 → (∀ w ∈ ws, w / 2 ^ 15 = c.thread.core) →
        (∃ w ∈ ws, aget c.seen w = none) →
        ∃ c', (s.readLists st c ws).copyAt st c.id = some c' ∧
          c' = { c with
            loaded := c'.loaded, seen := c'.seen, entries := c'.entries, badEntries := c'.badEntries, aux := c'.aux } ∧
          (∀ w, aget c'.seen w = if (aget c.seen w).isSome = true ∨ w ∉ ws then aget c.seen w
            else some (k.spad.readWord (8 * (w % 2 ^ 15)), decide (w % 2 ^ 15 ∈ k.spadBad))) ∧
          (c'.loaded = true ↔ ∀ w ∈ c.listWords, (aget c'.seen w).isSome = true) ∧
          let byte (z : Nat) : Byte := match aget c'.seen (number z) with
            | some v => v.1.extractLsb' (8 * (z % 8)) 8
            | none => k.spad.read z
          let bad (z : Nat) : Prop := match aget c'.seen (number z) with
            | some v => v.2 = true
            | none => z / 8 ∈ k.spadBad
          let list (a w n : Nat) : List Nat := (List.range n).map (fun i =>
            ofBytesLE ((List.range w).map (fun j => byte (a + w * i + j))))
          c'.entries = list a ib n ∧ (∀ i, i ∈ c'.badEntries ↔ i < n ∧ ∃ j < ib, bad (a + ib * i + j)) ∧
          (c.kind = .segred ∨ c.kind = .isect → (∃ j < aw * m, bad (b + j)) → c'.aux = none) ∧
          (c.kind = .segred ∨ c.kind = .isect → (∀ j < aw * m, ¬ bad (b + j)) → c'.aux = some (list b aw m))) ∧
    (∀ p x : Nat, c.started = true → (c.loaded = true ∨ ∀ w ∈ c.wordsFor p, (aget c.seen w).isSome = true) →
      c.hasRows = true → c.entries[p]? = some x → c.open p = true →
      let u := s.act (.copyRow st c.id p)
      let rb := 2 ^ c.d.rlog
      let area := wfld c.table 24 0
      let wired (row : List Byte) : List Byte := wireWiden (wfld c.table 45 43) (wireShrink (wfld c.table 45 43) row)
      let agent : RowAgent := ⟨c.thread.core / 8, c.ctx, c.tag, c.user, BitVec.ofNat 32 (s.place c.thread),
        .position (c.thread.core / 8) c.id p, aget c.devs p, c.issued⟩
      let known (q : Nat) : Prop := c.loaded = true ∨
        (aget c.seen (c.thread.core * 2 ^ 15 + (wfld c.list 17 0 + (if c.d.iw then 8 else 4) * q) / 8)).isSome = true
      let same := (List.range c.entries.length).filter (fun q =>
        decide (c.entries[q]? = some x ∧ q ∉ c.badEntries ∧ known q))
      let waiting := same.filter (fun q => decide (c.open q = true ∨ aget c.results q = some .requested))
      let sets (qs : List Nat) (r : PosResult) (out : List SpadWrite) (rows : Nat → Option (List Byte)) : Prop :=
        ∃ c', u.copyAt st c.id = some c' ∧ (∀ q, aget c'.results q = if q ∈ qs then some r else aget c.results q) ∧
          c'.out = c.out ++ out ∧ ∀ q, aget c'.rows q = rows q
      let update := c.kind = .scatter ∨ c.kind = .scadd
      (p ∈ c.badEntries → sets [p] (.failed 8) [] (aget c.rows)) ∧
      (p ∉ c.badEntries → x = c.d.missing →
        (c.kind = .gather → wfld c.table 46 46 = 0 →
          sets [p] .zeroed [⟨p, area + p * rb, List.replicate rb 0⟩] (aget c.rows)) ∧
        (c.kind ≠ .gather ∨ wfld c.table 46 46 = 1 → sets [p] .skipped [] (aget c.rows))) ∧
      (p ∉ c.badEntries → x ≠ c.d.missing → c.d.rows ≤ x →
        (c.d.oob = false → sets [p] (.failed 2) [] (aget c.rows)) ∧
        (c.d.oob = true → update → sets [p] .defaulted [] (aget c.rows))) ∧
      (∀ l : List Nat, p ∉ c.badEntries → x ≠ c.d.missing → ¬ update → x < c.d.rows ∨ c.d.oob = true → l.Pairwise (· < ·) →
        (∀ y, y ∈ l ↔ y ≠ c.d.missing ∧ ∃ q, q ∉ c.badEntries ∧ c.entries[q]? = some y) →
        let dedup := wfld c.table 46 46 = 1
        let slot (q : Nat) : Nat := if dedup then l.idxOf x else q
        let serves (qs : List Nat) (row : List Byte) (dflt : Bool) : Prop :=
          sets qs (if dflt then .writtenDefault else .written)
            (if c.kind = .segred ∨ (dedup ∧ c.loaded = false) then [] else qs.map (fun q => ⟨q, area + slot q * rb, row⟩))
            (fun q => if c.kind = .segred ∧ q ∈ qs then some row else aget c.rows q)
        (∀ (row : List Byte) (dflt : Bool), aget c.kept x = some (row, dflt) → serves [p] row dflt) ∧
        (∀ q ∈ same, aget c.kept x = none → (∀ y ∈ same, y < q → aget c.results y ≠ some .requested ∧
            ∀ status, aget c.results y ≠ some (.failed status)) →
          (aget c.results q = some .requested → sets [p] .requested [] (aget c.rows)) ∧
          (∀ status, aget c.results q = some (.failed status) → sets [p] (.failed status) [] (aget c.rows))) ∧
        (aget c.kept x = none → (∀ q ∈ same, aget c.results q ≠ some .requested ∧
            ∀ status, aget c.results q ≠ some (.failed status)) →
          let dflt := decide (c.d.rows ≤ x)
          let way := if dflt then s.wayTo agent c.d.dflt else s.rowWay agent c.d x true
          let v := s.touchRoute way
          (s.routeOpen way = false → u = s) ∧
          (s.routeOpen way = true → ∀ (look : Looked) (s1 : State),
            (if dflt then v.engineRead agent c.d.dflt rb true else v.lookupRow agent c.d x) = (look, s1) →
            (∀ status, look = .failed status → sets waiting (.failed status) [] (aget c.rows)) ∧
            (∀ dev, look = .remote dev →
              sets waiting (if s1.linked dev then .requested else .failed 1) [] (aget c.rows)) ∧
            (∀ bs, look = .row bs → serves waiting (wired bs) dflt ∧
              ∃ c', u.copyAt st c.id = some c' ∧ aget c'.kept x = some (wired bs, dflt))))) ∧
      (p ∉ c.badEntries → x ≠ c.d.missing → x < c.d.rows → c.d.pod = true → aget c.devs p = none →
        let way := s.wayTo agent (c.d.devlist + 2 * (c.d.shardOf x).1)
        s.routeOpen way = true → ∀ (bs : List Byte) (s1 : State), (s.touchRoute way).rowDevice agent c.d x = (.row bs, s1) →
        ∃ c', (s.act (.copyDevice st c.id p)).copyAt st c.id = some c' ∧ aget c'.devs p = some (ofBytesLE bs % 2 ^ 14)) ∧
      (p ∉ c.badEntries → x ≠ c.d.missing → x < c.d.rows → update →
        let a := area + p * rb
        let core := c.thread.core / 96 * 96 + a / 2 ^ 18
        let k := s.coreAt core
        let way := s.rowWay agent c.d x false
        ((∃ q < p, q ∈ same ∧ c.open q = true) → u = s) ∧
        ((∀ q < p, q ∈ same → c.open q = false) → (∀ l ∈ s.lates, l.cmd ≠ c.id) → s.routeOpen way = false → u = s) ∧
        ((∀ q < p, q ∈ same → c.open q = false) → (∀ l ∈ s.lates, l.cmd ≠ c.id) → s.routeOpen way = true →
          (∀ w ∈ c.seen, ∀ z < rb, w.1 ≠ core * 2 ^ 15 + (a % 2 ^ 18 + z) / 8) → a % 2 ^ 18 + rb ≤ 2 ^ 18 →
          c.thread.slot < 64 →
          (core ≠ c.thread.core → k.lost = true ∨ k.peersOpen = false → sets [p] (.failed 7) [] (aget c.rows)) ∧
          (core = c.thread.core ∨ (k.lost = false ∧ k.peersOpen = true) →
            (k.badParity (a % 2 ^ 18) rb = true → sets [p] (.failed 8) [] (aget c.rows)) ∧
            (k.badParity (a % 2 ^ 18) rb = false → ∀ s1 : State,
              let r := (s.touchRoute way).updateRow agent c.d x (decide (c.kind = .scadd)) (wired (k.spad.readBytes (a % 2 ^ 18) rb)) c.id p
              (r = (.done, s1) → u = s1.setPos st c.id p .written) ∧
              (∀ status, r = (.failed status, s1) → u = s1.setPos st c.id p (.failed status))))))) ∧
    (∀ (ext : ExtAnswer) (status first : Nat) (record : List Byte), c.kind ∈ [.gather, .scatter, .scadd] → Ripe s c → c.Settled →
      let ps := c.having [.written, .writtenDefault]
      let done := if wfld c.table 46 46 = 1 then ((ps.map (fun p => c.entries.getD p 0)).dedup).length else ps.length
      let ws : List SpadWrite := c.out ++ [⟨0, c.thread.core % 96 * 2 ^ 18 + wfld c.list 53 36, record⟩]
      c.Record status first done record → OpenAreas s c ws → CopyCloses s st c ext ws status done) ∧
    (∀ (ext : ExtAnswer) (o : List Nat), c.kind = .segred → Ripe s c → c.aux = some o → c.out = [] → c.segs = [] → c.reduced = false →
      c.closed = false → wfld c.table 46 46 = 0 →
      let n := c.entries.length
      let good := (∃ l, o = 0 :: l) ∧ o.Pairwise (· ≤ ·) ∧ ∀ x ∈ o, x ≤ n
      let rb := 2 ^ c.d.rlog
      let f := if c.d.efmt = 1 then Fmt.fp64 else Fmt.fp32
      let e := f.width / 8
      let segment (j : Nat) : List Nat := (List.range n).filter (fun p => decide (o.getD j 0 ≤ p ∧ p < o.getD (j + 1) n))
      let rowsOf (j : Nat) : List (List Byte) := (segment j).filterMap (fun p => aget c.rows p)
      let reduced (j : Nat) : List Byte := (List.range (rb / e)).flatMap (fun i =>
        bytesLE e (segmentElement f (wfld c.table 26 25) ((rowsOf j).map (fun r => (elementsOf e r).getD i 0))))
      let counts := (List.range o.length).flatMap (fun j => bytesLE 2 (rowsOf j).length)
      let padded := counts ++ List.replicate ((o.length + 3) / 4 * 8 - 2 * o.length) 0
      (∀ (status first : Nat) (record : List Byte), good → c.Settled → 3 ≤ c.d.rlog → c.d.efmt ≤ 1 →
        (∀ p ∈ c.rows, p.2.length = rb) →
        let done := (c.having [.written, .writtenDefault]).length
        let ws : List SpadWrite := (List.range o.length).map (fun j => ⟨0, wfld c.table 24 0 + j * rb, reduced j⟩) ++
          [⟨0, c.thread.core % 96 * 2 ^ 18 + wfld c.list 53 36, record ++ padded⟩]
        c.Record status first done record → OpenAreas s c ws → CopyCloses s st c ext ws status done) ∧
      (¬ good → c.thread.slot < 64 → ∃ ws, CopyCloses s st c ext ws 9 0)) ∧
    (∀ (ext : ExtAnswer) (l : List Nat), c.kind = .dedup → Ripe s c → c.out = [] → c.reduced = false → c.closed = false →
      (c.badEntries ≠ [] → c.thread.slot < 64 → CopyCloses s st c ext [] 8 0) ∧
      (c.badEntries = [] → l.Pairwise (· < ·) → (∀ y, y ∈ l ↔ y ≠ c.d.missing ∧ y ∈ c.entries) →
        let ws : List SpadWrite :=
          [⟨0, c.thread.core % 96 * 2 ^ 18 + wfld c.list 35 18,
              c.entries.flatMap (fun x => bytesLE 2 (if x = c.d.missing then 0xFFFF else l.idxOf x))⟩,
            ⟨0, wfld c.table 24 0, l.flatMap (bytesLE (if c.d.iw then 8 else 4))⟩]
        OpenAreas s c ws → CopyCloses s st c ext ws 0 l.length)) ∧
    (∀ (ext : ExtAnswer) (aux : List Nat), c.kind = .isect → Ripe s c → c.out = [] → c.reduced = false → c.closed = false →
      c.aux = some aux → c.badEntries = [] →
      let la := c.entries.takeWhile (· ≠ c.d.missing)
      let lb := aux.takeWhile (· ≠ c.d.missing)
      let ascend := la.Pairwise (· < ·) ∧ lb.Pairwise (· < ·)
      let pairs := la.zipIdx.filter (fun x => lb.contains x.1)
      let ws : List SpadWrite := [⟨0, wfld c.table 24 0, pairs.flatMap (fun x => bytesLE 4 (lb.idxOf x.1 * 2 ^ 16 + x.2))⟩]
      (ascend → OpenAreas s c ws → CopyCloses s st c ext ws 0 pairs.length) ∧
      (¬ ascend → OpenAreas s c [⟨0, wfld c.table 24 0, []⟩] → ∃ ws n, CopyCloses s st c ext ws 9 n)) ∧
    (∀ p ∈ [(1, 17), (2, 12), (3, 5), (4, 6), (5, 10), (6, 11), (7, 9), (8, 20), (9, 16)], statusFault p.1 = p.2) ∧
    (∀ p ∈ [(CopyKind.gather, 0x59), (.scatter, 0x5A), (.scadd, 0x5B), (.dedup, 0x5C), (.segred, 0x5D), (.isect, 0x5E)],
      CopyKind.major p.1 = p.2) ∧
    (∀ (w : Nat) (row : List Byte),
      (w = 0 → wireWiden w (wireShrink w row) = row) ∧
      (∀ f ∈ [(1, Fmt.bf16, Fmt.fp32), (2, .fp16, .fp32), (3, .e4m3, .fp32), (4, .e5m2, .fp32), (5, .fp32, .fp64),
          (6, .bf16, .fp64)], f.1 = w →
        let e := f.2.2.width / 8
        wireWiden w (wireShrink w row) = (elementsOf e row).flatMap (fun x =>
          bytesLE e (convertF f.2.1 f.2.2 (convertF f.2.2 f.2.1 x 0 true).bits 0 true).bits))) ∧
    (∀ (t : ThreadId) (th : Thread) (o : Owed) (v : Word), s.threadAt t = some th →
      th.owed.find? (fun x => x.id == o.id) = some o → o.kind = .segred →
      (o.value = some v ∨
        (o.value = none ∧ o.id = c.id ∧ st = t.core / 8 ∧ c.kind = .segred ∧ c.seen = [] ∧
          let k := s.coreAt c.thread.core
          let ib := if c.d.iw then 8 else 4
          let n := wfld c.count 12 0
          let entries := (List.range n).map (fun i => k.spad.readLE (wfld c.list 17 0 + ib * i) ib)
          let off := (List.range (wfld c.count 28 16)).map (fun i => k.spad.readLE (wfld c.list 35 18 + 2 * i) 2)
          let good := (∃ l, off = 0 :: l) ∧ off.Pairwise (· ≤ ·) ∧ ∀ x ∈ off, x ≤ n
          (good → v = BitVec.ofNat 64 (entries.countP (fun x =>
            decide (x ≠ c.d.missing ∧ (x < c.d.rows ∨ c.d.oob = true))))) ∧ (¬ good → v = 0))) →
      o.spoiled = false → o.reg ≠ 0 →
      ∃ s', exec (.segredCountResult t o.id) s = .next s' ∧
        aget (s'.coreAt t.core).rf (8 * th.win.wbase + o.reg.toNat) = some v ∧
        s'.threadAt t = some { th with owed := th.owed.filter (fun x => x.id != o.id) })

/-- R164, R178, R208, R209: a row-unit command makes the checks of R209 in the order of R198 and takes the trap of the first that
fails; one whose checks pass enters its core's unit behind the others, with its operand words, and locks its ranges; rowdot owes
its result to g[rc]; with too few range-lock entries it waits. Which of several malformed words, or of several failing ranges, is
named is the model's choice (stated at `rowFault`); that an index destination is aligned to its 16-bit entries is log entry 29. -/
def Obligations.RowCommandsEnterTheUnit : Prop :=
  (∀ (s : State) (th : Thread) (k : RowKind) (rc : Option Reg) (ra : Reg) (word : Word) (ev : BitVec 4) (n : Nat) (i : Instr)
    (img : List Word),
    ((∃ c b, rc = some c ∧ Executes s th [c, ra, b] (if k = .dot then [ra, b] else [c, ra, b]) ∧ word = s.g b ∧ n = 4 ∧
        (k, i) ∈ [(RowKind.get, Instr.rowget ⟨c, ra, b, ev⟩), (.put, .rowput ⟨c, ra, b, ev⟩), (.add, .rowadd ⟨c, ra, b, ev⟩),
          (.axpy, .rowaxpy ⟨c, ra, b, ev⟩), (.scale, .rowscale ⟨c, ra, b, ev⟩), (.dot, .rowdot ⟨c, ra, b, ev⟩),
          (.topk, .rowtopk ⟨c, ra, b, ev⟩)]) ∨
      (∃ b, rc = none ∧ Executes s th [ra, b] [ra, b] ∧ word = s.g b ∧ n = 4 ∧
        (k, i) ∈ [(RowKind.cvt, Instr.rowcvt ⟨ra, b, ev⟩), (.zero, .rowzero ⟨ra, b, ev⟩), (.copy, .rowcopy ⟨ra, b, ev⟩)]) ∨
      (∃ c imm, rc = some c ∧ Executes s th [c, ra] (if k = .dot then [ra] else [c, ra]) ∧ word = imm.zeroExtend 64 ∧ n = 8 ∧
        (k, i) ∈ [(RowKind.get, Instr.rowgetLong ⟨c, ra, ev, imm⟩), (.put, .rowputLong ⟨c, ra, ev, imm⟩),
          (.add, .rowaddLong ⟨c, ra, ev, imm⟩), (.axpy, .rowaxpyLong ⟨c, ra, ev, imm⟩),
          (.scale, .rowscaleLong ⟨c, ra, ev, imm⟩), (.dot, .rowdotLong ⟨c, ra, ev, imm⟩),
          (.topk, .rowtopkLong ⟨c, ra, ev, imm⟩)]) ∨
      (∃ imm, rc = none ∧ Executes s th [ra] [ra] ∧ word = imm.zeroExtend 64 ∧ n = 8 ∧
        (k, i) ∈ [(RowKind.cvt, Instr.rowcvtLong ⟨ra, ev, imm⟩), (.zero, .rowzeroLong ⟨ra, ev, imm⟩),
          (.copy, .rowcopyLong ⟨ra, ev, imm⟩)])) →
    let operand := (rc.map s.g).getD 0
    (∀ f, s.rowFault s.cur.core k operand (s.g ra) word th.fcsr = some f → Traps i s f) ∧
    (s.rowFault s.cur.core k operand (s.g ra) word th.fcsr = none →
    img = (if k = .get ∨ k = .put then
      (aget (s.stationAt (s.cur.core / 8)).descs (word.toNat / 2 ^ 16 % 2 ^ 8)).getD [] else []) →
    let rs := rowRanges k (Desc.ofImage img) operand (s.g ra) word
    let room := rs.length ≤ 16 - (s.coreAt s.cur.core).locksHeld
    (¬ room → exec i s = .next (s.waitFor s.cur (.lockRoom rs.length))) ∧
    (room → ∃ c : RowCmd, c.id = s.nextId ∧ c.thread = s.cur ∧ c.kind = k ∧ c.rc = operand ∧ c.addrs = s.g ra ∧ c.word = word ∧
      c.desc = img ∧ c.ev = ev.toNat ∧ c.rcReg = rc.getD 0 ∧ c.started = (s.coreAt s.cur.core).rows.isEmpty ∧
      c.rm = (if word.toNat / 2 ^ 16 % 2 ^ 3 = 7 then th.fcsr.rm.toNat else word.toNat / 2 ^ 16 % 2 ^ 3) ∧ c.seen = [] ∧ c.out = [] ∧
      c.ending = none ∧ c.answer = none ∧ c.heldSince = none ∧ c.dev = none ∧
      let th' : Thread := { th with
        owed := if k = .dot ∧ rc.getD 0 ≠ 0 then th.owed ++ [⟨s.nextId, .dot, rc.getD 0, none, false⟩] else th.owed }
      CompletesIn (State.modCore (State.setThread { s with nextId := s.nextId + 1 } s.cur th') s.cur.core (fun core =>
          { core with
            locks := core.locks ++ rs.map (fun r => ⟨s.nextId, spadNumber s.cur.core r.sp r.addr, r.len, none⟩)
            rows := core.rows ++ [c] })) th' i s n 0 0))) ∧
  (∀ (s : State) (core : Nat) (k : RowKind) (rc a w : Word) (fcsr : Fcsr),
    let table := k = .get ∨ k = .put
    let rounds := k ∈ [.add, .axpy, .scale, .dot, .cvt]
    let fmt := wfld w 15 12
    let dfmt := wfld w 23 20
    let rm := wfld w 18 16
    let n := wfld w 9 0 + 1
    let desc := wfld w 23 16
    let badFmt := (k ∈ [.add, .axpy, .scale, .dot, .topk] ∧ 3 < fmt) ∨
      (k = .cvt ∧ (fmt ∉ [0, 1, 2, 3, 8, 9] ∨ dfmt ∉ [0, 1, 2, 3, 8, 9] ∨ dfmt = fmt)) ∨
      (k ∈ [.zero, .copy] ∧ fmt ∉ [0, 1, 2, 3, 8, 9, 12])
    let badRm := rounds ∧ (rm = 5 ∨ rm = 6 ∨ (rm = 7 ∧ 5 ≤ fcsr.rm.toNat))
    let badWord := wfld w 63 30 ≠ 0 ∨ wfld w 11 10 ≠ 0 ∨ (¬ table ∧ wfld w 29 27 ≠ 0) ∨
      (¬ table ∧ k ≠ .cvt ∧ (dfmt ≠ 0 ∨ wfld w 19 19 ≠ 0)) ∨ (¬ table ∧ ¬ rounds ∧ rm ≠ 0) ∨
      (table ∧ (fmt ≠ 0 ∨ wfld w 9 0 ≠ 0)) ∨ badFmt ∨ badRm
    let badAddr := wfld a 63 50 ≠ 0 ∨ wfld a 31 18 ≠ 0 ∨ ((table ∨ k = .zero) ∧ wfld a 49 32 ≠ 0)
    let badRc := (k = .add ∧ wfld rc 63 18 ≠ 0) ∨
      (k = .topk ∧ (wfld rc 63 50 ≠ 0 ∨ wfld rc 31 11 ≠ 0 ∨ wfld rc 10 0 = 0 ∨ n < wfld rc 10 0))
    let f := s.rowFault core k rc a w fcsr
    let x := wfld a 17 0
    let y := wfld a 49 32
    let own (addr len align : Nat) : SpadRange := ⟨0, addr, len, align⟩
    (badWord → f = some (precise 16 w 0x20 0)) ∧ (¬ badWord → badAddr → f = some (precise 16 a 0x20 0)) ∧
    (¬ badWord → ¬ badAddr → badRc → f = some (precise 16 rc 0x20 0)) ∧
    (¬ badWord → ¬ badAddr → ¬ badRc →
      (table → aget (s.stationAt (core / 8)).descs desc = none → f = some (precise 16 (BitVec.ofNat 64 desc) 0x21 0)) ∧
      (∀ img, table → aget (s.stationAt (core / 8)).descs desc = some img →
        let d := Desc.ofImage img
        (WireUnfit (wfld w 29 27) d.efmt → f = some (precise 16 w 0x22 0)) ∧
        (¬ WireUnfit (wfld w 29 27) d.efmt → rowRanges k d rc a w = [own x (2 ^ d.rlog) (elemBytes d.efmt)] ∧
          RangesChecked s core (rowRanges k d rc a w) f)) ∧
      (¬ table → ∀ d, RangesChecked s core (rowRanges k d rc a w) f ∧
        let e := elemBytes fmt
        rowRanges k d rc a w = match k with
          | .add => [own (wfld rc 17 0) (n * e) e, own x (n * e) e, own y (n * e) e]
          | .cvt => [own x (n * e) e, own y (n * elemBytes dfmt) (elemBytes dfmt)]
          | .zero => [own x (n * e) e]
          | .topk => [own x (n * e) e, own y (wfld rc 10 0 * e) e, own (wfld rc 49 32) (2 * wfld rc 10 0) 2]
          | _ => [own x (n * e) e, own y (n * e) e])))

/-- R196, R209 to R213: the oldest command of a unit starts while its partition runs, and its completion releases its locks and
raises its line. rowzero, rowcopy, rowadd, rowaxpy, rowscale and rowcvt write their elements at the destination and nothing else
of the scratchpad, each rounded or converted once; rowdot writes the sum of its fixed tree to its register; rowtopk writes the
largest elements and their indices in the order of R213. A rowget writes the row that its lookup finds, narrowed and widened under
w, or zeros for the missing index; a rowput replaces its row, and a missing index leaves it; an index past the table fails, a
row without a port to its device too, and a failure raises the line with the value g[rc] and writes nothing; what another device has
answered ends the command so. Neither moves while a router on its way is not awake (R271). -/
def Obligations.RowCommandsStartAndComplete : Prop :=
  (∀ (s : State) (core : Nat) (c : RowCmd) (r : List RowCmd), (s.coreAt core).rows = c :: r →
    c.thread.core = core → c.thread.slot < 64 →
    ((s.ctxOfStation (core / 8)).isSome = true → exec (.rowCommandStart core) s = .next (s.modCore core (fun k =>
      { k with rows := k.rows.map (fun x => if x.id == c.id then { x with started := true } else x) }))) ∧
    (∀ ext : ExtAnswer, c.started = false → exec (.rowCommandCompletion core ext) s = .next s) ∧
    (∀ (ext : ExtAnswer) (th : Thread), c.started = true → s.threadAt c.thread = some th →
      let k := s.coreAt core
      let e := elemBytes (rowFmt c.word)
      let n := (c.word.toNat % 2 ^ 10 + 1) * e
      let x := c.addrs.toNat % 2 ^ 18
      let y := c.addrs.toNat / 2 ^ 32 % 2 ^ 18
      let len := c.word.toNat % 2 ^ 10 + 1
      let ends (b : Thread) (failure : Option (Nat × Word)) (m : Memory) (t : State) : Prop :=
        exec (.rowCommandCompletion core ext) s = .next t ∧ (t.coreAt core).spad = m ∧
        (t.coreAt core).rows = k.rows.filter (fun q => q.id != c.id) ∧ Released k (t.coreAt core) c.id s.time.toNat ∧
        t.threadAt c.thread = some { b with chimes := aset th.chimes c.ev ((th.chime c.ev).raise failure) }
      let closes (m : Memory) (dest len : Nat) : Prop := (∃ t, ends th none m t) ∧
        ∀ z, z < dest ∨ dest + len ≤ z → m.read z = k.spad.read z
      let fails (status : Nat) : Prop := ∃ t, ends th (some (statusFault status, c.rc)) k.spad t
      let f := elemFmt (rowFmt c.word)
      let xs := (List.range len).map (fun i => k.spad.readLE (x + e * i) e)
      let ys := (List.range len).map (fun i => k.spad.readLE (y + e * i) e)
      let good (a : Nat) : Prop := k.badParity a n = false
      let scalar := if rowFmt c.word = 1 then decodeF .fp64 c.rc.toNat else decodeF .fp32 (c.rc.toNat % 2 ^ 32)
      let elements (g : Nat → Nat → Nat) : List Byte := (xs.zip ys).flatMap (fun p => bytesLE e (g p.1 p.2))
      let agent : RowAgent :=
        ⟨core / 8, c.ctx, c.tag, c.user, BitVec.ofNat 32 (s.place c.thread), .row core c.id, c.dev, c.issued⟩
      let rb := 2 ^ c.d.rlog
      let index := if c.d.iw then c.rc.toNat else c.rc.toNat % 2 ^ 32
      let wired (row : List Byte) : List Byte := wireWiden (wfld c.word 29 27) (wireShrink (wfld c.word 29 27) row)
      c.seen = [] → c.out = [] → c.ending = none → c.heldSince = none → (∀ r ∈ s.replicas, r.cmd ≠ c.id) →
      (c.kind = .axpy → good x → good y → closes (k.spad.writeBytes y
        (elements (fun a b => (fmaVals f scalar (decodeF f a) (decodeF f b) c.rm).bits))) y n) ∧
      (c.kind = .scale → good x → closes (k.spad.writeBytes y
        (elements (fun a _ => (mulVals f scalar (decodeF f a) c.rm).bits))) y n) ∧
      (c.kind = .cvt → good x →
        let o := rowDfmt c.word
        closes (k.spad.writeBytes y (xs.flatMap (fun a =>
          bytesLE (elemBytes o) (convertF f (elemFmt o) a c.rm (decide (wfld c.word 19 19 = 1))).bits))) y (len * elemBytes o)) ∧
      (c.kind = .topk → good x → rowFmt c.word < 4 → ∀ order : List Nat, order.length = wfld c.rc 10 0 → order.Nodup →
        wfld c.rc 10 0 ≤ len → (∀ i ∈ order, i < len) → order.Pairwise (TopkBefore f xs) →
        (∀ i ∈ order, ∀ j < len, j ∉ order → TopkBefore f xs i j) →
        let values := order.flatMap (fun i =>
          bytesLE e (if (decodeF f (xs.getD i 0)).isNan then f.canon else xs.getD i 0))
        ∃ t, ends th none ((k.spad.writeBytes y values).writeBytes (wfld c.rc 49 32) (order.flatMap (bytesLE 2))) t) ∧
      (c.kind = .dot → good x → good y → ∀ o : Owed, th.owed.find? (fun q => q.id == c.id) = some o → o.spoiled = false → o.reg ≠ 0 →
        let g := if rowFmt c.word = 1 then Fmt.fp64 else Fmt.fp32
        let lane (l : Nat) : Nat := ((List.range len).filter (fun i => i % 16 == l)).foldl (fun s i =>
          (fmaVals g (decodeF f (xs.getD i 0)) (decodeF f (ys.getD i 0)) (decodeF g s) c.rm).bits) 0
        let halve (s : Nat → Nat) (l : Nat) : Nat := (fpAdd g (s (2 * l)) (s (2 * l + 1)) c.rm).bits
        ∃ t, ends { th with owed := th.owed.filter (fun q => q.id != c.id) } none k.spad t ∧
          aget (t.coreAt core).rf (8 * th.win.wbase + o.reg.toNat) =
            some (BitVec.ofNat 64 (halve (halve (halve (halve lane))) 0))) ∧
      (c.kind = .get → ∀ (status : Nat) (row : List Byte), c.answer = some (status, row) →
        (status = 0 → closes (k.spad.writeBytes x row) x row.length) ∧ (status ≠ 0 → fails status)) ∧
      (c.kind = .put → ∀ (status : Nat) (row : List Byte), c.answer = some (status, row) →
        (status = 0 → closes k.spad 0 0) ∧ (status ≠ 0 → fails status)) ∧
      (c.kind = .get → c.answer = none → (∀ w ∈ s.rowWaits, w.cmd ≠ c.id) → index ≠ c.d.missing →
        (∀ y ∈ s.accesses, y.stage ≠ .filling) →
        (c.d.rows ≤ index → c.d.oob = false → fails 2) ∧
        (index < c.d.rows ∨ c.d.oob = true →
          let dflt := decide (c.d.rows ≤ index)
          let way := if dflt then s.wayTo agent c.d.dflt else s.rowWay agent c.d index true
          let v := s.touchRoute way
          (s.routeOpen way = false → exec (.rowCommandCompletion core ext) s = .next s) ∧
          (s.routeOpen way = true → ∀ (look : Looked) (s1 : State),
            (if dflt then v.engineRead agent c.d.dflt rb true else v.lookupRow agent c.d index) = (look, s1) →
            (∀ r ∈ s1.replicas, r.cmd ≠ c.id) →
            (∀ bs, look = .row bs → closes (k.spad.writeBytes x (wired bs)) x (wired bs).length) ∧
            (∀ status, look = .failed status → status ≠ 0 → fails status) ∧
            (∀ dev, look = .remote dev → s1.linked dev = false → fails 1)))) ∧
      (c.kind = .put → c.answer = none → (∀ w ∈ s.rowWaits, w.cmd ≠ c.id) → index ≠ c.d.missing →
        (c.d.rows ≤ index → c.d.oob = false → fails 2) ∧ (c.d.rows ≤ index → c.d.oob = true → closes k.spad 0 0) ∧
        (index < c.d.rows → k.badParity x rb = true → fails 8) ∧
        let way := s.rowWay agent c.d index false
        (index < c.d.rows → k.badParity x rb = false → s.routeOpen way = false →
          exec (.rowCommandCompletion core ext) s = .next s) ∧
        (index < c.d.rows → k.badParity x rb = false → s.routeOpen way = true → (∀ y ∈ s.accesses, y.stage ≠ .filling) →
          ∀ s1 : State, (∀ r ∈ s1.replicas, r.cmd ≠ c.id) →
          let r := (s.touchRoute way).updateRow agent c.d index false (wired (k.spad.readBytes x rb)) c.id 0
          (r = (.done, s1) → ∃ t, ends th none k.spad t ∧ t.phys = s1.phys) ∧
          (∀ status, r = (.failed status, s1) → status ≠ 0 → fails status))) ∧
      (c.kind = .zero → closes (k.spad.writeBytes x (List.replicate n 0)) x n) ∧
      (c.kind = .copy → k.badParity x n = false → closes (k.spad.writeBytes y (k.spad.readBytes x n)) y n) ∧
      (c.kind = .add → k.badParity x n = false → k.badParity y n = false →
        let f := elemFmt (rowFmt c.word)
        let d := c.rc.toNat % 2 ^ 18
        closes (k.spad.writeBytes d ((List.range (c.word.toNat % 2 ^ 10 + 1)).flatMap (fun i => bytesLE e
          (fpAdd f (k.spad.readLE (x + e * i) e) (k.spad.readLE (y + e * i) e) c.rm).bits))) d n) ∧
      (c.kind = .get → c.answer = none → (∀ w ∈ s.rowWaits, w.cmd ≠ c.id) → index = c.d.missing →
        closes (k.spad.writeBytes x (List.replicate rb 0)) x rb) ∧
      (c.kind = .put → c.answer = none → (∀ w ∈ s.rowWaits, w.cmd ≠ c.id) → index = c.d.missing → closes k.spad 0 0))) ∧
  (∀ (f g h l : Fmt) (x y z rm : Nat), (∀ q ∈ [f, g, h, l], q ∈ [Fmt.fp32, .fp64, .fp16, .bf16]) → rm ≤ 4 →
    let a := decodeF g x
    let b := decodeF h y
    let c := decodeF l z
    let neg := a.neg != b.neg
    (a.isNumber → b.isNumber → RoundedSum f rm false neg (a.value * b.value) (mulVals f a b rm)) ∧
    (a.isNumber → b.isNumber → c.isNumber →
      let zeros := (a.cls = .zero ∨ b.cls = .zero) ∧ c.cls = .zero ∧ neg = c.neg
      RoundedSum f rm false (decide ((zeros ∧ neg = true) ∨ (¬ zeros ∧ rm = 4))) (a.value * b.value + c.value)
        (fmaVals f a b c rm)) ∧
    (a.isNan = true ∨ b.isNan = true ∨ c.isNan = true → (fmaVals f a b c rm).bits = f.canon) ∧
    (a.isNan = true ∨ b.isNan = true → (mulVals f a b rm).bits = f.canon) ∧
    ((a.cls = .inf ∧ b.cls = .zero) ∨ (a.cls = .zero ∧ b.cls = .inf) →
      (mulVals f a b rm).bits = f.canon ∧ (fmaVals f a b c rm).bits = f.canon))

/-- R184, R231, R318: a lookup reads its row at once at its home slice, if its lines have the reader's key tag or none and no
poison; a rowput writes its row there, and a scadd on a strict table adds it, each element rounded once, while on a deferred one
it stays pending. R186, R187, R214, R229, R271, R287: an accumulate is folded into its row, and a forwarded update applied, in the
order of their row; a row request of a paired context is read here and answered with the row, narrowed under w, waits while its
page is held, past 76,000 ticks for status 3, and one of any other context is answered with status 4; a response serves the
position that asked for it, with status 1 where its address is another. The model's choices: the request's read carries no mode
and is checked as supervisor's (log entry 30, DEDUCED), KEYTAG comes before POISON (log entry 16, DEDUCED), a forwarded scadd needs
rd and w (log entry 26), the response leaves by the port of its address (log entry 27), and a request with the reserved wire
format 7 is answered with status 4 (stated at `answerRowRequest`). -/
def Obligations.RowsBetweenDevicesAndReplicas : Prop :=
  (∀ (s s1 : State) (a : RowAgent) (va n pa : Nat), va < 2 ^ 56 → s.region va = .paged →
    s.translateIn a.who a.station a.ctx va .load a.user false = (.pa pa, s1) → s1.folds = [] → s1.replicas = [] → s1.lates = [] →
    (∀ y ∈ s1.accesses, y.stage ≠ .filling) → s1.sec.tagState a.tag ≠ .dead → 0 < n →
    let lines := (List.range ((pa + n - 1) / 64 - pa / 64 + 1)).map (fun i => pa / 64 + i)
    (∀ l ∈ lines, l ∉ s1.phys.uncorr) →
    ((∀ l ∈ lines, s1.phys.lineTag l = a.tag ∨ s1.phys.lineTag l = 0) → (∀ l ∈ lines, l ∉ s1.phys.poison) →
      (s.engineRead a va n true).1 = .row ((List.range n).map (fun i => s1.phys.seen a.tag (pa + i)))) ∧
    ((∃ l ∈ lines, s1.phys.lineTag l ≠ a.tag ∧ s1.phys.lineTag l ≠ 0) → (s.engineRead a va n true).1 = .failed 6) ∧
    ((∀ l ∈ lines, s1.phys.lineTag l = a.tag ∨ s1.phys.lineTag l = 0) → (∃ l ∈ lines, l ∈ s1.phys.poison) →
      (s.engineRead a va n true).1 = .failed 5)) ∧
  (∀ (s s1 : State) (a : RowAgent) (va n : Nat), va < 2 ^ 56 → s.region va = .paged →
    (∀ code sub info, s.translateIn a.who a.station a.ctx va .load a.user false = (.fault code sub info, s1) →
      s.engineRead a va n true = (.failed (statusOf code), s1)) ∧
    (s.translateIn a.who a.station a.ctx va .load a.user false = (.held, s1) → s.engineRead a va n true = (.held, s1))) ∧
  (∀ (s : State) (a : RowAgent) (pa delta : Nat) (add dbl : Bool) (row : List Byte), s.folds = [] → row ≠ [] →
    (∀ y ∈ s.accesses, y.stage ≠ .filling) →
    let n := row.length
    let lines := (List.range ((pa + n - 1) / 64 - pa / 64 + 1)).map (fun i => pa / 64 + i)
    let r := s.updateAt a pa add dbl delta row
    let e := if dbl then 8 else 4
    let old := (List.range n).map (fun i => s.phys.seen a.tag (pa + i))
    let sum := ((elementsOf e old).zip (elementsOf e row)).flatMap (fun p =>
      bytesLE e (fpAdd (if dbl then .fp64 else .fp32) p.1 p.2 0).bits)
    let stored (bs : List Byte) : Prop := ∀ z, r.2.phys.ram.read z = if pa ≤ z ∧ z < pa + n then bs.getD (z - pa) 0
      else if z / 64 ∈ lines then s.phys.seen a.tag z else s.phys.ram.read z
    (∀ l ∈ lines, l ∉ s.phys.uncorr) → (∀ l ∈ lines, s.phys.lineTag l = a.tag ∨ s.phys.lineTag l = 0) →
    (add = false → r.1 = .done ∧ stored row ∧ r.2.folds = []) ∧
    (add = true → (∀ l ∈ lines, l ∉ s.phys.poison) → n % e = 0 →
      (delta = 0 → r.1 = .done ∧ stored sum ∧ r.2.folds = []) ∧
      (delta ≠ 0 → r.1 = .done ∧ stored old ∧ r.2.folds = [⟨s.nextId, pa, dbl, row, s.time.toNat, delta⟩])) ∧
    (add = true → (∃ l ∈ lines, l ∈ s.phys.poison) → r.1 = .failed 5)) ∧
  (∀ (s : State) (f : PendingFold) (r : List PendingFold), s.folds.find? (fun g => g.id == f.id) = some f →
    s.folds.filter (fun g => overlaps g.pa g.row.length f.pa f.row.length) = f :: r →
    exec (.scaddFold f.id) s = .next { s with
      phys := s.phys.addRow f.pa f.dbl f.row, folds := s.folds.filter (fun g => g.id != f.id) }) ∧
  (∀ (s : State) (f : PendingReplica) (earlier later : List PendingReplica), s.replicas = earlier ++ f :: later →
    (∀ g ∈ earlier, g.id ≠ f.id) → f.failed = none →
    let row (g : PendingReplica) : Prop := g.failed = none ∧ g.agent.ctx = f.agent.ctx ∧
      overlaps g.va g.row.length f.va f.row.length = true
    let drop (u : State) : State := { u with replicas := u.replicas.filter (fun g => g.id != f.id) }
    let fail (u : State) (st : Nat) : State := if f.delta = 0 then
      { u with replicas := u.replicas.map (fun g => if g.id == f.id then { g with failed := some st } else g) } else drop u
    let way := match f.pa with
      | none => s.walkRoute f.agent.station f.agent.ctx f.va
      | some pa => routeOf f.agent.station (homeStation pa)
    ((∃ g ∈ earlier, row g) ∨ s.routeOpen way = false → exec (.replicaUpdate f.id) s = .next s) ∧
    ((∀ g ∈ earlier, ¬ row g) → s.routeOpen way = true →
      let v := s.touchRoute way
      (∀ pa, f.heldSince = none → f.pa = some pa →
        let r := v.updateAt f.agent pa f.add f.dbl 0 f.row
        (r.1 = .done → exec (.replicaUpdate f.id) s = .next (drop r.2)) ∧
        (∀ st, r.1 = .failed st → exec (.replicaUpdate f.id) s = .next (fail r.2 st))) ∧
      (∀ since, f.heldSince = some since → since + 76000 ≤ s.time.toNat → exec (.replicaUpdate f.id) s = .next (fail v 3)) ∧
      (∀ since s1, f.heldSince = some since → s.time.toNat < since + 76000 →
        let moved := v.translateIn (.replica f.id) f.agent.station f.agent.ctx f.va (if f.add then .both else .store) f.agent.user
          false
        let landed (pa : Nat) : List PendingReplica :=
          s1.replicas.map (fun g => if g.id == f.id then { g with pa := some pa, heldSince := none } else g)
        (∀ pa, moved = (.pa pa, s1) → exec (.replicaUpdate f.id) s = .next { s1 with replicas := landed pa }) ∧
        (moved = (.held, s1) → exec (.replicaUpdate f.id) s = .next s1) ∧
        (∀ code sub info, moved = (.fault code sub info, s1) →
          exec (.replicaUpdate f.id) s = .next (fail s1 (statusOf code)))))) ∧
  (∀ (s : State) (q : RowReq),
    let sent (u : State) (status : Nat) (row : List Byte) : State := u.sendPacket (u.granulePort q.srcdev q.addr)
      (.rowResponse ⟨q.srcdev, q.dstdev, q.ctx, status, q.addr, [q.reqid], row⟩)
    let refused := s.ctxAt q.ctx = none ∨ s.host.podpair.toNat / 2 ^ q.ctx % 2 = 0 ∨ q.w = 7
    let s0 : State := { s with nextId := s.nextId + 1 }
    let waits (u : State) : State := { u with serves := u.serves ++ [⟨s.nextId, s.time.toNat, .lookup q⟩] }
    (refused → wireShrink q.w [] = [] ∧ exec (.rowRequest q) s = .next (sent s0 4 [])) ∧
    (∀ x, s.ctxAt q.ctx = some x → ¬ refused →
      let a : RowAgent :=
        ⟨s.homeOf q.ctx, q.ctx, x.tag, false, 0xFFFFFFFF#32, .serve s.nextId, none, s.time.toNat⟩
      let way := s0.wayTo a q.addr
      (s0.routeOpen way = false → exec (.rowRequest q) s = .next (waits s0)) ∧
      (s0.routeOpen way = true →
        let r := (s0.touchRoute way).engineRead a q.addr (2 ^ q.rlog) true
        (∀ bs, r.1 = .row bs → exec (.rowRequest q) s = .next (sent r.2 0 (wireShrink q.w bs))) ∧
        (∀ st, r.1 = .failed st → exec (.rowRequest q) s = .next (sent r.2 st [])) ∧
        (r.1 = .held → exec (.rowRequest q) s = .next (waits r.2)) ∧
        (∀ dev, r.1 = .remote dev → exec (.rowRequest q) s = .next (sent r.2 4 []))) ∧
      (∀ r : RowServe, s.serves.find? (fun y => y.id == r.id) = some r → r.ask = .lookup q →
        ((∃ e ∈ s.held, e.who = .serve r.id) → s.time.toNat < r.since + 1024 → s.act (.serveRow r.id) = s) ∧
        (r.since + 76000 ≤ s.time.toNat →
          let u := sent s 3 []
          s.act (.serveRow r.id) = { u with serves := u.serves.filter (fun y => y.id != r.id) })))) ∧
  (∀ (s : State) (p : RowResp) (w : RowWait) (c : CopyCmd), p.reqids = [w.reqid] → w.update = false →
    s.rowWaits.find? (fun x => x.reqid == w.reqid && !x.update) = some w → s.copyAt w.station w.cmd = some c →
    let s1 : State := { s with rowWaits := s.rowWaits.filter (fun x => x != w) }
    let same := (c.sameAs w.position).filter (fun q => c.open q || aget c.results q == some .requested)
    let row := wireWiden (tblWire c.table) p.row
    let dflt := decide (c.d.rows ≤ c.entries.getD w.position 0)
    (w.addr ≠ p.addr → exec (.rowResponse p) s = .next (s1.setAll w.station c.id (.failed 1) same)) ∧
    (w.addr = p.addr → p.status ≠ 0 → exec (.rowResponse p) s = .next (s1.setAll w.station c.id (.failed p.status) same)) ∧
    (w.addr = p.addr → p.status = 0 → exec (.rowResponse p) s = .next ((s1.modCopy w.station c.id (fun y =>
      { y with kept := aset y.kept (c.entries.getD w.position 0) (row, dflt) })).servePos w.station c row dflt same)))

/-! ### The slice array (19_matrix) -/

/-- R243, R249: mclaim claims a free slot, emptied, and fails with SLOT on a claimed one (sub 2) or a releasing one (sub 3); its
thread waits for the answer; mrel releases a slot that its thread claims and faults otherwise (sub 1). R260: mrdacc reads and
mwracc writes the low 64 bits or the high 32 bits of an accumulator entry; while an accepted command names the tile they wait, but
not behind one that arrives in the same tick, and each retry is served in the same way; mwracc of an empty tile fails. In its own
cycle the waiting thread takes the answer: the register, or the trap. R217, R261: mstat owes the summary of its tile to its
register, taken at once when no accepted command names the tile; the result is written when due. -/
def Obligations.SlotsTilesAndSummaries : Prop :=
  (∀ (s : State) (th : Thread) (slot : Reg), Executes s th [] [] →
    let st := s.cur.core / 8
    let o := agetD (s.stationAt st).slots slot.toNat OpSlot.reset
    let set (o' : OpSlot) : State := s.modStation st (fun k => { k with slots := aset k.slots slot.toNat o' })
    let failed (sub : Nat) : State := s.waitFor s.cur (.array 0 0 (some (18, BitVec.ofNat 64 slot.toNat, sub)))
    (o.state ≠ .releasing → o.claim = none → exec (.mclaim slot) s =
      .next ((set { OpSlot.reset with claim := some s.cur }).waitFor s.cur (.array 0 0 none))) ∧
    (o.state ≠ .releasing → o.claim ≠ none → exec (.mclaim slot) s = .next (failed 2)) ∧
    (o.state = .releasing → exec (.mclaim slot) s = .next (failed 3)) ∧
    (o.claim = some s.cur → o.state ≠ .releasing →
      CompletesIn ((set { o with claim := none, state := .releasing }).modStation st Station.freeSlots) th (.mrel slot) s 4 0 0) ∧
    (o.claim ≠ some s.cur → Traps (.mrel slot) s (precise 18 (BitVec.ofNat 64 slot.toNat) 1 0))) ∧
  (∀ (s : State) (th : Thread) (d tile a b : Reg),
    let index := (s.g b).toNat % 2 ^ 12
    let half := (s.g b).getLsbD 12
    (Executes s th [d, b] [b] →
      ((s.g b).toNat < 2 ^ 13 → ∃ u, exec (.mrdacc d tile b) s = .next u ∧
        TileServed s s.cur ⟨false, d, tile.toNat, index, half, 0⟩ u) ∧
      (2 ^ 13 ≤ (s.g b).toNat → Traps (.mrdacc d tile b) s (precise 16 (s.g b) 0x30 0))) ∧
    (Executes s th [a, b] [a, b] →
      ((s.g b).toNat < 2 ^ 13 → ∃ u, exec (.mwracc tile a b) s = .next u ∧
        TileServed s s.cur ⟨true, 0, tile.toNat, index, half, s.g a⟩ u) ∧
      (2 ^ 13 ≤ (s.g b).toNat → Traps (.mwracc tile a b) s (precise 16 (s.g b) 0x30 0)))) ∧
  (∀ (s : State) (t : ThreadId) (w : Thread) (q : TileReq), s.threadAt t = some w → w.wait = some (.tile q) →
    (s.hasSlots t = true → ∃ u, exec (.tileRequestRetry t) s = .next u ∧ TileServed s t q u) ∧
    (s.hasSlots t = false → exec (.tileRequestRetry t) s = .next s)) ∧
  (∀ (s : State) (t : ThreadId) (w : Thread) (reg : Reg) (value : Word), s.threadAt t = some w →
    (w.wait = some (.array reg value none) → w.dbg.ss = false → w.stepsLeft = none →
      ∃ u, s.endWait t w = some u ∧ u.threadAt t = some (Thread.goTo (Thread.wrote w reg) (w.pc + 4)) ∧
        (reg ≠ 0 → aget (u.coreAt t.core).rf (8 * w.win.wbase + reg.toNat) = some value)) ∧
    (∀ code tval sub, w.wait = some (.array reg value (some (code, tval, sub))) →
      s.endWait t w = some (s.takeTrap t (precise code tval sub 0)))) ∧
  (∀ (s : State) (th : Thread) (d tile : Reg),
    let k := s.stationAt (s.cur.core / 8)
    let named := (k.array.filter (fun c => c.tiles.contains tile.toNat)).map ArrCmd.id
    (Executes s th [d] [] → d ≠ 0 →
      let o : Owed := ⟨s.nextId, .mstat, d, if named = [] then some (k.tileAt tile.toNat).summary else none, false⟩
      let m : List MstatOwed := if named = [] then [] else [⟨s.nextId, tile.toNat, named⟩]
      let th' : Thread := { th with owed := th.owed ++ [o], mstats := th.mstats ++ m }
      CompletesIn (State.setThread { s with nextId := s.nextId + 1 } s.cur th') th' (.mstat d tile) s 4 0 0) ∧
    (Executes s th [0] [] → Completes (.mstat 0 tile) s th 4 0 0) ∧
    (∀ (t : ThreadId) (w : Thread) (o : Owed) (v : Word), s.threadAt t = some w →
      w.owed.find? (fun x => x.id == o.id) = some o → o.kind = .mstat → o.value = some v → o.spoiled = false → o.reg ≠ 0 →
      ∃ s', exec (.mstatResult t o.id) s = .next s' ∧
        aget (s'.coreAt t.core).rf (8 * w.win.wbase + o.reg.toNat) = some v ∧
        s'.threadAt t = some { w with owed := w.owed.filter (fun x => x.id != o.id) }))

/-- R99, R244, R245, R247, R248, R250, R253, R255, R257 to R259: an array command traps with no effect on the first check that
fails: a malformed word, a slot that its thread does not claim, a scale that is no finite nonzero number, an odd address, a range
past the scratchpad or a destination that is no core of the partition, a locked range. One whose checks pass is accepted behind
the earlier ones of its station with its operand words, locks its ranges or one empty entry, and lets its thread go on; with too
few range-lock entries it waits. That commands are accepted in the order in which they issue is the model's choice (log entry 1),
and so is which of several words, ranges or causes that fail one step is named (stated at `State.arrayFault`), and that an A slot
past 63 is malformed (log entry 31). -/
def Obligations.ArrayCommandsAreAccepted : Prop :=
  (∀ (s : State) (t : ThreadId) (th : Thread) (k : ArrKind) (rc a w : Word) (tile slot : Nat),
    let f := s.arrayFault t th k rc a w tile slot
    let bit (n : Nat) : Prop := w.getLsbD n = true
    let loads := k = .mload ∨ k = .msplit
    let combs := k = .mcomb ∨ k = .mdrain
    let S := wfld w 31 29
    let first := wfld w 24 19
    let fmt := wfld w 18 15
    let emode := wfld w 26 25
    let pitch := wfld w 14 0
    let len := if w.getLsbD 27 then wfld a 59 54 + 1 else 128
    let mx := k = .msplit ∧ 4 ≤ fmt ∧ fmt ≤ 7
    let row := if k = .mload then 2 * len else len * [32, 64, 16, 16, 8, 8, 6, 4, 8, 8].getD fmt 8 / 8
    let badLoad := 2 ^ 32 ≤ w.toNat ∨ (bit 27 ∧ bit 28) ∨ (pitch ≠ 0 ∧ pitch < (row + 7) / 8) ∨
      (k = .mload ∧ (emode ≠ 0 ∨ bit 15 ∨ S = 0 ∨ wfld w 18 16 = 0 ∨ S < wfld w 18 16 ∨ 63 < first + S - 1)) ∨
      (k = .msplit ∧ (emode = 3 ∨ 9 < fmt ∨ (bit 27 ∧ mx) ∨ (emode = 2 ∧ (S ≠ 0 ∨ first ≠ 0)) ∨
        (emode ≠ 2 ∧ (S = 0 ∨ 63 < first + S - 1))))
    let badAddress := a.getLsbD 63 = true ∨ (¬ bit 27 ∧ wfld a 59 54 ≠ 0) ∨ (¬ bit 27 ∧ ¬ mx ∧ wfld a 35 18 ≠ 0)
    let badMul := 2 ^ 31 ≤ w.toNat ∨ wfld w 27 14 ≠ 0 ∨ wfld w 3 1 ≠ 0 ∨ 12 < wfld w 7 4
    let n := wfld w 2 0
    let second := wfld w 13 8
    let badSlice := 2 ^ 31 ≤ w.toNat ∨ wfld w 27 14 ≠ 0 ∨ wfld w 7 5 ≠ 0 ∨ n = 0 ∨ 63 < second + n - 1 ∨ 63 < slot + n - 1 ∨
      (bit 4 ∧ 14 < tile)
    let size := [8, 4, 2].getD (wfld w 21 20) 2
    let badComb := 2 ^ 31 ≤ w.toNat ∨ wfld w 16 15 ≠ 0 ∨ (bit 22 ∧ wfld w 27 24 = 15) ∨ wfld w 21 20 = 3 ∨
      wfld w 19 17 = 5 ∨ wfld w 19 17 = 6 ∨ (wfld w 19 17 = 7 ∧ 5 ≤ th.fcsr.rm.toNat) ∨ (pitch ≠ 0 ∧ pitch < 8 * size)
    let badDest := (k = .mcomb ∧ wfld a 63 18 ≠ 0) ∨ (k = .mdrain ∧ wfld a 63 50 ≠ 0)
    let badGong := k = .mdrain ∧ rc ≠ 0 ∧
      (rc.getLsbD 63 = true ∨ wfld rc 60 56 = 0 ∨ 16 < wfld rc 60 56 ∨ wfld rc 1 0 ≠ 0)
    let malformed (x : Word) : Prop :=
      (loads ∧ ((badLoad ∧ x = w) ∨ (¬ badLoad ∧ badAddress ∧ x = a))) ∨ (k = .mmul ∧ badMul ∧ x = w) ∨
      (k = .mslice ∧ badSlice ∧ x = w) ∨
      (combs ∧ ((badComb ∧ x = w) ∨ (¬ badComb ∧ badDest ∧ x = a) ∨ (¬ badComb ∧ ¬ badDest ∧ badGong ∧ x = rc)))
    let named := match k with
      | .mload => [first]
      | .msplit => (List.range S).map (first + ·)
      | .mmul => [slot, second]
      | .mslice => (List.range n).map (slot + ·) ++ (List.range n).map (second + ·)
      | _ => []
    let claimed (x : Nat) : Prop :=
      let o := agetD (s.stationAt (t.core / 8)).slots x OpSlot.reset
      o.claim = some t ∧ o.state ≠ .releasing
    let unscaled := loads ∧ (decodeF .fp32 (wfld rc 31 0)).cls ≠ .finite
    let span (row : Nat) : Nat := 63 * (8 * (if pitch = 0 then (row + 7) / 8 else pitch)) + row
    let at_ (x len : Nat) : SpadRange := ⟨0, x, len, 8⟩
    let core := (threadOfPlace (wfld a 31 0)).core
    let near := core / 96 = t.core / 96
    let rs := match k with
      | .mload => [at_ (wfld a 17 0) (span row), at_ (wfld a 53 36) 128] ++ if bit 27 then [at_ (wfld a 35 18) 4096] else []
      | .msplit => [at_ (wfld a 17 0) (span row), at_ (wfld a 53 36) 128] ++
          if bit 27 then [at_ (wfld a 35 18) 4096] else if mx then [at_ (wfld a 35 18) 256] else []
      | .mcomb => [at_ (wfld a 17 0) (span (64 * size))]
      | .mdrain => if near then [⟨1, core % 96 * 2 ^ 18 + wfld a 49 32, span (64 * size), 8⟩] else []
      | _ => []
    let addr := wfld a 49 32
    let odd := addr % 8 ≠ 0
    let past := 0x40000 < addr + span (64 * size)
    let stray := placeBad (wfld a 31 0) = true ∨ wfld a 31 18 ≠ s.pkg.device.toNat ∨
      ∀ x, s.ctxAt th.ctxId.toNat = some x → core / 8 ∉ x.stations
    let held := ∃ r ∈ rs, (s.coreAt t.core).locked s.time.toNat (spadNumber t.core r.sp r.addr) r.len = true
    (∀ x, malformed x → f = some (precise 16 x 0x30 0)) ∧
    ((∀ x, ¬ malformed x) → arrRanges t.core k a w.toNat = rs ∧
      (∀ x, FirstOf named (fun x => ¬ claimed x) x → f = some (precise 18 (BitVec.ofNat 64 x) 1 0)) ∧
      ((∀ x ∈ named, claimed x) → (unscaled → f = some (precise 16 rc 0x31 0)) ∧
        (¬ unscaled → k ≠ .mdrain → RangesChecked s t.core rs f) ∧
        (k = .mdrain → (odd → f = some (precise 4 (BitVec.ofNat 64 addr) 0 0)) ∧
          (¬ odd → past → f = some (precise 6 (BitVec.ofNat 64 addr) 5 0)) ∧
          (¬ odd → ¬ past → stray → f = some (precise 6 a 5 0)) ∧
          (¬ odd → ¬ past → ¬ stray → held → f = some (precise 7 (BitVec.ofNat 64 addr) 0 0)) ∧
          (¬ odd → ¬ past → ¬ stray → ¬ held → f = none))))) ∧
  (∀ (s : State) (th : Thread) (k : ArrKind) (rc ra rb : Option Reg) (imm : Word) (tile slot : Nat) (ev : BitVec 4) (n : Nat)
    (i : Instr),
    Executes s th (rc.toList ++ ra.toList ++ rb.toList) (rc.toList ++ ra.toList ++ rb.toList) →
    ((∃ c a b, n = 4 ∧ rb = some b ∧ imm = 0 ∧
        ((rc = some c ∧ ra = some a ∧ tile = 0 ∧ slot = 0 ∧
            (k, i) ∈ [(ArrKind.mload, Instr.mload ⟨c, a, b, ev⟩), (.msplit, .msplit ⟨c, a, b, ev⟩),
              (.mdrain, .mdrain ⟨c, a, b, ev⟩)]) ∨
          (rc = none ∧ ra = none ∧ tile = c.toNat ∧ slot = a.toNat ∧
            (k, i) ∈ [(ArrKind.mmul, Instr.mmul ⟨c, a, b, ev⟩), (.mslice, .mslice ⟨c, a, b, ev⟩)]) ∨
          (rc = none ∧ ra = some a ∧ tile = 0 ∧ slot = 0 ∧ (k, i) = (ArrKind.mcomb, Instr.mcomb ⟨a, b, ev⟩)))) ∨
      (∃ (c a : Reg) (v : BitVec 32), n = 8 ∧ rb = none ∧ imm = v.zeroExtend 64 ∧
        ((rc = some c ∧ ra = some a ∧ tile = 0 ∧ slot = 0 ∧
            (k, i) ∈ [(ArrKind.mload, Instr.mloadLong ⟨c, a, ev, v⟩), (.msplit, .msplitLong ⟨c, a, ev, v⟩),
              (.mdrain, .mdrainLong ⟨c, a, ev, v⟩)]) ∨
          (rc = none ∧ ra = none ∧ tile = c.toNat ∧ slot = a.toNat ∧
            (k, i) ∈ [(ArrKind.mmul, Instr.mmulLong ⟨c, a, ev, v⟩), (.mslice, .msliceLong ⟨c, a, ev, v⟩)]) ∨
          (rc = none ∧ ra = some a ∧ tile = 0 ∧ slot = 0 ∧ (k, i) = (ArrKind.mcomb, Instr.mcombLong ⟨a, ev, v⟩)))) ∨
      (∃ c : Reg, n = 4 ∧ rc = none ∧ ra = none ∧ rb = none ∧ imm = 0 ∧ tile = c.toNat ∧ slot = 0 ∧ ev = 0 ∧ k = .mzero ∧
        i = .mzero c)) →
    let operand := (rc.map s.g).getD 0
    let addr := (ra.map s.g).getD 0
    let ctl := (rb.map s.g).getD imm
    (∀ f, s.arrayFault s.cur th k operand addr ctl tile slot = some f → Traps i s f) ∧
    (s.arrayFault s.cur th k operand addr ctl tile slot = none →
    let rs := arrRanges s.cur.core k addr ctl.toNat
    let locks : List RangeLock := if rs = [] then [⟨s.nextId, spadNumber s.cur.core 0 0, 0, none⟩]
      else rs.map (fun r => ⟨s.nextId, spadNumber s.cur.core r.sp r.addr, r.len, none⟩)
    let room := locks.length ≤ 16 - (s.coreAt s.cur.core).locksHeld
    (¬ room → exec i s = .next (s.waitFor s.cur (.arrayRoom locks.length))) ∧
    (room → ∃ c : ArrCmd, c.id = s.nextId ∧ c.thread = s.cur ∧ c.kind = k ∧ c.tile = tile ∧ c.slot = slot ∧
      c.rc = operand ∧ c.addrs = addr ∧ c.ctl = ctl.toNat ∧ c.ev = ev.toNat ∧ c.started = false ∧ c.pair = 0 ∧ c.issued = s.time.toNat ∧
      c.rm = (if wfld ctl 19 17 = 7 then th.fcsr.rm.toNat else wfld ctl 19 17) ∧ c.ready = false ∧ c.seen = [] ∧ c.out = [] ∧
      c.ending = none ∧ c.closed = false ∧
      CompletesIn
        (State.modStation (State.modCore { s with nextId := s.nextId + 1 } s.cur.core (fun core =>
            { core with locks := core.locks ++ locks }))
          (s.cur.core / 8) (fun x => { x with array := x.array ++ [c] })) th i s n 0 0)))

/-- R240, R244: a command starts when no command of its unit runs, no earlier one of its unit waits and no earlier one names a
slot or tile of it. R250 to R252: mload and msplit fill their slots with slices under the exponents of their rows, msplit writing
those that it computes, and a failed one empties them. R253, R254: mmul adds its product into its tile if operands and tile agree.
R255, R265: mslice checks its operands and tiles at its start, adds its pairs in order, and an abort ends it at a boundary after
which a pair remains. R256: mzero empties its tile. R257 to R259: mcomb and mdrain write the rounded values of their tiles, each
element from its exact sum, record the flags and empty the tiles under zap; mdrain rings its Gong when its writes are done, waits
for room, and fails at a closed or lost destination. Each failure is recorded with its subcode, its slot or tile and its detail
(R245). Which of several failures of one command is named is the model's choice (log entry 31), also that a bad word is named
before a failing element. -/
def Obligations.ArrayCommandsStartAndComplete : Prop :=
  (∀ c : ArrCmd,
    let run (n s : Nat) : List Nat := (List.range s).map (n + ·)
    c.slots = (match c.kind with
      | .mload => [fld c.ctl 24 19]
      | .msplit => run (fld c.ctl 24 19) (fld c.ctl 31 29)
      | .mmul => [c.slot, fld c.ctl 13 8]
      | .mslice => run c.slot (fld c.ctl 2 0) ++ run (fld c.ctl 13 8) (fld c.ctl 2 0)
      | _ => []) ∧
    c.tiles = (match c.kind with
      | .mmul | .mzero => [c.tile]
      | .mslice => if c.ctl.testBit 4 then [c.tile, c.tile + 1] else [c.tile]
      | .mcomb | .mdrain => if c.ctl.testBit 22 then [fld c.ctl 27 24, fld c.ctl 27 24 + 1] else [fld c.ctl 27 24]
      | _ => [])) ∧
  (∀ (s : State) (st : Nat) (c : ArrCmd) (earlier later : List ArrCmd),
    (s.stationAt st).array = earlier ++ c :: later → (∀ x ∈ earlier, x.id ≠ c.id) →
    let k := s.stationAt st
    let first (x : ArrCmd) : Prop := x.kind ∈ [.mmul, .mslice, .mzero]
    let sameUnit (x : ArrCmd) : Prop := first x ↔ first c
    let shares (x : ArrCmd) : Prop := (∃ n ∈ x.slots, n ∈ c.slots) ∨ ∃ n ∈ x.tiles, n ∈ c.tiles
    let may := c.started = false ∧ (∀ x ∈ k.array, sameUnit x → x.started = false) ∧ ∀ x ∈ earlier, ¬ sameUnit x ∧ ¬ shares x
    let i := Instr.arrayCommandStart st c.id
    let slot (n : Nat) : OpSlot := k.slotAt n
    let tile (n : Nat) : Tile := if c.ctl.testBit 3 then (k.tileAt n).cleared else k.tileAt n
    let n := fld c.ctl 2 0
    let m := fld c.ctl 13 8
    let fits := (∀ j < n, (slot c.slot).Holds (slot (c.slot + j)) j n false) ∧ (∀ j < n, (slot m).Holds (slot (m + j)) j n true) ∧
      (tile c.tile).Takes (slot c.slot) (slot m) (n + 1) ∧
      (c.ctl.testBit 4 = true → (tile (c.tile + 1)).Takes (slot c.slot) (slot m) (2 * n))
    (k.mayStart c = true ↔ may) ∧
    (¬ may ∨ s.ctxOfStation st = none → exec i s = .next s) ∧
    (may → s.ctxOfStation st ≠ none → c.kind ≠ .mslice → exec i s = .next (s.modStation st (fun k =>
      { k with array := k.array.map (fun x => if x.id == c.id then { x with started := true } else x) }))) ∧
    (may → s.ctxOfStation st ≠ none → c.kind = .mslice → ∃ (t : State) (ready : Bool), exec i s = .next t ∧
      (ready = true ↔ c.ready = true ∨ fits) ∧
      (t.stationAt st).array =
        k.array.map (fun x => if x.id == c.id then { x with started := true, ready := ready } else x) ∧
      (t.stationAt st).mcur = { abort := k.mcur.abort && c.pair != 0, busy := true, tslot := c.thread.slot
                                tcore := c.thread.core % 8, tile := c.tile, aslot := c.slot, bslot := m
                                full := c.ctl.testBit 4, s := n, pair := c.pair } ∧
      (∀ x, (t.stationAt st).tileAt x = if c.ready = false ∧ ready = true ∧ x ∈ c.tiles then tile x else k.tileAt x) ∧
      (t.stationAt st).slots = k.slots ∧ t.cores = s.cores ∧ t.phys = s.phys)) ∧
  (∀ (s : State) (st : Nat) (c : ArrCmd), (s.stationAt st).array.find? (fun x => x.id == c.id) = some c → c.started = true →
    let k := s.stationAt st
    let core := c.thread.core
    let own := s.coreAt core
    let i := Instr.arrayCommandCompletion st c.id
    let bit (n : Nat) : Bool := c.ctl.testBit n
    let closes := ArrayCloses i s st c
    let fails (code sub unit detail : Nat) : Prop :=
      ∃ t, closes k.slotAt k.tileAt (c.record code sub unit detail) t ∧ ∀ x, (t.coreAt x).spad = (s.coreAt x).spad
    (c.kind = .mload ∨ c.kind = .msplit → c.seen = [] → c.out = [] → c.ending = none → c.thread.slot < 64 →
      let slot := fld c.ctl 24 19
      let S := fld c.ctl 31 29
      let emode := fld c.ctl 26 25
      let exv := wfld c.addrs 53 36
      let writes := c.kind = .msplit ∧ emode ≠ 1
      let elsewhere (t : State) : Prop := (∀ x, x ≠ core → (t.coreAt x).spad = (s.coreAt x).spad) ∧
        (¬ writes → (t.coreAt core).spad = own.spad) ∧
        ∀ z, z < exv ∨ exv + 128 ≤ z → (t.coreAt core).spad.read z = own.spad.read z
      let fails (code sub detail : Nat) : Prop := ∃ t,
        closes (fun n => if n ∈ c.slots then { OpSlot.reset with
            claim := (k.slotAt n).claim, state := if (k.slotAt n).state = .releasing then .releasing else .empty } else k.slotAt n)
          k.tileAt (c.record code sub slot detail) t ∧ elsewhere t
      ((∃ w, c.BadWord own w) → ∃ w, c.BadWord own w ∧ fails 20 0 (8 * w)) ∧
      ((∀ w, ¬ c.BadWord own w) → (∃ i < 64, ∃ e sub, c.FailsAt own i e sub) →
        ∃ i < 64, ∃ e sub, c.FailsAt own i e sub ∧ (c.kind = .msplit → ∀ j < i, ∀ e sub, ¬ c.FailsAt own j e sub) ∧
          fails 16 sub (128 * i + e)) ∧
      ((∀ w, ¬ c.BadWord own w) → (∀ i < 64, ∀ e sub, ¬ c.FailsAt own i e sub) →
        ∃ (t : State) (slots : Nat → OpSlot), closes slots k.tileAt none t ∧ elsewhere t ∧
          (∀ n, n ∉ c.slots ∨ (c.kind = .msplit ∧ emode = 2) → slots n = k.slotAt n) ∧
          (c.kind = .mload → SlotLoaded own c (k.slotAt slot) (slots slot) (fld c.ctl 18 16) (c.given own) (fun _ => false)
            (c.container own)) ∧
          (c.kind = .msplit → ∃ E : Nat → Int, (∀ i < 64, c.Exponent own i (E i)) ∧
            (writes → ∀ i < 64, BitVec.ofNat 16 ((t.coreAt core).spad.readLE (exv + 2 * i) 2) = BitVec.ofInt 16 (E i)) ∧
            (emode ≠ 2 → ∀ j < S, SlotLoaded own c (k.slotAt (slot + j)) (slots (slot + j)) (j + 1) E
              (fun i => (List.range c.len).any (c.special own i)) (fun i => c.slice own (E i) (j + 1) i))))) ∧
    (c.kind = .mmul →
      let a := k.slotAt c.slot
      let b := k.slotAt (fld c.ctl 13 8)
      let old := if bit 0 then (k.tileAt c.tile).cleared else k.tileAt c.tile
      let sh := fld c.ctl 7 4
      let key := a.j + b.j + sh
      let onA := a.state ≠ .empty ∧ a.data ≠ [] ∧ a.sideB = false
      let onB := b.state ≠ .empty ∧ b.data ≠ [] ∧ b.sideB = true
      let takes := old.Takes a b key
      (onA → onB → takes → ∃ (t : State) (new : Tile), PairAdded old new a b key sh ∧
        closes k.slotAt (fun n => if n = c.tile then new else k.tileAt n) none t) ∧
      (¬ onA ∨ ¬ onB ∨ ¬ takes → ∃ x, fails 16 0x35 x 0 ∧
        ((x = c.slot ∧ ¬ onA) ∨ (x = fld c.ctl 13 8 ∧ ¬ onB) ∨ (x = c.tile ∧ ¬ takes)))) ∧
    (c.kind = .mzero → ∃ t, closes k.slotAt (fun n => if n = c.tile then (k.tileAt n).cleared else k.tileAt n) none t) ∧
    (c.kind = .mslice → k.runningSlice = some c →
      let n := fld c.ctl 2 0
      let m := fld c.ctl 13 8
      let free (t : State) : Prop := (t.stationAt st).mcur.busy = false ∧ (t.stationAt st).mcur.abort = false
      ∀ pairs : List (Nat × Nat), pairs.Pairwise (fun x y => x.1 + x.2 < y.1 + y.2 ∨ (x.1 + x.2 = y.1 + y.2 ∧ x.1 < y.1)) →
      (∀ p q, (p, q) ∈ pairs ↔ 1 ≤ p ∧ p ≤ n ∧ 1 ≤ q ∧ q ≤ n ∧ (bit 4 = false → p + q ≤ n + 1)) →
      (∀ p q, c.ready = true → k.mcur.abort = false → pairs[c.pair]? = some (p, q) →
        let u := (s.act (.slicePair st)).stationAt st
        let x := if p + q ≤ n + 1 then c.tile else c.tile + 1
        let key := if p + q ≤ n + 1 then n + 1 else 2 * n
        PairAdded (k.tileAt x) (u.tileAt x) (k.slotAt (c.slot + p - 1)) (k.slotAt (m + q - 1)) key (key - p - q) ∧
        (∀ y, y ≠ x → u.tileAt y = k.tileAt y) ∧ u.slots = k.slots ∧ u.mcur = { k.mcur with pair := c.pair + 1 } ∧
        u.array = k.array.map (fun z => if z.id == c.id then { z with pair := c.pair + 1 } else z)) ∧
      (c.ready = true → k.mcur.abort = false ∨ pairs.length ≤ c.pair →
        ∃ t, closes k.slotAt (Station.stepSlice^[49] k).tileAt none t ∧ free t) ∧
      (c.ready = true → k.mcur.abort = true → c.pair < pairs.length → exec i s = .next s ∧
        ∃ t, ArrayCloses (.msliceAbortStop st) s st c k.slotAt
          (fun n => if n ∈ c.tiles then { k.tileAt n with state := .incomplete } else k.tileAt n) (c.record 16 0x37 c.tile 0) t ∧ free t) ∧
      (c.ready = false →
        let slot (x : Nat) : OpSlot := k.slotAt x
        let tile (x : Nat) : Tile := if bit 3 then (k.tileAt x).cleared else k.tileAt x
        let odd (x : Nat) : Prop := (∃ j < n, x = c.slot + j ∧ ¬ (slot c.slot).Holds (slot x) j n false) ∨
          (∃ j < n, x = m + j ∧ ¬ (slot m).Holds (slot x) j n true) ∨
          (x = c.tile ∧ ¬ (tile x).Takes (slot c.slot) (slot m) (n + 1)) ∨
          (bit 4 = true ∧ x = c.tile + 1 ∧ ¬ (tile x).Takes (slot c.slot) (slot m) (2 * n))
        (∃ x, odd x) → ∃ x, odd x ∧ ∃ t, closes k.slotAt k.tileAt (c.record 16 0x35 x 0) t ∧ free t)) ∧
    (c.kind = .mcomb ∨ c.kind = .mdrain → c.seen = [] → c.out = [] → c.ending = none → c.ready = false → c.closed = false →
      c.rm ≤ 4 → fld c.ctl 21 20 ≠ 3 → c.thread.slot < 64 →
      let f := [Fmt.fp64, .fp32, .bf16].getD (fld c.ctl 21 20) .bf16
      let size := [8, 4, 2].getD (fld c.ctl 21 20) 2
      let pitch := c.pitch (64 * size)
      let dest := if c.kind = .mcomb then core else (threadOfPlace (wfld c.addrs 31 0)).core
      let addr := if c.kind = .mcomb then wfld c.addrs 17 0 else wfld c.addrs 49 32
      64 * size ≤ pitch → addr + 63 * pitch + 64 * size ≤ 2 ^ 18 →
      let incomplete (n : Nat) : Prop := n ∈ c.tiles ∧ (k.tileAt n).state = .incomplete
      ((∃ n, incomplete n) → ∃ n, incomplete n ∧ fails 16 0x36 n 0) ∧
      ((∀ n, ¬ incomplete n) → ∃ (r : Nat → Nat → FRes) (tiles : Bool → Nat → Tile),
        (∀ i < 64, ∀ j < 64, CombinedTo f c.rm (c.tiles.map k.tileAt) i j (r i j)) ∧
        (∀ zap, (∀ n ∈ c.tiles, RecordedIn (k.tileAt n) (tiles zap n) r zap) ∧ ∀ n, n ∉ c.tiles → tiles zap n = k.tileAt n) ∧
        let written (t : State) : Prop := ResultWritten (s.coreAt dest).spad (t.coreAt dest).spad addr pitch size r ∧
          ∀ x, x ≠ dest → (t.coreAt x).spad = (s.coreAt x).spad
        let hub := dest / 8
        let inst : DynInst :=
          { prio := wfld c.rc 62 61, wsize := wfld c.rc 60 56, entry := BitVec.ofNat 64 (wfld c.rc 55 0), node := 0xFFFE
            g3 := BitVec.ofNat 64 (s.place c.thread * 2 ^ 32 + fld c.ctl 27 24 * 2 ^ 18 + addr)
            inst := BitVec.ofNat 24 (fld (s.place c.thread) 13 8 * 64 + s.place c.thread % 64), since := s.time.toNat
            key := turnKey s.time.toNat true 0 s.nextId 0 }
        let open_ := (s.coreAt dest).lost = false ∧ (s.coreAt dest).peersOpen = true
        let done := tiles (bit 23)
        (c.kind = .mcomb → ∃ t, closes k.slotAt done none t ∧ written t) ∧
        (c.kind = .mdrain → ¬ open_ → ∃ t, closes k.slotAt (tiles false) (c.record 9 0 (fld c.ctl 27 24) addr) t ∧
          (t.stationAt hub).dyn = (s.stationAt hub).dyn) ∧
        (c.kind = .mdrain → open_ → c.rc = 0 → ∃ t, closes k.slotAt done none t ∧ written t ∧
          (t.stationAt hub).dyn = (s.stationAt hub).dyn) ∧
        (c.kind = .mdrain → open_ → c.rc ≠ 0 → (s.stationAt hub).dyn.length < 64 → ∃ t, closes k.slotAt done none t ∧ written t ∧
          (t.stationAt hub).dyn = (s.stationAt hub).dyn ++ [inst]) ∧
        (c.kind = .mdrain → open_ → c.rc ≠ 0 → 64 ≤ (s.stationAt hub).dyn.length → ∃ t, exec i s = .next t ∧ written t ∧
          (t.stationAt st).array =
            k.array.map (fun x => if x.id == c.id then { x with out := [], ending := some none, ready := true } else x) ∧
          (∀ n, (t.stationAt st).tileAt n = done n) ∧ (t.stationAt hub).dyn = (s.stationAt hub).dyn))) ∧
    (c.kind = .mdrain → c.out = [] → c.ending = some none → c.ready = true → c.closed = false → c.rc ≠ 0 →
      let hub := stationOfCore (threadOfPlace (wfld c.addrs 31 0)).core
      (64 ≤ (s.stationAt hub).dyn.length → ∃ t, exec i s = .next t ∧
        (t.stationAt st).array = k.array.map (fun x => if x.id == c.id then { x with out := [], ready := true } else x) ∧
        (t.stationAt hub).dyn = (s.stationAt hub).dyn) ∧
      ((s.stationAt hub).dyn.length < 64 → ∃ t, closes k.slotAt k.tileAt none t ∧
        (t.stationAt hub).dyn.length = (s.stationAt hub).dyn.length + 1))) ∧
  (∀ (s : State) (st : Nat), exec (.mcurAbort st) s = .next (s.modStation st (fun k =>
    { k with mcur := { k.mcur with abort := k.mcur.abort || k.mcur.busy } })))

/-! ### Encoding, decoding and the step (05_encoding R55 to R67, 09_scalar R139, 23_observe R309) -/

/-- R55, R56, R60 to R65: the words that the encoding tables give instructions of every family, worked out bit by bit, are read as
those instructions. -/
def Obligations.SpecWordsDecode : Prop :=
  decodeTableWord 32 0x02183070 = some (.add ⟨6, 6, 7⟩) ∧
  decodeTableWord 32 0x1A102A3F = some (.sari ⟨4, 5, 63⟩) ∧
  decodeTableWord 32 0x080C2056 = some (.sel ⟨3, 4, 5⟩) ∧
  decodeTableWord 32 0x1C140080 = some (.lui ⟨5, 128⟩) ∧
  decodeTableWord 32 0x1E140004 = some (.addpc ⟨5, 4⟩) ∧
  decodeTableWord 32 0x280C2203 = some (.bfi ⟨3, 4, 8, 3⟩) ∧
  decodeTableWord 32 0x4E0C2059 = some (.fcmp ⟨3, 4, 5, true⟩ 1) ∧
  decodeTableWord 32 0x46141840 = some (.fma ⟨5, 3, 4, false, 0⟩) ∧
  decodeTableWord 32 0x5C0C27FE = some (.beq ⟨3, 4, -2⟩) ∧
  decodeTableWord 32 0x58040064 = some (.bl ⟨1, 100⟩) ∧
  decodeTableWord 32 0x5A000800 = some (.jr 1) ∧
  decodeTableWord 32 0x681C4000 = some (.xborrow ⟨7, 8⟩) ∧
  decodeTableWord 32 0x8A102808 = some (.stfe ⟨4, 5, 0, 1, false, 0⟩) ∧
  decodeTableWord 32 0x84181820 = some (.stD ⟨6, 3, 1, 0, false, 0⟩) ∧
  decodeTableWord 32 0x9A000002 = some (.waitk 2) ∧
  decodeTableWord 32 0x9E000205 = some (.semv 5) ∧
  decodeTableWord 32 0xA4000001 = some .done ∧
  decodeTableWord 32 0xFA180003 = some (.rdc 6 3) ∧
  decodeTableWord 32 0xFA002407 = some (.wrc 4 7) ∧
  decodeTableWord 32 0 = none

/-- R55 to R66: every well-formed instruction is read back from its words, with every operand, and the bytes behind it are left. No
reserved field is ever ignored: words that are read as an instruction are the words that it encodes to, and it is well formed; so no
two words mean the same. -/
def Obligations.EncodingAndDecodingAgree : Prop :=
  (∀ (i : Instr) (rest : List Byte), i.hasEncoding = true → i.wf = true →
    decodeBytes ((encode i).flatMap (bytesLE 4) ++ rest) = .ok (i, rest)) ∧
  (∀ (w w2 : Nat) (i : Instr), w < 2 ^ 32 → w2 < 2 ^ 32 → decodeWords w w2 = .ok i →
    i.wf = true ∧ encode i = (if w / 2 ^ 25 = 0x7F then [w, w2] else [w]))

/-- R66: what is no instruction, whatever the second word: unassigned majors; fn, aop and sub values without a meaning; rounding
codes 5 and 6; a pair of equal or of integer types, or an unassigned type, in fcvt; sp = 11, and lu with another space than 10;
pos + len above 64; an empty waitk mask; cas with rt odd or zero; slot fields above 63 and tile fields above 15; a send wire
format of 7. -/
def Obligations.ReservedWordsAreRefused : Prop :=
  ∀ (w w2 : Nat), w < 2 ^ 32 →
    let op := w / 2 ^ 25
    let d := w / 2 ^ 18 % 2 ^ 7
    let a := w / 2 ^ 11 % 2 ^ 7
    let fn := w % 2 ^ 4
    let imm := w % 2 ^ 11
    let refused : Prop := firstWordIllegal w = true ∧ ∃ e, decodeWords w w2 = .error e
    (op = 0 ∨ (0x16 ≤ op ∧ op ≤ 0x1F) ∨ op = 0x2B ∨ op = 0x57 ∨ (0x69 ≤ op ∧ op ≤ 0x6B) ∨ (0x78 ≤ op ∧ op ≤ 0x7B) → refused) ∧
    (∀ p ∈ [(0x01, 11), (0x02, 5), (0x03, 4), (0x04, 7), (0x05, 10), (0x06, 1), (0x2D, 2), (0x34, 1), (0x35, 1), (0x36, 1),
        (0x37, 1), (0x4E, 1), (0x51, 2), (0x52, 4), (0x53, 3), (0x54, 2), (0x56, 1), (0x58, 3), (0x7C, 5), (0x7E, 3)],
      op = p.1 → p.2 ≤ fn → refused) ∧
    ((op = 0x48 ∨ op = 0x49) ∧ 10 ≤ imm / 2 ^ 7 ∨ (op = 0x4A ∨ op = 0x4B) ∧ 3 ≤ imm / 2 ^ 7 ∨ op = 0x26 ∧ 3 ≤ fn % 8 ∨
      op = 0x27 ∧ 4 ≤ fn % 8 ∨ op = 0x28 ∧ 1 ≤ fn % 8 → refused) ∧
    (op = 0x7F → imm = 0 ∨ (8 ≤ imm ∧ imm < 0x400) ∨ (0x400 ≤ imm ∧ (imm / 16 = 0x40 ∨ (0x51 ≤ imm / 16 ∧ imm / 16 ≤ 0x55) ∨
      imm / 16 = 0x5B ∨ 0x5D ≤ imm / 16)) → refused) ∧
    ((0x20 ≤ op ∧ op ≤ 0x25) ∨ op = 0x29 ∨ op = 0x2A → w % 8 = 5 ∨ w % 8 = 6 → refused) ∧
    (op = 0x29 → imm / 128 = imm / 8 % 16 ∨ 12 ≤ imm / 128 ∨ 10 ≤ imm / 8 % 16 ∨
      (4 ≤ imm / 128 ∧ imm / 128 ≤ 7 ∧ 4 ≤ imm / 8 % 16 ∧ imm / 8 % 16 ≤ 7) → refused) ∧
    (0x38 ≤ op ∧ op ≤ 0x4B → imm / 8 % 4 = 3 → refused) ∧
    (0x38 ≤ op ∧ op ≤ 0x47 → imm / 4 % 2 = 1 → imm / 8 % 4 ≠ 2 → refused) ∧
    (0x10 ≤ op ∧ op ≤ 0x15 → 64 < op % 2 * 32 + imm / 64 + (imm % 64 + 1) → refused) ∧
    (op = 0x4D → w % 8 = 0 → refused) ∧
    (op = 0x48 ∨ op = 0x49 → imm / 2 ^ 7 = 9 → d = 0 ∨ d % 2 = 1 → refused) ∧
    ((op = 0x6C ∨ op = 0x6D) ∧ 64 ≤ d ∨ (op = 0x70 ∨ op = 0x71) ∧ (64 ≤ a ∨ 16 ≤ d) ∨ op = 0x73 ∧ 16 ≤ d ∨
      op = 0x75 ∧ 16 ≤ a ∨ op = 0x76 ∧ 16 ≤ d ∨ op = 0x77 ∧ 16 ≤ a → refused) ∧
    (op = 0x55 → w % 8 = 7 → refused)

/-- R29, R67, R139: in a cycle of a core one step runs the instruction that the bytes at the pc of the slot's thread decode to, in
the fetch register or in the core's cache, with a second word in the next line too; then the slot is counted as issued, a task whose
own instruction it was, in user mode, has begun (R45), and the rotation goes on. A due interrupt, and the end of a wait, come first
and take no slot (R32, R143). A step of the schedule that is an engine's, an owner's or the host's runs that one, in the next tick
where it comes too late for this one (R331); a sampling tick of a traced core that would pass first is recorded before it (R306).
Before a placement or a sample the step finds the classes that the slots would have (R45, R302). With the ticks the cycles of each
reticle pass at its clock (R8, R160). Behind each step the threads whose wfi has found an interrupt pending go on (R136). The order
of cycles and events is the model's (log entry 1), and so is that a class is found by what a cycle would do (log entry 55). -/
def Obligations.StepRunsTheDecodedInstruction : Prop :=
  let ended (v : State) : Host.Outcome State Fault Refusal := .next { v.wakeAll with classes := [] }
  (∀ (s : State) (th : Thread) (line : FetchLine) (sf : State) (i : Instr) (core n : Nat) (r : List Turn),
    (s.schedule = [] ∧ core = s.focus ∧ n = 1 ∧ r = [] ∧ s.sampleDue ⟨1, .cycle core⟩ = none) ∨
      (∃ m, s.schedule = ⟨m, .cycle core⟩ :: r ∧ n = (if m = 0 ∧ 0 < s.phase then 1 else m) ∧
        ({ s with schedule := r } : State).sampleDue ⟨m, .cycle core⟩ = none) →
    let s1 : State := { State.pass { s with schedule := r } n with free := s.free + 1, phase := 0 }
    let k := s.coreAt core
    let t : ThreadId := ⟨core, k.position⟩
    let taken (u : State) : State := u.modThread t (fun w =>
      if w.status.mode = .user then { w with dbg := { w.dbg with skip := false } } else w)
    let runs (u : State) : Prop := step s = (match exec i { taken u with cur := t } with
      | .next v => ended ((if th.status.mode = .user then v.modThread t Thread.begin else v).modCore core (fun k =>
          k.endCycle .issued (s1.readyThreads core)))
      | .fault f => .fault f
      | .refused r => .refused r)
    (s1.ctxOfStation (core / 8)).isSome = true → k.stopped = false → k.lost = false → k.position < 8 * 2 ^ k.rotLen.toNat →
    s.threadAt t = some th → th.halted = false → th.win.lent = false →
    (∀ u, s1.tryInterrupt t th = some u → step s = ended u) ∧
    (s1.tryInterrupt t th = none → th.wait ≠ none → ∀ u, s1.endWait t th = some u → step s = ended u) ∧
    (s1.tryInterrupt t th = none → th.wait = none → th.dbg.ben = 0 ∨ th.dbg.skip = true → th.pc.toNat % 4 = 0 → th.pc.toNat < 2 ^ 56 →
    line.base = th.pc.toNat / 64 * 64 → line.bytes.length = 64 →
    ((th.fetch = some line ∧ sf = s1) ∨
      (∃ x, (∀ f, th.fetch = some f → f.base ≠ line.base) ∧
        k.icache.find? (fun l => l.ctx == th.ctxId.toNat && l.base == line.base) = some x ∧ x.bytes = line.bytes ∧
        sf = (s1.modCore core (fun k => { k with icache := icacheUse k.icache x })).setThread t { th with fetch := some line })) →
    let bs := line.bytes.drop (th.pc.toNat % 64)
    (∀ rest, decodeBytes bs = .ok (i, rest) → runs sf) ∧
    (∀ y rest, th.pc.toNat % 64 = 60 →
      (sf.coreAt core).icache.find? (fun l => l.ctx == th.ctxId.toNat && l.base == line.base + 64) = some y →
      y.bytes.length = 64 → isLong (ofBytesLE bs) = true → decodeBytes (bs ++ y.bytes) = .ok (i, rest) →
      ∃ th2, sf.threadAt t = some th2 ∧
        runs ((sf.modCore core (fun k => { k with icache := icacheUse k.icache y })).setThread t th2)))) ∧
  (∀ (s : State) (i : Instr) (n : Nat) (r : List Turn), s.schedule = ⟨n, .event i⟩ :: r → i.hasEncoding = false →
    ({ s with schedule := r } : State).sampleDue ⟨n, .event i⟩ = none →
    let rank := match i with
      | .count _ | .rdreg _ | .rdspad _ => 2
      | .tileRequestRetry _ | .arrayCommandStart _ _ | .msliceAbortStop _ => 0
      | _ => 1
    let seen := match i with
      | .arrayCommandStart st _ | .arrayCommandCompletion st _ | .msliceAbortStop st | .mcurAbort st =>
        decide ((s.stationAt st).viewed = some s.time.toNat)
      | _ => false
    let s1 : State := State.pass { s with schedule := r } (if n = 0 ∧ (rank < s.phase ∨ seen = true) then 1 else n)
    step s = (match exec i (State.findClasses { s1 with free := s.free + 1, phase := rank } i) with
      | .next v => ended v
      | .fault f => .fault f
      | .refused r => .refused r)) ∧
  (∀ (s : State) (u : Turn) (r : List Turn) (core n : Nat), s.schedule = u :: r →
    ({ s with schedule := r } : State).sampleDue u = some (core, n) →
    let s1 : State :=
      { State.pass { s with schedule := ⟨u.ticks - n, u.who⟩ :: r } n with free := s.free + 1, phase := 2 }
    step s = ended (s1.act (.sample core))) ∧
  (∀ (s : State) (u : Turn),
    let due (core n : Nat) : Prop := (s.coreAt core).stopped = false ∧ (s.coreAt core).lost = false ∧
      ∃ x, (s.ctxOfStation (core / 8)).bind s.ctxAt = some x ∧ x.trace.on = true ∧ x.trace.s ≠ 0 ∧
        let gone := s.time.toNat % 2 ^ x.trace.s
        n = if gone = 0 ∧ aget x.trace.sampled core ≠ some s.time.toNat then 0 else 2 ^ x.trace.s - gone
    (∀ core n, s.sampleDue u = some (core, n) → due core n ∧ n < s.ticksTo u ∧ ∀ k ∈ s.cores, ∀ m, due k.1 m → n ≤ m) ∧
    (s.sampleDue u = none → ∀ k ∈ s.cores, ∀ n, due k.1 n → s.ticksTo u ≤ n)) ∧
  (∀ (s : State) (core : Nat), (∀ st, s.findClasses (.taskPlacement st) =
      { s with classes := (List.range 8).flatMap (fun c => s.classesOf (st * 8 + c)) }) ∧
    s.findClasses (.traceSample core) = { s with classes := s.classesOf core } ∧
    (∀ i, (∀ st, i ≠ .taskPlacement st) → (∀ c, i ≠ .traceSample c) → s.findClasses i = s) ∧
    (∀ p cls, (⟨core, p⟩, cls) ∈ s.classesOf core ↔ cls = s.slotWould ⟨core, p⟩ ∧ ∃ th, (p, th) ∈ (s.coreAt core).threads) ∧
    ∀ p, let t : ThreadId := ⟨core, p⟩
      (s.threadAt t = none → s.slotWould t = .vacant) ∧
      (∀ th, s.threadAt t = some th →
        (th.halted = true ∨ th.win.lent = true → s.slotWould t = .vacant) ∧
        (th.halted = false → th.win.lent = false → s.tryInterrupt t th = none →
          (th.wait = none → s.slotWould t = if s.canFetch t th then .issued else .mem) ∧
          (∀ w u, th.wait = some w → s.endWait t th = none → s.polled t th = .stopped u → s.slotWould t = w.slotClass)))) ∧
  (∀ (s : State) (n : Nat), (s.pass n).time = s.time + BitVec.ofNat 64 n ∧
    (∀ r < 4, agetD (s.pass n).cycles r 0 = agetD s.cycles r 0 + n * (agetD s.sec.pwr r PwrReg.reset).mhz) ∧
    s.pass n = { s with time := (s.pass n).time, cycles := (s.pass n).cycles }) ∧
  (∀ (s : State) (t : ThreadId) (th : Thread), s.threadAt t = some th →
    let due := th.wait = some .interrupt ∧ th.halted = false ∧ s.threadRuns t = true ∧ s.pending t th ≠ 0
    (due → s.wake t = s.finish t 4) ∧ (¬ due → s.wake t = s))

/-- R67, R139, R225, R309, R312: a fetch that gives no instruction: a misaligned pc raises ALIGN (log entry 18), a pc with bits
[63:56] set XLATE reason 4, a missing line makes the thread wait for it, an enabled breakpoint unit raises BREAK sub 1 with its
number, or halts with cause 3, before the word is read, and skips its match once, until an instruction is acted on; a word that is
no instruction raises ILLEGAL with itself. -/
def Obligations.FetchStopsBeforeAnInstruction : Prop :=
  ∀ (s : State) (t : ThreadId) (th : Thread), s.threadAt t = some th →
    let pc := th.pc.toNat
    let stops (u : State) : Prop := s.fetchInstr t th true = .stopped u
    (pc % 4 ≠ 0 → stops (s.takeTrap t (precise 4 th.pc 0 0))) ∧
    (pc % 4 = 0 → 2 ^ 56 ≤ pc → stops (s.takeTrap t (precise 5 th.pc 4 0))) ∧
    (pc % 4 = 0 → pc < 2 ^ 56 →
      (th.fetch = none → (∀ l ∈ (s.coreAt t.core).icache, l.ctx ≠ th.ctxId.toNat ∨ l.base ≠ pc / 64 * 64) →
        stops (s.setThread t { th with wait := some (.line (pc / 64 * 64) none) })) ∧
      (∀ f, th.fetch = some f → f.base = pc / 64 * 64 →
        (∀ (u : Nat) (b : BreakUnit), u < 4 → th.status.mode = .user → th.dbg.skip = false → th.dbg.ben.getLsbD u = true →
          aget (s.coreAt t.core).breaks u = some b → b.on = true → b.addr = pc →
          (∀ v < u, th.dbg.ben.getLsbD v = true → ∀ c, aget (s.coreAt t.core).breaks v = some c → c.on = false ∨ c.addr ≠ pc) →
          let s1 := s.setThread t { th with dbg := { th.dbg with skip := true } }
          (th.dbg.dbg = false → stops (s1.takeTrap t (precise 14 th.pc 1 u))) ∧
          (th.dbg.dbg = true → stops (s1.halt t 3))) ∧
        (th.dbg.ben = 0 ∨ th.dbg.skip = true → firstWordIllegal (ofBytesLE ((f.bytes.drop (pc % 64)).take 4)) = true →
          stops (State.takeTrap (s.modThread t (fun w =>
            if w.status.mode = .user then { w with dbg := { w.dbg with skip := false } } else w)) t
              (precise 1 (BitVec.ofNat 64 (ofBytesLE ((f.bytes.drop (pc % 64)).take 4))) 0 0)))))

/-! ### The whole machine -/

/-- R22, R46, R160, R216, R293 to R295, R300, R317, R321, R324: what reset leaves where the rules give a value: no context,
thread, queue, channel or request is there, every key tag but 0 is free, no boot has run, and the memories are in their canonical
form. Some rules give no reset value: that the Carillon count is 0 is the model's choice (log entry 9), as are the error ring's
tail and head and its count of lost records (log entry 56). -/
def Obligations.ResetLeavesTheStatedValues : Prop :=
  let s := State.reset
  State.memoriesWf s = true ∧ s.time = 0 ∧ s.ctxs = [] ∧ (∀ t, s.threadAt t = none) ∧ (∀ c, s.ctxOfStation c = none) ∧
  (∀ q < 256, (s.queueAt q).en = false ∧ (s.queueAt q).head = 0 ∧ (s.queueAt q).tail = 0 ∧ (s.queueAt q).stat = 0) ∧
  (∀ c < 4, (s.channelAt c).go = false) ∧ s.host.pm.go = false ∧ s.sec.go = false ∧ s.host.podpair = 0 ∧ s.host.bar2err = 0 ∧
  s.pkg.gen = 0 ∧ s.sec.tagState 0 = .live ∧ (∀ tag < 256, tag ≠ 0 → s.sec.tagState tag = .free) ∧
  s.sec.errtail = 0 ∧ s.sec.errhead = 0 ∧ s.sec.errlost = 0 ∧
  (∀ off ∈ [0x0, 0x8, 0x10, 0x18, 0x20, 0x28, 0x30, 0x38, 0x300000, 0x1000000, 0x1000030, 0x1000038, 0x1000040], s.bar0 off = 0)

/-- Every step keeps the canonical form of device memory, of host memory and of every scratchpad: addresses strictly rise, and no
entry is what an unlisted address reads as. -/
def Obligations.EveryStepKeepsTheMemoriesCanonical : Prop :=
  ∀ s t : State, State.memoriesWf s = true → step s = .next t → State.memoriesWf t = true

/-- R68, R138, R215, R216, R224, R308: what an instruction word executed in user mode cannot change of its own thread, whatever it
does and whatever trap it takes: it never enters machine mode, and the trap vector, the interrupt enables, the context, the key
tag, the window and the debug enables stay. -/
def Obligations.UserModeKeepsWhatItMayNotWrite : Prop :=
  ∀ (s t : State) (i : Instr) (th th' : Thread), i.hasEncoding = true → s.threadAt s.cur = some th → th.status.mode = .user →
    exec i s = .next t → t.threadAt s.cur = some th' →
    th'.status.mode ≠ .machine ∧ th'.trap.tvec = th.trap.tvec ∧ th'.status.ien = th.status.ien ∧ th'.ctxId = th.ctxId ∧
    th'.ctxTag = th.ctxTag ∧ th'.win.wbase = th.win.wbase ∧ th'.win.wsize = th.win.wsize ∧ th'.dbg.ben = th.dbg.ben ∧
    th'.dbg.wen = th.dbg.wen ∧ th'.dbg.ss = th.dbg.ss ∧ th'.dbg.tr = th.dbg.tr ∧ th'.dbg.dbg = th.dbg.dbg

/-! ### Translation (17_traps R225 to R228) -/

/-- R225, R227, R229: a global address that no cached entry covers is walked from the context's table, ten bits to a level: an entry
with v = 0 is XLATE reason 1 with its level, one with a reserved field or a leaf where none may stand is reason 2, a leaf under move
holds the access, a leaf at level 3 maps 64 MiB and one at level 4 64 KiB, the first permission that it lacks in the order rd, w, x,
u is PROT with its sub, an address outside the map is XLATE reason 2, and no byte of memory changes but by accumulates that were
pending. An access is held too while an earlier one is held for its page, and keeps its place among them. -/
def Obligations.TranslationWalksThePageTable : Prop :=
  (∀ (s : State) (st ctx va e1 e2 e3 e4 : Nat) (x : Context) (need : Need) (user : Bool), s.ctxAt ctx = some x →
    (s.xlatAt (st / 8)).find ctx va = none → va < 2 ^ 56 →
    let holds (a e : Nat) : Prop := e < 2 ^ 64 ∧ s.bareRead a 8 = .ok (bytesLE 8 e)
    let zero (e : Nat) : Prop := e / 2 ^ 42 = 0 ∧ e / 2 ^ 7 % 2 ^ 6 = 0
    let pointer (e : Nat) : Prop := e % 2 = 1 ∧ zero e ∧ e / 2 % 2 = 0
    let leaf (e : Nat) : Prop := e % 2 = 1 ∧ zero e ∧ e / 2 % 2 = 1
    let next (e : Nat) : Nat := e / 2 ^ 13 * 2 ^ 13
    let has (e n : Nat) : Prop := e / 2 ^ n % 2 = 1
    let gives (r : Xlated) : Prop := ∃ t, s.translate st ctx va need user false = (r, t) ∧ t.cores = s.cores ∧
      (s.folds = [] → t.phys = { s.phys with old := t.phys.old })
    let large (e : Nat) : Nat := e / 2 ^ 26 * 2 ^ 26 + va % 2 ^ 26
    let small (e : Nat) : Nat := e / 2 ^ 16 * 2 ^ 16 + va % 2 ^ 16
    let invalid (e level : Nat) : Prop := (e % 2 = 0 → gives (.fault 5 1 level)) ∧
      (e % 2 = 1 → ¬ zero e → gives (.fault 5 2 level)) ∧ (leaf e → level < 3 → gives (.fault 5 2 level))
    let checked (e level pa : Nat) : Prop :=
      (has e 6 → gives .held) ∧
      (¬ has e 6 → need.rd = true → ¬ has e 2 → gives (.fault 6 1 0)) ∧
      (¬ has e 6 → (need.rd = true → has e 2) → need.wr = true → ¬ has e 3 → gives (.fault 6 2 0)) ∧
      (¬ has e 6 → (need.rd = true → has e 2) → (need.wr = true → has e 3) → need.ex = true → ¬ has e 4 →
        gives (.fault 6 3 0)) ∧
      (¬ has e 6 → (need.rd = true → has e 2) → (need.wr = true → has e 3) → (need.ex = true → has e 4) →
        (user = true → ¬ has e 5 → gives (.fault 6 4 0)) ∧
        ((user = true → has e 5) → s.inMap pa = true → gives (.pa pa)) ∧
        ((user = true → has e 5) → s.inMap pa = false → gives (.fault 5 2 level)))
    holds (x.root * 8192 + 8 * (va / 2 ^ 46 % 2 ^ 10)) e1 → invalid e1 1 ∧
    (pointer e1 → holds (next e1 + 8 * (va / 2 ^ 36 % 2 ^ 10)) e2 → invalid e2 2 ∧
      (pointer e2 → holds (next e2 + 8 * (va / 2 ^ 26 % 2 ^ 10)) e3 → invalid e3 3 ∧
        (leaf e3 → e3 / 2 ^ 13 % 2 ^ 13 ≠ 0 → gives (.fault 5 2 3)) ∧
        (leaf e3 → e3 / 2 ^ 13 % 2 ^ 13 = 0 → checked e3 3 (large e3)) ∧
        (pointer e3 → holds (next e3 + 8 * (va / 2 ^ 16 % 2 ^ 10)) e4 → invalid e4 4 ∧
          (pointer e4 → gives (.fault 5 2 4)) ∧ (leaf e4 → e4 / 2 ^ 13 % 2 ^ 3 ≠ 0 → gives (.fault 5 2 4)) ∧
          (leaf e4 → e4 / 2 ^ 13 % 2 ^ 3 = 0 → checked e4 4 (small e4)))))) ∧
  (∀ (s : State) (who : HeldBy) (st ctx va : Nat) (need : Need) (user host : Bool),
    let r := s.translateIn who st ctx va need user host
    (s.behindHeld who st ctx va = true ↔ ∃ a e b, s.held = a ++ e :: b ∧ (∀ y ∈ a, y.who ≠ who) ∧ e.who ≠ who ∧
      s.samePage e st ctx va = true ∧ s.heldStill e.who = true) ∧
    (s.behindHeld who st ctx va = true → r.1 = .held ∧ r.2 = { s with held := r.2.held }) ∧
    (s.behindHeld who st ctx va = false → ∀ x u, s.translate st ctx va need user host = (x, u) →
      r.1 = x ∧ r.2 = { u with held := r.2.held }) ∧
    (r.1 = .held → ∃ e ∈ r.2.held, e.who = who))

/-! ### Command queues (21_fabric R294 to R298) -/

/-- R37 to R39, R295 to R298: the packet at head is read from the ring, and a malformed one sets err 1; a LAUNCH whose nodes pass
their checks goes to the dispatch controller with the next launch number, each node released at once where its deps is 0, and head
goes on; a rejected one goes on too; an affinity whose page stays held for 76,000 ticks is given up and the graph read again
without it (R229); a SIGNAL waits for the launches before it and their status writes, then stores its value; a WAIT goes on once
its word compares, and reads it again after 1,024 ticks; an access that fails, a SIGNAL to a poisoned line too, sets err 4 and
stops the queue. -/
def Obligations.PacketsLaunchSignalAndWait : Prop :=
  (∀ (s : State) (q : Nat) (bs : List Byte),
    let k := s.queueAt q
    k.en = true → k.err = 0 → 6 ≤ k.lsize → k.lsize ≤ 16 → k.tail ≠ k.head → (k.tail - k.head).toNat ≤ 2 ^ k.lsize →
    (s.ctxAt k.ctx).isSome = true → k.packet = none → s.folds = [] → s.phys.uncorr = [] →
    s.bareRead (k.base * 4096 + 64 * (k.head.toNat % 2 ^ k.lsize)) 64 = .ok bs →
    let p := (chunkNats 8 8 bs).map (BitVec.ofNat 64)
    ∃ u : State, u = { s with phys := { s.phys with old := u.phys.old }, stations := u.stations, dram := u.dram } ∧
      (packetOk p = false → exec (.launch q) s = .next (u.setQueue q { k with err := 1 })) ∧
      (packetOk p = true → packetType p ≠ 1 → exec (.launch q) s = .next (u.setQueue q { k with packet := some p }))) ∧
  (∀ (s : State) (q : Nat) (k : CmdQueue) (x : Context) (p : List Word) (nodes : List NodeImage) (u : State),
    AtHead s q k x p 1 → s.recordValid k.ctx = true →
    (s.setQueue q k).readNodes q k.ctx (packetAddr p 1) (packetWord p 2) 0 (packetWord p 2) = (.ok nodes, u) →
    ∃ t y g, exec (.launch q) s = .next t ∧
      t.queueAt q = { k with head := k.head + 1, packet := none, waiting := none, heldSince := none, givenUp := []
                             seq := k.seq + 1, openGraphs := k.openGraphs ++ [g.id] } ∧
      u.ctxAt k.ctx = some y ∧ t.ctxAt k.ctx = some { y with graphs := y.graphs ++ [g] } ∧ g.queue = q ∧
      g.launch = k.seq.toNat ∧ g.status = packetAddr p 3 ∧ g.nodes.map NodeState.image = nodes ∧ t.phys = u.phys ∧
      (∀ n ∈ g.nodes, n.depsLeft = n.image.deps ∧ n.released = decide (n.image.deps = 0) ∧ n.prio = n.image.prio ∧
        n.placed = [] ∧ n.triggered = false) ∧
      (∀ n ∈ nodes, n.count ≠ 0 ∧ 1 ≤ n.wsize ∧ n.wsize ≤ 16 ∧ n.nargs ≤ 8 ∧ 3 + n.nargs ≤ 8 * n.wsize ∧
        ∀ e ∈ n.succ, e < packetWord p 2)) ∧
  (∀ (s : State) (q : Nat) (k : CmdQueue) (x : Context) (p : List Word) (code node : Nat) (u : State), AtHead s q k x p 1 →
    s.recordValid k.ctx = true → code ≠ 0 → k.openGraphs = [] →
    (s.setQueue q k).readNodes q k.ctx (packetAddr p 1) (packetWord p 2) 0 (packetWord p 2) = (.error (code, node), u) →
    (code ≠ 5 → packetAddr p 3 = 0 → exec (.launch q) s = .next (u.passed q k p)) ∧
    (∀ since e, code = 5 → k.heldSince = some since → since + 76000 ≤ s.time.toNat →
      u.held.find? (fun h => h.who == .packet q) = some e → e.va = k.heldVa →
      exec (.launch q) s = .next (State.setQueue { s with held := u.held } q
        { k with heldSince := none, givenUp := k.heldVa :: k.givenUp }))) ∧
  (∀ (s : State) (q : Nat) (k : CmdQueue) (x : Context) (p : List Word), AtHead s q k x p 2 →
    let s0 := s.setQueue q k
    let writing : Prop := ∃ y ∈ s.accesses, ∃ st, y.issuer = .front q st
    (k.openGraphs ≠ [] ∨ writing → exec (.signal q) s = .next s0) ∧
    let stored := s0.frontStore (.packet q) k.ctx (packetAddr p 1) (p.getD 2 0) true
    let failed (v : State) : State := v.setQueue q { k with err := 4, heldSince := none }
    (∀ u v, k.openGraphs = [] → ¬ writing → stored = (.ok u, v) → exec (.signal q) s = .next (u.passed q k p)) ∧
    (∀ code v, k.openGraphs = [] → ¬ writing → code ≠ 0 → stored = (.error code, v) → exec (.signal q) s = .next (failed v)) ∧
    (∀ v pa, k.openGraphs = [] → ¬ writing → s.region (packetAddr p 1) = .paged →
      s0.translateIn (.packet q) (s.homeOf k.ctx) k.ctx (packetAddr p 1) .store false false = (.pa pa, v) → pa % 8 = 0 →
      v.folds = [] → (∀ y ∈ v.accesses, y.stage ≠ .filling) → pa / 64 ∈ v.phys.poison →
      v.phys.lineTag (pa / 64) = x.tag ∨ v.phys.lineTag (pa / 64) = 0 → exec (.signal q) s = .next (failed v))) ∧
  (∀ (s : State) (q : Nat) (k : CmdQueue) (x : Context) (p : List Word) (w : Word) (u : State), AtHead s q k x p 3 →
    (s.setQueue q k).frontLoad (.packet q) k.ctx (packetAddr p 1) = (.ok w, u) →
    let compares : Prop := (packetWord p 3 = 0 ∧ w = p.getD 2 0) ∨ (packetWord p 3 ≠ 0 ∧ (p.getD 2 0).toNat ≤ w.toNat)
    let reads (i : Instr) : Prop := (compares → exec i s = .next (u.passed q k p)) ∧
      (¬ compares → exec i s = .next (u.setQueue q { k with waiting := some s.time.toNat, heldSince := none }))
    (k.waiting = none → reads (.wait q)) ∧
    (∀ last, k.waiting = some last →
      (last + 1024 ≤ s.time.toNat → reads (.waitPoll q)) ∧
      (s.time.toNat < last + 1024 → exec (.waitPoll q) s = .next (s.setQueue q k))))

/-! ### Debug requests (23_observe R302 to R316) -/

/-- R50, R309, R310, R313 to R316: HALT stops its thread with cause 1, and halting records the cause and ends a debug step; RESUME
lets a halted thread go on, and the ticks of the halt count neither toward the limit of its own request nor toward a STEP that it
holds back; STEP lets it execute up to A instructions, and reports how many it has executed once it has halted again; SETBP and
SETWP set a unit; a target of another context is refused with code 1, a thread that is not halted with code 2, and parameters out
of range with code 3. The order of these refusals, code 3 for a set bit that a request leaves unused, and code 5 for a STEP
whose thread does not hold it any more, are the model's (log entry 36). -/
def Obligations.DebugHaltsResumesStepsAndArms : Prop :=
  (∀ (s : State) (t : ThreadId) (th : Thread) (c : BitVec 3), s.threadAt t = some th → th.dbg.tr = false →
    let b := match th.stepsLeft, th.stepOf with
      | some _, some q => s.setQueue q { s.queueAt q with stepDone := some th.stepsDone }
      | _, _ => s
    s.halt t c = b.setThread t { th with
      halted := true, haltedAt := s.time.toNat, stepsLeft := none, dbg := { th.dbg with hcause := c } }) ∧
  (∀ (s : State) (q : Nat) (k : CmdQueue) (x : Context) (p : List Word) (t : ThreadId) (th : Thread), s.threadAt t = some th →
    let s0 := s.setQueue q k
    let a := p.getD 3 0
    let settled (v : Thread) : Thread := match v.wait with
      | some (.step since skipped known) =>
        { v with wait := some (.step since (s.skippedTicks v skipped known) (s.runningNow v)) }
      | _ => v
    let waited (y : Access) : Access :=
      if th.wait = some (.answer y.id) then { y with issued := y.issued + (s.time.toNat - th.haltedAt) } else y
    let resumed (b : State) (w : Thread) : Prop := b.accesses = s.accesses.map waited ∧ b.phys = s.phys ∧
      (∀ v, b.threadAt v = if v = t then some w else (s.threadAt v).map settled) ∧
      ∀ c, b.coreAt c = { s.coreAt c with threads := (b.coreAt c).threads }
    (Asked s q k x p 1 t → th.halted = false → th.stepsLeft = none ∨ th.stepOf ≠ some q → Reports (s0.halt t 1) q k p 0 0 (exec (.halt q) s)) ∧
    (Asked s q k x p 1 t → th.halted = true → Reports s0 q k p 0 0 (exec (.halt q) s)) ∧
    (Asked s q k x p 2 t → th.halted = true → th.dbg.tr = false → ∃ b, Reports b q k p 0 0 (exec (.resume q) s) ∧
      b = { s0 with cores := b.cores, accesses := b.accesses } ∧ resumed b { settled th with halted := false }) ∧
    (Asked s q k x p 3 t → k.waiting = none → th.halted = true →
      (1 ≤ a.toNat → a.toNat ≤ 65535 → ∃ u, exec (.dbgStep q) s = .next u ∧
        resumed u { settled th with halted := false, stepsLeft := some a.toNat, stepsDone := 0, stepOf := some q } ∧
        u.queueAt q = { k with waiting := some s.time.toNat, stepDone := none }) ∧
      (a.toNat = 0 ∨ 65535 < a.toNat → Reports s0 q k p 3 0 (exec (.dbgStep q) s))) ∧
    (Asked s q k x p 3 t → k.waiting.isSome = true →
      (∀ n, k.stepDone = some n → Reports s0 q k p 0 n (exec (.dbgStep q) s)) ∧
      (k.stepDone = none → th.stepsLeft.isSome = true → th.stepOf = some q → exec (.dbgStep q) s = .next s0) ∧
      (k.stepDone = none → th.stepsLeft = none ∨ th.stepOf ≠ some q → Reports s0 q k p 5 0 (exec (.dbgStep q) s))) ∧
    (th.halted = false → (Asked s q k x p 2 t → Reports s0 q k p 2 0 (exec (.resume q) s)) ∧
      (Asked s q k x p 3 t → k.waiting = none → Reports s0 q k p 2 0 (exec (.dbgStep q) s)))) ∧
  (∀ (s : State) (q : Nat) (k : CmdQueue) (x : Context) (p : List Word) (t : ThreadId),
    let s0 := s.setQueue q k
    let a := p.getD 3 0
    let b := p.getD 4 0
    (Asked s q k x p 8 t →
      (a.toNat / 2 ^ 58 % 2 ^ 5 = 0 → a.toNat % 4 = 0 →
        Reports (s0.modCore t.core (fun c => { c with
          breaks := aset c.breaks (a.toNat / 2 ^ 56 % 4) { on := a.getLsbD 63, addr := a.toNat % 2 ^ 56 } })) q k p 0 0
          (exec (.setbp q) s)) ∧
      (a.toNat / 2 ^ 58 % 2 ^ 5 ≠ 0 ∨ a.toNat % 4 ≠ 0 → Reports s0 q k p 3 0 (exec (.setbp q) s))) ∧
    (Asked s q k x p 9 t → a.toNat / 2 ^ 57 % 2 ^ 6 = 0 → a.toNat % 8 = 0 → b.toNat / 2 ^ 10 = 0 → b.toNat / 2 ^ 6 % 4 = 0 →
      b.toNat / 2 ^ 8 % 4 ≤ 2 → b.toNat / 2 ^ 4 % 4 ≠ 0 → b.toNat % 16 ≤ 9 →
      Reports (s0.modCore t.core (fun c => { c with
        watches := aset c.watches (a.toNat / 2 ^ 56 % 2)
          { on := a.getLsbD 63, addr := a.toNat % 2 ^ 56, sp := b.toNat / 2 ^ 8 % 4, kind := b.toNat / 2 ^ 4 % 4
            g := b.toNat % 16 } })) q k p 0 0 (exec (.setwp q) s)) ∧
    (AtHead s q k x p 4 → packetWord p 1 / 2 ^ 56 % 2 ^ 8 = 8 → x.active s.time = true →
      packetWord p 1 / 2 ^ 18 % 2 ^ 14 ≠ s.pkg.device.toNat ∨ stationOfPlace (packetWord p 1 % 2 ^ 32) ∉ x.stations →
      Reports s0 q k p 1 0 (exec (.setbp q) s)) ∧
    (AtHead s q k x p 4 → packetWord p 1 / 2 ^ 56 % 2 ^ 8 = 8 → x.active s.time = false → exec (.setbp q) s = .next s0))

/-- R302 to R307, R313, R314: RDREG stores a halted thread's 128 registers, its control registers and its halt doubleword; WRREG
writes a register of its window; RDSPAD stores scratchpad doublewords and WRSPAD writes them from the buffer; COUNT stores the
core's slot counters and histogram, and clears them where A[0] asks for it; TRACE sets the context's buffer; FLUSH reports the
records dropped once every record is written; in a tick that is a multiple of 2^s a sample record leaves for the slot at the
rotation position, with the class that its cycle would have; a full buffer without wrap drops it, and one that would end past the
address space stops the trace. The sampling ticks and what stops a trace are the model's choice (log entry 36). -/
def Obligations.DebugReadsWritesCountsAndTraces : Prop :=
  (∀ (s : State) (q : Nat) (k : CmdQueue) (x : Context) (p : List Word) (t : ThreadId) (th : Thread), s.threadAt t = some th →
    th.halted = true →
    let s0 := s.setQueue q k
    let a := p.getD 3 0
    let b := p.getD 4 0
    (∀ u, Asked s q k x p 4 t → s0.frontStores (.packet q) k.ctx (packetAddr p 2) (s0.dbgRegisters t th) = (none, u) →
      Reports u q k p 0 0 (exec (.rdreg q) s)) ∧
    (∀ i < 128, (s0.dbgRegisters t th)[i]? = some (if 8 * th.win.wsize ≤ i then 0 else s.reg t (BitVec.ofNat 7 i))) ∧
    (∀ code va u, Asked s q k x p 4 t → code ≠ 0 →
      s0.frontStores (.packet q) k.ctx (packetAddr p 2) (s0.dbgRegisters t th) = (some (code, va), u) →
      Reports u q k p 4 va (exec (.rdreg q) s)) ∧
    (Asked s q k x p 5 t → a.toNat < 128 →
      (a.toNat < 8 * th.win.wsize → Reports (s0.setReg t (BitVec.ofNat 7 a.toNat) b) q k p 0 0 (exec (.wrreg q) s)) ∧
      (8 * th.win.wsize ≤ a.toNat → Reports s0 q k p 3 0 (exec (.wrreg q) s))) ∧
    (Asked s q k x p 5 t → a = 0x109#64 →
      Reports (s0.setThread t { th with trap := { th.trap with tpc := b &&& 0x00FFFFFFFFFFFFFF#64 } }) q k p 0 0
        (exec (.wrreg q) s))) ∧
  (∀ (s : State) (q : Nat) (k : CmdQueue) (x : Context) (p : List Word) (t : ThreadId),
    let s0 := s.setQueue q k
    let a := (p.getD 3 0).toNat
    let b := (p.getD 4 0).toNat
    let core := s.coreAt t.core
    let inside : Prop := a % 8 = 0 ∧ b % 8 = 0 ∧ 8 ≤ b ∧ a + b ≤ 2 ^ 18
    (∀ u, Asked s q k x p 6 t → inside → core.badParity a b = false →
      s0.frontStores (.packet q) k.ctx (packetAddr p 2) ((List.range (b / 8)).map (fun i => core.spad.readWord (a + 8 * i))) = (none, u) →
      Reports u q k p 0 0 (exec (.rdspad q) s)) ∧
    (∀ u ws, Asked s q k x p 7 t → inside → s0.frontLoads (.packet q) k.ctx (packetAddr p 2) (b / 8) = (.ok ws, u) →
      Reports (u.modCore t.core (fun c => c.spadWrite a (ws.flatMap (fun w => bytesLE 8 w.toNat)))) q k p 0 0 (exec (.wrspad q) s)) ∧
    (¬ inside → (Asked s q k x p 6 t → Reports s0 q k p 3 0 (exec (.rdspad q) s)) ∧
      (Asked s q k x p 7 t → Reports s0 q k p 3 0 (exec (.wrspad q) s))) ∧
    (∀ u, Asked s q k x p 10 t → a ≤ 1 → s0.frontStores (.packet q) k.ctx (packetAddr p 2) (s0.countRecord t.core) = (none, u) →
      Reports (if a = 1 then u.modCore t.core (fun c => { c with counts := [], bins := [] }) else u) q k p 0 0
        (exec (.count q) s)) ∧
    (s0.countRecord t.core).length = 512 ∧
    (∀ n < 64, (s0.countRecord t.core)[2 + 4 * n]? = some (BitVec.ofNat 64 (agetD core.counts n SlotCounts.reset).issued)) ∧
    (∀ n < 65, (s0.countRecord t.core)[258 + n]? = some (BitVec.ofNat 64 (agetD core.bins n 0))) ∧
    (Asked s q k x p 11 t → a / 2 ^ 24 % 2 = 1 → a / 2 ^ 25 = 0 → a / 2 ^ 21 % 8 = 0 → a / 2 ^ 9 % 2 ^ 7 = 0 → a / 2 ^ 5 % 8 = 0 →
      12 ≤ a % 32 → a % 32 ≤ 30 → (a / 2 ^ 16 % 32 = 0 ∨ (10 ≤ a / 2 ^ 16 % 32 ∧ a / 2 ^ 16 % 32 ≤ 24)) →
      Reports (s0.setCtx k.ctx { x with trace := ⟨true, packetAddr p 2, a % 32, (p.getD 3 0).getLsbD 8, a / 2 ^ 16 % 32, 0, 0, none, []⟩ })
        q k p 0 0 (exec (.trace q) s)) ∧
    (Asked s q k x p 11 t → a = 0 → Reports (s0.setCtx k.ctx { x with trace := { x.trace with on := false } }) q k p 0 0
      (exec (.trace q) s)) ∧
    (Asked s q k x p 12 t → (∃ y ∈ s.accesses, y.ctx = k.ctx ∧ ∃ c, y.issuer = .trace c) → exec (.flush q) s = .next s0) ∧
    (Asked s q k x p 12 t → (∀ y ∈ s.accesses, y.ctx = k.ctx → ∀ c, y.issuer ≠ .trace c) →
      (x.trace.failedAt = none → Reports s0 q k p 0 x.trace.dropped (exec (.flush q) s)) ∧
      (∀ va, x.trace.failedAt = some va → Reports s0 q k p 4 va (exec (.flush q) s)))) ∧
  (∀ (s : State) (core ctx : Nat) (x : Context) (th : Thread), s.ctxOfStation (core / 8) = some ctx → s.ctxAt ctx = some x →
    let k := s.coreAt core
    let t : ThreadId := ⟨core, k.position⟩
    k.stopped = false → k.lost = false → k.position < 8 * 2 ^ k.rotLen.toNat → s.threadAt t = some th → x.trace.on = true →
    let due := x.trace.s ≠ 0 ∧ s.time.toNat % 2 ^ x.trace.s = 0 ∧ aget x.trace.sampled core ≠ some s.time.toNat
    let b : TraceBuf := { x.trace with sampled := aset x.trace.sampled core s.time.toNat }
    let room := 2 ^ (b.b - 5)
    let a := b.base + 32 * (b.written % room)
    let mode := match th.status.mode with
      | .user => 0
      | .supervisor => 1
      | .machine => 2
    let cls := match s.classNow t with
      | .issued => 0
      | .mem => 1
      | .msg => 2
      | .vacant => 3
    let record : List Word := [BitVec.ofNat 64 (2 ^ 56 + cls * 2 ^ 48 + mode * 2 ^ 32 + s.place t),
      th.pc &&& 0x00FFFFFFFFFFFFFF#64, s.time, th.task.word]
    let leaves (c : TraceBuf) (written : List (Nat × Word)) : Prop := ∃ u new, exec (.traceSample core) s = .next u ∧
      u.ctxAt ctx = some { x with trace := c } ∧ u.phys = s.phys ∧ u.cores = s.cores ∧ u.accesses = s.accesses ++ new ∧
      new.map (fun y => (y.va, y.x)) = written ∧ ∀ y ∈ new, y.issuer = .trace core ∧ y.kind = .store ∧ y.n = 8 ∧ y.sp = 2 ∧
        y.user = false ∧ y.ctx = ctx ∧ y.tag = x.tag ∧ y.stage = .travelling
    (¬ due → exec (.traceSample core) s = .next s) ∧
    (due → b.wrap = false → room ≤ b.written → leaves { b with dropped := b.dropped + 1 } []) ∧
    (due → (b.wrap = true ∨ b.written < room) → a + 32 ≤ 2 ^ 56 → leaves { b with written := b.written + 1 }
      ((List.range 4).map (fun i => (a + 8 * i, record.getD i 0)))) ∧
    (due → (b.wrap = true ∨ b.written < room) → 2 ^ 56 < a + 32 →
      leaves { b with on := false, failedAt := some (b.failedAt.getD a) } []))

/-! ### Partitions, the control page, core loss (03_execution R26 to R28, R51, R52, 17_traps R235 to R239, 21_fabric R299 to R301) -/

/-- R26, R27, R30, R33, R299 to R301: a load whose checks pass makes its context resident and running on the stations of the mask,
with every created thread at its entry, mode, window and handler, and every scratchpad as its image says; a resident context is
cause 5, a station of another partition cause 3, an image that is not aligned cause 2. A switch schedules the Peal at its tick or
4,096 ticks from now, for the context that leaves, or for the one that comes in where none leaves; an unload schedules one at the
current tick, or removes a context that is switched out; an unpause brings one back where it stopped. A Peal that has come begins
the save, waits while something of the partition is under way, then saves it with the Peal's tick and lets the other one in. The
model's choice: the order of the causes where a request has more than one, and the current tick for an unload's Peal (log entry
37, DEDUCED); the record of what firmware keeps in its own format (`Context.saved`, log entry 39). -/
def Obligations.PartitionsLoadSwitchUnloadAndResume : Prop :=
  (∀ s : State,
    let p := s.host.pm
    let c := p.ctx.toNat / 2 ^ 16 % 2 ^ 6
    let tag (rcd : List Word) : Nat := (rcd.getD 4 0).toNat % 2 ^ 8
    let ends (status cause : Nat) : State :=
      { s with host := { s.host with pm := { p with go := false, status := status, cause := cause } } }
    p.go = true → p.kind = 1 →
    ((s.ctxAt c).isSome = true → exec .partitionLoad s = .next (ends 2 5)) ∧
    ((s.ctxAt c).isSome = false → s.ctxs.length < 64 →
      (s.stationTaken p.stations [] = true → exec .partitionLoad s = .next (ends 2 3)) ∧
      (s.stationTaken p.stations [] = false → p.img.toNat % 64 ≠ 0 → exec .partitionLoad s = .next (ends 2 2)) ∧
      (∀ rb hb blocks, s.stationTaken p.stations [] = false → p.img.toNat % 64 = 0 → s.folds = [] → s.phys.uncorr = [] →
        (∀ y ∈ s.accesses, y.stage ≠ .filling) → s.bareRead (s.host.ctxtab + 64 * c) 64 = .ok rb →
        recordOk (dwords rb) = true → s.imageRead (tag (dwords rb)) (p.img.toNat % 2 ^ 42) 64 = some hb →
        headerOk (dwords hb) p = true →
        s.readBlocks (tag (dwords rb)) (p.img.toNat % 2 ^ 42) (List.range (8 * p.stations.length)) = some blocks →
        ∃ t x, exec .partitionLoad s = .next t ∧ t.host = (ends 0 0).host ∧ t.phys = { s.phys with old := t.phys.old } ∧
          t.ctxAt c = some x ∧
          x.running = true ∧ x.stations = p.stations ∧ x.tag = tag (dwords rb) ∧ x.root = ((dwords rb).getD 0 0).toNat / 2 ^ 13 % 2 ^ 29 ∧
          x.page = ControlPage.reset ∧ x.graphs = [] ∧
          ∀ (j : Nat) (w : List Word) (bs sp : List Byte) (core : Nat), blocks[j]? = some (w, bs, sp) → (coresOf p.stations)[j]? = some core →
            let k := t.coreAt core
            k.rotLen = BitVec.ofNat 2 (w.getD 0 0).toNat ∧ k.peersOpen = false ∧
            (sp.length = 294912 → ∀ a < 262144, k.spad.read a = sp.getD a 0) ∧ (sp = [] → k.spad = []) ∧
            ∀ slot < 64,
              let r := threadRecord w slot
              ((r.getD 0 0).getLsbD 63 = false → aget k.threads slot = none) ∧
              ((r.getD 0 0).getLsbD 63 = true → ∃ th, aget k.threads slot = some th ∧ th.pc = r.getD 1 0 ∧
                th.trap.tvec = r.getD 2 0 &&& 0x00FFFFFFFFFFFFFC#64 ∧ th.win.wbase = (r.getD 0 0).toNat % 2 ^ 8 ∧
                th.win.wsize = (r.getD 0 0).toNat / 2 ^ 8 % 2 ^ 5 ∧ th.ctxId.toNat = c ∧ th.ctxTag.toNat = tag (dwords rb) ∧
                th.status.ie = false ∧ th.task = TaskReg.reset ∧ th.fcsr = Fcsr.reset ∧ th.wait = none ∧
                th.status.mode = (match (r.getD 0 0).toNat / 2 ^ 16 % 4 with | 0 => .user | 1 => .supervisor | _ => .machine))))) ∧
  (∀ (s : State) (x : Context),
    let p := s.host.pm
    let o := p.ctx.toNat % 2 ^ 6
    let i := p.ctx.toNat / 2 ^ 16 % 2 ^ 6
    let ends (s : State) (status cause : Nat) : State :=
      { s with host := { s.host with pm := { s.host.pm with go := false, status := status, cause := cause } } }
    let pealed (y : Context) (incoming : Option Nat) : Context :=
      { y with peal := some { tick := max p.tick.toNat (s.time.toNat + 4096), incoming := incoming, unload := false } }
    let leaves (y : Context) : Prop := y.running = true ∧ sortedSet y.stations = p.stations
    let enters (y : Context) : Prop := y.running = false ∧ sortedSet y.stations = p.stations
    p.go = true →
    (p.kind = 2 → (∀ c ∈ s.ctxs, c.2.peal = none) →
      (p.ctx.getLsbD 8 = false → p.ctx.getLsbD 24 = true →
        (s.ctxAt o = none → exec .partitionSwitch s = .next (ends s 2 4)) ∧
        (s.ctxAt o = some x → ¬ leaves x → exec .partitionSwitch s = .next (ends s 2 1)) ∧
        (s.ctxAt o = some x → leaves x → s.stationTaken p.stations [o] = true → exec .partitionSwitch s = .next (ends s 2 3)) ∧
        (s.ctxAt o = some x → leaves x → s.stationTaken p.stations [o] = false →
          exec .partitionSwitch s = .next (s.setCtx o (pealed x none)))) ∧
      (p.ctx.getLsbD 8 = true → p.ctx.getLsbD 24 = false →
        (s.ctxAt i = none → exec .partitionSwitch s = .next (ends s 2 4)) ∧
        (s.ctxAt i = some x → ¬ enters x → exec .partitionSwitch s = .next (ends s 2 1)) ∧
        (s.ctxAt i = some x → enters x → s.stationTaken p.stations [i] = false →
          exec .partitionSwitch s = .next (s.setCtx i (pealed x (some i))))) ∧
      (p.ctx.getLsbD 8 = false → p.ctx.getLsbD 24 = false → ∀ y : Context, s.ctxAt o = some x → s.ctxAt i = some y →
        (¬ leaves x ∨ ¬ enters y → exec .partitionSwitch s = .next (ends s 2 1)) ∧
        (leaves x → enters y → s.stationTaken p.stations [o, i] = false →
          exec .partitionSwitch s = .next (s.setCtx o (pealed x (some i)))))) ∧
    (p.kind = 3 →
      (s.ctxAt o = none → exec .partitionUnload s = .next (ends s 2 4)) ∧
      (s.ctxAt o = some x → sortedSet x.stations = p.stations → x.peal = none →
        (x.running = true → exec .partitionUnload s = .next (s.setCtx o { x with
          peal := some { tick := s.time.toNat, incoming := none, unload := true } })) ∧
        (x.running = false → exec .partitionUnload s = .next (ends { s with ctxs := aerase s.ctxs o } 0 0)))) ∧
    (p.kind = 4 →
      (s.ctxAt i = none → exec .partitionUnpause s = .next (ends s 2 4)) ∧
      (∀ v, s.ctxAt i = some x → x.running = false → x.peal = none → sortedSet x.stations = p.stations →
        s.stationTaken p.stations [i] = false → x.saved = some v → (v.cores.map Prod.fst).Nodup →
        ∃ t y, exec .partitionUnpause s = .next t ∧ t.host.pm.go = false ∧ t.host.pm.status = 0 ∧ t.ctxAt i = some y ∧
          y.running = true ∧ y.saved = none ∧ y.peal = none ∧ y.stations = x.stations ∧
          ∀ c k slot th, (c, k) ∈ v.cores → aget k.threads slot = some th →
            ∃ th', aget (t.coreAt c).threads slot = some th' ∧ th'.pc = th.pc ∧ th'.status = th.status ∧ th'.trap = th.trap ∧
              th'.fcsr = th.fcsr ∧ th'.task = th.task ∧ th'.win = th.win ∧ th'.k1 = th.k1 ∧ th'.k2 = th.k2 ∧ th'.k3 = th.k3))) ∧
  (∀ (s : State) (c : Nat) (x y : Context) (p : Peal), s.ctxAt c = some x → x.peal = some p →
    (s.time.toNat < p.tick → exec (.peal c) s = .next s) ∧
    let u := (s.markHeader c x p.tick 1).drain c p.tick x.stations
    (p.tick ≤ s.time.toNat → x.running = true → u.busy c x.stations = true → exec (.peal c) s = .next u) ∧
    (p.tick ≤ s.time.toNat → x.running = true → u.busy c x.stations = false → u.ctxAt c = some y →
      (∀ z ∈ u.accesses, z.stage ≠ .filling) →
      (p.incoming = none → ∃ t, exec (.peal c) s = .next t ∧ t.host.pm.go = false ∧
        (∀ core ∈ coresOf y.stations, (t.coreAt core).threads = []) ∧ (p.unload = true → t.ctxAt c = none) ∧
        (p.unload = false → ∃ z v, t.ctxAt c = some z ∧ z.running = false ∧ z.saved = some v ∧ z.stoppedAt = p.tick ∧
          v.tick = p.tick ∧ ∀ core ∈ coresOf y.stations, (core, u.coreAt core) ∈ v.cores)) ∧
      (∀ i w v, p.incoming = some i → i ≠ c → p.unload = false → u.ctxAt i = some w → w.saved = some v →
        ∃ t z z', exec (.peal c) s = .next t ∧ t.host.pm.go = false ∧ t.ctxAt c = some z ∧ z.running = false ∧
          z.stoppedAt = p.tick ∧ t.ctxAt i = some z' ∧ z'.running = true ∧ z'.saved = none ∧ z'.stations = w.stations)))

/-- R233, R234, R236 to R239, R267: a running core sends its heartbeat every 2^16 ticks; an uncorrectable core-state error stops it
and logs a record; after three missed ones it is lost, its context gets a Knell, or the host, with MSI-X vector 0, where no
partition runs there or it holds the supervisor thread; a full queue drops the entry and shows lost; peer requests parked at the
core answer PEERGONE sub 2. The third place of a die layer that fails stays dead (R21), and the slots that its threads claimed are
theirs no longer. A store to remap requests recovery, which puts a spare with the threads as the loader created them in its place,
or reports that the place is dead; reads of the Knell, migration and mailbox fields take the oldest entry. The model's choices: a
remap written while rstat is 1 changes nothing (log entry 20, DESIGN CHOICE), the error ring is full with 1,023 records (log entry
14, DEDUCED), which loss of a layer is its third (log entry 40, DEDUCED), and the vector is raised for a Knell that the full host
queue drops too (stated at `knellToHost`). -/
def Obligations.CoresAreLostAndRecovered : Prop :=
  (∀ (s : State) (core : Nat) (addr : Word),
    let k := s.coreAt core
    (k.stopped = false → k.lost = false → k.lastBeat + 65536 ≤ s.time.toNat →
      exec (.heartbeat core) s = .next (s.setCore core { k with lastBeat := s.time.toNat })) ∧
    (k.stopped = true ∨ k.lost = true ∨ s.time.toNat < k.lastBeat + 65536 → exec (.heartbeat core) s = .next s) ∧
    (∃ t, exec (.coreStateStop core addr) s = .next t ∧ t.coreAt core = { k with stopped := true } ∧ t.phys = s.phys ∧
      ((s.sec.errtail + 1) % 1024 ≠ s.sec.errhead → ∃ r, aget t.sec.errlog s.sec.errtail = some r ∧ r.kind = 20 ∧ r.sub = 4 ∧
        r.place = BitVec.ofNat 32 (s.place ⟨core, 0⟩) ∧ r.addr = addr ∧ r.time = s.time ∧
        t.sec.errtail = (s.sec.errtail + 1) % 1024) ∧
      ((s.sec.errtail + 1) % 1024 = s.sec.errhead → t.sec.errlost = s.sec.errlost + 1)) ∧
    (k.lost = true ∨ s.time.toNat < k.lastBeat + 3 * 65536 → exec (.coreLost core) s = .next s) ∧
    (k.lost = false → k.lastBeat + 3 * 65536 ≤ s.time.toNat →
      let w : Word := BitVec.ofNat 64 ((if k.stopped then 4 else 1) * 2 ^ 32 + s.place ⟨core, 0⟩ / 64 * 64)
      let queued (q : List Word) (lost : Bool) (q' : List Word) (lost' : Bool) : Prop :=
        (q.length < 256 → q' = q ++ [w] ∧ lost' = lost) ∧ (256 ≤ q.length → q' = q ∧ lost' = true)
      let waiting := s.cores.filter (fun p => p.2.lost && p.1 != core && p.1 / 48 == core / 48 && !s.pkg.deadPlaces.contains p.1)
      let third := 2 ≤ agetD s.pkg.spares (core / 48) 0 + waiting.length
      ∃ t, exec (.coreLost core) s = .next t ∧ (t.coreAt core).lost = true ∧ (t.coreAt core).park = [] ∧ t.phys = s.phys ∧
        (third → core ∈ t.pkg.deadPlaces ∧ ∀ n, ((agetD (t.stationAt (core / 8)).slots n OpSlot.reset).claim.map ThreadId.core) ≠ some core) ∧
        (¬ third → t.pkg.deadPlaces = s.pkg.deadPlaces) ∧
        (∀ (c : Nat) (x : Context), s.ctxOfStation (core / 8) = some c → s.ctxAt c = some x → x.supervisor.core ≠ core →
          t.host.hknell = s.host.hknell ∧ ∃ y, t.ctxAt c = some y ∧
            queued x.page.knell x.page.knellLost y.page.knell y.page.knellLost) ∧
        (s.ctxOfStation (core / 8) = none ∨
            (∃ c x, s.ctxOfStation (core / 8) = some c ∧ s.ctxAt c = some x ∧ x.supervisor.core = core) →
          queued s.host.hknell s.host.hknellLost t.host.hknell t.host.hknellLost ∧
          (0 ∈ t.host.msixPending ∨ t.host.msix = s.host.msix ++ [0])) ∧
        ∀ z ∈ s.accesses, z.id ∈ k.park → (∀ u, z.issuer = .thread u → u.core ≠ core) →
          ∃ z' ∈ t.accesses, z'.id = z.id ∧ z'.stage = .answered 9 2 0 0)) ∧
  (∀ (s : State) (c : Nat) (x : Context) (w : Word), s.ctxAt c = some x →
    (x.page.rstat ≠ 1 → exec (.remap c w) s = .next (s.setCtx c { x with page := { x.page with
      rstat := 1, rplace := w.setWidth 32, runits := w.extractLsb' 32 8 } })) ∧
    (x.page.rstat = 1 → exec (.remap c w) s = .next (s.setCtx c x)) ∧
    exec (.timerWrite c w) s = .next (s.setCtx c { x with page := { x.page with timer := w } }) ∧
    (∀ (i : Instr) (q : List Word) (lost : Bool) (rest : ControlPage),
      (i, q, lost, rest) ∈ [
        (Instr.knellRead c, x.page.knell, x.page.knellLost,
          { x.page with knell := x.page.knell.drop 1, knellLost := x.page.knell == [] && x.page.knellLost }),
        (.migrateRead c, x.page.migrate, x.page.migrateLost,
          { x.page with migrate := x.page.migrate.drop 1, migrateLost := x.page.migrate == [] && x.page.migrateLost }),
        (.hostRead c, x.page.mailbox, x.page.mailboxLost,
          { x.page with mailbox := x.page.mailbox.drop 1, mailboxLost := x.page.mailbox == [] && x.page.mailboxLost })] →
      exec i s = .next { s.setCtx c { x with page := rest } with
        hostData := bytesLE 8 (if q = [] then 0#64 else 1#64 <<< 63 ||| (if lost then 1#64 <<< 62 else 0) ||| q.headD 0).toNat })) ∧
  (∀ (s : State) (c : Nat) (x : Context), s.ctxAt c = some x → x.page.rstat = 1 →
    let core := (threadOfPlace x.page.rplace.toNat).core
    let k := s.coreAt core
    let used := agetD s.pkg.spares (core / 8 / 6) 0
    k.lost = true → core / 8 ∈ x.stations →
    (used < 2 → core ∉ s.pkg.deadPlaces → ∃ t y, exec (.remapComplete c) s = .next t ∧ t.ctxAt c = some y ∧ y.page.rstat = 2 ∧
      (t.coreAt core).lost = false ∧ (t.coreAt core).spare = true ∧ (t.coreAt core).spad = [] ∧
      agetD t.pkg.spares (core / 8 / 6) 0 = used + 1 ∧
      (∀ slot, (aget k.threads slot).isNone = (aget (t.coreAt core).threads slot).isNone) ∧
      (∀ slot th, aget k.threads slot = some th → aget (t.coreAt core).threads slot =
        some (Thread.create th.win.wbase th.win.wsize th.entryMode th.entry th.entryTvec (BitVec.ofNat 8 x.tag)
          (BitVec.ofNat 6 c)))) ∧
    (2 ≤ used ∨ core ∈ s.pkg.deadPlaces → ∃ t y, exec (.remapComplete c) s = .next t ∧ t.ctxAt c = some y ∧ y.page.rstat = 3 ∧ core ∈ t.pkg.deadPlaces ∧
      (t.coreAt core).lost = true))

/-! ### The host interface (21_fabric R289 to R295, 25_system R328) -/

/-- R11, R230, R236, R289, R292 to R295, R325, R328: a register write changes its register and a read-only offset discards it, as
in recovery does every offset but those of the security block, where the reads give zero and clear nothing; the doorbell and the
base take effect with head unchanged; reading qstat, bar2err, errlost and the Knell register returns the value and clears or
removes it, and reading qstat resumes the queue; xinvreg removes its translations at the write and reads busy until no access
translated through them is incomplete (which ones those are is the model's reading, log entry 17); cntclr clears access counts; a
mailbox write queues its value for the one running partition (that the register names no partition, and what happens where several
run, is log entry 32). -/
def Obligations.HostRegistersReadAndWrite : Prop :=
  (∀ (s : State) (w : Word), s.sec.recovery = false →
    let h := s.host
    let sets (off : Nat) (h' : HostIf) : Prop := exec (.registerWrite off w) s = .next { s with host := h' }
    sets 0x00 { h with ctxtab := w.toNat / 2 ^ 12 % 2 ^ 30 * 2 ^ 12 } ∧
    sets 0x08 { h with hwin := w &&& 0xFFFFFFFFFFFF0000#64 } ∧
    sets 0x10 { h with bar2tag := w.toNat % 2 ^ 8 } ∧ sets 0x20 { h with podpair := w } ∧
    sets 0x28 { h with nodown := w.getLsbD 0 } ∧
    (h.xinvGo = false → sets 0x30 { h with xinvva := w &&& 0x3FFFFFFFFFFF0000#64 }) ∧
    (h.xinvGo = true → sets 0x30 h) ∧ sets 0x18 h ∧ sets 0x700000 h ∧
    (∀ q < 256, sets (0x100000 + 32 * q + 16) h ∧ sets (0x100000 + 32 * q + 24) h) ∧
    (∀ d < 2 ^ 14, sets (0x400000 + 4 * d) { h with porttab := aset h.porttab d (w.toNat % 2 ^ 24) }) ∧
    (h.pm.go = true → ∀ off ∈ [0x300000, 0x300008, 0x300010, 0x300018, 0x300020, 0x300028], sets off h) ∧
    (h.pm.go = false → sets 0x300008 { h with pm := { h.pm with sta := w } } ∧
      sets 0x300020 { h with pm := { h.pm with tick := w } })) ∧
  (∀ (s : State) (off : Nat) (w : Word), s.sec.recovery = true → off < 0x1000000 → exec (.registerWrite off w) s = .next s) ∧
  (∀ (s : State) (w : Word), s.sec.go = false → ∃ t, exec (.registerWrite 0x1000008 w) s = .next t ∧ t.sec.arg = w ∧
    t.host = s.host ∧ t.phys = s.phys ∧ t.cores = s.cores ∧ t.bar0 0x1000008 = w) ∧
  (∀ (s : State) (q : Nat) (w : Word),
    let k := s.queueAt q
    let inOrder (k : CmdQueue) : Prop := k.en = true → k.err = 0 →
      6 ≤ k.lsize ∧ k.lsize ≤ 16 ∧ (k.tail - k.head).toNat ≤ 2 ^ k.lsize
    let k1 : CmdQueue := { k with tail := w.setWidth 32 }
    let k2 : CmdQueue := { k with
      base := w.toNat / 2 ^ 12 % 2 ^ 30, ctx := w.toNat / 2 ^ 6 % 2 ^ 6, lsize := w.toNat / 2 % 2 ^ 5, en := w.getLsbD 0 }
    (s.sec.recovery = false → inOrder k1 → exec (.qtailDoorbell q w) s = .next (s.setQueue q k1)) ∧
    (s.sec.recovery = false → k.en = true → k.err = 0 → 6 ≤ k.lsize → k.lsize ≤ 16 → 2 ^ k.lsize < (k1.tail - k.head).toNat →
      exec (.qtailDoorbell q w) s = .next (s.setQueue q { k1 with err := 3 })) ∧
    (s.sec.recovery = false → inOrder k2 → exec (.qbaseWrite q w) s = .next (s.setQueue q k2)) ∧
    (s.sec.recovery = false → k2.en = true → k.err = 0 → k2.lsize < 6 ∨ 16 < k2.lsize →
      exec (.qbaseWrite q w) s = .next (s.setQueue q { k2 with err := 2 })) ∧
    (s.sec.recovery = true → exec (.qtailDoorbell q w) s = .next s ∧ exec (.qbaseWrite q w) s = .next s ∧
      exec (.qstatRead q) s = .next { s with hostData := bytesLE 8 0 }) ∧
    (s.sec.recovery = false → ∃ t, exec (.qstatRead q) s = .next t ∧ t.hostData = bytesLE 8 (k.seq.toNat * 2 ^ 16 + k.err % 256) ∧
      (t.queueAt q).err = 0 ∧ (t.queueAt q).seq = k.seq ∧ t.phys = s.phys ∧
      (k.err = 1 ∨ (k.err = 4 ∧ k.statusFailed = false) → (t.queueAt q).head = k.head + 1 ∧ (t.queueAt q).packet = none) ∧
      (k.err ∉ [1, 4] ∨ (k.err = 4 ∧ k.statusFailed = true) → (t.queueAt q).head = k.head))) ∧
  (∀ (s : State) (w : Word) (page : Nat),
    (let ctx := s.host.xinvva.toNat / 2 ^ 56 % 2 ^ 6
      let first := s.host.xinvva.toNat / 2 ^ 16 % 2 ^ 40
      let pages := w.toNat % 2 ^ 32
      s.sec.recovery = false → s.host.xinvGo = false →
      ∃ (u : State) (ids : List Nat), Removed s u ctx first pages ∧
        (∀ id, id ∈ ids ↔ s.Through ctx first pages id) ∧
        exec (.xinvregStart w) s = .next { u with host := { s.host with xinvCount := pages, xinvGo := true, xinvIds := ids } }) ∧
    (s.host.xinvGo = true → exec (.xinvregStart w) s = .next s) ∧
    (let under : Prop := s.Incomplete s.host.xinvIds;
      (s.host.xinvGo = true → ¬ under →
        exec .xinvregComplete s = .next { s with host := { s.host with xinvGo := false, xinvIds := [] } }) ∧
      (s.host.xinvGo = false ∨ under → exec .xinvregComplete s = .next s)) ∧
    (s.sec.recovery = false →
      (∃ t, exec .cntclrAll s = .next t ∧ (∀ p ∈ t.xlats, p.2.counts = []) ∧ t = { s with xlats := t.xlats }) ∧
      (∃ t, exec (.cntclrPage page) s = .next t ∧ t = { s with xlats := t.xlats } ∧
        aget (t.xlatAt (countStation (page * 65536))).counts page = none) ∧
      (∃ t, exec .bar2errRead s = .next t ∧ t.hostData = bytesLE 8 s.host.bar2err.toNat ∧
        t.host = { s.host with bar2err := 0 } ∧ t = { s with host := t.host, hostData := t.hostData })) ∧
    (s.sec.recovery = true → exec (.xinvregStart w) s = .next s ∧ exec .cntclrAll s = .next s ∧ exec (.cntclrPage page) s = .next s ∧
      exec (.hmailWrite w) s = .next s ∧ exec .bar2errRead s = .next { s with hostData := bytesLE 8 0 } ∧
      exec .hknellRead s = .next { s with hostData := bytesLE 8 0 }) ∧
    (∃ t, exec .errlostRead s = .next t ∧ t.hostData = bytesLE 8 (s.sec.errlost % 2 ^ 64) ∧ t.sec = { s.sec with errlost := 0 } ∧
      t = { s with sec := t.sec, hostData := t.hostData }) ∧
    (s.host.hknell = [] → s.sec.recovery = false → exec .hknellRead s = .next { s with hostData := bytesLE 8 0 }) ∧
    (∀ e r, s.host.hknell = e :: r → s.sec.recovery = false → ∃ t, exec .hknellRead s = .next t ∧
      t.host = { s.host with hknell := r, hknellLost := false } ∧ t = { s with host := t.host, hostData := t.hostData } ∧
      t.hostData = bytesLE 8 (1#64 <<< 63 ||| (if s.host.hknellLost then 1#64 <<< 62 else 0) ||| e).toNat) ∧
    (∀ (c : Nat) (x : Context), s.sec.recovery = false → s.ctxs = [(c, x)] → x.running = true → x.page.mailbox.length < 16 →
      exec (.hmailWrite w) s = .next { s with ctxs := [(c, { x with page := { x.page with
        mailbox := x.page.mailbox ++ [BitVec.ofNat 64 (w.toNat % 2 ^ 62)] } })] }))

/-- R282, R290, R293, R318, R319, R325: a host read of device memory sees it under its key tag, all ones outside the map or for
another tag, which bar2err notes, and only ciphertext under a dead one; a host write changes its bytes and no other, and nothing
under another tag; a migration channel with good registers copies its pages when it completes, over a memory in its canonical
form, and bad ones give status 2, 3 or 4, in the order of log entry 34 where more than one applies. -/
def Obligations.DeviceMemoryThroughTheHost : Prop :=
  (∀ (s : State) (a n : Nat), 0 < n → n ≤ 64 - a % 64 →
    (s.inMap a = false → exec (.bar2Read a n) s = .next { s with hostData := List.replicate n 0xFF#8 }) ∧
    (s.inMap a = true → s.folds = [] → s.phys.uncorr = [] → s.phys.poison = [] → (∀ y ∈ s.accesses, y.stage ≠ .filling) →
      let tag := s.phys.lineTag (a / 64)
      let reads (t : State) : Prop := exec (.bar2Read a n) s = .next t ∧ t.phys = { s.phys with old := t.phys.old } ∧
        t.cores = s.cores
      (tag = s.host.bar2tag → s.sec.tagState tag ≠ .dead → ∃ t, reads t ∧ t.hostData = s.phys.ram.readBytes a n ∧ t.host = s.host) ∧
      (tag = s.host.bar2tag → s.sec.tagState tag = .dead → ∃ t, reads t ∧ t.hostData.length = n ∧ t.host = s.host) ∧
      (tag = 0 → s.host.bar2tag ≠ 0 → ∃ t, reads t ∧ t.hostData = List.replicate n 0#8 ∧ t.host = s.host) ∧
      (tag ≠ s.host.bar2tag → tag ≠ 0 → ∃ t, reads t ∧ t.hostData = List.replicate n 0xFF#8 ∧
        (s.host.bar2err.getLsbD 63 = false → t.host = { s.host with bar2err := BitVec.ofNat 64 (2 ^ 63 + a % 2 ^ 42) })))) ∧
  (∀ (s : State) (a : Nat) (bs : List Byte), bs ≠ [] → bs.length ≤ 64 - a % 64 →
    (s.inMap a = false → exec (.bar2Write a bs) s = .next s) ∧
    (s.inMap a = true → s.folds = [] → (∀ y ∈ s.accesses, y.stage ≠ .filling) → ∃ t, exec (.bar2Write a bs) s = .next t ∧ t.cores = s.cores ∧ t.phys.host = s.phys.host ∧
      (s.phys.lineTag (a / 64) = s.host.bar2tag → ∀ x, t.phys.ram.read x =
        if a ≤ x ∧ x < a + bs.length then bs.getD (x - a) 0 else s.phys.ram.read x) ∧
      (s.phys.lineTag (a / 64) = 0 → s.host.bar2tag ≠ 0 → t.phys.lineTag (a / 64) = s.host.bar2tag ∧ ∀ x, t.phys.ram.read x =
        if a ≤ x ∧ x < a + bs.length then bs.getD (x - a) 0 else if x / 64 = a / 64 then 0 else s.phys.ram.read x) ∧
      (s.phys.lineTag (a / 64) ≠ s.host.bar2tag → s.phys.lineTag (a / 64) ≠ 0 → t.phys.ram = s.phys.ram))) ∧
  (∀ (s : State) (c : Nat) (w : Word),
    let k := s.channelAt c
    let k1 : Channel := { k with sz := w.getLsbD 16, count := w.toNat % 2 ^ 16 }
    let size := if k1.sz then 2 ^ 26 else 2 ^ 16
    let src := k.src * 2 ^ 16
    let dst := k.dst * 2 ^ 16
    let misplaced : Prop := k1.sz = true ∧ (k.src % 2 ^ 10 ≠ 0 ∨ k.dst % 2 ^ 10 ≠ 0)
    let mapped : Prop := ∀ i < k1.count, s.inMap (src + i * size) = true ∧ s.inMap (dst + i * size) = true
    let apart : Prop := src + k1.count * size ≤ dst ∨ dst + k1.count * size ≤ src
    (s.sec.recovery = true ∨ k.go = true → exec (.migrationStart c w) s = .next s) ∧
    (s.sec.recovery = false → k.go = false → misplaced → exec (.migrationStart c w) s = .next (s.setChannel c { k1 with status := 4 })) ∧
    (s.sec.recovery = false → k.go = false → ¬ misplaced → ¬ mapped →
      exec (.migrationStart c w) s = .next (s.setChannel c { k1 with status := 2 })) ∧
    (s.sec.recovery = false → k.go = false → ¬ misplaced → mapped → ¬ apart → k1.count ≠ 0 →
      exec (.migrationStart c w) s = .next (s.setChannel c { k1 with status := 3 })) ∧
    (s.sec.recovery = false → k.go = false → ¬ misplaced → mapped → apart → exec (.migrationStart c w) s =
      .next (s.setChannel c { k1 with go := true, status := 1, waits := s.sec.sweeping.isSome })) ∧
    (k.go = false → exec (.migrationComplete c) s = .next s) ∧
    (k.go = true → k.waits = true → s.sec.sweeping.isSome = true → exec (.migrationComplete c) s = .next s) ∧
    (k.go = true → k.waits = false ∨ s.sec.sweeping = none → (∀ y ∈ s.accesses, y.stage ≠ .filling) →
      let n := k.count * (if k.sz then 2 ^ 26 else 2 ^ 16)
      src + n ≤ dst ∨ dst + n ≤ src → s.folds = [] → s.phys.ram.wf = true →
      ∃ t, exec (.migrationComplete c) s = .next t ∧ (t.channelAt c).go = false ∧ (t.channelAt c).status = 0 ∧ t.cores = s.cores ∧
        ∀ x, t.phys.ram.read x = if dst ≤ x ∧ x < dst + n then s.phys.ram.read (x - dst + src) else s.phys.ram.read x))

/-- R271, R275, R276, R284 to R288: a router idle for 4,096 core cycles with no packet that would pass it powers down unless
pwrctl forbids it, a packet on its way through it wakes it, and it is awake 40 cycles later; a flit of one context leaves a port
with its next sequence number and at most 224 bytes of packets, and stays in the replay buffer until it is acknowledged; a flit in
sequence is accepted and its packets served, one with a bad crc is replayed and fails the port after 16, one with a bad tag fails it
at once, as do 2^20 ticks without an acknowledgement that a sent flit waits for; an access of a context that podpair does not admit
is answered with PROT, whose sub is free (log entry 21), and a message is returned; a failed port leaves every mask and what left by
it answers LINK; a time lock is sent, and only locks. The model's: which packets count as on their way through a router, a packet's
size, that a larger one takes several flits alone, and that the timeout counts only while a flit waits (log entry 57, DESIGN
CHOICE); that a flit out of sequence is dropped (log entry 51, DEDUCED); that an answer leaves by the port of its address (log entry
27); and that a message with the reserved wire format 7 is returned (stated at `takeMessage`). -/
def Obligations.LinksAndRouters : Prop :=
  (∀ (s : State) (st since : Nat),
    let now := agetD s.cycles (st / 24) 0 / 1900
    let set (r : RouterPower) : State := s.modStation st (fun k => { k with router := r })
    let wanted : Prop := ∃ way : List Nat, st ∈ way ∧
      ((∃ x ∈ s.accesses, x.sp ≠ 0 ∧ ((x.stage = .travelling ∧ way = s.requestRoute x) ∨
          ((∃ t, x.stage = .held t) ∧ way = s.walkRoute (x.reader.core / 8) x.ctx x.va) ∨
          ((∃ f sub info v, x.stage = .answered f sub info v) ∧ way = s.answerRoute x))) ∨
        (∃ f ∈ s.flights, f.stage = .travelling ∧ way = s.messageRoute f.msg) ∨
        (∃ p ∈ s.cores, ∃ t ∈ p.2.threads, t.2.wait = some (.way way) ∨
          ∃ base since, t.2.wait = some (.line base since) ∧ way = s.pageWay (p.1 / 8) t.2.ctxId.toNat base) ∨
        (∃ p ∈ s.stations, ∃ c ∈ p.2.copies, ∃ i < c.entries.length, way = s.posWay c i) ∨
        (∃ p ∈ s.cores, ∃ c ∈ p.2.rows, way = s.rowCmdWay c) ∨ (∃ l ∈ s.lates, way = routeOf l.agent.station (homeStation l.pa)) ∨
        (∃ r ∈ s.replicas, way = s.replicaWay r) ∨ (∃ r ∈ s.serves, way = s.serveWay r) ∨
        ∃ u ∈ s.descs, ∃ n ∈ u.todo, way = routeOf (s.lowestOf u.ctx) n)
    ((s.stationAt st).router = .awake since →
      (since + 4096 ≤ now → s.host.nodown = false → ¬ wanted → exec (.routerPowerDown st) s = .next (set .asleep)) ∧
      (now < since + 4096 ∨ s.host.nodown = true ∨ wanted → exec (.routerPowerDown st) s = .next s)) ∧
    ((s.stationAt st).router = .asleep →
      (wanted → exec (.routerWake st) s = .next (set (.waking now))) ∧ (¬ wanted → exec (.routerWake st) s = .next s)) ∧
    ((s.stationAt st).router = .waking since → since + 40 ≤ now → exec (.routerWake st) s = .next (set (.awake now)))) ∧
  (∀ (s : State) (f : Flit) (left : List (BitVec 16 × Nat × List OutPacket)), f.port < 24 →
    let k := s.portAt f.port
    let accepted (flits : Nat) : State := s.setPort f.port { k with
      expect := f.seq + BitVec.ofNat 16 flits, acked := f.ack, crq := k.crq + f.crq, crs := k.crs + f.crs, badFlits := 0, lastAck := s.time.toNat
      replay := left }
    let sends (u : State) (device : Nat) (x : Word) (p : OutPacket) : State :=
      match u.portFor device x with
      | none => u
      | some q => u.setPort q { u.portAt q with out := (u.portAt q).out ++ [p] }
    k.failed = false →
    (f.crcOk = false → k.badFlits < 16 → exec (.linkFlit f) s = .next (s.setPort f.port { k with badFlits := k.badFlits + 1 })) ∧
    ((f.crcOk = false ∧ 16 ≤ k.badFlits) ∨ (f.crcOk = true ∧ f.tagOk = false) →
      ∃ t, exec (.linkFlit f) s = .next t ∧ PortFails s t f.port) ∧
    ((∃ before e, k.replay = before ++ e :: left ∧ e.1 = f.ack ∧ ∀ x ∈ before, x.1 ≠ f.ack) ∨
        ((∀ x ∈ k.replay, x.1 ≠ f.ack) ∧ left = k.replay) →
      f.crcOk = true → f.tagOk = true →
      (f.seq ≠ k.expect → exec (.linkFlit f) s = .next s) ∧
      (f.seq = k.expect →
        (f.packets = [] → exec (.linkFlit f) s = .next (accepted 1)) ∧
        (2 ≤ f.packets.length → 224 < (f.packets.map podBytes).sum → exec (.linkFlit f) s = .next s) ∧
        (∀ a, f.packets = [.access a] →
          (s.host.podpair.toNat / 2 ^ f.ctx % 2 = 0 ∨ s.ctxAt f.ctx = none → ∃ sub, exec (.linkFlit f) s = .next
            (sends (accepted 1) a.device (BitVec.ofNat 64 (a.va / 4096)) (.answer a.device f.ctx a.kind a.reqid 6 sub 0 0))) ∧
          (∀ y, s.host.podpair.toNat / 2 ^ f.ctx % 2 = 1 → s.ctxAt f.ctx = some y → ∃ x : Access,
            exec (.linkFlit f) s = .next { accepted 1 with accesses := s.accesses ++ [x], nextId := s.nextId + 1 } ∧
            x.id = s.nextId ∧ x.issuer = .pod f.port a.device a.reqid ∧ x.kind = a.kind ∧ x.sp = 2 ∧ x.va = a.va ∧ x.n = a.n ∧
            x.x = a.x ∧ x.y = a.y ∧ x.user = a.user ∧ x.ctx = f.ctx ∧ x.tag = y.tag ∧ x.stage = .travelling)) ∧
        (∀ m, f.packets = [.message m] →
          let u := accepted ((32 + (m.wire.length + 31) / 32 * 32 + 223) / 224)
          let admitted : Prop := s.host.podpair.toNat / 2 ^ f.ctx % 2 = 1 ∧ m.w ≠ 7
          (admitted → exec (.linkFlit f) s = .next { u with
            flights := s.flights ++
              [{ id := s.nextId, sender := none, msg := ofWire m f.ctx, stage := .travelling, port := none, sent := s.nextId }]
            nextId := s.nextId + 1 }) ∧
          (¬ admitted → m.returned = false → m.src.toNat / 2 ^ 18 ≠ s.pkg.device.toNat →
            let back : WireMessage := toWire (ofWire { m with src := m.dst, dst := m.src, returned := true } f.ctx)
            exec (.linkFlit f) s = .next (sends { u with
                flights := s.flights.filter (fun g => g.id != s.nextId), nextId := s.nextId + 1 }
              (m.src.toNat / 2 ^ 18) (m.src.setWidth 64) (.message s.nextId f.ctx back)))) ∧
        (f.packets = [.timeLock] → exec (.linkFlit f) s =
          .next ((accepted 1).setPort f.port { (accepted 1).portAt f.port with locked := true }))))) ∧
  (∀ (s : State) (q n : Nat) (run rest : List OutPacket),
    let k := s.portAt q
    let bytes (data : Nat) : Nat := 32 + (data + 31) / 32 * 32
    let size (p : OutPacket) : Nat := match p with
      | .message _ _ m => bytes m.wire.length
      | .rowResponse p => bytes p.row.length
      | .rowUpdate _ u => bytes u.row.length
      | _ => 32
    let total := (run.map size).sum
    let flits := BitVec.ofNat 16 (if total ≤ 224 then 1 else (total + 223) / 224)
    (k.failed = false → k.out = run ++ rest → run ≠ [] → run.length = n →
      (∀ p ∈ run, packetCtx p = packetCtx (run.headD .timeLock)) → total ≤ 224 ∨ run.length = 1 →
      s.act (.linkSend q n) = s.setPort q { k with
        out := rest, replay := k.replay ++ [(k.sendSeq + flits - 1, s.time.toNat, run)], sendSeq := k.sendSeq + flits }) ∧
    (∀ e ∈ ((s.act (.linkSend q n)).portAt q).replay, e ∈ k.replay ∨ (e.2.2.map size).sum ≤ 224 ∨ e.2.2.length = 1) ∧
    (q < 24 → k.failed = false → s.act (.timeSend q) = s.setPort q { k with out := k.out ++ [.timeLock] })) ∧
  (∀ (s : State) (q : Nat), q < 24 →
    let k := s.portAt q
    let silent : Prop := ∃ e rest, k.replay = e :: rest ∧ e.2.1 + 2 ^ 20 ≤ s.time.toNat ∧ k.lastAck + 2 ^ 20 ≤ s.time.toNat
    (k.failed = true ∨ ¬ silent → exec (.portFailed q) s = .next s) ∧
    (k.failed = false → silent → ∃ t, exec (.portFailed q) s = .next t ∧ PortFails s t q) ∧
    exec (.timeLock q) s = .next (s.setPort q { k with locked := true }))

/-! ### Keys, requests, power and boot (25_system R317 to R330) -/

/-- R317 to R321, R323: a request with a kind or an argument bit that R321 does not name, or tag 0 where a tag is asked for, gives
status 2; KEYSET gives a free tag a key, and status 3 else; KEYKILL gives status 3 for a tag that is not live and 4
for one in use, and destroys a live one once the channels that were busy are done, with what was pending under it; tag 0 is always
live; SWEEP scrubs every line of a dead tag, its words full and without poison, and reports their number; the tag is then
free, and the channels that waited for the sweep wait no longer. ATTEST gives status 5 for a context
that is not loaded, and writes its report under tag 0. -/
def Obligations.KeysSweepsAndAttestation : Prop :=
  ∀ s : State,
    let c := s.sec
    let tag := c.arg.toNat % 2 ^ 8
    let ends (s : State) (status : Nat) (res : Word) : State :=
      { s with sec := { s.sec with go := false, status := status, res := res } }
    let asked (kind : Nat) : Prop := c.go = true ∧ c.kind = kind
    c.tagState 0 = .live ∧
    (∀ w : Word, c.go = false → w.getLsbD 63 = true →
      let kind := w.toNat % 2 ^ 8
      let a := c.arg.toNat
      let bad : Prop := kind = 0 ∨ 6 < kind ∨ (kind ≤ 3 ∧ (a = 0 ∨ 2 ^ 8 ≤ a)) ∨
        (kind = 4 ∧ (a / 2 ^ 9 ≠ 0 ∨ a / 2 ^ 6 % 4 ≠ 0 ∨ c.addr % 64 ≠ 0)) ∨ (kind = 5 ∧ (a / 2 ^ 50 ≠ 0 ∨ a % 2 ^ 16 ≠ 0)) ∨
        (kind = 6 ∧ a ≠ 0)
      ∃ t, exec (.registerWrite 0x1000000 w) s = .next t ∧ t = { s with sec := t.sec } ∧ t.sec.tags = c.tags ∧ t.sec.kind = kind ∧
        t.sec.arg = c.arg ∧ (bad → t.sec.go = false ∧ t.sec.status = 2) ∧ (¬ bad → t.sec.go = true ∧ t.sec.status = 1)) ∧
    (∀ p ∈ [(Instr.keyset, 1), (.keykill, 2), (.sweep, 3), (.attest, 4), (.power, 5), (.jclr, 6)],
      c.go = false ∨ c.kind ≠ p.2 → exec p.1 s = .next s) ∧
    (asked 1 → c.tagState tag = .free → exec .keyset s = .next (ends { s with sec := { c with tags := aset c.tags tag .live } } 0 0)) ∧
    (asked 1 → c.tagState tag ≠ .free → exec .keyset s = .next (ends s 3 0)) ∧
    (asked 2 → c.tagState tag ≠ .live → exec .keykill s = .next (ends s 3 0)) ∧
    (asked 2 → c.tagState tag = .live → s.tagInUse tag = true → exec .keykill s = .next (ends s 4 0)) ∧
    (asked 2 → c.tagState tag = .live → s.tagInUse tag = false → c.killWaits ≠ [] → exec .keykill s = .next s) ∧
    (asked 2 → tag ≠ 0 → c.tagState tag = .live → s.tagInUse tag = false → c.killWaits = [] →
      ∃ t, exec .keykill s = .next t ∧ t.sec.tagState tag = .dead ∧ t.sec.go = false ∧ t.sec.status = 0 ∧ t.sec.res = s.time ∧
        (∀ p ∈ t.stations, ∀ l ∈ p.2.slice, s.phys.lineTag l.line ≠ tag) ∧ t.cores = s.cores ∧
        (∀ f, f ∈ t.folds ↔ f ∈ s.folds ∧ ∀ l ∈ linesOf f.pa f.row.length, s.phys.lineTag l ≠ tag) ∧
        (∀ r ∈ t.replicas, r.agent.tag ≠ tag) ∧ (∀ l ∈ t.lates, l.agent.tag ≠ tag)) ∧
    (asked 3 → c.tagState tag ≠ .dead → exec .sweep s = .next (ends s 3 0)) ∧
    (asked 3 → c.tagState tag = .dead → exec .sweep s = .next { s with sec := { c with sweeping := some tag } }) ∧
    (c.sweeping = none → exec .sweepComplete s = .next s) ∧
    (∀ d, c.sweeping = some d → d ≠ 0 → (∀ y ∈ s.accesses, y.stage ≠ .filling) → ∃ t, exec .sweepComplete s = .next t ∧ t.sec.tagState d = .free ∧ t.sec.sweeping = none ∧
      t.sec.go = false ∧ t.sec.status = 0 ∧ t.sec.res = BitVec.ofNat 64 (s.phys.linesOfTag d).length ∧
      (∀ l ∈ s.phys.linesOfTag d, (∀ x, x / 64 = l → t.phys.ram.read x = 0) ∧ t.phys.lineTag l = 0 ∧
        l ∉ t.phys.poison ∧ ∀ w ∈ t.phys.empty, w / 8 ≠ l) ∧ (∀ k ∈ t.host.channels, k.2.waits = false) ∧
      (∀ f ∈ t.folds, f ∈ s.folds ∧ ∀ l ∈ s.phys.linesOfTag d, f.pa + f.row.length ≤ l * 64 ∨ l * 64 + 64 ≤ f.pa) ∧
      (s.folds = [] → ∀ x, x / 64 ∉ s.phys.linesOfTag d → t.phys.ram.read x = s.phys.ram.read x)) ∧
    (asked 4 → c.arg.getLsbD 8 = false → s.ctxAt (c.arg.toNat % 2 ^ 6) = none → exec .attest s = .next (ends s 5 0)) ∧
    (asked 4 → c.arg.getLsbD 8 = true → s.rangeInMap c.addr 360 = true → c.addr % 64 = 0 → s.folds = [] → s.phys.uncorr = [] →
      s.phys.poison = [] → (∀ l ∈ linesOf c.addr 360, s.phys.lineTag l = 0) → (∀ y ∈ s.accesses, y.stage ≠ .filling) →
      ∃ t, exec .attest s = .next t ∧ t.sec.go = false ∧ t.sec.status = 0 ∧
        t.phys.ram.readBytes (c.addr + 64) 296 = s.report none (s.phys.ram.readBytes c.addr 48) ∧
        ∀ x, x < c.addr + 64 ∨ c.addr + 360 ≤ x → t.phys.ram.read x = s.phys.ram.read x)

/-- R22 to R24, R274, R322, R324 to R330: POWER starts a change of a reticle within its range and gives status 2 outside it, and
the change ends with the asked clock and supply; thermal steps lower the clock by 100 MHz and raise it again; each of them, and a
POWER that lowers the clock, has firmware rewrite the discovery table, which begins with an odd gen and ends with an even one, and
the table holds the stated figures at the nominal clock; JCLR takes effect at the next boot; a boot whose steps all work raises
the count, scrubs both tiers, journals each step and leaves the device out of recovery; one whose image fails leads to recovery,
where only a new image boots again. That POWER stays busy until its change ends, what it shows meanwhile, and its meeting a
thermal limit are the model's choice (log entry 41), as is a rewrite that meets another (log entry 38). -/
def Obligations.PowerClockAndBoot : Prop :=
  (∀ (s : State) (r : Nat),
    let c := s.sec
    let w := c.arg
    let mv := w.toNat / 2 ^ 32 % 2 ^ 16
    let mhz := w.toNat / 2 ^ 16 % 2 ^ 16
    let n := w.toNat / 2 ^ 48 % 4
    let limit := if mv ≤ 450 then 1500 + 8 * (mv - 400) else if mv ≤ 550 then 1900 + 5 * (mv - 450) else 2400 + 4 * (mv - 550)
    let bad : Prop := mv < 400 ∨ 600 < mv ∨ mv % 10 ≠ 0 ∨ mhz < 400 ∨ mhz % 25 ≠ 0 ∨ limit < mhz
    let p := c.pwrAt n
    let o := c.pwrAt r
    let begun (t : State) : Prop :=
      (s.pkg.rewriting = none →
        t.pkg = { s.pkg with gen := BitVec.ofNat 64 ((s.pkg.gen.toNat + 1) % 2 ^ 32), rewriting := some 0 }) ∧
      (s.pkg.rewriting.isSome = true → t.pkg = { s.pkg with rewriting := some 0 })
    (c.go = true → c.kind = 5 → bad → exec .power s = .next { s with sec := { c with go := false, status := 2, res := 0 } }) ∧
    (c.go = true → c.kind = 5 → ¬ bad → p.changing = true → exec .power s = .next s) ∧
    (c.go = true → c.kind = 5 → ¬ bad → p.changing = false →
      ∃ t, exec .power s = .next t ∧ t.phys = s.phys ∧ t.cores = s.cores ∧ (mhz < p.mhz → begun t) ∧ (p.mhz ≤ mhz → t.pkg = s.pkg) ∧
        t.sec = { c with
          pwr := aset c.pwr n { mhz := min p.mhz mhz, mv := max p.mv mv, state := if p.state = 2 then 2 else 1, changing := true
                                targetMhz := mhz, targetMv := mv } }) ∧
    (o.changing = false → exec (.powerChangeComplete r) s = .next s) ∧
    (o.changing = true → ∃ t, exec (.powerChangeComplete r) s = .next t ∧ begun t ∧ t.phys = s.phys ∧ t.cores = s.cores ∧
      t.sec.pwrAt r = { o with mv := o.targetMv, changing := false, mhz := if o.state = 2 then o.mhz else o.targetMhz
                               state := if o.state = 2 then 2 else 0 } ∧
      (c.go = true → c.kind = 5 → n = r → t.sec.go = false ∧ t.sec.status = 0)) ∧
    (∃ t, exec (.thermalThrottle r) s = .next t ∧ begun t ∧ t.phys = s.phys ∧ t.cores = s.cores ∧
      t.sec.pwrAt r = { o with mhz := o.mhz - 100, state := 2, targetMhz := if o.state = 0 then o.mhz else o.targetMhz }) ∧
    (o.state ≠ 2 ∨ o.changing = true → exec (.thermalRecover r) s = .next s) ∧
    (o.state = 2 → o.changing = false → ∃ t, exec (.thermalRecover r) s = .next t ∧ begun t ∧ t.phys = s.phys ∧ t.cores = s.cores ∧
      t.sec.pwrAt r = { o with mhz := min o.targetMhz (o.mhz + 100), state := if o.targetMhz ≤ o.mhz + 100 then 0 else 2 }) ∧
    (c.go = true → c.kind = 6 → exec .jclr s =
      .next { s with sec := { c with jclr := true, go := false, status := 0, res := 0 } })) ∧
  (∀ s : State,
    (s.pkg.rewriting = none → s.act .tableWrite = s) ∧
    (∀ k, s.pkg.rewriting = some k → 8 ≤ k → s.act .tableWrite = { s with pkg := { s.pkg with
      gen := BitVec.ofNat 64 ((s.pkg.gen.toNat + 1) % 2 ^ 32), rewriting := none } }) ∧
    (∀ k, s.pkg.rewriting = some k → k < 8 → ∃ e : TableEntry,
      s.act .tableWrite = { s with pkg := { s.pkg with table := aset s.pkg.table k e, rewriting := some (k + 1) } } ∧
      (∀ i, i ∈ e.spares ↔ ∃ p ∈ s.cores, p.1 = i ∧ p.2.spare = true ∧ p.2.lost = false) ∧ e.dead = s.pkg.deadPlaces ∧
      e.mhz = (List.range 4).map (fun r => (s.sec.pwrAt r).mhz))) ∧
  (∀ (s : State) (t : ThreadId),
    s.discoveryRead t 0 2 = 1 ∧ s.discoveryRead t 2 2 = 64 ∧ s.discoveryRead t 4 4 = s.pkg.gen.toNat % 2 ^ 32 ∧
    s.discoveryRead t 8 4 = s.pkg.device.toNat % 2 ^ 32 ∧
    ∀ (n : Nat) (e : TableEntry), n ≤ 5 → t.core < 768 → aget s.pkg.table n = some e → e.spares = [] → e.dead = [] →
      e.mhz = [1900, 1900, 1900, 1900] →
      let reads (at_ size : Nat) (l : List Nat) : Prop := s.discoveryRead t (64 + 64 * n + at_) size = l.getD n 0
      reads 0 8 [1, 64, 3072, 6144, 12288, 49152] ∧ reads 8 4 [0, 0, 24, 68, 76, 108] ∧
      reads 12 4 [0, 0, 520, 1300, 1452, 2060] ∧ reads 16 4 [2, 2, 24, 68, 76, 108] ∧ reads 20 4 [0, 0, 24, 68, 76, 108] ∧
      reads 24 4 [0, 1, 2, 3, 4, 5]) ∧
  (∀ s : State, (s.bar0 0x1010000).toNat % 2 ^ 8 = 4) ∧
  (∀ (s : State) (b : BootInput), (∀ n < 10, b.normalOk.getD n true = true) → b.badCores = [] →
    s.sec.failedSteps = [] ∨ s.sec.jclr = true →
    ∃ t, exec (.boot b) s = .next t ∧ t.sec.booted = true ∧ t.sec.recovery = false ∧ t.sec.bootCount = s.sec.bootCount + 1 ∧
      t.sec.jclr = false ∧ t.sec.failedSteps = [] ∧ t.phys.ram = [] ∧ t.phys.tags = [] ∧ t.phys.host = s.phys.host ∧ t.ctxs = [] ∧
      t.pkg.gen = 2 ∧ t.pkg.rewriting = none ∧ t.sec.memStacks = 0xFFF ∧ t.sec.memCap = true ∧
      (∀ r < 4, (t.sec.pwrAt r).mhz = 1900 ∧ (t.sec.pwrAt r).mv = 450) ∧
      (s.sec.jtail < 256 → t.sec.jtail = (s.sec.jtail + 10) % 256 ∧
        ∀ n < 10, ∃ e, aget t.sec.journal ((s.sec.jtail + n) % 256) = some e ∧ e.step = n + 1 ∧ e.outcome = 0 ∧
          e.cause = 0 ∧ e.boot = s.sec.bootCount + 1)) ∧
  (∀ (s : State) (b : BootInput), b.normalOk.getD 0 true = false → 1 ∉ s.sec.failedSteps →
    ∃ t, exec (.boot b) s = .next t ∧ t.sec.recovery = true ∧ t.sec.booted = false ∧ t.sec.bootCount = s.sec.bootCount + 1) ∧
  (∀ (s : State) (b : BootInput), (s.sec.recovery = false → exec (.recoveryImage b) s = .next s) ∧
    (s.sec.recovery = true → exec (.recoveryImage b) s = exec (.boot b) s))
end

