-- ==== Sys2Proof/Laws/Assoc.lean ====
section
/-! SUPPORT. Sparse tables: an entry reads back, every other entry stays. -/

namespace Sys2Proof.Machine

@[simp] theorem aget_nil {α : Type} (k : Nat) : aget ([] : Assoc α) k = none := rfl

theorem aget_cons {α : Type} (p : Nat × α) (r : Assoc α) (k : Nat) :
    aget (p :: r) k = if p.1 = k then some p.2 else aget r k := by
  cases p; rfl

@[simp] theorem aget_aset_self {α : Type} (t : Assoc α) (k : Nat) (v : α) : aget (aset t k v) k = some v := by
  induction t with
  | nil => simp [aset, aget]
  | cons p r ih =>
    obtain ⟨k', w⟩ := p
    simp only [aset]
    split
    · simp [aget]
    · split
      · simp [aget]
      · simp only [aget]; split
        · omega
        · exact ih

theorem aget_aset_ne {α : Type} (t : Assoc α) {k j : Nat} (v : α) (h : j ≠ k) : aget (aset t k v) j = aget t j := by
  induction t with
  | nil => simp [aset, aget]; omega
  | cons p r ih =>
    obtain ⟨k', w⟩ := p
    simp only [aset]
    split
    · simp only [aget]; split
      · omega
      · rfl
    · split
      · rename_i hk; subst hk
        simp only [aget]; split
        · omega
        · rfl
      · simp only [aget]; split
        · rfl
        · exact ih

theorem aget_aset {α : Type} (t : Assoc α) (k j : Nat) (v : α) :
    aget (aset t k v) j = if j = k then some v else aget t j := by
  split
  · subst j; simp
  · exact aget_aset_ne t v ‹_›

@[simp] theorem agetD_aset_self {α : Type} (t : Assoc α) (k : Nat) (v d : α) : agetD (aset t k v) k d = v := by
  simp [agetD]

theorem agetD_aset_ne {α : Type} (t : Assoc α) {k j : Nat} (v d : α) (h : j ≠ k) :
    agetD (aset t k v) j d = agetD t j d := by
  simp [agetD, aget_aset_ne t v h]

/-- What holds of every entry of a table holds of every entry once one that has it too is set. -/
theorem all_aset {α : Type} (p : Nat × α → Bool) (t : Assoc α) (k : Nat) (v : α) (ht : t.all p = true)
    (hv : p (k, v) = true) : (aset t k v).all p = true := by
  induction t with
  | nil => simp [aset, hv]
  | cons q r ih =>
    obtain ⟨k', w⟩ := q
    simp only [List.all_cons, Bool.and_eq_true] at ht
    simp only [aset]
    split
    · simp [hv, ht.1]; simpa using ht.2
    · split
      · simp [hv]; simpa using ht.2
      · simp only [List.all_cons, Bool.and_eq_true]; exact ⟨ht.1, ih ht.2⟩

/-- An entry that is found has what every entry has. -/
theorem all_aget {α : Type} (p : Nat × α → Bool) (t : Assoc α) (k : Nat) (v : α) (ht : t.all p = true)
    (hv : aget t k = some v) : p (k, v) = true := by
  induction t with
  | nil => simp [aget] at hv
  | cons q r ih =>
    obtain ⟨k', w⟩ := q
    simp only [List.all_cons, Bool.and_eq_true] at ht
    simp only [aget] at hv
    split at hv
    · rename_i hk; subst hk; cases hv; exact ht.1
    · exact ih ht.2 hv

end Sys2Proof.Machine
end

