-- ==== Sys2Proof/Laws/Memory.lean ====
section
/-! SUPPORT. Byte memory: every operation keeps the canonical form, a written byte reads back, every other byte stays, and
equal contents are equal lists. -/

namespace Sys2Proof.Machine

/-! ### The canonical form -/

theorem Memory.wf_cons (c : Host.Cell) (r : Memory) :
    Memory.wf (c :: r) = true ↔ c.2 ≠ 0 ∧ (∀ d ∈ r, c.1 < d.1) ∧ Memory.wf r = true := by
  induction r generalizing c with
  | nil => simp [Memory.wf, Memory.unlisted]
  | cons d r ih =>
    rw [Memory.wf, Bool.and_eq_true, Bool.and_eq_true, ih d]
    simp only [decide_eq_true_eq, bne_iff_ne, ne_eq, Memory.unlisted, List.mem_cons, forall_eq_or_imp]
    constructor
    · rintro ⟨⟨h1, h2⟩, h3, h4, h5⟩
      exact ⟨h2, ⟨h1, fun e he => Nat.lt_trans h1 (h4 e he)⟩, h3, h4, h5⟩
    · rintro ⟨h1, ⟨h2, _⟩, h4, h5, h6⟩
      exact ⟨⟨h2, h1⟩, h4, h5, h6⟩

theorem Memory.wf_filter (p : Host.Cell → Bool) (m : Memory) (h : Memory.wf m = true) : Memory.wf (m.filter p) = true := by
  induction m with
  | nil => simpa using h
  | cons c r ih =>
    rw [Memory.wf_cons] at h
    rw [List.filter_cons]
    split
    · rw [Memory.wf_cons]
      exact ⟨h.1, fun d hd => h.2.1 d (List.mem_filter.1 hd).1, ih h.2.2⟩
    · exact ih h.2.2

theorem Memory.drop_eq_filter (m : Memory) (a : Nat) : m.drop a = m.filter (fun c => !decide (c.1 = a)) := by
  induction m with
  | nil => rfl
  | cons c r ih => simp only [Memory.drop, List.filter_cons]; split <;> simp_all

theorem Memory.mem_insert (m : Memory) (a : Nat) (b : Byte) (c : Host.Cell) :
    c ∈ m.insert a b ↔ c = (a, b) ∨ c ∈ m := by
  induction m with
  | nil => simp [Memory.insert]
  | cons d r ih =>
    simp only [Memory.insert]; split
    · simp
    · simp only [List.mem_cons, ih]; tauto

theorem Memory.wf_insert (m : Memory) (a : Nat) (b : Byte) (h : Memory.wf m = true) (hb : b ≠ 0)
    (ha : ∀ c ∈ m, c.1 ≠ a) : Memory.wf (m.insert a b) = true := by
  induction m with
  | nil => simpa [Memory.insert, Memory.wf, Memory.unlisted] using hb
  | cons d r ih =>
    have hd := (Memory.wf_cons d r).1 h
    have had := ha d (by simp)
    simp only [Memory.insert]; split
    · rw [Memory.wf_cons]
      refine ⟨hb, ?_, h⟩
      intro e he
      rcases List.mem_cons.1 he with rfl | he
      · assumption
      · exact Nat.lt_trans ‹_› (hd.2.1 e he)
    · rw [Memory.wf_cons]
      refine ⟨hd.1, ?_, ih hd.2.2 (fun c hc => ha c (List.mem_cons_of_mem _ hc))⟩
      intro e he
      rcases (Memory.mem_insert r a b e).1 he with rfl | he
      · show d.1 < a; omega
      · exact hd.2.1 e he

theorem Memory.wf_drop (m : Memory) (a : Nat) (h : Memory.wf m = true) : Memory.wf (m.drop a) = true := by
  rw [Memory.drop_eq_filter]; exact Memory.wf_filter _ m h

theorem Memory.wf_write (m : Memory) (a : Nat) (b : Byte) (h : Memory.wf m = true) : Memory.wf (m.write a b) = true := by
  unfold Memory.write
  split
  · exact Memory.wf_drop m a h
  · refine Memory.wf_insert _ _ _ (Memory.wf_drop m a h) (by simpa [Memory.unlisted] using ‹_›) ?_
    intro c hc
    rw [Memory.drop_eq_filter] at hc
    simpa using (List.mem_filter.1 hc).2

theorem Memory.wf_writeBytes (bs : List Byte) (m : Memory) (a : Nat) (h : Memory.wf m = true) :
    Memory.wf (m.writeBytes a bs) = true := by
  induction bs generalizing m a with
  | nil => exact h
  | cons b r ih => exact ih _ _ (Memory.wf_write m a b h)

theorem Memory.wf_writeLE (m : Memory) (a n v : Nat) (h : Memory.wf m = true) : Memory.wf (m.writeLE a n v) = true :=
  Memory.wf_writeBytes _ m a h

theorem Memory.wf_zero (m : Memory) (a n : Nat) (h : Memory.wf m = true) : Memory.wf (m.zero a n) = true :=
  Memory.wf_writeBytes _ m a h

theorem Memory.wf_clear (m : Memory) (a n : Nat) (h : Memory.wf m = true) : Memory.wf (m.clear a n) = true :=
  Memory.wf_filter _ m h

theorem Memory.wf_writeCells (cs : List Host.Cell) (m : Memory) (h : Memory.wf m = true) :
    Memory.wf (m.writeCells cs) = true := by
  induction cs generalizing m with
  | nil => exact h
  | cons c r ih => exact ih _ (Memory.wf_write m c.1 c.2 h)

theorem Memory.wf_copyRange (m : Memory) (src dst n : Nat) (h : Memory.wf m = true) :
    Memory.wf (m.copyRange src dst n) = true :=
  Memory.wf_writeCells _ _ (Memory.wf_clear m dst n h)

/-! ### Reading -/

@[simp] theorem Memory.read_nil (a : Nat) : Memory.read [] a = 0 := rfl

theorem Memory.read_drop (m : Memory) (a x : Nat) : (m.drop a).read x = if x = a then 0 else m.read x := by
  induction m with
  | nil => simp [Memory.drop]
  | cons c r ih =>
    simp only [Memory.drop, Memory.read]
    split
    · rw [ih]; split
      · rfl
      · rw [if_neg (by omega)]
    · simp only [Memory.read]; split
      · rw [if_neg (by omega)]
      · exact ih

theorem Memory.read_insert (m : Memory) (a x : Nat) (b : Byte) (ha : ∀ c ∈ m, c.1 ≠ a) :
    (m.insert a b).read x = if x = a then b else m.read x := by
  induction m with
  | nil => simp only [Memory.insert, Memory.read, Memory.unlisted, eq_comm]
  | cons d r ih =>
    have had := ha d (by simp)
    have ih := ih (fun c hc => ha c (List.mem_cons_of_mem _ hc))
    simp only [Memory.insert]; split
    · simp only [Memory.read, eq_comm (a := a)]
    · simp only [Memory.read, ih]
      split
      · rw [if_neg (by omega)]
      · rfl

/-- A written byte reads back and every other byte stays. -/
theorem Memory.read_write (m : Memory) (a x : Nat) (b : Byte) : (m.write a b).read x = if x = a then b else m.read x := by
  unfold Memory.write
  split
  · rename_i hb; subst hb; rw [Memory.read_drop]; rfl
  · rw [Memory.read_insert]
    · split
      · rfl
      · rw [Memory.read_drop, if_neg ‹_›]
    · intro c hc
      rw [Memory.drop_eq_filter] at hc
      simpa using (List.mem_filter.1 hc).2

/-- A written run reads back and every byte outside it stays. -/
theorem Memory.read_writeBytes (bs : List Byte) (m : Memory) (a x : Nat) :
    (m.writeBytes a bs).read x = if a ≤ x ∧ x < a + bs.length then bs.getD (x - a) 0 else m.read x := by
  induction bs generalizing m a with
  | nil => simp [Memory.writeBytes]
  | cons b r ih =>
    rw [Memory.writeBytes, ih, Memory.read_write]
    by_cases hx : x = a
    · subst hx; simp
    · by_cases h1 : a + 1 ≤ x ∧ x < a + 1 + r.length
      · rw [if_pos h1, if_pos (by simp; omega)]
        obtain ⟨d, rfl⟩ : ∃ d, x = a + 1 + d := ⟨x - (a + 1), by omega⟩
        rw [show a + 1 + d - (a + 1) = d by omega, show a + 1 + d - a = d + 1 by omega]
        simp
      · rw [if_neg h1, if_neg hx, if_neg (by rw [List.length_cons]; omega)]

theorem Memory.read_writeBytes_outside (bs : List Byte) (m : Memory) (a x : Nat) (h : x < a ∨ a + bs.length ≤ x) :
    (m.writeBytes a bs).read x = m.read x := by
  rw [Memory.read_writeBytes, if_neg (by omega)]

theorem Memory.readBytes_congr (m m' : Memory) (n : Nat) (a : Nat) (h : ∀ x, a ≤ x → x < a + n → m.read x = m'.read x) :
    m.readBytes a n = m'.readBytes a n := by
  induction n generalizing a with
  | zero => rfl
  | succ n ih =>
    rw [Memory.readBytes, Memory.readBytes, h a (by omega) (by omega), ih (a + 1) (fun x h1 h2 => h x (by omega) (by omega))]

@[simp] theorem Memory.length_readBytes (m : Memory) (a n : Nat) : (m.readBytes a n).length = n := by
  induction n generalizing a with
  | zero => rfl
  | succ n ih => simp [Memory.readBytes, ih]

/-- A run that was written reads back whole. -/
theorem Memory.readBytes_writeBytes (bs : List Byte) (m : Memory) (a : Nat) :
    (m.writeBytes a bs).readBytes a bs.length = bs := by
  induction bs generalizing m a with
  | nil => rfl
  | cons b r ih =>
    rw [List.length_cons, Memory.readBytes, Memory.writeBytes, ih,
      Memory.read_writeBytes_outside _ _ _ _ (by omega), Memory.read_write, if_pos rfl]

/-! ### Little-endian values -/

@[simp] theorem length_bytesLE (n v : Nat) : (bytesLE n v).length = n := by
  induction n generalizing v with
  | zero => rfl
  | succ n ih => simp [bytesLE, ih]

theorem ofBytesLE_bytesLE (n v : Nat) : ofBytesLE (bytesLE n v) = v % 256 ^ n := by
  induction n generalizing v with
  | zero => simp [bytesLE, ofBytesLE, Nat.mod_one]
  | succ n ih =>
    rw [bytesLE, ofBytesLE, ih, Nat.pow_succ, Nat.mul_comm (256 ^ n) 256, Nat.mod_mul]
    simp

theorem ofBytesLE_lt (bs : List Byte) : ofBytesLE bs < 256 ^ bs.length := by
  induction bs with
  | nil => simp [ofBytesLE]
  | cons b r ih =>
    have hb : b.toNat < 256 := b.isLt
    simp only [ofBytesLE, List.length_cons, Nat.pow_succ]
    omega

/-- A value that was written reads back modulo its width. -/
theorem Memory.readLE_writeLE (m : Memory) (a n v : Nat) : (m.writeLE a n v).readLE a n = v % 256 ^ n := by
  have h := Memory.readBytes_writeBytes (bytesLE n v) m a
  rw [length_bytesLE] at h
  rw [Memory.readLE, Memory.writeLE, h, ofBytesLE_bytesLE]

/-! ### One form for one content -/

theorem Memory.read_below (m : Memory) (a : Nat) (h : ∀ c ∈ m, a < c.1) : m.read a = 0 := by
  induction m with
  | nil => rfl
  | cons c r ih =>
    have := h c (by simp)
    rw [Memory.read, if_neg (by omega)]
    exact ih (fun d hd => h d (List.mem_cons_of_mem _ hd))

/-- Canonical memories with the same contents are the same list. -/
theorem Memory.ext (m n : Memory) (hm : Memory.wf m = true) (hn : Memory.wf n = true) (h : ∀ a, m.read a = n.read a) :
    m = n := by
  induction m generalizing n with
  | nil =>
    cases n with
    | nil => rfl
    | cons d s =>
      have hd := (Memory.wf_cons d s).1 hn
      have := h d.1
      simp [Memory.read] at this
      exact absurd this.symm hd.1
  | cons c r ih =>
    have hc := (Memory.wf_cons c r).1 hm
    cases n with
    | nil =>
      have := h c.1
      simp [Memory.read] at this
      exact absurd this hc.1
    | cons d s =>
      have hd := (Memory.wf_cons d s).1 hn
      have hcd : c.1 = d.1 := by
        rcases Nat.lt_trichotomy c.1 d.1 with hl | he | hl
        · have e := h c.1
          rw [Memory.read, if_pos rfl, Memory.read, if_neg (by omega),
            Memory.read_below s c.1 (fun x hx => Nat.lt_trans hl (hd.2.1 x hx))] at e
          exact absurd e hc.1
        · exact he
        · have e := h d.1
          rw [Memory.read, if_neg (by omega), Memory.read, if_pos rfl,
            Memory.read_below r d.1 (fun x hx => Nat.lt_trans hl (hc.2.1 x hx))] at e
          exact absurd e.symm hd.1
      have hv : c.2 = d.2 := by
        have e := h c.1
        rwa [Memory.read, if_pos rfl, Memory.read, if_pos hcd.symm] at e
      have hr : r = s := by
        refine ih s hc.2.2 hd.2.2 (fun a => ?_)
        by_cases ha : a = c.1
        · subst ha
          rw [Memory.read_below r _ hc.2.1, Memory.read_below s _ (fun x hx => by rw [hcd]; exact hd.2.1 x hx)]
        · have e := h a
          rwa [Memory.read, if_neg (by omega), Memory.read, if_neg (by omega)] at e
      obtain ⟨c1, c2⟩ := c
      obtain ⟨d1, d2⟩ := d
      simp only at hcd hv
      rw [hcd, hv, hr]

end Sys2Proof.Machine
end

