-- ==== Sys2Proof/Laws/PerInstr.lean ====
section
/-! SUPPORT. Statements made instruction by instruction: the words that the encoder gives. -/

/-- An instruction has at most two words of 32 bits, and two exactly where the first opens a long form (R55). -/
def Sys2Proof.Laws.Encodes.Statement (i : Sys2Proof.Instr) : Prop :=
  (∀ w ∈ Sys2Proof.encode i, w < 2 ^ 32) ∧ (Sys2Proof.encode i).length ≤ 2 ∧
    ((Sys2Proof.encode i).length = 2 ↔ (Sys2Proof.encode i).head?.map Sys2Proof.isLong = some true)

namespace Sys2Proof

open Sys2Proof.Machine

/-- A word of 32 bits with a major opcode. -/
def HasMajor (w op : Nat) : Prop := w < 2 ^ 32 ∧ w / 2 ^ 25 % 128 = op

theorem b2n_lt (b : Bool) : b2n b < 2 := by cases b <;> decide

theorem wI_major (op : Nat) (d a : Reg) (imm : Nat) (ho : op < 128) (hi : imm < 2048) : HasMajor (wI op d a imm) op := by
  have hd := d.isLt; have ha := a.isLt
  unfold HasMajor wI; omega

theorem wR_major (op : Nat) (d a b : Reg) (fn : Nat) (ho : op < 128) (hf : fn < 16) : HasMajor (wR op d a b fn) op := by
  have hd := d.isLt; have ha := a.isLt; have hb := b.isLt
  unfold HasMajor wR; omega

theorem wJ_major (op : Nat) (d : Reg) (off : BitVec 18) (ho : op < 128) : HasMajor (wJ op d off) op := by
  have hd := d.isLt; have hf := off.isLt
  unfold HasMajor wJ; omega

theorem wF_major (op : Nat) (f : RF) (ho : op < 127) : HasMajor (wF op f) (op + f.pos.toNat / 32) := by
  have hp := f.pos.isLt; have hl := f.lenm1.isLt
  exact wI_major _ _ _ _ (by omega) (by omega)

theorem wM_major (op : Nat) (m : MemOp) (ho : op < 128) : HasMajor (wM op m) op := by
  have h1 := m.off.isLt; have h2 := m.sp.isLt; have h3 := m.wk.isLt; have h4 := b2n_lt m.lu
  exact wI_major _ _ _ _ ho (by omega)

theorem wA_major (op aop : Nat) (m : AmoOp) (ho : op < 127) (hk : aop < 16) : HasMajor (wA op aop m) (op + b2n m.wide) := by
  have h1 := m.ord.isLt; have h2 := m.sp.isLt; have h3 := m.scope.isLt; have h4 := b2n_lt m.wide
  exact wI_major _ _ _ _ (by omega) (by omega)

theorem encodes_none {i : Instr} (h : encode i = []) : Laws.Encodes.Statement i := by
  simp [Laws.Encodes.Statement, h]

theorem encodes_one {i : Instr} {w op : Nat} (h : encode i = [w]) (hw : HasMajor w op) (ho : op ≠ 127) :
    Laws.Encodes.Statement i := by
  obtain ⟨h1, h2⟩ := hw
  refine ⟨by simpa [h] using h1, by simp [h], ?_⟩
  rw [h]
  simp only [List.length_cons, List.length_nil, List.head?_cons, Option.map_some, isLong, h2, Option.some.injEq,
    beq_iff_eq]
  omega

theorem encodes_two {i : Instr} {w : Nat} {x : BitVec 32} (h : encode i = [w, x.toNat]) (hw : HasMajor w 127) :
    Laws.Encodes.Statement i := by
  obtain ⟨h1, h2⟩ := hw
  refine ⟨?_, by simp [h], by rw [h]; simp only [List.length_cons, List.length_nil, List.head?_cons, Option.map_some, isLong, h2]; decide⟩
  rw [h]
  intro y hy
  have hx := x.isLt
  simp only [List.mem_cons, List.not_mem_nil, or_false] at hy
  omega

end Sys2Proof

theorem Sys2Proof.Laws.Encodes.add (r : Sys2Proof.R3) : Sys2Proof.Laws.Encodes.Statement (.add r) :=
  Sys2Proof.encodes_one rfl (Sys2Proof.wR_major _ _ _ _ _ (by decide) (by omega)) (by decide)

theorem Sys2Proof.Laws.Encodes.sub (r : Sys2Proof.R3) : Sys2Proof.Laws.Encodes.Statement (.sub r) :=
  Sys2Proof.encodes_one rfl (Sys2Proof.wR_major _ _ _ _ _ (by decide) (by omega)) (by decide)

theorem Sys2Proof.Laws.Encodes.mul (r : Sys2Proof.R3) : Sys2Proof.Laws.Encodes.Statement (.mul r) :=
  Sys2Proof.encodes_one rfl (Sys2Proof.wR_major _ _ _ _ _ (by decide) (by omega)) (by decide)

theorem Sys2Proof.Laws.Encodes.mulh (r : Sys2Proof.R3) : Sys2Proof.Laws.Encodes.Statement (.mulh r) :=
  Sys2Proof.encodes_one rfl (Sys2Proof.wR_major _ _ _ _ _ (by decide) (by omega)) (by decide)

theorem Sys2Proof.Laws.Encodes.mulhu (r : Sys2Proof.R3) : Sys2Proof.Laws.Encodes.Statement (.mulhu r) :=
  Sys2Proof.encodes_one rfl (Sys2Proof.wR_major _ _ _ _ _ (by decide) (by omega)) (by decide)

theorem Sys2Proof.Laws.Encodes.mulhsu (r : Sys2Proof.R3) : Sys2Proof.Laws.Encodes.Statement (.mulhsu r) :=
  Sys2Proof.encodes_one rfl (Sys2Proof.wR_major _ _ _ _ _ (by decide) (by omega)) (by decide)

theorem Sys2Proof.Laws.Encodes.madd (r : Sys2Proof.R3) : Sys2Proof.Laws.Encodes.Statement (.madd r) :=
  Sys2Proof.encodes_one rfl (Sys2Proof.wR_major _ _ _ _ _ (by decide) (by omega)) (by decide)

theorem Sys2Proof.Laws.Encodes.div (r : Sys2Proof.R3) : Sys2Proof.Laws.Encodes.Statement (.div r) :=
  Sys2Proof.encodes_one rfl (Sys2Proof.wR_major _ _ _ _ _ (by decide) (by omega)) (by decide)

theorem Sys2Proof.Laws.Encodes.divu (r : Sys2Proof.R3) : Sys2Proof.Laws.Encodes.Statement (.divu r) :=
  Sys2Proof.encodes_one rfl (Sys2Proof.wR_major _ _ _ _ _ (by decide) (by omega)) (by decide)

theorem Sys2Proof.Laws.Encodes.rem (r : Sys2Proof.R3) : Sys2Proof.Laws.Encodes.Statement (.rem r) :=
  Sys2Proof.encodes_one rfl (Sys2Proof.wR_major _ _ _ _ _ (by decide) (by omega)) (by decide)

theorem Sys2Proof.Laws.Encodes.remu (r : Sys2Proof.R3) : Sys2Proof.Laws.Encodes.Statement (.remu r) :=
  Sys2Proof.encodes_one rfl (Sys2Proof.wR_major _ _ _ _ _ (by decide) (by omega)) (by decide)

theorem Sys2Proof.Laws.Encodes.and (r : Sys2Proof.R3) : Sys2Proof.Laws.Encodes.Statement (.and r) :=
  Sys2Proof.encodes_one rfl (Sys2Proof.wR_major _ _ _ _ _ (by decide) (by omega)) (by decide)

theorem Sys2Proof.Laws.Encodes.or (r : Sys2Proof.R3) : Sys2Proof.Laws.Encodes.Statement (.or r) :=
  Sys2Proof.encodes_one rfl (Sys2Proof.wR_major _ _ _ _ _ (by decide) (by omega)) (by decide)

theorem Sys2Proof.Laws.Encodes.xor (r : Sys2Proof.R3) : Sys2Proof.Laws.Encodes.Statement (.xor r) :=
  Sys2Proof.encodes_one rfl (Sys2Proof.wR_major _ _ _ _ _ (by decide) (by omega)) (by decide)

theorem Sys2Proof.Laws.Encodes.andn (r : Sys2Proof.R3) : Sys2Proof.Laws.Encodes.Statement (.andn r) :=
  Sys2Proof.encodes_one rfl (Sys2Proof.wR_major _ _ _ _ _ (by decide) (by omega)) (by decide)

theorem Sys2Proof.Laws.Encodes.orn (r : Sys2Proof.R3) : Sys2Proof.Laws.Encodes.Statement (.orn r) :=
  Sys2Proof.encodes_one rfl (Sys2Proof.wR_major _ _ _ _ _ (by decide) (by omega)) (by decide)

theorem Sys2Proof.Laws.Encodes.shl (r : Sys2Proof.R3) : Sys2Proof.Laws.Encodes.Statement (.shl r) :=
  Sys2Proof.encodes_one rfl (Sys2Proof.wR_major _ _ _ _ _ (by decide) (by omega)) (by decide)

theorem Sys2Proof.Laws.Encodes.shr (r : Sys2Proof.R3) : Sys2Proof.Laws.Encodes.Statement (.shr r) :=
  Sys2Proof.encodes_one rfl (Sys2Proof.wR_major _ _ _ _ _ (by decide) (by omega)) (by decide)

theorem Sys2Proof.Laws.Encodes.sar (r : Sys2Proof.R3) : Sys2Proof.Laws.Encodes.Statement (.sar r) :=
  Sys2Proof.encodes_one rfl (Sys2Proof.wR_major _ _ _ _ _ (by decide) (by omega)) (by decide)

theorem Sys2Proof.Laws.Encodes.rotl (r : Sys2Proof.R3) : Sys2Proof.Laws.Encodes.Statement (.rotl r) :=
  Sys2Proof.encodes_one rfl (Sys2Proof.wR_major _ _ _ _ _ (by decide) (by omega)) (by decide)

theorem Sys2Proof.Laws.Encodes.min (r : Sys2Proof.R3) : Sys2Proof.Laws.Encodes.Statement (.min r) :=
  Sys2Proof.encodes_one rfl (Sys2Proof.wR_major _ _ _ _ _ (by decide) (by omega)) (by decide)

theorem Sys2Proof.Laws.Encodes.max (r : Sys2Proof.R3) : Sys2Proof.Laws.Encodes.Statement (.max r) :=
  Sys2Proof.encodes_one rfl (Sys2Proof.wR_major _ _ _ _ _ (by decide) (by omega)) (by decide)

theorem Sys2Proof.Laws.Encodes.minu (r : Sys2Proof.R3) : Sys2Proof.Laws.Encodes.Statement (.minu r) :=
  Sys2Proof.encodes_one rfl (Sys2Proof.wR_major _ _ _ _ _ (by decide) (by omega)) (by decide)

theorem Sys2Proof.Laws.Encodes.maxu (r : Sys2Proof.R3) : Sys2Proof.Laws.Encodes.Statement (.maxu r) :=
  Sys2Proof.encodes_one rfl (Sys2Proof.wR_major _ _ _ _ _ (by decide) (by omega)) (by decide)

theorem Sys2Proof.Laws.Encodes.slt (r : Sys2Proof.R3) : Sys2Proof.Laws.Encodes.Statement (.slt r) :=
  Sys2Proof.encodes_one rfl (Sys2Proof.wR_major _ _ _ _ _ (by decide) (by omega)) (by decide)

theorem Sys2Proof.Laws.Encodes.sltu (r : Sys2Proof.R3) : Sys2Proof.Laws.Encodes.Statement (.sltu r) :=
  Sys2Proof.encodes_one rfl (Sys2Proof.wR_major _ _ _ _ _ (by decide) (by omega)) (by decide)

theorem Sys2Proof.Laws.Encodes.sel (r : Sys2Proof.R3) : Sys2Proof.Laws.Encodes.Statement (.sel r) :=
  Sys2Proof.encodes_one rfl (Sys2Proof.wR_major _ _ _ _ _ (by decide) (by omega)) (by decide)

theorem Sys2Proof.Laws.Encodes.clz (r : Sys2Proof.R2) : Sys2Proof.Laws.Encodes.Statement (.clz r) :=
  Sys2Proof.encodes_one rfl (Sys2Proof.wR_major _ _ _ _ _ (by decide) (by omega)) (by decide)

theorem Sys2Proof.Laws.Encodes.ctz (r : Sys2Proof.R2) : Sys2Proof.Laws.Encodes.Statement (.ctz r) :=
  Sys2Proof.encodes_one rfl (Sys2Proof.wR_major _ _ _ _ _ (by decide) (by omega)) (by decide)

theorem Sys2Proof.Laws.Encodes.popc (r : Sys2Proof.R2) : Sys2Proof.Laws.Encodes.Statement (.popc r) :=
  Sys2Proof.encodes_one rfl (Sys2Proof.wR_major _ _ _ _ _ (by decide) (by omega)) (by decide)

theorem Sys2Proof.Laws.Encodes.bswap (r : Sys2Proof.R2) : Sys2Proof.Laws.Encodes.Statement (.bswap r) :=
  Sys2Proof.encodes_one rfl (Sys2Proof.wR_major _ _ _ _ _ (by decide) (by omega)) (by decide)

theorem Sys2Proof.Laws.Encodes.sextB (r : Sys2Proof.R2) : Sys2Proof.Laws.Encodes.Statement (.sextB r) :=
  Sys2Proof.encodes_one rfl (Sys2Proof.wR_major _ _ _ _ _ (by decide) (by omega)) (by decide)

theorem Sys2Proof.Laws.Encodes.sextH (r : Sys2Proof.R2) : Sys2Proof.Laws.Encodes.Statement (.sextH r) :=
  Sys2Proof.encodes_one rfl (Sys2Proof.wR_major _ _ _ _ _ (by decide) (by omega)) (by decide)

theorem Sys2Proof.Laws.Encodes.sextW (r : Sys2Proof.R2) : Sys2Proof.Laws.Encodes.Statement (.sextW r) :=
  Sys2Proof.encodes_one rfl (Sys2Proof.wR_major _ _ _ _ _ (by decide) (by omega)) (by decide)

theorem Sys2Proof.Laws.Encodes.zextB (r : Sys2Proof.R2) : Sys2Proof.Laws.Encodes.Statement (.zextB r) :=
  Sys2Proof.encodes_one rfl (Sys2Proof.wR_major _ _ _ _ _ (by decide) (by omega)) (by decide)

theorem Sys2Proof.Laws.Encodes.zextH (r : Sys2Proof.R2) : Sys2Proof.Laws.Encodes.Statement (.zextH r) :=
  Sys2Proof.encodes_one rfl (Sys2Proof.wR_major _ _ _ _ _ (by decide) (by omega)) (by decide)

theorem Sys2Proof.Laws.Encodes.zextW (r : Sys2Proof.R2) : Sys2Proof.Laws.Encodes.Statement (.zextW r) :=
  Sys2Proof.encodes_one rfl (Sys2Proof.wR_major _ _ _ _ _ (by decide) (by omega)) (by decide)

theorem Sys2Proof.Laws.Encodes.hashm (r : Sys2Proof.R3) : Sys2Proof.Laws.Encodes.Statement (.hashm r) :=
  Sys2Proof.encodes_one rfl (Sys2Proof.wR_major _ _ _ _ _ (by decide) (by omega)) (by decide)

theorem Sys2Proof.Laws.Encodes.addi (r : Sys2Proof.RI) : Sys2Proof.Laws.Encodes.Statement (.addi r) :=
  Sys2Proof.encodes_one rfl (Sys2Proof.wI_major _ _ _ _ (by decide) (by have := r.imm.isLt; omega)) (by decide)

theorem Sys2Proof.Laws.Encodes.andi (r : Sys2Proof.RI) : Sys2Proof.Laws.Encodes.Statement (.andi r) :=
  Sys2Proof.encodes_one rfl (Sys2Proof.wI_major _ _ _ _ (by decide) (by have := r.imm.isLt; omega)) (by decide)

theorem Sys2Proof.Laws.Encodes.ori (r : Sys2Proof.RI) : Sys2Proof.Laws.Encodes.Statement (.ori r) :=
  Sys2Proof.encodes_one rfl (Sys2Proof.wI_major _ _ _ _ (by decide) (by have := r.imm.isLt; omega)) (by decide)

theorem Sys2Proof.Laws.Encodes.xori (r : Sys2Proof.RI) : Sys2Proof.Laws.Encodes.Statement (.xori r) :=
  Sys2Proof.encodes_one rfl (Sys2Proof.wI_major _ _ _ _ (by decide) (by have := r.imm.isLt; omega)) (by decide)

theorem Sys2Proof.Laws.Encodes.slti (r : Sys2Proof.RI) : Sys2Proof.Laws.Encodes.Statement (.slti r) :=
  Sys2Proof.encodes_one rfl (Sys2Proof.wI_major _ _ _ _ (by decide) (by have := r.imm.isLt; omega)) (by decide)

theorem Sys2Proof.Laws.Encodes.sltiu (r : Sys2Proof.RI) : Sys2Proof.Laws.Encodes.Statement (.sltiu r) :=
  Sys2Proof.encodes_one rfl (Sys2Proof.wI_major _ _ _ _ (by decide) (by have := r.imm.isLt; omega)) (by decide)

theorem Sys2Proof.Laws.Encodes.addiLong (r : Sys2Proof.RL) : Sys2Proof.Laws.Encodes.Statement (.addiLong r) :=
  Sys2Proof.encodes_two rfl (Sys2Proof.wI_major _ _ _ _ (by decide) (by omega))

theorem Sys2Proof.Laws.Encodes.andiLong (r : Sys2Proof.RL) : Sys2Proof.Laws.Encodes.Statement (.andiLong r) :=
  Sys2Proof.encodes_two rfl (Sys2Proof.wI_major _ _ _ _ (by decide) (by omega))

theorem Sys2Proof.Laws.Encodes.oriLong (r : Sys2Proof.RL) : Sys2Proof.Laws.Encodes.Statement (.oriLong r) :=
  Sys2Proof.encodes_two rfl (Sys2Proof.wI_major _ _ _ _ (by decide) (by omega))

theorem Sys2Proof.Laws.Encodes.xoriLong (r : Sys2Proof.RL) : Sys2Proof.Laws.Encodes.Statement (.xoriLong r) :=
  Sys2Proof.encodes_two rfl (Sys2Proof.wI_major _ _ _ _ (by decide) (by omega))

theorem Sys2Proof.Laws.Encodes.sltiLong (r : Sys2Proof.RL) : Sys2Proof.Laws.Encodes.Statement (.sltiLong r) :=
  Sys2Proof.encodes_two rfl (Sys2Proof.wI_major _ _ _ _ (by decide) (by omega))

theorem Sys2Proof.Laws.Encodes.sltiuLong (r : Sys2Proof.RL) : Sys2Proof.Laws.Encodes.Statement (.sltiuLong r) :=
  Sys2Proof.encodes_two rfl (Sys2Proof.wI_major _ _ _ _ (by decide) (by omega))

theorem Sys2Proof.Laws.Encodes.luiH (d : Sys2Proof.Reg) (imm : BitVec 32) : Sys2Proof.Laws.Encodes.Statement (.luiH d imm) :=
  Sys2Proof.encodes_two rfl (Sys2Proof.wI_major _ _ _ _ (by decide) (by have := imm.isLt; omega))

theorem Sys2Proof.Laws.Encodes.shli (r : Sys2Proof.RS) : Sys2Proof.Laws.Encodes.Statement (.shli r) :=
  Sys2Proof.encodes_one rfl (Sys2Proof.wI_major _ _ _ _ (by decide) (by have := r.n.isLt; omega)) (by decide)

theorem Sys2Proof.Laws.Encodes.shri (r : Sys2Proof.RS) : Sys2Proof.Laws.Encodes.Statement (.shri r) :=
  Sys2Proof.encodes_one rfl (Sys2Proof.wI_major _ _ _ _ (by decide) (by have := r.n.isLt; omega)) (by decide)

theorem Sys2Proof.Laws.Encodes.sari (r : Sys2Proof.RS) : Sys2Proof.Laws.Encodes.Statement (.sari r) :=
  Sys2Proof.encodes_one rfl (Sys2Proof.wI_major _ _ _ _ (by decide) (by have := r.n.isLt; omega)) (by decide)

theorem Sys2Proof.Laws.Encodes.rotli (r : Sys2Proof.RS) : Sys2Proof.Laws.Encodes.Statement (.rotli r) :=
  Sys2Proof.encodes_one rfl (Sys2Proof.wI_major _ _ _ _ (by decide) (by have := r.n.isLt; omega)) (by decide)

theorem Sys2Proof.Laws.Encodes.lui (r : Sys2Proof.RJ) : Sys2Proof.Laws.Encodes.Statement (.lui r) :=
  Sys2Proof.encodes_one rfl (Sys2Proof.wJ_major _ _ _ (by decide)) (by decide)

theorem Sys2Proof.Laws.Encodes.addpc (r : Sys2Proof.RJ) : Sys2Proof.Laws.Encodes.Statement (.addpc r) :=
  Sys2Proof.encodes_one rfl (Sys2Proof.wJ_major _ _ _ (by decide)) (by decide)

theorem Sys2Proof.Laws.Encodes.bfx (r : Sys2Proof.RF) : Sys2Proof.Laws.Encodes.Statement (.bfx r) :=
  Sys2Proof.encodes_one rfl (Sys2Proof.wF_major _ _ (by decide)) (by have := r.pos.isLt; omega)

theorem Sys2Proof.Laws.Encodes.bfxu (r : Sys2Proof.RF) : Sys2Proof.Laws.Encodes.Statement (.bfxu r) :=
  Sys2Proof.encodes_one rfl (Sys2Proof.wF_major _ _ (by decide)) (by have := r.pos.isLt; omega)

theorem Sys2Proof.Laws.Encodes.bfi (r : Sys2Proof.RF) : Sys2Proof.Laws.Encodes.Statement (.bfi r) :=
  Sys2Proof.encodes_one rfl (Sys2Proof.wF_major _ _ (by decide)) (by have := r.pos.isLt; omega)

theorem Sys2Proof.Laws.Encodes.fadd (r : Sys2Proof.F3) : Sys2Proof.Laws.Encodes.Statement (.fadd r) :=
  Sys2Proof.encodes_one rfl (Sys2Proof.wR_major _ _ _ _ _ (by decide) (by have := r.rm.isLt; have := Sys2Proof.b2n_lt r.dbl; omega)) (by decide)

theorem Sys2Proof.Laws.Encodes.fsub (r : Sys2Proof.F3) : Sys2Proof.Laws.Encodes.Statement (.fsub r) :=
  Sys2Proof.encodes_one rfl (Sys2Proof.wR_major _ _ _ _ _ (by decide) (by have := r.rm.isLt; have := Sys2Proof.b2n_lt r.dbl; omega)) (by decide)

theorem Sys2Proof.Laws.Encodes.fmul (r : Sys2Proof.F3) : Sys2Proof.Laws.Encodes.Statement (.fmul r) :=
  Sys2Proof.encodes_one rfl (Sys2Proof.wR_major _ _ _ _ _ (by decide) (by have := r.rm.isLt; have := Sys2Proof.b2n_lt r.dbl; omega)) (by decide)

theorem Sys2Proof.Laws.Encodes.fma (r : Sys2Proof.F3) : Sys2Proof.Laws.Encodes.Statement (.fma r) :=
  Sys2Proof.encodes_one rfl (Sys2Proof.wR_major _ _ _ _ _ (by decide) (by have := r.rm.isLt; have := Sys2Proof.b2n_lt r.dbl; omega)) (by decide)

theorem Sys2Proof.Laws.Encodes.fdiv (r : Sys2Proof.F3) : Sys2Proof.Laws.Encodes.Statement (.fdiv r) :=
  Sys2Proof.encodes_one rfl (Sys2Proof.wR_major _ _ _ _ _ (by decide) (by have := r.rm.isLt; have := Sys2Proof.b2n_lt r.dbl; omega)) (by decide)

theorem Sys2Proof.Laws.Encodes.fsqrt (r : Sys2Proof.F2) : Sys2Proof.Laws.Encodes.Statement (.fsqrt r) :=
  Sys2Proof.encodes_one rfl (Sys2Proof.wR_major _ _ _ _ _ (by decide) (by have := r.rm.isLt; have := Sys2Proof.b2n_lt r.dbl; omega)) (by decide)

theorem Sys2Proof.Laws.Encodes.fmin (r : Sys2Proof.FC) : Sys2Proof.Laws.Encodes.Statement (.fmin r) :=
  Sys2Proof.encodes_one rfl (Sys2Proof.wR_major _ _ _ _ _ (by decide) (by have := Sys2Proof.b2n_lt r.dbl; omega)) (by decide)

theorem Sys2Proof.Laws.Encodes.fmax (r : Sys2Proof.FC) : Sys2Proof.Laws.Encodes.Statement (.fmax r) :=
  Sys2Proof.encodes_one rfl (Sys2Proof.wR_major _ _ _ _ _ (by decide) (by have := Sys2Proof.b2n_lt r.dbl; omega)) (by decide)

theorem Sys2Proof.Laws.Encodes.fsgn (r : Sys2Proof.FC) : Sys2Proof.Laws.Encodes.Statement (.fsgn r) :=
  Sys2Proof.encodes_one rfl (Sys2Proof.wR_major _ _ _ _ _ (by decide) (by have := Sys2Proof.b2n_lt r.dbl; omega)) (by decide)

theorem Sys2Proof.Laws.Encodes.fcmp (r : Sys2Proof.FC) (cond : BitVec 3) : Sys2Proof.Laws.Encodes.Statement (.fcmp r cond) :=
  Sys2Proof.encodes_one rfl (Sys2Proof.wR_major _ _ _ _ _ (by decide) (by have := Sys2Proof.b2n_lt r.dbl; have := cond.isLt; omega)) (by decide)

theorem Sys2Proof.Laws.Encodes.fclass (r : Sys2Proof.FK) : Sys2Proof.Laws.Encodes.Statement (.fclass r) :=
  Sys2Proof.encodes_one rfl (Sys2Proof.wR_major _ _ _ _ _ (by decide) (by have := Sys2Proof.b2n_lt r.dbl; omega)) (by decide)

theorem Sys2Proof.Laws.Encodes.fcvt (r : Sys2Proof.FV) : Sys2Proof.Laws.Encodes.Statement (.fcvt r) :=
  Sys2Proof.encodes_one rfl (Sys2Proof.wI_major _ _ _ _ (by decide) (by have := r.rm.isLt; have := r.dt.isLt; have := r.st.isLt; omega)) (by decide)

theorem Sys2Proof.Laws.Encodes.fround (r : Sys2Proof.F2) : Sys2Proof.Laws.Encodes.Statement (.fround r) :=
  Sys2Proof.encodes_one rfl (Sys2Proof.wR_major _ _ _ _ _ (by decide) (by have := r.rm.isLt; have := Sys2Proof.b2n_lt r.dbl; omega)) (by decide)

theorem Sys2Proof.Laws.Encodes.bl (r : Sys2Proof.RJ) : Sys2Proof.Laws.Encodes.Statement (.bl r) :=
  Sys2Proof.encodes_one rfl (Sys2Proof.wJ_major _ _ _ (by decide)) (by decide)

theorem Sys2Proof.Laws.Encodes.jr (a : Sys2Proof.Reg) : Sys2Proof.Laws.Encodes.Statement (.jr a) :=
  Sys2Proof.encodes_one rfl (Sys2Proof.wR_major _ _ _ _ _ (by decide) (by omega)) (by decide)

theorem Sys2Proof.Laws.Encodes.jlr (r : Sys2Proof.R2) : Sys2Proof.Laws.Encodes.Statement (.jlr r) :=
  Sys2Proof.encodes_one rfl (Sys2Proof.wR_major _ _ _ _ _ (by decide) (by omega)) (by decide)

theorem Sys2Proof.Laws.Encodes.beq (r : Sys2Proof.RB) : Sys2Proof.Laws.Encodes.Statement (.beq r) :=
  Sys2Proof.encodes_one rfl (Sys2Proof.wI_major _ _ _ _ (by decide) (by have := r.off.isLt; omega)) (by decide)

theorem Sys2Proof.Laws.Encodes.bne (r : Sys2Proof.RB) : Sys2Proof.Laws.Encodes.Statement (.bne r) :=
  Sys2Proof.encodes_one rfl (Sys2Proof.wI_major _ _ _ _ (by decide) (by have := r.off.isLt; omega)) (by decide)

theorem Sys2Proof.Laws.Encodes.blt (r : Sys2Proof.RB) : Sys2Proof.Laws.Encodes.Statement (.blt r) :=
  Sys2Proof.encodes_one rfl (Sys2Proof.wI_major _ _ _ _ (by decide) (by have := r.off.isLt; omega)) (by decide)

theorem Sys2Proof.Laws.Encodes.bge (r : Sys2Proof.RB) : Sys2Proof.Laws.Encodes.Statement (.bge r) :=
  Sys2Proof.encodes_one rfl (Sys2Proof.wI_major _ _ _ _ (by decide) (by have := r.off.isLt; omega)) (by decide)

theorem Sys2Proof.Laws.Encodes.bltu (r : Sys2Proof.RB) : Sys2Proof.Laws.Encodes.Statement (.bltu r) :=
  Sys2Proof.encodes_one rfl (Sys2Proof.wI_major _ _ _ _ (by decide) (by have := r.off.isLt; omega)) (by decide)

theorem Sys2Proof.Laws.Encodes.bgeu (r : Sys2Proof.RB) : Sys2Proof.Laws.Encodes.Statement (.bgeu r) :=
  Sys2Proof.encodes_one rfl (Sys2Proof.wI_major _ _ _ _ (by decide) (by have := r.off.isLt; omega)) (by decide)

theorem Sys2Proof.Laws.Encodes.xborrow (r : Sys2Proof.R2) : Sys2Proof.Laws.Encodes.Statement (.xborrow r) :=
  Sys2Proof.encodes_one rfl (Sys2Proof.wR_major _ _ _ _ _ (by decide) (by omega)) (by decide)

theorem Sys2Proof.Laws.Encodes.xreturn : Sys2Proof.Laws.Encodes.Statement (.xreturn) :=
  Sys2Proof.encodes_one rfl (Sys2Proof.wR_major _ _ _ _ _ (by decide) (by omega)) (by decide)

theorem Sys2Proof.Laws.Encodes.xget (r : Sys2Proof.R2) : Sys2Proof.Laws.Encodes.Statement (.xget r) :=
  Sys2Proof.encodes_one rfl (Sys2Proof.wR_major _ _ _ _ _ (by decide) (by omega)) (by decide)

theorem Sys2Proof.Laws.Encodes.xput (j a : Sys2Proof.Reg) : Sys2Proof.Laws.Encodes.Statement (.xput j a) :=
  Sys2Proof.encodes_one rfl (Sys2Proof.wR_major _ _ _ _ _ (by decide) (by omega)) (by decide)

theorem Sys2Proof.Laws.Encodes.ldB (m : Sys2Proof.MemOp) : Sys2Proof.Laws.Encodes.Statement (.ldB m) :=
  Sys2Proof.encodes_one rfl (Sys2Proof.wM_major _ _ (by decide)) (by decide)

theorem Sys2Proof.Laws.Encodes.ldH (m : Sys2Proof.MemOp) : Sys2Proof.Laws.Encodes.Statement (.ldH m) :=
  Sys2Proof.encodes_one rfl (Sys2Proof.wM_major _ _ (by decide)) (by decide)

theorem Sys2Proof.Laws.Encodes.ldW (m : Sys2Proof.MemOp) : Sys2Proof.Laws.Encodes.Statement (.ldW m) :=
  Sys2Proof.encodes_one rfl (Sys2Proof.wM_major _ _ (by decide)) (by decide)

theorem Sys2Proof.Laws.Encodes.ldD (m : Sys2Proof.MemOp) : Sys2Proof.Laws.Encodes.Statement (.ldD m) :=
  Sys2Proof.encodes_one rfl (Sys2Proof.wM_major _ _ (by decide)) (by decide)

theorem Sys2Proof.Laws.Encodes.ldBu (m : Sys2Proof.MemOp) : Sys2Proof.Laws.Encodes.Statement (.ldBu m) :=
  Sys2Proof.encodes_one rfl (Sys2Proof.wM_major _ _ (by decide)) (by decide)

theorem Sys2Proof.Laws.Encodes.ldHu (m : Sys2Proof.MemOp) : Sys2Proof.Laws.Encodes.Statement (.ldHu m) :=
  Sys2Proof.encodes_one rfl (Sys2Proof.wM_major _ _ (by decide)) (by decide)

theorem Sys2Proof.Laws.Encodes.ldWu (m : Sys2Proof.MemOp) : Sys2Proof.Laws.Encodes.Statement (.ldWu m) :=
  Sys2Proof.encodes_one rfl (Sys2Proof.wM_major _ _ (by decide)) (by decide)

theorem Sys2Proof.Laws.Encodes.stB (m : Sys2Proof.MemOp) : Sys2Proof.Laws.Encodes.Statement (.stB m) :=
  Sys2Proof.encodes_one rfl (Sys2Proof.wM_major _ _ (by decide)) (by decide)

theorem Sys2Proof.Laws.Encodes.stH (m : Sys2Proof.MemOp) : Sys2Proof.Laws.Encodes.Statement (.stH m) :=
  Sys2Proof.encodes_one rfl (Sys2Proof.wM_major _ _ (by decide)) (by decide)

theorem Sys2Proof.Laws.Encodes.stW (m : Sys2Proof.MemOp) : Sys2Proof.Laws.Encodes.Statement (.stW m) :=
  Sys2Proof.encodes_one rfl (Sys2Proof.wM_major _ _ (by decide)) (by decide)

theorem Sys2Proof.Laws.Encodes.stD (m : Sys2Proof.MemOp) : Sys2Proof.Laws.Encodes.Statement (.stD m) :=
  Sys2Proof.encodes_one rfl (Sys2Proof.wM_major _ _ (by decide)) (by decide)

theorem Sys2Proof.Laws.Encodes.ldfe (m : Sys2Proof.MemOp) : Sys2Proof.Laws.Encodes.Statement (.ldfe m) :=
  Sys2Proof.encodes_one rfl (Sys2Proof.wM_major _ _ (by decide)) (by decide)

theorem Sys2Proof.Laws.Encodes.ldff (m : Sys2Proof.MemOp) : Sys2Proof.Laws.Encodes.Statement (.ldff m) :=
  Sys2Proof.encodes_one rfl (Sys2Proof.wM_major _ _ (by decide)) (by decide)

theorem Sys2Proof.Laws.Encodes.stfe (m : Sys2Proof.MemOp) : Sys2Proof.Laws.Encodes.Statement (.stfe m) :=
  Sys2Proof.encodes_one rfl (Sys2Proof.wM_major _ _ (by decide)) (by decide)

theorem Sys2Proof.Laws.Encodes.stf (m : Sys2Proof.MemOp) : Sys2Proof.Laws.Encodes.Statement (.stf m) :=
  Sys2Proof.encodes_one rfl (Sys2Proof.wM_major _ _ (by decide)) (by decide)

theorem Sys2Proof.Laws.Encodes.fest (m : Sys2Proof.MemOp) : Sys2Proof.Laws.Encodes.Statement (.fest m) :=
  Sys2Proof.encodes_one rfl (Sys2Proof.wM_major _ _ (by decide)) (by decide)

theorem Sys2Proof.Laws.Encodes.amoAdd (m : Sys2Proof.AmoOp) : Sys2Proof.Laws.Encodes.Statement (.amoAdd m) :=
  Sys2Proof.encodes_one rfl (Sys2Proof.wA_major _ _ _ (by decide) (by decide)) (by have := Sys2Proof.b2n_lt m.wide; omega)

theorem Sys2Proof.Laws.Encodes.amoAnd (m : Sys2Proof.AmoOp) : Sys2Proof.Laws.Encodes.Statement (.amoAnd m) :=
  Sys2Proof.encodes_one rfl (Sys2Proof.wA_major _ _ _ (by decide) (by decide)) (by have := Sys2Proof.b2n_lt m.wide; omega)

theorem Sys2Proof.Laws.Encodes.amoOr (m : Sys2Proof.AmoOp) : Sys2Proof.Laws.Encodes.Statement (.amoOr m) :=
  Sys2Proof.encodes_one rfl (Sys2Proof.wA_major _ _ _ (by decide) (by decide)) (by have := Sys2Proof.b2n_lt m.wide; omega)

theorem Sys2Proof.Laws.Encodes.amoXor (m : Sys2Proof.AmoOp) : Sys2Proof.Laws.Encodes.Statement (.amoXor m) :=
  Sys2Proof.encodes_one rfl (Sys2Proof.wA_major _ _ _ (by decide) (by decide)) (by have := Sys2Proof.b2n_lt m.wide; omega)

theorem Sys2Proof.Laws.Encodes.amoMin (m : Sys2Proof.AmoOp) : Sys2Proof.Laws.Encodes.Statement (.amoMin m) :=
  Sys2Proof.encodes_one rfl (Sys2Proof.wA_major _ _ _ (by decide) (by decide)) (by have := Sys2Proof.b2n_lt m.wide; omega)

theorem Sys2Proof.Laws.Encodes.amoMax (m : Sys2Proof.AmoOp) : Sys2Proof.Laws.Encodes.Statement (.amoMax m) :=
  Sys2Proof.encodes_one rfl (Sys2Proof.wA_major _ _ _ (by decide) (by decide)) (by have := Sys2Proof.b2n_lt m.wide; omega)

theorem Sys2Proof.Laws.Encodes.amoMinu (m : Sys2Proof.AmoOp) : Sys2Proof.Laws.Encodes.Statement (.amoMinu m) :=
  Sys2Proof.encodes_one rfl (Sys2Proof.wA_major _ _ _ (by decide) (by decide)) (by have := Sys2Proof.b2n_lt m.wide; omega)

theorem Sys2Proof.Laws.Encodes.amoMaxu (m : Sys2Proof.AmoOp) : Sys2Proof.Laws.Encodes.Statement (.amoMaxu m) :=
  Sys2Proof.encodes_one rfl (Sys2Proof.wA_major _ _ _ (by decide) (by decide)) (by have := Sys2Proof.b2n_lt m.wide; omega)

theorem Sys2Proof.Laws.Encodes.amoSwap (m : Sys2Proof.AmoOp) : Sys2Proof.Laws.Encodes.Statement (.amoSwap m) :=
  Sys2Proof.encodes_one rfl (Sys2Proof.wA_major _ _ _ (by decide) (by decide)) (by have := Sys2Proof.b2n_lt m.wide; omega)

theorem Sys2Proof.Laws.Encodes.cas (m : Sys2Proof.AmoOp) : Sys2Proof.Laws.Encodes.Statement (.cas m) :=
  Sys2Proof.encodes_one rfl (Sys2Proof.wA_major _ _ _ (by decide) (by decide)) (by have := Sys2Proof.b2n_lt m.wide; omega)

theorem Sys2Proof.Laws.Encodes.famoFadd (m : Sys2Proof.AmoOp) : Sys2Proof.Laws.Encodes.Statement (.famoFadd m) :=
  Sys2Proof.encodes_one rfl (Sys2Proof.wA_major _ _ _ (by decide) (by decide)) (by have := Sys2Proof.b2n_lt m.wide; omega)

theorem Sys2Proof.Laws.Encodes.famoFmin (m : Sys2Proof.AmoOp) : Sys2Proof.Laws.Encodes.Statement (.famoFmin m) :=
  Sys2Proof.encodes_one rfl (Sys2Proof.wA_major _ _ _ (by decide) (by decide)) (by have := Sys2Proof.b2n_lt m.wide; omega)

theorem Sys2Proof.Laws.Encodes.famoFmax (m : Sys2Proof.AmoOp) : Sys2Proof.Laws.Encodes.Statement (.famoFmax m) :=
  Sys2Proof.encodes_one rfl (Sys2Proof.wA_major _ _ _ (by decide) (by decide)) (by have := Sys2Proof.b2n_lt m.wide; omega)

theorem Sys2Proof.Laws.Encodes.fence (scope : BitVec 3) : Sys2Proof.Laws.Encodes.Statement (.fence scope) :=
  Sys2Proof.encodes_one rfl (Sys2Proof.wR_major _ _ _ _ _ (by decide) (by have := scope.isLt; omega)) (by decide)

theorem Sys2Proof.Laws.Encodes.fenceSc (scope : BitVec 3) : Sys2Proof.Laws.Encodes.Statement (.fenceSc scope) :=
  Sys2Proof.encodes_one rfl (Sys2Proof.wR_major _ _ _ _ _ (by decide) (by have := scope.isLt; omega)) (by decide)

theorem Sys2Proof.Laws.Encodes.waitk (mask : BitVec 3) : Sys2Proof.Laws.Encodes.Statement (.waitk mask) :=
  Sys2Proof.encodes_one rfl (Sys2Proof.wR_major _ _ _ _ _ (by decide) (by have := mask.isLt; omega)) (by decide)

theorem Sys2Proof.Laws.Encodes.scope (r : Sys2Proof.R3) : Sys2Proof.Laws.Encodes.Statement (.scope r) :=
  Sys2Proof.encodes_one rfl (Sys2Proof.wR_major _ _ _ _ _ (by decide) (by omega)) (by decide)

theorem Sys2Proof.Laws.Encodes.semp (n : BitVec 6) : Sys2Proof.Laws.Encodes.Statement (.semp n) :=
  Sys2Proof.encodes_one rfl (Sys2Proof.wI_major _ _ _ _ (by decide) (by have := n.isLt; omega)) (by decide)

theorem Sys2Proof.Laws.Encodes.semv (n : BitVec 6) : Sys2Proof.Laws.Encodes.Statement (.semv n) :=
  Sys2Proof.encodes_one rfl (Sys2Proof.wI_major _ _ _ _ (by decide) (by have := n.isLt; omega)) (by decide)

theorem Sys2Proof.Laws.Encodes.bar (scope u : BitVec 3) : Sys2Proof.Laws.Encodes.Statement (.bar scope u) :=
  Sys2Proof.encodes_one rfl (Sys2Proof.wI_major _ _ _ _ (by decide) (by have := scope.isLt; have := u.isLt; omega)) (by decide)

theorem Sys2Proof.Laws.Encodes.step : Sys2Proof.Laws.Encodes.Statement (.step) :=
  Sys2Proof.encodes_one rfl (Sys2Proof.wI_major _ _ _ _ (by decide) (by omega)) (by decide)

theorem Sys2Proof.Laws.Encodes.rdtime (d : Sys2Proof.Reg) : Sys2Proof.Laws.Encodes.Statement (.rdtime d) :=
  Sys2Proof.encodes_one rfl (Sys2Proof.wR_major _ _ _ _ _ (by decide) (by omega)) (by decide)

theorem Sys2Proof.Laws.Encodes.attime (a : Sys2Proof.Reg) : Sys2Proof.Laws.Encodes.Statement (.attime a) :=
  Sys2Proof.encodes_one rfl (Sys2Proof.wR_major _ _ _ _ _ (by decide) (by omega)) (by decide)

theorem Sys2Proof.Laws.Encodes.waitw : Sys2Proof.Laws.Encodes.Statement (.waitw) :=
  Sys2Proof.encodes_one rfl (Sys2Proof.wR_major _ _ _ _ _ (by decide) (by omega)) (by decide)

theorem Sys2Proof.Laws.Encodes.done : Sys2Proof.Laws.Encodes.Statement (.done) :=
  Sys2Proof.encodes_one rfl (Sys2Proof.wR_major _ _ _ _ _ (by decide) (by omega)) (by decide)

theorem Sys2Proof.Laws.Encodes.trig : Sys2Proof.Laws.Encodes.Statement (.trig) :=
  Sys2Proof.encodes_one rfl (Sys2Proof.wR_major _ _ _ _ _ (by decide) (by omega)) (by decide)

theorem Sys2Proof.Laws.Encodes.post (a b : Sys2Proof.Reg) : Sys2Proof.Laws.Encodes.Statement (.post a b) :=
  Sys2Proof.encodes_one rfl (Sys2Proof.wR_major _ _ _ _ _ (by decide) (by omega)) (by decide)

theorem Sys2Proof.Laws.Encodes.evwait (a : Sys2Proof.Reg) : Sys2Proof.Laws.Encodes.Statement (.evwait a) :=
  Sys2Proof.encodes_one rfl (Sys2Proof.wR_major _ _ _ _ _ (by decide) (by omega)) (by decide)

theorem Sys2Proof.Laws.Encodes.evpoll (r : Sys2Proof.R2) : Sys2Proof.Laws.Encodes.Statement (.evpoll r) :=
  Sys2Proof.encodes_one rfl (Sys2Proof.wR_major _ _ _ _ _ (by decide) (by omega)) (by decide)

theorem Sys2Proof.Laws.Encodes.evclr (a : Sys2Proof.Reg) : Sys2Proof.Laws.Encodes.Statement (.evclr a) :=
  Sys2Proof.encodes_one rfl (Sys2Proof.wR_major _ _ _ _ _ (by decide) (by omega)) (by decide)

theorem Sys2Proof.Laws.Encodes.popr (d : Sys2Proof.Reg) : Sys2Proof.Laws.Encodes.Statement (.popr d) :=
  Sys2Proof.encodes_one rfl (Sys2Proof.wR_major _ _ _ _ _ (by decide) (by omega)) (by decide)

theorem Sys2Proof.Laws.Encodes.peekr (d : Sys2Proof.Reg) : Sys2Proof.Laws.Encodes.Statement (.peekr d) :=
  Sys2Proof.encodes_one rfl (Sys2Proof.wR_major _ _ _ _ _ (by decide) (by omega)) (by decide)

theorem Sys2Proof.Laws.Encodes.send (a b : Sys2Proof.Reg) (w : BitVec 3) : Sys2Proof.Laws.Encodes.Statement (.send a b w) :=
  Sys2Proof.encodes_one rfl (Sys2Proof.wR_major _ _ _ _ _ (by decide) (by have := w.isLt; omega)) (by decide)

theorem Sys2Proof.Laws.Encodes.recv (r : Sys2Proof.R2) : Sys2Proof.Laws.Encodes.Statement (.recv r) :=
  Sys2Proof.encodes_one rfl (Sys2Proof.wR_major _ _ _ _ _ (by decide) (by omega)) (by decide)

theorem Sys2Proof.Laws.Encodes.tbldef (a b : Sys2Proof.Reg) : Sys2Proof.Laws.Encodes.Statement (.tbldef a b) :=
  Sys2Proof.encodes_one rfl (Sys2Proof.wR_major _ _ _ _ _ (by decide) (by omega)) (by decide)

theorem Sys2Proof.Laws.Encodes.tblinv (a : Sys2Proof.Reg) : Sys2Proof.Laws.Encodes.Statement (.tblinv a) :=
  Sys2Proof.encodes_one rfl (Sys2Proof.wR_major _ _ _ _ _ (by decide) (by omega)) (by decide)

theorem Sys2Proof.Laws.Encodes.shardof (r : Sys2Proof.R3) : Sys2Proof.Laws.Encodes.Statement (.shardof r) :=
  Sys2Proof.encodes_one rfl (Sys2Proof.wR_major _ _ _ _ _ (by decide) (by omega)) (by decide)

theorem Sys2Proof.Laws.Encodes.gather (x : Sys2Proof.XC) : Sys2Proof.Laws.Encodes.Statement (.gather x) :=
  Sys2Proof.encodes_one rfl (Sys2Proof.wR_major _ _ _ _ _ (by decide) (by have := x.ev.isLt; omega)) (by decide)

theorem Sys2Proof.Laws.Encodes.scatter (x : Sys2Proof.XC) : Sys2Proof.Laws.Encodes.Statement (.scatter x) :=
  Sys2Proof.encodes_one rfl (Sys2Proof.wR_major _ _ _ _ _ (by decide) (by have := x.ev.isLt; omega)) (by decide)

theorem Sys2Proof.Laws.Encodes.scadd (x : Sys2Proof.XC) : Sys2Proof.Laws.Encodes.Statement (.scadd x) :=
  Sys2Proof.encodes_one rfl (Sys2Proof.wR_major _ _ _ _ _ (by decide) (by have := x.ev.isLt; omega)) (by decide)

theorem Sys2Proof.Laws.Encodes.dedup (x : Sys2Proof.XC) : Sys2Proof.Laws.Encodes.Statement (.dedup x) :=
  Sys2Proof.encodes_one rfl (Sys2Proof.wR_major _ _ _ _ _ (by decide) (by have := x.ev.isLt; omega)) (by decide)

theorem Sys2Proof.Laws.Encodes.segred (x : Sys2Proof.XC) : Sys2Proof.Laws.Encodes.Statement (.segred x) :=
  Sys2Proof.encodes_one rfl (Sys2Proof.wR_major _ _ _ _ _ (by decide) (by have := x.ev.isLt; omega)) (by decide)

theorem Sys2Proof.Laws.Encodes.isect (x : Sys2Proof.XC) : Sys2Proof.Laws.Encodes.Statement (.isect x) :=
  Sys2Proof.encodes_one rfl (Sys2Proof.wR_major _ _ _ _ _ (by decide) (by have := x.ev.isLt; omega)) (by decide)

theorem Sys2Proof.Laws.Encodes.gatherLong (x : Sys2Proof.XL) : Sys2Proof.Laws.Encodes.Statement (.gatherLong x) :=
  Sys2Proof.encodes_two rfl (Sys2Proof.wI_major _ _ _ _ (by decide) (by have := x.ev.isLt; omega))

theorem Sys2Proof.Laws.Encodes.scatterLong (x : Sys2Proof.XL) : Sys2Proof.Laws.Encodes.Statement (.scatterLong x) :=
  Sys2Proof.encodes_two rfl (Sys2Proof.wI_major _ _ _ _ (by decide) (by have := x.ev.isLt; omega))

theorem Sys2Proof.Laws.Encodes.scaddLong (x : Sys2Proof.XL) : Sys2Proof.Laws.Encodes.Statement (.scaddLong x) :=
  Sys2Proof.encodes_two rfl (Sys2Proof.wI_major _ _ _ _ (by decide) (by have := x.ev.isLt; omega))

theorem Sys2Proof.Laws.Encodes.dedupLong (x : Sys2Proof.XL) : Sys2Proof.Laws.Encodes.Statement (.dedupLong x) :=
  Sys2Proof.encodes_two rfl (Sys2Proof.wI_major _ _ _ _ (by decide) (by have := x.ev.isLt; omega))

theorem Sys2Proof.Laws.Encodes.segredLong (x : Sys2Proof.XL) : Sys2Proof.Laws.Encodes.Statement (.segredLong x) :=
  Sys2Proof.encodes_two rfl (Sys2Proof.wI_major _ _ _ _ (by decide) (by have := x.ev.isLt; omega))

theorem Sys2Proof.Laws.Encodes.isectLong (x : Sys2Proof.XL) : Sys2Proof.Laws.Encodes.Statement (.isectLong x) :=
  Sys2Proof.encodes_two rfl (Sys2Proof.wI_major _ _ _ _ (by decide) (by have := x.ev.isLt; omega))

theorem Sys2Proof.Laws.Encodes.rowget (x : Sys2Proof.XC) : Sys2Proof.Laws.Encodes.Statement (.rowget x) :=
  Sys2Proof.encodes_one rfl (Sys2Proof.wR_major _ _ _ _ _ (by decide) (by have := x.ev.isLt; omega)) (by decide)

theorem Sys2Proof.Laws.Encodes.rowput (x : Sys2Proof.XC) : Sys2Proof.Laws.Encodes.Statement (.rowput x) :=
  Sys2Proof.encodes_one rfl (Sys2Proof.wR_major _ _ _ _ _ (by decide) (by have := x.ev.isLt; omega)) (by decide)

theorem Sys2Proof.Laws.Encodes.rowadd (x : Sys2Proof.XC) : Sys2Proof.Laws.Encodes.Statement (.rowadd x) :=
  Sys2Proof.encodes_one rfl (Sys2Proof.wR_major _ _ _ _ _ (by decide) (by have := x.ev.isLt; omega)) (by decide)

theorem Sys2Proof.Laws.Encodes.rowaxpy (x : Sys2Proof.XC) : Sys2Proof.Laws.Encodes.Statement (.rowaxpy x) :=
  Sys2Proof.encodes_one rfl (Sys2Proof.wR_major _ _ _ _ _ (by decide) (by have := x.ev.isLt; omega)) (by decide)

theorem Sys2Proof.Laws.Encodes.rowscale (x : Sys2Proof.XC) : Sys2Proof.Laws.Encodes.Statement (.rowscale x) :=
  Sys2Proof.encodes_one rfl (Sys2Proof.wR_major _ _ _ _ _ (by decide) (by have := x.ev.isLt; omega)) (by decide)

theorem Sys2Proof.Laws.Encodes.rowdot (x : Sys2Proof.XC) : Sys2Proof.Laws.Encodes.Statement (.rowdot x) :=
  Sys2Proof.encodes_one rfl (Sys2Proof.wR_major _ _ _ _ _ (by decide) (by have := x.ev.isLt; omega)) (by decide)

theorem Sys2Proof.Laws.Encodes.rowcvt (x : Sys2Proof.X2) : Sys2Proof.Laws.Encodes.Statement (.rowcvt x) :=
  Sys2Proof.encodes_one rfl (Sys2Proof.wR_major _ _ _ _ _ (by decide) (by have := x.ev.isLt; omega)) (by decide)

theorem Sys2Proof.Laws.Encodes.rowzero (x : Sys2Proof.X2) : Sys2Proof.Laws.Encodes.Statement (.rowzero x) :=
  Sys2Proof.encodes_one rfl (Sys2Proof.wR_major _ _ _ _ _ (by decide) (by have := x.ev.isLt; omega)) (by decide)

theorem Sys2Proof.Laws.Encodes.rowcopy (x : Sys2Proof.X2) : Sys2Proof.Laws.Encodes.Statement (.rowcopy x) :=
  Sys2Proof.encodes_one rfl (Sys2Proof.wR_major _ _ _ _ _ (by decide) (by have := x.ev.isLt; omega)) (by decide)

theorem Sys2Proof.Laws.Encodes.rowtopk (x : Sys2Proof.XC) : Sys2Proof.Laws.Encodes.Statement (.rowtopk x) :=
  Sys2Proof.encodes_one rfl (Sys2Proof.wR_major _ _ _ _ _ (by decide) (by have := x.ev.isLt; omega)) (by decide)

theorem Sys2Proof.Laws.Encodes.rowgetLong (x : Sys2Proof.XL) : Sys2Proof.Laws.Encodes.Statement (.rowgetLong x) :=
  Sys2Proof.encodes_two rfl (Sys2Proof.wI_major _ _ _ _ (by decide) (by have := x.ev.isLt; omega))

theorem Sys2Proof.Laws.Encodes.rowputLong (x : Sys2Proof.XL) : Sys2Proof.Laws.Encodes.Statement (.rowputLong x) :=
  Sys2Proof.encodes_two rfl (Sys2Proof.wI_major _ _ _ _ (by decide) (by have := x.ev.isLt; omega))

theorem Sys2Proof.Laws.Encodes.rowaddLong (x : Sys2Proof.XL) : Sys2Proof.Laws.Encodes.Statement (.rowaddLong x) :=
  Sys2Proof.encodes_two rfl (Sys2Proof.wI_major _ _ _ _ (by decide) (by have := x.ev.isLt; omega))

theorem Sys2Proof.Laws.Encodes.rowaxpyLong (x : Sys2Proof.XL) : Sys2Proof.Laws.Encodes.Statement (.rowaxpyLong x) :=
  Sys2Proof.encodes_two rfl (Sys2Proof.wI_major _ _ _ _ (by decide) (by have := x.ev.isLt; omega))

theorem Sys2Proof.Laws.Encodes.rowscaleLong (x : Sys2Proof.XL) : Sys2Proof.Laws.Encodes.Statement (.rowscaleLong x) :=
  Sys2Proof.encodes_two rfl (Sys2Proof.wI_major _ _ _ _ (by decide) (by have := x.ev.isLt; omega))

theorem Sys2Proof.Laws.Encodes.rowdotLong (x : Sys2Proof.XL) : Sys2Proof.Laws.Encodes.Statement (.rowdotLong x) :=
  Sys2Proof.encodes_two rfl (Sys2Proof.wI_major _ _ _ _ (by decide) (by have := x.ev.isLt; omega))

theorem Sys2Proof.Laws.Encodes.rowcvtLong (x : Sys2Proof.X2L) : Sys2Proof.Laws.Encodes.Statement (.rowcvtLong x) :=
  Sys2Proof.encodes_two rfl (Sys2Proof.wI_major _ _ _ _ (by decide) (by have := x.ev.isLt; omega))

theorem Sys2Proof.Laws.Encodes.rowzeroLong (x : Sys2Proof.X2L) : Sys2Proof.Laws.Encodes.Statement (.rowzeroLong x) :=
  Sys2Proof.encodes_two rfl (Sys2Proof.wI_major _ _ _ _ (by decide) (by have := x.ev.isLt; omega))

theorem Sys2Proof.Laws.Encodes.rowcopyLong (x : Sys2Proof.X2L) : Sys2Proof.Laws.Encodes.Statement (.rowcopyLong x) :=
  Sys2Proof.encodes_two rfl (Sys2Proof.wI_major _ _ _ _ (by decide) (by have := x.ev.isLt; omega))

theorem Sys2Proof.Laws.Encodes.rowtopkLong (x : Sys2Proof.XL) : Sys2Proof.Laws.Encodes.Statement (.rowtopkLong x) :=
  Sys2Proof.encodes_two rfl (Sys2Proof.wI_major _ _ _ _ (by decide) (by have := x.ev.isLt; omega))

theorem Sys2Proof.Laws.Encodes.mclaim (slot : Sys2Proof.Reg) : Sys2Proof.Laws.Encodes.Statement (.mclaim slot) :=
  Sys2Proof.encodes_one rfl (Sys2Proof.wR_major _ _ _ _ _ (by decide) (by omega)) (by decide)

theorem Sys2Proof.Laws.Encodes.mrel (slot : Sys2Proof.Reg) : Sys2Proof.Laws.Encodes.Statement (.mrel slot) :=
  Sys2Proof.encodes_one rfl (Sys2Proof.wR_major _ _ _ _ _ (by decide) (by omega)) (by decide)

theorem Sys2Proof.Laws.Encodes.mload (x : Sys2Proof.XC) : Sys2Proof.Laws.Encodes.Statement (.mload x) :=
  Sys2Proof.encodes_one rfl (Sys2Proof.wR_major _ _ _ _ _ (by decide) (by have := x.ev.isLt; omega)) (by decide)

theorem Sys2Proof.Laws.Encodes.msplit (x : Sys2Proof.XC) : Sys2Proof.Laws.Encodes.Statement (.msplit x) :=
  Sys2Proof.encodes_one rfl (Sys2Proof.wR_major _ _ _ _ _ (by decide) (by have := x.ev.isLt; omega)) (by decide)

theorem Sys2Proof.Laws.Encodes.mmul (x : Sys2Proof.XC) : Sys2Proof.Laws.Encodes.Statement (.mmul x) :=
  Sys2Proof.encodes_one rfl (Sys2Proof.wR_major _ _ _ _ _ (by decide) (by have := x.ev.isLt; omega)) (by decide)

theorem Sys2Proof.Laws.Encodes.mslice (x : Sys2Proof.XC) : Sys2Proof.Laws.Encodes.Statement (.mslice x) :=
  Sys2Proof.encodes_one rfl (Sys2Proof.wR_major _ _ _ _ _ (by decide) (by have := x.ev.isLt; omega)) (by decide)

theorem Sys2Proof.Laws.Encodes.mcomb (x : Sys2Proof.X2) : Sys2Proof.Laws.Encodes.Statement (.mcomb x) :=
  Sys2Proof.encodes_one rfl (Sys2Proof.wR_major _ _ _ _ _ (by decide) (by have := x.ev.isLt; omega)) (by decide)

theorem Sys2Proof.Laws.Encodes.mzero (tile : Sys2Proof.Reg) : Sys2Proof.Laws.Encodes.Statement (.mzero tile) :=
  Sys2Proof.encodes_one rfl (Sys2Proof.wR_major _ _ _ _ _ (by decide) (by omega)) (by decide)

theorem Sys2Proof.Laws.Encodes.mdrain (x : Sys2Proof.XC) : Sys2Proof.Laws.Encodes.Statement (.mdrain x) :=
  Sys2Proof.encodes_one rfl (Sys2Proof.wR_major _ _ _ _ _ (by decide) (by have := x.ev.isLt; omega)) (by decide)

theorem Sys2Proof.Laws.Encodes.mloadLong (x : Sys2Proof.XL) : Sys2Proof.Laws.Encodes.Statement (.mloadLong x) :=
  Sys2Proof.encodes_two rfl (Sys2Proof.wI_major _ _ _ _ (by decide) (by have := x.ev.isLt; omega))

theorem Sys2Proof.Laws.Encodes.msplitLong (x : Sys2Proof.XL) : Sys2Proof.Laws.Encodes.Statement (.msplitLong x) :=
  Sys2Proof.encodes_two rfl (Sys2Proof.wI_major _ _ _ _ (by decide) (by have := x.ev.isLt; omega))

theorem Sys2Proof.Laws.Encodes.mmulLong (x : Sys2Proof.XL) : Sys2Proof.Laws.Encodes.Statement (.mmulLong x) :=
  Sys2Proof.encodes_two rfl (Sys2Proof.wI_major _ _ _ _ (by decide) (by have := x.ev.isLt; omega))

theorem Sys2Proof.Laws.Encodes.msliceLong (x : Sys2Proof.XL) : Sys2Proof.Laws.Encodes.Statement (.msliceLong x) :=
  Sys2Proof.encodes_two rfl (Sys2Proof.wI_major _ _ _ _ (by decide) (by have := x.ev.isLt; omega))

theorem Sys2Proof.Laws.Encodes.mcombLong (x : Sys2Proof.X2L) : Sys2Proof.Laws.Encodes.Statement (.mcombLong x) :=
  Sys2Proof.encodes_two rfl (Sys2Proof.wI_major _ _ _ _ (by decide) (by have := x.ev.isLt; omega))

theorem Sys2Proof.Laws.Encodes.mdrainLong (x : Sys2Proof.XL) : Sys2Proof.Laws.Encodes.Statement (.mdrainLong x) :=
  Sys2Proof.encodes_two rfl (Sys2Proof.wI_major _ _ _ _ (by decide) (by have := x.ev.isLt; omega))

theorem Sys2Proof.Laws.Encodes.mrdacc (d tile b : Sys2Proof.Reg) : Sys2Proof.Laws.Encodes.Statement (.mrdacc d tile b) :=
  Sys2Proof.encodes_one rfl (Sys2Proof.wR_major _ _ _ _ _ (by decide) (by omega)) (by decide)

theorem Sys2Proof.Laws.Encodes.mwracc (tile a b : Sys2Proof.Reg) : Sys2Proof.Laws.Encodes.Statement (.mwracc tile a b) :=
  Sys2Proof.encodes_one rfl (Sys2Proof.wR_major _ _ _ _ _ (by decide) (by omega)) (by decide)

theorem Sys2Proof.Laws.Encodes.mstat (d tile : Sys2Proof.Reg) : Sys2Proof.Laws.Encodes.Statement (.mstat d tile) :=
  Sys2Proof.encodes_one rfl (Sys2Proof.wR_major _ _ _ _ _ (by decide) (by omega)) (by decide)

theorem Sys2Proof.Laws.Encodes.ecall : Sys2Proof.Laws.Encodes.Statement (.ecall) :=
  Sys2Proof.encodes_one rfl (Sys2Proof.wR_major _ _ _ _ _ (by decide) (by omega)) (by decide)

theorem Sys2Proof.Laws.Encodes.eret : Sys2Proof.Laws.Encodes.Statement (.eret) :=
  Sys2Proof.encodes_one rfl (Sys2Proof.wR_major _ _ _ _ _ (by decide) (by omega)) (by decide)

theorem Sys2Proof.Laws.Encodes.brk : Sys2Proof.Laws.Encodes.Statement (.brk) :=
  Sys2Proof.encodes_one rfl (Sys2Proof.wR_major _ _ _ _ _ (by decide) (by omega)) (by decide)

theorem Sys2Proof.Laws.Encodes.trapc (a : Sys2Proof.Reg) : Sys2Proof.Laws.Encodes.Statement (.trapc a) :=
  Sys2Proof.encodes_one rfl (Sys2Proof.wR_major _ _ _ _ _ (by decide) (by omega)) (by decide)

theorem Sys2Proof.Laws.Encodes.wfi : Sys2Proof.Laws.Encodes.Statement (.wfi) :=
  Sys2Proof.encodes_one rfl (Sys2Proof.wR_major _ _ _ _ _ (by decide) (by omega)) (by decide)

theorem Sys2Proof.Laws.Encodes.rdc (d : Sys2Proof.Reg) (n : BitVec 4) : Sys2Proof.Laws.Encodes.Statement (.rdc d n) :=
  Sys2Proof.encodes_one rfl (Sys2Proof.wI_major _ _ _ _ (by decide) (by have := n.isLt; omega)) (by decide)

theorem Sys2Proof.Laws.Encodes.wrc (a : Sys2Proof.Reg) (n : BitVec 4) : Sys2Proof.Laws.Encodes.Statement (.wrc a n) :=
  Sys2Proof.encodes_one rfl (Sys2Proof.wI_major _ _ _ _ (by decide) (by have := n.isLt; omega)) (by decide)

theorem Sys2Proof.Laws.Encodes.iinv (a b : Sys2Proof.Reg) : Sys2Proof.Laws.Encodes.Statement (.iinv a b) :=
  Sys2Proof.encodes_one rfl (Sys2Proof.wR_major _ _ _ _ _ (by decide) (by omega)) (by decide)

theorem Sys2Proof.Laws.Encodes.ifence : Sys2Proof.Laws.Encodes.Statement (.ifence) :=
  Sys2Proof.encodes_one rfl (Sys2Proof.wR_major _ _ _ _ _ (by decide) (by omega)) (by decide)

theorem Sys2Proof.Laws.Encodes.xinv (a b : Sys2Proof.Reg) : Sys2Proof.Laws.Encodes.Statement (.xinv a b) :=
  Sys2Proof.encodes_one rfl (Sys2Proof.wR_major _ _ _ _ _ (by decide) (by omega)) (by decide)

theorem Sys2Proof.Laws.Encodes.taskPlacement (station : Nat) : Sys2Proof.Laws.Encodes.Statement (.taskPlacement station) := Sys2Proof.encodes_none rfl

theorem Sys2Proof.Laws.Encodes.priorityAging (ctx : Nat) : Sys2Proof.Laws.Encodes.Statement (.priorityAging ctx) := Sys2Proof.encodes_none rfl

theorem Sys2Proof.Laws.Encodes.stepTimeout (t : Sys2Proof.ThreadId) : Sys2Proof.Laws.Encodes.Statement (.stepTimeout t) := Sys2Proof.encodes_none rfl

theorem Sys2Proof.Laws.Encodes.rotLengthChange (core : Nat) : Sys2Proof.Laws.Encodes.Statement (.rotLengthChange core) := Sys2Proof.encodes_none rfl

theorem Sys2Proof.Laws.Encodes.remoteAccessArrival (id : Nat) : Sys2Proof.Laws.Encodes.Statement (.remoteAccessArrival id) := Sys2Proof.encodes_none rfl

theorem Sys2Proof.Laws.Encodes.remoteAnswer (id : Nat) (ext : Sys2Proof.ExtAnswer) : Sys2Proof.Laws.Encodes.Statement (.remoteAnswer id ext) := Sys2Proof.encodes_none rfl

theorem Sys2Proof.Laws.Encodes.postedStoreAck (id : Nat) (ext : Sys2Proof.ExtAnswer) : Sys2Proof.Laws.Encodes.Statement (.postedStoreAck id ext) := Sys2Proof.encodes_none rfl

theorem Sys2Proof.Laws.Encodes.parkRetry (id : Nat) : Sys2Proof.Laws.Encodes.Statement (.parkRetry id) := Sys2Proof.encodes_none rfl

theorem Sys2Proof.Laws.Encodes.parkCancelAnswer (id : Nat) : Sys2Proof.Laws.Encodes.Statement (.parkCancelAnswer id) := Sys2Proof.encodes_none rfl

theorem Sys2Proof.Laws.Encodes.fetimeout (id : Nat) : Sys2Proof.Laws.Encodes.Statement (.fetimeout id) := Sys2Proof.encodes_none rfl

theorem Sys2Proof.Laws.Encodes.interruptEntry (t : Sys2Proof.ThreadId) : Sys2Proof.Laws.Encodes.Statement (.interruptEntry t) := Sys2Proof.encodes_none rfl

theorem Sys2Proof.Laws.Encodes.timerExpiry (ctx : Nat) : Sys2Proof.Laws.Encodes.Statement (.timerExpiry ctx) := Sys2Proof.encodes_none rfl

theorem Sys2Proof.Laws.Encodes.ifetchLineFill (t : Sys2Proof.ThreadId) (ext : Sys2Proof.ExtAnswer) : Sys2Proof.Laws.Encodes.Statement (.ifetchLineFill t ext) := Sys2Proof.encodes_none rfl

theorem Sys2Proof.Laws.Encodes.sliceFill (station line : Nat) : Sys2Proof.Laws.Encodes.Statement (.sliceFill station line) := Sys2Proof.encodes_none rfl

theorem Sys2Proof.Laws.Encodes.refreshWindowEnd : Sys2Proof.Laws.Encodes.Statement (.refreshWindowEnd) := Sys2Proof.encodes_none rfl

theorem Sys2Proof.Laws.Encodes.scaddFold (id : Nat) : Sys2Proof.Laws.Encodes.Statement (.scaddFold id) := Sys2Proof.encodes_none rfl

theorem Sys2Proof.Laws.Encodes.replicaUpdate (id : Nat) : Sys2Proof.Laws.Encodes.Statement (.replicaUpdate id) := Sys2Proof.encodes_none rfl

theorem Sys2Proof.Laws.Encodes.movingRewalk (id : Nat) : Sys2Proof.Laws.Encodes.Statement (.movingRewalk id) := Sys2Proof.encodes_none rfl

theorem Sys2Proof.Laws.Encodes.movingTimeout (id : Nat) : Sys2Proof.Laws.Encodes.Statement (.movingTimeout id) := Sys2Proof.encodes_none rfl

theorem Sys2Proof.Laws.Encodes.messageArrival (id : Nat) : Sys2Proof.Laws.Encodes.Statement (.messageArrival id) := Sys2Proof.encodes_none rfl

theorem Sys2Proof.Laws.Encodes.messageNotice (id : Nat) : Sys2Proof.Laws.Encodes.Statement (.messageNotice id) := Sys2Proof.encodes_none rfl

theorem Sys2Proof.Laws.Encodes.messageRetry (id : Nat) : Sys2Proof.Laws.Encodes.Statement (.messageRetry id) := Sys2Proof.encodes_none rfl

theorem Sys2Proof.Laws.Encodes.timedCommandStart (station id : Nat) : Sys2Proof.Laws.Encodes.Statement (.timedCommandStart station id) := Sys2Proof.encodes_none rfl

theorem Sys2Proof.Laws.Encodes.copyEngineCompletion (station id : Nat) (ext : Sys2Proof.ExtAnswer) : Sys2Proof.Laws.Encodes.Statement (.copyEngineCompletion station id ext) := Sys2Proof.encodes_none rfl

theorem Sys2Proof.Laws.Encodes.segredCountResult (t : Sys2Proof.ThreadId) (id : Nat) : Sys2Proof.Laws.Encodes.Statement (.segredCountResult t id) := Sys2Proof.encodes_none rfl

theorem Sys2Proof.Laws.Encodes.rowCommandStart (core : Nat) : Sys2Proof.Laws.Encodes.Statement (.rowCommandStart core) := Sys2Proof.encodes_none rfl

theorem Sys2Proof.Laws.Encodes.rowCommandCompletion (core : Nat) (ext : Sys2Proof.ExtAnswer) : Sys2Proof.Laws.Encodes.Statement (.rowCommandCompletion core ext) := Sys2Proof.encodes_none rfl

theorem Sys2Proof.Laws.Encodes.rowRequest (q : Sys2Proof.RowReq) : Sys2Proof.Laws.Encodes.Statement (.rowRequest q) := Sys2Proof.encodes_none rfl

theorem Sys2Proof.Laws.Encodes.rowResponse (p : Sys2Proof.RowResp) : Sys2Proof.Laws.Encodes.Statement (.rowResponse p) := Sys2Proof.encodes_none rfl

theorem Sys2Proof.Laws.Encodes.arrayCommandStart (station id : Nat) : Sys2Proof.Laws.Encodes.Statement (.arrayCommandStart station id) := Sys2Proof.encodes_none rfl

theorem Sys2Proof.Laws.Encodes.arrayCommandCompletion (station id : Nat) : Sys2Proof.Laws.Encodes.Statement (.arrayCommandCompletion station id) := Sys2Proof.encodes_none rfl

theorem Sys2Proof.Laws.Encodes.mstatResult (t : Sys2Proof.ThreadId) (id : Nat) : Sys2Proof.Laws.Encodes.Statement (.mstatResult t id) := Sys2Proof.encodes_none rfl

theorem Sys2Proof.Laws.Encodes.mcurAbort (station : Nat) : Sys2Proof.Laws.Encodes.Statement (.mcurAbort station) := Sys2Proof.encodes_none rfl

theorem Sys2Proof.Laws.Encodes.msliceAbortStop (station : Nat) : Sys2Proof.Laws.Encodes.Statement (.msliceAbortStop station) := Sys2Proof.encodes_none rfl

theorem Sys2Proof.Laws.Encodes.heartbeat (core : Nat) : Sys2Proof.Laws.Encodes.Statement (.heartbeat core) := Sys2Proof.encodes_none rfl

theorem Sys2Proof.Laws.Encodes.coreStateStop (core : Nat) (addr : Sys2Proof.Word) : Sys2Proof.Laws.Encodes.Statement (.coreStateStop core addr) := Sys2Proof.encodes_none rfl

theorem Sys2Proof.Laws.Encodes.coreLost (core : Nat) : Sys2Proof.Laws.Encodes.Statement (.coreLost core) := Sys2Proof.encodes_none rfl

theorem Sys2Proof.Laws.Encodes.remap (ctx : Nat) (value : Sys2Proof.Word) : Sys2Proof.Laws.Encodes.Statement (.remap ctx value) := Sys2Proof.encodes_none rfl

theorem Sys2Proof.Laws.Encodes.remapComplete (ctx : Nat) : Sys2Proof.Laws.Encodes.Statement (.remapComplete ctx) := Sys2Proof.encodes_none rfl

theorem Sys2Proof.Laws.Encodes.timerWrite (ctx : Nat) (value : Sys2Proof.Word) : Sys2Proof.Laws.Encodes.Statement (.timerWrite ctx value) := Sys2Proof.encodes_none rfl

theorem Sys2Proof.Laws.Encodes.knellRead (ctx : Nat) : Sys2Proof.Laws.Encodes.Statement (.knellRead ctx) := Sys2Proof.encodes_none rfl

theorem Sys2Proof.Laws.Encodes.migrateRead (ctx : Nat) : Sys2Proof.Laws.Encodes.Statement (.migrateRead ctx) := Sys2Proof.encodes_none rfl

theorem Sys2Proof.Laws.Encodes.hostRead (ctx : Nat) : Sys2Proof.Laws.Encodes.Statement (.hostRead ctx) := Sys2Proof.encodes_none rfl

theorem Sys2Proof.Laws.Encodes.qtailDoorbell (q : Nat) (value : Sys2Proof.Word) : Sys2Proof.Laws.Encodes.Statement (.qtailDoorbell q value) := Sys2Proof.encodes_none rfl

theorem Sys2Proof.Laws.Encodes.qstatRead (q : Nat) : Sys2Proof.Laws.Encodes.Statement (.qstatRead q) := Sys2Proof.encodes_none rfl

theorem Sys2Proof.Laws.Encodes.qbaseWrite (q : Nat) (value : Sys2Proof.Word) : Sys2Proof.Laws.Encodes.Statement (.qbaseWrite q value) := Sys2Proof.encodes_none rfl

theorem Sys2Proof.Laws.Encodes.launch (q : Nat) : Sys2Proof.Laws.Encodes.Statement (.launch q) := Sys2Proof.encodes_none rfl

theorem Sys2Proof.Laws.Encodes.signal (q : Nat) : Sys2Proof.Laws.Encodes.Statement (.signal q) := Sys2Proof.encodes_none rfl

theorem Sys2Proof.Laws.Encodes.wait (q : Nat) : Sys2Proof.Laws.Encodes.Statement (.wait q) := Sys2Proof.encodes_none rfl

theorem Sys2Proof.Laws.Encodes.waitPoll (q : Nat) : Sys2Proof.Laws.Encodes.Statement (.waitPoll q) := Sys2Proof.encodes_none rfl

theorem Sys2Proof.Laws.Encodes.halt (q : Nat) : Sys2Proof.Laws.Encodes.Statement (.halt q) := Sys2Proof.encodes_none rfl

theorem Sys2Proof.Laws.Encodes.resume (q : Nat) : Sys2Proof.Laws.Encodes.Statement (.resume q) := Sys2Proof.encodes_none rfl

theorem Sys2Proof.Laws.Encodes.dbgStep (q : Nat) : Sys2Proof.Laws.Encodes.Statement (.dbgStep q) := Sys2Proof.encodes_none rfl

theorem Sys2Proof.Laws.Encodes.rdreg (q : Nat) : Sys2Proof.Laws.Encodes.Statement (.rdreg q) := Sys2Proof.encodes_none rfl

theorem Sys2Proof.Laws.Encodes.wrreg (q : Nat) : Sys2Proof.Laws.Encodes.Statement (.wrreg q) := Sys2Proof.encodes_none rfl

theorem Sys2Proof.Laws.Encodes.rdspad (q : Nat) : Sys2Proof.Laws.Encodes.Statement (.rdspad q) := Sys2Proof.encodes_none rfl

theorem Sys2Proof.Laws.Encodes.wrspad (q : Nat) : Sys2Proof.Laws.Encodes.Statement (.wrspad q) := Sys2Proof.encodes_none rfl

theorem Sys2Proof.Laws.Encodes.setbp (q : Nat) : Sys2Proof.Laws.Encodes.Statement (.setbp q) := Sys2Proof.encodes_none rfl

theorem Sys2Proof.Laws.Encodes.setwp (q : Nat) : Sys2Proof.Laws.Encodes.Statement (.setwp q) := Sys2Proof.encodes_none rfl

theorem Sys2Proof.Laws.Encodes.count (q : Nat) : Sys2Proof.Laws.Encodes.Statement (.count q) := Sys2Proof.encodes_none rfl

theorem Sys2Proof.Laws.Encodes.trace (q : Nat) : Sys2Proof.Laws.Encodes.Statement (.trace q) := Sys2Proof.encodes_none rfl

theorem Sys2Proof.Laws.Encodes.flush (q : Nat) : Sys2Proof.Laws.Encodes.Statement (.flush q) := Sys2Proof.encodes_none rfl

theorem Sys2Proof.Laws.Encodes.traceSample (core : Nat) : Sys2Proof.Laws.Encodes.Statement (.traceSample core) := Sys2Proof.encodes_none rfl

theorem Sys2Proof.Laws.Encodes.partitionLoad : Sys2Proof.Laws.Encodes.Statement (.partitionLoad) := Sys2Proof.encodes_none rfl

theorem Sys2Proof.Laws.Encodes.partitionSwitch : Sys2Proof.Laws.Encodes.Statement (.partitionSwitch) := Sys2Proof.encodes_none rfl

theorem Sys2Proof.Laws.Encodes.partitionUnload : Sys2Proof.Laws.Encodes.Statement (.partitionUnload) := Sys2Proof.encodes_none rfl

theorem Sys2Proof.Laws.Encodes.partitionUnpause : Sys2Proof.Laws.Encodes.Statement (.partitionUnpause) := Sys2Proof.encodes_none rfl

theorem Sys2Proof.Laws.Encodes.peal (ctx : Nat) : Sys2Proof.Laws.Encodes.Statement (.peal ctx) := Sys2Proof.encodes_none rfl

theorem Sys2Proof.Laws.Encodes.migrationStart (channel : Nat) (value : Sys2Proof.Word) : Sys2Proof.Laws.Encodes.Statement (.migrationStart channel value) := Sys2Proof.encodes_none rfl

theorem Sys2Proof.Laws.Encodes.migrationComplete (channel : Nat) : Sys2Proof.Laws.Encodes.Statement (.migrationComplete channel) := Sys2Proof.encodes_none rfl

theorem Sys2Proof.Laws.Encodes.xinvregStart (value : Sys2Proof.Word) : Sys2Proof.Laws.Encodes.Statement (.xinvregStart value) := Sys2Proof.encodes_none rfl

theorem Sys2Proof.Laws.Encodes.xinvregComplete : Sys2Proof.Laws.Encodes.Statement (.xinvregComplete) := Sys2Proof.encodes_none rfl

theorem Sys2Proof.Laws.Encodes.cntclrAll : Sys2Proof.Laws.Encodes.Statement (.cntclrAll) := Sys2Proof.encodes_none rfl

theorem Sys2Proof.Laws.Encodes.cntclrPage (page : Nat) : Sys2Proof.Laws.Encodes.Statement (.cntclrPage page) := Sys2Proof.encodes_none rfl

theorem Sys2Proof.Laws.Encodes.hmailWrite (value : Sys2Proof.Word) : Sys2Proof.Laws.Encodes.Statement (.hmailWrite value) := Sys2Proof.encodes_none rfl

theorem Sys2Proof.Laws.Encodes.hknellRead : Sys2Proof.Laws.Encodes.Statement (.hknellRead) := Sys2Proof.encodes_none rfl

theorem Sys2Proof.Laws.Encodes.bar2errRead : Sys2Proof.Laws.Encodes.Statement (.bar2errRead) := Sys2Proof.encodes_none rfl

theorem Sys2Proof.Laws.Encodes.errlostRead : Sys2Proof.Laws.Encodes.Statement (.errlostRead) := Sys2Proof.encodes_none rfl

theorem Sys2Proof.Laws.Encodes.registerWrite (offset : Nat) (value : Sys2Proof.Word) : Sys2Proof.Laws.Encodes.Statement (.registerWrite offset value) := Sys2Proof.encodes_none rfl

theorem Sys2Proof.Laws.Encodes.bar2Read (offset n : Nat) : Sys2Proof.Laws.Encodes.Statement (.bar2Read offset n) := Sys2Proof.encodes_none rfl

theorem Sys2Proof.Laws.Encodes.bar2Write (offset : Nat) (bytes : List Sys2Proof.Byte) : Sys2Proof.Laws.Encodes.Statement (.bar2Write offset bytes) := Sys2Proof.encodes_none rfl

theorem Sys2Proof.Laws.Encodes.routerPowerDown (station : Nat) : Sys2Proof.Laws.Encodes.Statement (.routerPowerDown station) := Sys2Proof.encodes_none rfl

theorem Sys2Proof.Laws.Encodes.routerWake (station : Nat) : Sys2Proof.Laws.Encodes.Statement (.routerWake station) := Sys2Proof.encodes_none rfl

theorem Sys2Proof.Laws.Encodes.linkFlit (f : Sys2Proof.Flit) : Sys2Proof.Laws.Encodes.Statement (.linkFlit f) := Sys2Proof.encodes_none rfl

theorem Sys2Proof.Laws.Encodes.portFailed (port : Nat) : Sys2Proof.Laws.Encodes.Statement (.portFailed port) := Sys2Proof.encodes_none rfl

theorem Sys2Proof.Laws.Encodes.timeLock (port : Nat) : Sys2Proof.Laws.Encodes.Statement (.timeLock port) := Sys2Proof.encodes_none rfl

theorem Sys2Proof.Laws.Encodes.keyset : Sys2Proof.Laws.Encodes.Statement (.keyset) := Sys2Proof.encodes_none rfl

theorem Sys2Proof.Laws.Encodes.keykill : Sys2Proof.Laws.Encodes.Statement (.keykill) := Sys2Proof.encodes_none rfl

theorem Sys2Proof.Laws.Encodes.sweep : Sys2Proof.Laws.Encodes.Statement (.sweep) := Sys2Proof.encodes_none rfl

theorem Sys2Proof.Laws.Encodes.sweepComplete : Sys2Proof.Laws.Encodes.Statement (.sweepComplete) := Sys2Proof.encodes_none rfl

theorem Sys2Proof.Laws.Encodes.attest : Sys2Proof.Laws.Encodes.Statement (.attest) := Sys2Proof.encodes_none rfl

theorem Sys2Proof.Laws.Encodes.power : Sys2Proof.Laws.Encodes.Statement (.power) := Sys2Proof.encodes_none rfl

theorem Sys2Proof.Laws.Encodes.jclr : Sys2Proof.Laws.Encodes.Statement (.jclr) := Sys2Proof.encodes_none rfl

theorem Sys2Proof.Laws.Encodes.boot (b : Sys2Proof.BootInput) : Sys2Proof.Laws.Encodes.Statement (.boot b) := Sys2Proof.encodes_none rfl

theorem Sys2Proof.Laws.Encodes.recoveryImage (b : Sys2Proof.BootInput) : Sys2Proof.Laws.Encodes.Statement (.recoveryImage b) := Sys2Proof.encodes_none rfl

theorem Sys2Proof.Laws.Encodes.thermalThrottle (reticle : Nat) : Sys2Proof.Laws.Encodes.Statement (.thermalThrottle reticle) := Sys2Proof.encodes_none rfl

theorem Sys2Proof.Laws.Encodes.thermalRecover (reticle : Nat) : Sys2Proof.Laws.Encodes.Statement (.thermalRecover reticle) := Sys2Proof.encodes_none rfl

theorem Sys2Proof.Laws.Encodes.attimeReached (t : Sys2Proof.ThreadId) : Sys2Proof.Laws.Encodes.Statement (.attimeReached t) := Sys2Proof.encodes_none rfl

theorem Sys2Proof.Laws.Encodes.powerChangeComplete (reticle : Nat) : Sys2Proof.Laws.Encodes.Statement (.powerChangeComplete reticle) := Sys2Proof.encodes_none rfl

theorem Sys2Proof.Laws.Encodes.tileRequestRetry (t : Sys2Proof.ThreadId) : Sys2Proof.Laws.Encodes.Statement (.tileRequestRetry t) := Sys2Proof.encodes_none rfl
end

