-- ==== Sys2Proof/Laws/Encoding.lean ====
section
/-! SUPPORT. What the fields of an encoded word read as, format by format, and words as bytes. -/

namespace Sys2Proof

open Sys2Proof.Machine

theorem bitVec_of_div {n : Nat} (x : BitVec n) (k m : Nat) (h : k % 2 ^ n = x.toNat) (hm : m = k) : BitVec.ofNat n m = x := by
  subst hm
  apply BitVec.eq_of_toNat_eq
  rw [BitVec.toNat_ofNat, h]

/-! ### R and X formats -/

theorem wR_op (op : Nat) (d a b : Reg) (fn : Nat) (ho : op < 128) (hf : fn < 16) : wR op d a b fn / 2 ^ 25 % 128 = op :=
  (wR_major op d a b fn ho hf).2

theorem fd_wR (op : Nat) (d a b : Reg) (fn : Nat) (hf : fn < 16) : fd (wR op d a b fn) = d := by
  have hd := d.isLt; have ha := a.isLt; have hb := b.isLt
  exact bitVec_of_div d _ _ (by unfold wR; omega) rfl

theorem fa_wR (op : Nat) (d a b : Reg) (fn : Nat) (hf : fn < 16) : fa (wR op d a b fn) = a := by
  have hd := d.isLt; have ha := a.isLt; have hb := b.isLt
  exact bitVec_of_div a _ _ (by unfold wR; omega) rfl

theorem fb_wR (op : Nat) (d a b : Reg) (fn : Nat) (hf : fn < 16) : fb (wR op d a b fn) = b := by
  have hd := d.isLt; have ha := a.isLt; have hb := b.isLt
  exact bitVec_of_div b _ _ (by unfold wR; omega) rfl

theorem ffn_wR (op : Nat) (d a b : Reg) (fn : Nat) (hf : fn < 16) : ffn (wR op d a b fn) = fn := by
  have hd := d.isLt; have ha := a.isLt; have hb := b.isLt
  unfold ffn wR; omega

/-! ### I and B formats, and the first word of the long form -/

theorem wI_op (op : Nat) (d a : Reg) (imm : Nat) (ho : op < 128) (hi : imm < 2048) : wI op d a imm / 2 ^ 25 % 128 = op :=
  (wI_major op d a imm ho hi).2

theorem fd_wI (op : Nat) (d a : Reg) (imm : Nat) (hi : imm < 2048) : fd (wI op d a imm) = d := by
  have hd := d.isLt; have ha := a.isLt
  exact bitVec_of_div d _ _ (by unfold wI; omega) rfl

theorem fa_wI (op : Nat) (d a : Reg) (imm : Nat) (hi : imm < 2048) : fa (wI op d a imm) = a := by
  have hd := d.isLt; have ha := a.isLt
  exact bitVec_of_div a _ _ (by unfold wI; omega) rfl

theorem fimm_wI (op : Nat) (d a : Reg) (imm : Nat) (hi : imm < 2048) : fimm (wI op d a imm) = imm := by
  have hd := d.isLt; have ha := a.isLt
  unfold fimm wI; omega

/-- A field inside the 11 immediate bits. -/
theorem wI_field {n : Nat} (op : Nat) (d a : Reg) (imm : Nat) (x : BitVec n) (k : Nat) (hk : k + n ≤ 11)
    (h : imm / 2 ^ k % 2 ^ n = x.toNat) : BitVec.ofNat n (wI op d a imm / 2 ^ k) = x := by
  apply BitVec.eq_of_toNat_eq
  rw [BitVec.toNat_ofNat, ← h]
  have e : wI op d a imm = imm + 2 ^ (k + n) * (2 ^ (11 - (k + n)) * (op * 2 ^ 14 + d.toNat * 2 ^ 7 + a.toNat)) := by
    rw [← Nat.mul_assoc, ← Nat.pow_add, Nat.add_sub_cancel' hk]
    unfold wI; omega
  rw [e, Nat.pow_add, Nat.mul_assoc, Nat.add_mul_div_left _ _ (Nat.two_pow_pos k), Nat.add_mul_mod_self_left]

/-! ### Fields inside the low bits, and whole operand bundles -/

theorem dbl_wR (op : Nat) (d a b : Reg) (x : Bool) (k : Nat) (hk : k < 8) : bitAt (wR op d a b (8 * b2n x + k)) 3 = x := by
  have hd := d.isLt; have ha := a.isLt; have hb := b.isLt
  unfold bitAt wR
  have : (op * 2 ^ 25 + d.toNat * 2 ^ 18 + a.toNat * 2 ^ 11 + b.toNat * 2 ^ 4 + (8 * b2n x + k)) / 2 ^ 3 % 2 = b2n x := by
    have := b2n_lt x; omega
  rw [this]; cases x <;> rfl

theorem dbl_wR0 (op : Nat) (d a b : Reg) (x : Bool) : bitAt (wR op d a b (8 * b2n x)) 3 = x := by
  simpa using dbl_wR op d a b x 0 (by decide)

theorem rm_wR (op : Nat) (d a b : Reg) (x : Nat) (rm : BitVec 3) : BitVec.ofNat 3 (wR op d a b (8 * x + rm.toNat)) = rm := by
  apply BitVec.eq_of_toNat_eq; have := rm.isLt
  rw [BitVec.toNat_ofNat]; unfold wR; omega

theorem rm_wR0 (op : Nat) (d a b : Reg) (rm : BitVec 3) : BitVec.ofNat 3 (wR op d a b rm.toNat) = rm := by
  apply BitVec.eq_of_toNat_eq; have := rm.isLt
  rw [BitVec.toNat_ofNat]; unfold wR; omega

theorem rm_wR8 (op : Nat) (d a b : Reg) (rm : BitVec 3) : BitVec.ofNat 3 (wR op d a b (8 + rm.toNat)) = rm := by
  apply BitVec.eq_of_toNat_eq; have := rm.isLt
  rw [BitVec.toNat_ofNat]; unfold wR; omega

theorem ev_wR (op : Nat) (d a b : Reg) (ev : BitVec 4) : BitVec.ofNat 4 (wR op d a b ev.toNat) = ev := by
  apply BitVec.eq_of_toNat_eq; have := ev.isLt
  rw [BitVec.toNat_ofNat]; unfold wR; omega

theorem ev_wI (op : Nat) (d a : Reg) (k : Nat) (ev : BitVec 4) (hk : k % 16 = 0) : BitVec.ofNat 4 (wI op d a (k + ev.toNat)) = ev := by
  apply BitVec.eq_of_toNat_eq; have := ev.isLt
  rw [BitVec.toNat_ofNat]; unfold wI; omega

theorem ev_wI0 (op : Nat) (d a : Reg) (ev : BitVec 4) : BitVec.ofNat 4 (wI op d a (ev.toNat)) = ev := by
  apply BitVec.eq_of_toNat_eq; have := ev.isLt
  rw [BitVec.toNat_ofNat]; unfold wI; omega

theorem imm_wI (op : Nat) (d a : Reg) (i : BitVec 11) : BitVec.ofNat 11 (wI op d a i.toNat) = i := by
  apply BitVec.eq_of_toNat_eq; have := i.isLt
  rw [BitVec.toNat_ofNat]; unfold wI; omega

theorem n_wI (op : Nat) (d a : Reg) (k : Nat) (n : BitVec 6) (hk : k % 64 = 0) : BitVec.ofNat 6 (wI op d a (k + n.toNat)) = n := by
  apply BitVec.eq_of_toNat_eq; have := n.isLt
  rw [BitVec.toNat_ofNat]; unfold wI; omega

theorem n_wI0 (op : Nat) (d a : Reg) (n : BitVec 6) : BitVec.ofNat 6 (wI op d a n.toNat) = n := by
  simpa using n_wI op d a 0 n rfl

theorem bar_wI (op : Nat) (d a : Reg) (s u : BitVec 3) : BitVec.ofNat 3 (wI op d a (8 * s.toNat + u.toNat)) = u := by
  apply BitVec.eq_of_toNat_eq; have := u.isLt
  rw [BitVec.toNat_ofNat]; unfold wI; omega

theorem bar_wI' (op : Nat) (d a : Reg) (s u : BitVec 3) : BitVec.ofNat 3 (wI op d a (8 * s.toNat + u.toNat) / 8) = s := by
  apply BitVec.eq_of_toNat_eq; have := u.isLt; have := s.isLt
  rw [BitVec.toNat_ofNat]; unfold wI; omega

theorem rjOf_wJ (op : Nat) (r : RJ) : rjOf (wJ op r.d r.off) = r := by
  have hd := r.d.isLt; have ho := r.off.isLt
  obtain ⟨d, off⟩ := r
  unfold rjOf fd wJ
  congr 1 <;> (apply BitVec.eq_of_toNat_eq; rw [BitVec.toNat_ofNat]; simp only at *; omega)

theorem wJ_op (op : Nat) (d : Reg) (off : BitVec 18) (ho : op < 128) : wJ op d off / 2 ^ 25 % 128 = op := (wJ_major op d off ho).2

theorem wM_op (op : Nat) (m : MemOp) (ho : op < 128) : wM op m / 2 ^ 25 % 128 = op := (wM_major op m ho).2

theorem wF_op (op : Nat) (m : RF) (ho : op < 127) : wF op m / 2 ^ 25 % 128 = op + m.pos.toNat / 32 := (wF_major op m ho).2

theorem wA_op (op k : Nat) (m : AmoOp) (ho : op < 127) (hk : k < 16) : wA op k m / 2 ^ 25 % 128 = op + b2n m.wide := (wA_major op k m ho hk).2

theorem bit_bool (x : Bool) (k : Nat) (h : k = b2n x) : (k == 1) = x := by subst h; cases x <;> rfl

theorem memOf_wM (op : Nat) (m : MemOp) : memOf (wM op m) = m := by
  have h1 := m.off.isLt; have h2 := m.sp.isLt; have h3 := m.wk.isLt; have h4 := b2n_lt m.lu; have h5 := m.t.isLt; have h6 := m.a.isLt
  obtain ⟨t, a, off, sp, lu, wk⟩ := m
  unfold memOf fd fa wM wI bitAt
  simp only at *
  congr 1
  case e_lu => apply bit_bool; omega
  all_goals (apply BitVec.eq_of_toNat_eq; rw [BitVec.toNat_ofNat]; omega)

theorem amoOf_wA (op k : Nat) (m : AmoOp) (he : op % 2 = 0) (hk : k < 16) : amoOf (wA op k m) = m := by
  have h1 := m.ord.isLt; have h2 := m.sp.isLt; have h3 := m.scope.isLt; have h4 := b2n_lt m.wide; have h5 := m.t.isLt; have h6 := m.a.isLt
  obtain ⟨w, t, a, ord, sp, scope⟩ := m
  unfold amoOf fd fa wA wI bitAt
  simp only at *
  congr 1
  case e_wide => apply bit_bool; omega
  all_goals (apply BitVec.eq_of_toNat_eq; rw [BitVec.toNat_ofNat]; omega)

theorem aop_wA (op k : Nat) (m : AmoOp) (hk : k < 16) : fimm (wA op k m) / 128 = k := by
  have h1 := m.ord.isLt; have h2 := m.sp.isLt; have h3 := m.scope.isLt; have h5 := m.t.isLt; have h6 := m.a.isLt
  unfold fimm wA wI; omega

theorem rfOf_wF (op : Nat) (f : RF) (he : op % 2 = 0) : rfOf (wF op f) = f := by
  have h1 := f.pos.isLt; have h2 := f.lenm1.isLt; have h5 := f.d.isLt; have h6 := f.a.isLt
  obtain ⟨d, a, pos, l⟩ := f
  unfold rfOf fd fa wF wI
  simp only at *
  congr 1
  all_goals (apply BitVec.eq_of_toNat_eq; rw [BitVec.toNat_ofNat]; omega)

theorem fvOf_wI (op : Nat) (f : FV) : fvOf (wI op f.d f.a (128 * f.dt.toNat + 8 * f.st.toNat + f.rm.toNat)) = f := by
  have h1 := f.dt.isLt; have h2 := f.st.isLt; have h3 := f.rm.isLt; have h5 := f.d.isLt; have h6 := f.a.isLt
  obtain ⟨d, a, dt, st, rm⟩ := f
  unfold fvOf fd fa wI
  simp only at *
  congr 1
  all_goals (apply BitVec.eq_of_toNat_eq; rw [BitVec.toNat_ofNat]; omega)

theorem r3Of_wR (op : Nat) (r : R3) (fn : Nat) (hf : fn < 16) : r3Of (wR op r.d r.a r.b fn) = r := by
  rw [r3Of, fd_wR _ _ _ _ _ hf, fa_wR _ _ _ _ _ hf, fb_wR _ _ _ _ _ hf]

theorem r2Of_wR (op : Nat) (r : R2) (b : Reg) (fn : Nat) (hf : fn < 16) : r2Of (wR op r.d r.a b fn) = r := by
  rw [r2Of, fd_wR _ _ _ _ _ hf, fa_wR _ _ _ _ _ hf]

theorem riOf_wI (op : Nat) (r : RI) : riOf (wI op r.d r.a r.imm.toNat) = r := by
  have := r.imm.isLt
  rw [riOf, fd_wI _ _ _ _ (by omega), fa_wI _ _ _ _ (by omega), imm_wI]

theorem rbOf_wI (op : Nat) (r : RB) : rbOf (wI op r.a r.b r.off.toNat) = r := by
  have := r.off.isLt
  rw [rbOf, fd_wI _ _ _ _ (by omega), fa_wI _ _ _ _ (by omega), imm_wI]

theorem xcOf_wR (op : Nat) (x : XC) : xcOf (wR op x.c x.a x.b x.ev.toNat) = x := by
  have := x.ev.isLt
  rw [xcOf, fd_wR _ _ _ _ _ (by omega), fa_wR _ _ _ _ _ (by omega), fb_wR _ _ _ _ _ (by omega), ev_wR]

theorem x2Of_wR (op : Nat) (x : X2) : x2Of (wR op 0 x.a x.b x.ev.toNat) = x := by
  have := x.ev.isLt
  rw [x2Of, fa_wR _ _ _ _ _ (by omega), fb_wR _ _ _ _ _ (by omega), ev_wR]

theorem f3Of_wR (op : Nat) (f : F3) : f3Of (wR op f.d f.a f.b (8 * b2n f.dbl + f.rm.toNat)) = f := by
  have := f.rm.isLt; have := b2n_lt f.dbl
  rw [f3Of, fd_wR _ _ _ _ _ (by omega), fa_wR _ _ _ _ _ (by omega), fb_wR _ _ _ _ _ (by omega),
    dbl_wR _ _ _ _ _ _ (by omega), rm_wR]

theorem f2Of_wR (op : Nat) (f : F2) : f2Of (wR op f.d f.a 0 (8 * b2n f.dbl + f.rm.toNat)) = f := by
  have := f.rm.isLt; have := b2n_lt f.dbl
  rw [f2Of, fd_wR _ _ _ _ _ (by omega), fa_wR _ _ _ _ _ (by omega), dbl_wR _ _ _ _ _ _ (by omega), rm_wR]

/-- A table of meanings answers its k-th. -/
theorem pick_eq {α : Type} {l : List α} {k : Nat} {x : α} (h : l[k]? = some x) : pick l k = .ok x := by
  rw [pick, h]

theorem pickR3_wR (op : Nat) (r : R3) (fn : Nat) (l : List (R3 → Instr)) (k : R3 → Instr) (hf : fn < 16)
    (h : l[fn]? = some k) : pickR3 (wR op r.d r.a r.b fn) l = .ok (k r) := by
  rw [pickR3, ffn_wR _ _ _ _ _ hf, pick_eq h, r3Of_wR _ _ _ hf]; rfl

theorem pickR2_wR (op : Nat) (r : R2) (fn : Nat) (l : List (R2 → Instr)) (k : R2 → Instr) (hf : fn < 16)
    (h : l[fn]? = some k) : pickR2 (wR op r.d r.a 0 fn) l = .ok (k r) := by
  rw [pickR2, ffn_wR _ _ _ _ _ hf, pick_eq h, r2Of_wR _ _ _ _ hf, fb_wR _ _ _ _ _ hf]; rfl

/-! ### Which part of the opcode map a major selects -/

theorem decodeFields_low {w op : Nat} (w2 : Nat) (h : w / 2 ^ 25 % 128 = op) (ho : op < 0x34) :
    decodeFields w w2 = decodeLow op w := by
  have h7 : isLong w = false := by rw [isLong, h]; simp; omega
  rw [decodeFields, h7, h, if_neg (by decide), if_pos ho]

theorem decodeFields_mid {w op : Nat} (w2 : Nat) (h : w / 2 ^ 25 % 128 = op) (h1 : 0x34 ≤ op) (h2 : op < 0x59) :
    decodeFields w w2 = decodeMid op w := by
  have h7 : isLong w = false := by rw [isLong, h]; simp; omega
  rw [decodeFields, h7, h, if_neg (by decide), if_neg (by omega), if_pos h2]

theorem decodeFields_high {w op : Nat} (w2 : Nat) (h : w / 2 ^ 25 % 128 = op) (h1 : 0x59 ≤ op) (h2 : op < 0x7F) :
    decodeFields w w2 = decodeHigh op w := by
  have h7 : isLong w = false := by rw [isLong, h]; simp; omega
  rw [decodeFields, h7, h, if_neg (by decide), if_neg (by omega), if_neg (by omega)]

theorem decodeFields_long {w : Nat} (w2 : Nat) (h : w / 2 ^ 25 % 128 = 0x7F) : decodeFields w w2 = decodeLong w w2 := by
  have h7 : isLong w = true := by rw [isLong, h]; rfl
  rw [decodeFields, h7, if_pos rfl]

/-! ### Words as bytes -/

theorem ofBytesLE_word (w : Nat) (h : w < 2 ^ 32) : ofBytesLE (bytesLE 4 w) = w := by
  rw [ofBytesLE_bytesLE]; exact Nat.mod_eq_of_lt (by simpa using h)

end Sys2Proof
end

