-- ==== Sys2Proof/Laws/Exec.lean ====
section
/-! SUPPORT. What exec does with each instruction: it calls that instruction's meaning. -/

namespace Sys2Proof.Laws

open Sys2Proof.Machine

@[simp] theorem exec_add (r : R3) (s : State) : exec (.add r) s = execAdd r s := rfl
@[simp] theorem exec_sub (r : R3) (s : State) : exec (.sub r) s = execSub r s := rfl
@[simp] theorem exec_mul (r : R3) (s : State) : exec (.mul r) s = execMul r s := rfl
@[simp] theorem exec_mulh (r : R3) (s : State) : exec (.mulh r) s = execMulh r s := rfl
@[simp] theorem exec_mulhu (r : R3) (s : State) : exec (.mulhu r) s = execMulhu r s := rfl
@[simp] theorem exec_mulhsu (r : R3) (s : State) : exec (.mulhsu r) s = execMulhsu r s := rfl
@[simp] theorem exec_madd (r : R3) (s : State) : exec (.madd r) s = execMadd r s := rfl
@[simp] theorem exec_div (r : R3) (s : State) : exec (.div r) s = execDiv r s := rfl
@[simp] theorem exec_divu (r : R3) (s : State) : exec (.divu r) s = execDivu r s := rfl
@[simp] theorem exec_rem (r : R3) (s : State) : exec (.rem r) s = execRem r s := rfl
@[simp] theorem exec_remu (r : R3) (s : State) : exec (.remu r) s = execRemu r s := rfl
@[simp] theorem exec_and (r : R3) (s : State) : exec (.and r) s = execAnd r s := rfl
@[simp] theorem exec_or (r : R3) (s : State) : exec (.or r) s = execOr r s := rfl
@[simp] theorem exec_xor (r : R3) (s : State) : exec (.xor r) s = execXor r s := rfl
@[simp] theorem exec_andn (r : R3) (s : State) : exec (.andn r) s = execAndn r s := rfl
@[simp] theorem exec_orn (r : R3) (s : State) : exec (.orn r) s = execOrn r s := rfl
@[simp] theorem exec_shl (r : R3) (s : State) : exec (.shl r) s = execShl r s := rfl
@[simp] theorem exec_shr (r : R3) (s : State) : exec (.shr r) s = execShr r s := rfl
@[simp] theorem exec_sar (r : R3) (s : State) : exec (.sar r) s = execSar r s := rfl
@[simp] theorem exec_rotl (r : R3) (s : State) : exec (.rotl r) s = execRotl r s := rfl
@[simp] theorem exec_min (r : R3) (s : State) : exec (.min r) s = execMin r s := rfl
@[simp] theorem exec_max (r : R3) (s : State) : exec (.max r) s = execMax r s := rfl
@[simp] theorem exec_minu (r : R3) (s : State) : exec (.minu r) s = execMinu r s := rfl
@[simp] theorem exec_maxu (r : R3) (s : State) : exec (.maxu r) s = execMaxu r s := rfl
@[simp] theorem exec_slt (r : R3) (s : State) : exec (.slt r) s = execSlt r s := rfl
@[simp] theorem exec_sltu (r : R3) (s : State) : exec (.sltu r) s = execSltu r s := rfl
@[simp] theorem exec_sel (r : R3) (s : State) : exec (.sel r) s = execSel r s := rfl
@[simp] theorem exec_clz (r : R2) (s : State) : exec (.clz r) s = execClz r s := rfl
@[simp] theorem exec_ctz (r : R2) (s : State) : exec (.ctz r) s = execCtz r s := rfl
@[simp] theorem exec_popc (r : R2) (s : State) : exec (.popc r) s = execPopc r s := rfl
@[simp] theorem exec_bswap (r : R2) (s : State) : exec (.bswap r) s = execBswap r s := rfl
@[simp] theorem exec_sextB (r : R2) (s : State) : exec (.sextB r) s = execSextB r s := rfl
@[simp] theorem exec_sextH (r : R2) (s : State) : exec (.sextH r) s = execSextH r s := rfl
@[simp] theorem exec_sextW (r : R2) (s : State) : exec (.sextW r) s = execSextW r s := rfl
@[simp] theorem exec_zextB (r : R2) (s : State) : exec (.zextB r) s = execZextB r s := rfl
@[simp] theorem exec_zextH (r : R2) (s : State) : exec (.zextH r) s = execZextH r s := rfl
@[simp] theorem exec_zextW (r : R2) (s : State) : exec (.zextW r) s = execZextW r s := rfl
@[simp] theorem exec_hashm (r : R3) (s : State) : exec (.hashm r) s = execHashm r s := rfl
@[simp] theorem exec_addi (r : RI) (s : State) : exec (.addi r) s = execAddi r s := rfl
@[simp] theorem exec_andi (r : RI) (s : State) : exec (.andi r) s = execAndi r s := rfl
@[simp] theorem exec_ori (r : RI) (s : State) : exec (.ori r) s = execOri r s := rfl
@[simp] theorem exec_xori (r : RI) (s : State) : exec (.xori r) s = execXori r s := rfl
@[simp] theorem exec_slti (r : RI) (s : State) : exec (.slti r) s = execSlti r s := rfl
@[simp] theorem exec_sltiu (r : RI) (s : State) : exec (.sltiu r) s = execSltiu r s := rfl
@[simp] theorem exec_addiLong (r : RL) (s : State) : exec (.addiLong r) s = execAddiLong r s := rfl
@[simp] theorem exec_andiLong (r : RL) (s : State) : exec (.andiLong r) s = execAndiLong r s := rfl
@[simp] theorem exec_oriLong (r : RL) (s : State) : exec (.oriLong r) s = execOriLong r s := rfl
@[simp] theorem exec_xoriLong (r : RL) (s : State) : exec (.xoriLong r) s = execXoriLong r s := rfl
@[simp] theorem exec_sltiLong (r : RL) (s : State) : exec (.sltiLong r) s = execSltiLong r s := rfl
@[simp] theorem exec_sltiuLong (r : RL) (s : State) : exec (.sltiuLong r) s = execSltiuLong r s := rfl
@[simp] theorem exec_luiH (d : Reg) (imm : BitVec 32) (s : State) : exec (.luiH d imm) s = execLuiH d imm s := rfl
@[simp] theorem exec_shli (r : RS) (s : State) : exec (.shli r) s = execShli r s := rfl
@[simp] theorem exec_shri (r : RS) (s : State) : exec (.shri r) s = execShri r s := rfl
@[simp] theorem exec_sari (r : RS) (s : State) : exec (.sari r) s = execSari r s := rfl
@[simp] theorem exec_rotli (r : RS) (s : State) : exec (.rotli r) s = execRotli r s := rfl
@[simp] theorem exec_lui (r : RJ) (s : State) : exec (.lui r) s = execLui r s := rfl
@[simp] theorem exec_addpc (r : RJ) (s : State) : exec (.addpc r) s = execAddpc r s := rfl
@[simp] theorem exec_bfx (r : RF) (s : State) : exec (.bfx r) s = execBfx r s := rfl
@[simp] theorem exec_bfxu (r : RF) (s : State) : exec (.bfxu r) s = execBfxu r s := rfl
@[simp] theorem exec_bfi (r : RF) (s : State) : exec (.bfi r) s = execBfi r s := rfl
@[simp] theorem exec_fadd (r : F3) (s : State) : exec (.fadd r) s = execFadd r s := rfl
@[simp] theorem exec_fsub (r : F3) (s : State) : exec (.fsub r) s = execFsub r s := rfl
@[simp] theorem exec_fmul (r : F3) (s : State) : exec (.fmul r) s = execFmul r s := rfl
@[simp] theorem exec_fma (r : F3) (s : State) : exec (.fma r) s = execFma r s := rfl
@[simp] theorem exec_fdiv (r : F3) (s : State) : exec (.fdiv r) s = execFdiv r s := rfl
@[simp] theorem exec_fsqrt (r : F2) (s : State) : exec (.fsqrt r) s = execFsqrt r s := rfl
@[simp] theorem exec_fmin (r : FC) (s : State) : exec (.fmin r) s = execFmin r s := rfl
@[simp] theorem exec_fmax (r : FC) (s : State) : exec (.fmax r) s = execFmax r s := rfl
@[simp] theorem exec_fsgn (r : FC) (s : State) : exec (.fsgn r) s = execFsgn r s := rfl
@[simp] theorem exec_fcmp (r : FC) (cond : BitVec 3) (s : State) : exec (.fcmp r cond) s = execFcmp r cond s := rfl
@[simp] theorem exec_fclass (r : FK) (s : State) : exec (.fclass r) s = execFclass r s := rfl
@[simp] theorem exec_fcvt (r : FV) (s : State) : exec (.fcvt r) s = execFcvt r s := rfl
@[simp] theorem exec_fround (r : F2) (s : State) : exec (.fround r) s = execFround r s := rfl
@[simp] theorem exec_bl (r : RJ) (s : State) : exec (.bl r) s = execBl r s := rfl
@[simp] theorem exec_jr (a : Reg) (s : State) : exec (.jr a) s = execJr a s := rfl
@[simp] theorem exec_jlr (r : R2) (s : State) : exec (.jlr r) s = execJlr r s := rfl
@[simp] theorem exec_beq (r : RB) (s : State) : exec (.beq r) s = execBeq r s := rfl
@[simp] theorem exec_bne (r : RB) (s : State) : exec (.bne r) s = execBne r s := rfl
@[simp] theorem exec_blt (r : RB) (s : State) : exec (.blt r) s = execBlt r s := rfl
@[simp] theorem exec_bge (r : RB) (s : State) : exec (.bge r) s = execBge r s := rfl
@[simp] theorem exec_bltu (r : RB) (s : State) : exec (.bltu r) s = execBltu r s := rfl
@[simp] theorem exec_bgeu (r : RB) (s : State) : exec (.bgeu r) s = execBgeu r s := rfl
@[simp] theorem exec_xborrow (r : R2) (s : State) : exec (.xborrow r) s = execXborrow r s := rfl
@[simp] theorem exec_xreturn (s : State) : exec .xreturn s = execXreturn s := rfl
@[simp] theorem exec_xget (r : R2) (s : State) : exec (.xget r) s = execXget r s := rfl
@[simp] theorem exec_xput (j a : Reg) (s : State) : exec (.xput j a) s = execXput j a s := rfl
@[simp] theorem exec_ldB (m : MemOp) (s : State) : exec (.ldB m) s = execLdB m s := rfl
@[simp] theorem exec_ldH (m : MemOp) (s : State) : exec (.ldH m) s = execLdH m s := rfl
@[simp] theorem exec_ldW (m : MemOp) (s : State) : exec (.ldW m) s = execLdW m s := rfl
@[simp] theorem exec_ldD (m : MemOp) (s : State) : exec (.ldD m) s = execLdD m s := rfl
@[simp] theorem exec_ldBu (m : MemOp) (s : State) : exec (.ldBu m) s = execLdBu m s := rfl
@[simp] theorem exec_ldHu (m : MemOp) (s : State) : exec (.ldHu m) s = execLdHu m s := rfl
@[simp] theorem exec_ldWu (m : MemOp) (s : State) : exec (.ldWu m) s = execLdWu m s := rfl
@[simp] theorem exec_stB (m : MemOp) (s : State) : exec (.stB m) s = execStB m s := rfl
@[simp] theorem exec_stH (m : MemOp) (s : State) : exec (.stH m) s = execStH m s := rfl
@[simp] theorem exec_stW (m : MemOp) (s : State) : exec (.stW m) s = execStW m s := rfl
@[simp] theorem exec_stD (m : MemOp) (s : State) : exec (.stD m) s = execStD m s := rfl
@[simp] theorem exec_ldfe (m : MemOp) (s : State) : exec (.ldfe m) s = execLdfe m s := rfl
@[simp] theorem exec_ldff (m : MemOp) (s : State) : exec (.ldff m) s = execLdff m s := rfl
@[simp] theorem exec_stfe (m : MemOp) (s : State) : exec (.stfe m) s = execStfe m s := rfl
@[simp] theorem exec_stf (m : MemOp) (s : State) : exec (.stf m) s = execStf m s := rfl
@[simp] theorem exec_fest (m : MemOp) (s : State) : exec (.fest m) s = execFest m s := rfl
@[simp] theorem exec_amoAdd (m : AmoOp) (s : State) : exec (.amoAdd m) s = execAmoAdd m s := rfl
@[simp] theorem exec_amoAnd (m : AmoOp) (s : State) : exec (.amoAnd m) s = execAmoAnd m s := rfl
@[simp] theorem exec_amoOr (m : AmoOp) (s : State) : exec (.amoOr m) s = execAmoOr m s := rfl
@[simp] theorem exec_amoXor (m : AmoOp) (s : State) : exec (.amoXor m) s = execAmoXor m s := rfl
@[simp] theorem exec_amoMin (m : AmoOp) (s : State) : exec (.amoMin m) s = execAmoMin m s := rfl
@[simp] theorem exec_amoMax (m : AmoOp) (s : State) : exec (.amoMax m) s = execAmoMax m s := rfl
@[simp] theorem exec_amoMinu (m : AmoOp) (s : State) : exec (.amoMinu m) s = execAmoMinu m s := rfl
@[simp] theorem exec_amoMaxu (m : AmoOp) (s : State) : exec (.amoMaxu m) s = execAmoMaxu m s := rfl
@[simp] theorem exec_amoSwap (m : AmoOp) (s : State) : exec (.amoSwap m) s = execAmoSwap m s := rfl
@[simp] theorem exec_cas (m : AmoOp) (s : State) : exec (.cas m) s = execCas m s := rfl
@[simp] theorem exec_famoFadd (m : AmoOp) (s : State) : exec (.famoFadd m) s = execFamoFadd m s := rfl
@[simp] theorem exec_famoFmin (m : AmoOp) (s : State) : exec (.famoFmin m) s = execFamoFmin m s := rfl
@[simp] theorem exec_famoFmax (m : AmoOp) (s : State) : exec (.famoFmax m) s = execFamoFmax m s := rfl
@[simp] theorem exec_fence (scope : BitVec 3) (s : State) : exec (.fence scope) s = execFence scope s := rfl
@[simp] theorem exec_fenceSc (scope : BitVec 3) (s : State) : exec (.fenceSc scope) s = execFenceSc scope s := rfl
@[simp] theorem exec_waitk (mask : BitVec 3) (s : State) : exec (.waitk mask) s = execWaitk mask s := rfl
@[simp] theorem exec_scope (r : R3) (s : State) : exec (.scope r) s = execScope r s := rfl
@[simp] theorem exec_semp (n : BitVec 6) (s : State) : exec (.semp n) s = execSemp n s := rfl
@[simp] theorem exec_semv (n : BitVec 6) (s : State) : exec (.semv n) s = execSemv n s := rfl
@[simp] theorem exec_bar (scope u : BitVec 3) (s : State) : exec (.bar scope u) s = execBar scope u s := rfl
@[simp] theorem exec_step (s : State) : exec .step s = execStep s := rfl
@[simp] theorem exec_rdtime (d : Reg) (s : State) : exec (.rdtime d) s = execRdtime d s := rfl
@[simp] theorem exec_attime (a : Reg) (s : State) : exec (.attime a) s = execAttime a s := rfl
@[simp] theorem exec_waitw (s : State) : exec .waitw s = execWaitw s := rfl
@[simp] theorem exec_done (s : State) : exec .done s = execDone s := rfl
@[simp] theorem exec_trig (s : State) : exec .trig s = execTrig s := rfl
@[simp] theorem exec_post (a b : Reg) (s : State) : exec (.post a b) s = execPost a b s := rfl
@[simp] theorem exec_evwait (a : Reg) (s : State) : exec (.evwait a) s = execEvwait a s := rfl
@[simp] theorem exec_evpoll (r : R2) (s : State) : exec (.evpoll r) s = execEvpoll r s := rfl
@[simp] theorem exec_evclr (a : Reg) (s : State) : exec (.evclr a) s = execEvclr a s := rfl
@[simp] theorem exec_popr (d : Reg) (s : State) : exec (.popr d) s = execPopr d s := rfl
@[simp] theorem exec_peekr (d : Reg) (s : State) : exec (.peekr d) s = execPeekr d s := rfl
@[simp] theorem exec_send (a b : Reg) (w : BitVec 3) (s : State) : exec (.send a b w) s = execSend a b w s := rfl
@[simp] theorem exec_recv (r : R2) (s : State) : exec (.recv r) s = execRecv r s := rfl
@[simp] theorem exec_tbldef (a b : Reg) (s : State) : exec (.tbldef a b) s = execTbldef a b s := rfl
@[simp] theorem exec_tblinv (a : Reg) (s : State) : exec (.tblinv a) s = execTblinv a s := rfl
@[simp] theorem exec_shardof (r : R3) (s : State) : exec (.shardof r) s = execShardof r s := rfl
@[simp] theorem exec_gather (x : XC) (s : State) : exec (.gather x) s = execGather x s := rfl
@[simp] theorem exec_scatter (x : XC) (s : State) : exec (.scatter x) s = execScatter x s := rfl
@[simp] theorem exec_scadd (x : XC) (s : State) : exec (.scadd x) s = execScadd x s := rfl
@[simp] theorem exec_dedup (x : XC) (s : State) : exec (.dedup x) s = execDedup x s := rfl
@[simp] theorem exec_segred (x : XC) (s : State) : exec (.segred x) s = execSegred x s := rfl
@[simp] theorem exec_isect (x : XC) (s : State) : exec (.isect x) s = execIsect x s := rfl
@[simp] theorem exec_gatherLong (x : XL) (s : State) : exec (.gatherLong x) s = execGatherLong x s := rfl
@[simp] theorem exec_scatterLong (x : XL) (s : State) : exec (.scatterLong x) s = execScatterLong x s := rfl
@[simp] theorem exec_scaddLong (x : XL) (s : State) : exec (.scaddLong x) s = execScaddLong x s := rfl
@[simp] theorem exec_dedupLong (x : XL) (s : State) : exec (.dedupLong x) s = execDedupLong x s := rfl
@[simp] theorem exec_segredLong (x : XL) (s : State) : exec (.segredLong x) s = execSegredLong x s := rfl
@[simp] theorem exec_isectLong (x : XL) (s : State) : exec (.isectLong x) s = execIsectLong x s := rfl
@[simp] theorem exec_rowget (x : XC) (s : State) : exec (.rowget x) s = execRowget x s := rfl
@[simp] theorem exec_rowput (x : XC) (s : State) : exec (.rowput x) s = execRowput x s := rfl
@[simp] theorem exec_rowadd (x : XC) (s : State) : exec (.rowadd x) s = execRowadd x s := rfl
@[simp] theorem exec_rowaxpy (x : XC) (s : State) : exec (.rowaxpy x) s = execRowaxpy x s := rfl
@[simp] theorem exec_rowscale (x : XC) (s : State) : exec (.rowscale x) s = execRowscale x s := rfl
@[simp] theorem exec_rowdot (x : XC) (s : State) : exec (.rowdot x) s = execRowdot x s := rfl
@[simp] theorem exec_rowcvt (x : X2) (s : State) : exec (.rowcvt x) s = execRowcvt x s := rfl
@[simp] theorem exec_rowzero (x : X2) (s : State) : exec (.rowzero x) s = execRowzero x s := rfl
@[simp] theorem exec_rowcopy (x : X2) (s : State) : exec (.rowcopy x) s = execRowcopy x s := rfl
@[simp] theorem exec_rowtopk (x : XC) (s : State) : exec (.rowtopk x) s = execRowtopk x s := rfl
@[simp] theorem exec_rowgetLong (x : XL) (s : State) : exec (.rowgetLong x) s = execRowgetLong x s := rfl
@[simp] theorem exec_rowputLong (x : XL) (s : State) : exec (.rowputLong x) s = execRowputLong x s := rfl
@[simp] theorem exec_rowaddLong (x : XL) (s : State) : exec (.rowaddLong x) s = execRowaddLong x s := rfl
@[simp] theorem exec_rowaxpyLong (x : XL) (s : State) : exec (.rowaxpyLong x) s = execRowaxpyLong x s := rfl
@[simp] theorem exec_rowscaleLong (x : XL) (s : State) : exec (.rowscaleLong x) s = execRowscaleLong x s := rfl
@[simp] theorem exec_rowdotLong (x : XL) (s : State) : exec (.rowdotLong x) s = execRowdotLong x s := rfl
@[simp] theorem exec_rowcvtLong (x : X2L) (s : State) : exec (.rowcvtLong x) s = execRowcvtLong x s := rfl
@[simp] theorem exec_rowzeroLong (x : X2L) (s : State) : exec (.rowzeroLong x) s = execRowzeroLong x s := rfl
@[simp] theorem exec_rowcopyLong (x : X2L) (s : State) : exec (.rowcopyLong x) s = execRowcopyLong x s := rfl
@[simp] theorem exec_rowtopkLong (x : XL) (s : State) : exec (.rowtopkLong x) s = execRowtopkLong x s := rfl
@[simp] theorem exec_mclaim (slot : Reg) (s : State) : exec (.mclaim slot) s = execMclaim slot s := rfl
@[simp] theorem exec_mrel (slot : Reg) (s : State) : exec (.mrel slot) s = execMrel slot s := rfl
@[simp] theorem exec_mload (x : XC) (s : State) : exec (.mload x) s = execMload x s := rfl
@[simp] theorem exec_msplit (x : XC) (s : State) : exec (.msplit x) s = execMsplit x s := rfl
@[simp] theorem exec_mmul (x : XC) (s : State) : exec (.mmul x) s = execMmul x s := rfl
@[simp] theorem exec_mslice (x : XC) (s : State) : exec (.mslice x) s = execMslice x s := rfl
@[simp] theorem exec_mcomb (x : X2) (s : State) : exec (.mcomb x) s = execMcomb x s := rfl
@[simp] theorem exec_mzero (tile : Reg) (s : State) : exec (.mzero tile) s = execMzero tile s := rfl
@[simp] theorem exec_mdrain (x : XC) (s : State) : exec (.mdrain x) s = execMdrain x s := rfl
@[simp] theorem exec_mloadLong (x : XL) (s : State) : exec (.mloadLong x) s = execMloadLong x s := rfl
@[simp] theorem exec_msplitLong (x : XL) (s : State) : exec (.msplitLong x) s = execMsplitLong x s := rfl
@[simp] theorem exec_mmulLong (x : XL) (s : State) : exec (.mmulLong x) s = execMmulLong x s := rfl
@[simp] theorem exec_msliceLong (x : XL) (s : State) : exec (.msliceLong x) s = execMsliceLong x s := rfl
@[simp] theorem exec_mcombLong (x : X2L) (s : State) : exec (.mcombLong x) s = execMcombLong x s := rfl
@[simp] theorem exec_mdrainLong (x : XL) (s : State) : exec (.mdrainLong x) s = execMdrainLong x s := rfl
@[simp] theorem exec_mrdacc (d tile b : Reg) (s : State) : exec (.mrdacc d tile b) s = execMrdacc d tile b s := rfl
@[simp] theorem exec_mwracc (tile a b : Reg) (s : State) : exec (.mwracc tile a b) s = execMwracc tile a b s := rfl
@[simp] theorem exec_mstat (d tile : Reg) (s : State) : exec (.mstat d tile) s = execMstat d tile s := rfl
@[simp] theorem exec_ecall (s : State) : exec .ecall s = execEcall s := rfl
@[simp] theorem exec_eret (s : State) : exec .eret s = execEret s := rfl
@[simp] theorem exec_brk (s : State) : exec .brk s = execBrk s := rfl
@[simp] theorem exec_trapc (a : Reg) (s : State) : exec (.trapc a) s = execTrapc a s := rfl
@[simp] theorem exec_wfi (s : State) : exec .wfi s = execWfi s := rfl
@[simp] theorem exec_rdc (d : Reg) (n : BitVec 4) (s : State) : exec (.rdc d n) s = execRdc d n s := rfl
@[simp] theorem exec_wrc (a : Reg) (n : BitVec 4) (s : State) : exec (.wrc a n) s = execWrc a n s := rfl
@[simp] theorem exec_iinv (a b : Reg) (s : State) : exec (.iinv a b) s = execIinv a b s := rfl
@[simp] theorem exec_ifence (s : State) : exec .ifence s = execIfence s := rfl
@[simp] theorem exec_xinv (a b : Reg) (s : State) : exec (.xinv a b) s = execXinv a b s := rfl
@[simp] theorem exec_taskPlacement (station : Nat) (s : State) : exec (.taskPlacement station) s = execTaskPlacement station s := rfl
@[simp] theorem exec_priorityAging (ctx : Nat) (s : State) : exec (.priorityAging ctx) s = execPriorityAging ctx s := rfl
@[simp] theorem exec_stepTimeout (t : ThreadId) (s : State) : exec (.stepTimeout t) s = execStepTimeout t s := rfl
@[simp] theorem exec_rotLengthChange (core : Nat) (s : State) : exec (.rotLengthChange core) s = execRotLengthChange core s := rfl
@[simp] theorem exec_remoteAccessArrival (id : Nat) (s : State) : exec (.remoteAccessArrival id) s = execRemoteAccessArrival id s := rfl
@[simp] theorem exec_remoteAnswer (id : Nat) (ext : ExtAnswer) (s : State) : exec (.remoteAnswer id ext) s = execRemoteAnswer id ext s := rfl
@[simp] theorem exec_postedStoreAck (id : Nat) (ext : ExtAnswer) (s : State) : exec (.postedStoreAck id ext) s = execPostedStoreAck id ext s := rfl
@[simp] theorem exec_parkRetry (id : Nat) (s : State) : exec (.parkRetry id) s = execParkRetry id s := rfl
@[simp] theorem exec_parkCancelAnswer (id : Nat) (s : State) : exec (.parkCancelAnswer id) s = execParkCancelAnswer id s := rfl
@[simp] theorem exec_fetimeout (id : Nat) (s : State) : exec (.fetimeout id) s = execFetimeout id s := rfl
@[simp] theorem exec_interruptEntry (t : ThreadId) (s : State) : exec (.interruptEntry t) s = execInterruptEntry t s := rfl
@[simp] theorem exec_timerExpiry (ctx : Nat) (s : State) : exec (.timerExpiry ctx) s = execTimerExpiry ctx s := rfl
@[simp] theorem exec_ifetchLineFill (t : ThreadId) (ext : ExtAnswer) (s : State) : exec (.ifetchLineFill t ext) s = execIfetchLineFill t ext s := rfl
@[simp] theorem exec_sliceFill (station line : Nat) (s : State) : exec (.sliceFill station line) s = execSliceFill station line s := rfl
@[simp] theorem exec_refreshWindowEnd (s : State) : exec .refreshWindowEnd s = execRefreshWindowEnd s := rfl
@[simp] theorem exec_scaddFold (id : Nat) (s : State) : exec (.scaddFold id) s = execScaddFold id s := rfl
@[simp] theorem exec_replicaUpdate (id : Nat) (s : State) : exec (.replicaUpdate id) s = execReplicaUpdate id s := rfl
@[simp] theorem exec_movingRewalk (id : Nat) (s : State) : exec (.movingRewalk id) s = execMovingRewalk id s := rfl
@[simp] theorem exec_movingTimeout (id : Nat) (s : State) : exec (.movingTimeout id) s = execMovingTimeout id s := rfl
@[simp] theorem exec_messageArrival (id : Nat) (s : State) : exec (.messageArrival id) s = execMessageArrival id s := rfl
@[simp] theorem exec_messageNotice (id : Nat) (s : State) : exec (.messageNotice id) s = execMessageNotice id s := rfl
@[simp] theorem exec_messageRetry (id : Nat) (s : State) : exec (.messageRetry id) s = execMessageRetry id s := rfl
@[simp] theorem exec_timedCommandStart (station id : Nat) (s : State) : exec (.timedCommandStart station id) s = execTimedCommandStart station id s := rfl
@[simp] theorem exec_copyEngineCompletion (station id : Nat) (ext : ExtAnswer) (s : State) : exec (.copyEngineCompletion station id ext) s = execCopyEngineCompletion station id ext s := rfl
@[simp] theorem exec_segredCountResult (t : ThreadId) (id : Nat) (s : State) : exec (.segredCountResult t id) s = execSegredCountResult t id s := rfl
@[simp] theorem exec_rowCommandStart (core : Nat) (s : State) : exec (.rowCommandStart core) s = execRowCommandStart core s := rfl
@[simp] theorem exec_rowCommandCompletion (core : Nat) (ext : ExtAnswer) (s : State) : exec (.rowCommandCompletion core ext) s = execRowCommandCompletion core ext s := rfl
@[simp] theorem exec_rowRequest (q : RowReq) (s : State) : exec (.rowRequest q) s = execRowRequest q s := rfl
@[simp] theorem exec_rowResponse (p : RowResp) (s : State) : exec (.rowResponse p) s = execRowResponse p s := rfl
@[simp] theorem exec_arrayCommandStart (station id : Nat) (s : State) : exec (.arrayCommandStart station id) s = execArrayCommandStart station id s := rfl
@[simp] theorem exec_arrayCommandCompletion (station id : Nat) (s : State) : exec (.arrayCommandCompletion station id) s = execArrayCommandCompletion station id s := rfl
@[simp] theorem exec_mstatResult (t : ThreadId) (id : Nat) (s : State) : exec (.mstatResult t id) s = execMstatResult t id s := rfl
@[simp] theorem exec_mcurAbort (station : Nat) (s : State) : exec (.mcurAbort station) s = execMcurAbort station s := rfl
@[simp] theorem exec_msliceAbortStop (station : Nat) (s : State) : exec (.msliceAbortStop station) s = execMsliceAbortStop station s := rfl
@[simp] theorem exec_heartbeat (core : Nat) (s : State) : exec (.heartbeat core) s = execHeartbeat core s := rfl
@[simp] theorem exec_coreStateStop (core : Nat) (addr : Word) (s : State) : exec (.coreStateStop core addr) s = execCoreStateStop core addr s := rfl
@[simp] theorem exec_coreLost (core : Nat) (s : State) : exec (.coreLost core) s = execCoreLost core s := rfl
@[simp] theorem exec_remap (ctx : Nat) (value : Word) (s : State) : exec (.remap ctx value) s = execRemap ctx value s := rfl
@[simp] theorem exec_remapComplete (ctx : Nat) (s : State) : exec (.remapComplete ctx) s = execRemapComplete ctx s := rfl
@[simp] theorem exec_timerWrite (ctx : Nat) (value : Word) (s : State) : exec (.timerWrite ctx value) s = execTimerWrite ctx value s := rfl
@[simp] theorem exec_knellRead (ctx : Nat) (s : State) : exec (.knellRead ctx) s = execKnellRead ctx s := rfl
@[simp] theorem exec_migrateRead (ctx : Nat) (s : State) : exec (.migrateRead ctx) s = execMigrateRead ctx s := rfl
@[simp] theorem exec_hostRead (ctx : Nat) (s : State) : exec (.hostRead ctx) s = execHostRead ctx s := rfl
@[simp] theorem exec_qtailDoorbell (q : Nat) (value : Word) (s : State) : exec (.qtailDoorbell q value) s = execQtailDoorbell q value s := rfl
@[simp] theorem exec_qstatRead (q : Nat) (s : State) : exec (.qstatRead q) s = execQstatRead q s := rfl
@[simp] theorem exec_qbaseWrite (q : Nat) (value : Word) (s : State) : exec (.qbaseWrite q value) s = execQbaseWrite q value s := rfl
@[simp] theorem exec_launch (q : Nat) (s : State) : exec (.launch q) s = execLaunch q s := rfl
@[simp] theorem exec_signal (q : Nat) (s : State) : exec (.signal q) s = execSignal q s := rfl
@[simp] theorem exec_wait (q : Nat) (s : State) : exec (.wait q) s = execWait q s := rfl
@[simp] theorem exec_waitPoll (q : Nat) (s : State) : exec (.waitPoll q) s = execWaitPoll q s := rfl
@[simp] theorem exec_halt (q : Nat) (s : State) : exec (.halt q) s = execHalt q s := rfl
@[simp] theorem exec_resume (q : Nat) (s : State) : exec (.resume q) s = execResume q s := rfl
@[simp] theorem exec_dbgStep (q : Nat) (s : State) : exec (.dbgStep q) s = execDbgStep q s := rfl
@[simp] theorem exec_rdreg (q : Nat) (s : State) : exec (.rdreg q) s = execRdreg q s := rfl
@[simp] theorem exec_wrreg (q : Nat) (s : State) : exec (.wrreg q) s = execWrreg q s := rfl
@[simp] theorem exec_rdspad (q : Nat) (s : State) : exec (.rdspad q) s = execRdspad q s := rfl
@[simp] theorem exec_wrspad (q : Nat) (s : State) : exec (.wrspad q) s = execWrspad q s := rfl
@[simp] theorem exec_setbp (q : Nat) (s : State) : exec (.setbp q) s = execSetbp q s := rfl
@[simp] theorem exec_setwp (q : Nat) (s : State) : exec (.setwp q) s = execSetwp q s := rfl
@[simp] theorem exec_count (q : Nat) (s : State) : exec (.count q) s = execCount q s := rfl
@[simp] theorem exec_trace (q : Nat) (s : State) : exec (.trace q) s = execTrace q s := rfl
@[simp] theorem exec_flush (q : Nat) (s : State) : exec (.flush q) s = execFlush q s := rfl
@[simp] theorem exec_traceSample (core : Nat) (s : State) : exec (.traceSample core) s = execTraceSample core s := rfl
@[simp] theorem exec_partitionLoad (s : State) : exec .partitionLoad s = execPartitionLoad s := rfl
@[simp] theorem exec_partitionSwitch (s : State) : exec .partitionSwitch s = execPartitionSwitch s := rfl
@[simp] theorem exec_partitionUnload (s : State) : exec .partitionUnload s = execPartitionUnload s := rfl
@[simp] theorem exec_partitionUnpause (s : State) : exec .partitionUnpause s = execPartitionUnpause s := rfl
@[simp] theorem exec_peal (ctx : Nat) (s : State) : exec (.peal ctx) s = execPeal ctx s := rfl
@[simp] theorem exec_migrationStart (channel : Nat) (value : Word) (s : State) : exec (.migrationStart channel value) s = execMigrationStart channel value s := rfl
@[simp] theorem exec_migrationComplete (channel : Nat) (s : State) : exec (.migrationComplete channel) s = execMigrationComplete channel s := rfl
@[simp] theorem exec_xinvregStart (value : Word) (s : State) : exec (.xinvregStart value) s = execXinvregStart value s := rfl
@[simp] theorem exec_xinvregComplete (s : State) : exec .xinvregComplete s = execXinvregComplete s := rfl
@[simp] theorem exec_cntclrAll (s : State) : exec .cntclrAll s = execCntclrAll s := rfl
@[simp] theorem exec_cntclrPage (page : Nat) (s : State) : exec (.cntclrPage page) s = execCntclrPage page s := rfl
@[simp] theorem exec_hmailWrite (value : Word) (s : State) : exec (.hmailWrite value) s = execHmailWrite value s := rfl
@[simp] theorem exec_hknellRead (s : State) : exec .hknellRead s = execHknellRead s := rfl
@[simp] theorem exec_bar2errRead (s : State) : exec .bar2errRead s = execBar2errRead s := rfl
@[simp] theorem exec_errlostRead (s : State) : exec .errlostRead s = execErrlostRead s := rfl
@[simp] theorem exec_registerWrite (offset : Nat) (value : Word) (s : State) : exec (.registerWrite offset value) s = execRegisterWrite offset value s := rfl
@[simp] theorem exec_bar2Read (offset n : Nat) (s : State) : exec (.bar2Read offset n) s = execBar2Read offset n s := rfl
@[simp] theorem exec_bar2Write (offset : Nat) (bytes : List Byte) (s : State) : exec (.bar2Write offset bytes) s = execBar2Write offset bytes s := rfl
@[simp] theorem exec_routerPowerDown (station : Nat) (s : State) : exec (.routerPowerDown station) s = execRouterPowerDown station s := rfl
@[simp] theorem exec_routerWake (station : Nat) (s : State) : exec (.routerWake station) s = execRouterWake station s := rfl
@[simp] theorem exec_linkFlit (f : Flit) (s : State) : exec (.linkFlit f) s = execLinkFlit f s := rfl
@[simp] theorem exec_portFailed (port : Nat) (s : State) : exec (.portFailed port) s = execPortFailed port s := rfl
@[simp] theorem exec_timeLock (port : Nat) (s : State) : exec (.timeLock port) s = execTimeLock port s := rfl
@[simp] theorem exec_keyset (s : State) : exec .keyset s = execKeyset s := rfl
@[simp] theorem exec_keykill (s : State) : exec .keykill s = execKeykill s := rfl
@[simp] theorem exec_sweep (s : State) : exec .sweep s = execSweep s := rfl
@[simp] theorem exec_sweepComplete (s : State) : exec .sweepComplete s = execSweepComplete s := rfl
@[simp] theorem exec_attest (s : State) : exec .attest s = execAttest s := rfl
@[simp] theorem exec_power (s : State) : exec .power s = execPower s := rfl
@[simp] theorem exec_jclr (s : State) : exec .jclr s = execJclr s := rfl
@[simp] theorem exec_boot (b : BootInput) (s : State) : exec (.boot b) s = execBoot b s := rfl
@[simp] theorem exec_recoveryImage (b : BootInput) (s : State) : exec (.recoveryImage b) s = execRecoveryImage b s := rfl
@[simp] theorem exec_thermalThrottle (reticle : Nat) (s : State) : exec (.thermalThrottle reticle) s = execThermalThrottle reticle s := rfl
@[simp] theorem exec_thermalRecover (reticle : Nat) (s : State) : exec (.thermalRecover reticle) s = execThermalRecover reticle s := rfl
@[simp] theorem exec_attimeReached (t : ThreadId) (s : State) : exec (.attimeReached t) s = execAttimeReached t s := rfl
@[simp] theorem exec_powerChangeComplete (reticle : Nat) (s : State) : exec (.powerChangeComplete reticle) s = execPowerChangeComplete reticle s := rfl
@[simp] theorem exec_tileRequestRetry (t : ThreadId) (s : State) : exec (.tileRequestRetry t) s = execTileRequestRetry t s := rfl

end Sys2Proof.Laws
end

