-- ==== Sys2Proof/Laws/Links.lean ====
section
/-! SUPPORT. What updates of a port and of a migration channel leave in each field, and what reads behind them give. -/

namespace Sys2Proof.Machine

/-! ### setPort -/

@[simp] theorem State.setPort_schedule (s : State) (q : Nat) (k : Port) : (s.setPort q k).schedule = s.schedule := rfl
@[simp] theorem State.setPort_phase (s : State) (q : Nat) (k : Port) : (s.setPort q k).phase = s.phase := rfl
@[simp] theorem State.setPort_cycles (s : State) (q : Nat) (k : Port) : (s.setPort q k).cycles = s.cycles := rfl
@[simp] theorem State.setPort_focus (s : State) (q : Nat) (k : Port) : (s.setPort q k).focus = s.focus := rfl
@[simp] theorem State.setPort_cur (s : State) (q : Nat) (k : Port) : (s.setPort q k).cur = s.cur := rfl
@[simp] theorem State.setPort_free (s : State) (q : Nat) (k : Port) : (s.setPort q k).free = s.free := rfl
@[simp] theorem State.setPort_nextId (s : State) (q : Nat) (k : Port) : (s.setPort q k).nextId = s.nextId := rfl
@[simp] theorem State.setPort_hostData (s : State) (q : Nat) (k : Port) : (s.setPort q k).hostData = s.hostData := rfl
@[simp] theorem State.setPort_time (s : State) (q : Nat) (k : Port) : (s.setPort q k).time = s.time := rfl
@[simp] theorem State.setPort_phys (s : State) (q : Nat) (k : Port) : (s.setPort q k).phys = s.phys := rfl
@[simp] theorem State.setPort_cores (s : State) (q : Nat) (k : Port) : (s.setPort q k).cores = s.cores := rfl
@[simp] theorem State.setPort_stations (s : State) (q : Nat) (k : Port) : (s.setPort q k).stations = s.stations := rfl
@[simp] theorem State.setPort_xlats (s : State) (q : Nat) (k : Port) : (s.setPort q k).xlats = s.xlats := rfl
@[simp] theorem State.setPort_dram (s : State) (q : Nat) (k : Port) : (s.setPort q k).dram = s.dram := rfl
@[simp] theorem State.setPort_accesses (s : State) (q : Nat) (k : Port) : (s.setPort q k).accesses = s.accesses := rfl
@[simp] theorem State.setPort_flights (s : State) (q : Nat) (k : Port) : (s.setPort q k).flights = s.flights := rfl
@[simp] theorem State.setPort_rowWaits (s : State) (q : Nat) (k : Port) : (s.setPort q k).rowWaits = s.rowWaits := rfl
@[simp] theorem State.setPort_folds (s : State) (q : Nat) (k : Port) : (s.setPort q k).folds = s.folds := rfl
@[simp] theorem State.setPort_replicas (s : State) (q : Nat) (k : Port) : (s.setPort q k).replicas = s.replicas := rfl
@[simp] theorem State.setPort_lates (s : State) (q : Nat) (k : Port) : (s.setPort q k).lates = s.lates := rfl
@[simp] theorem State.setPort_classes (s : State) (q : Nat) (k : Port) : (s.setPort q k).classes = s.classes := rfl
@[simp] theorem State.setPort_serves (s : State) (q : Nat) (k : Port) : (s.setPort q k).serves = s.serves := rfl
@[simp] theorem State.setPort_descs (s : State) (q : Nat) (k : Port) : (s.setPort q k).descs = s.descs := rfl
@[simp] theorem State.setPort_held (s : State) (q : Nat) (k : Port) : (s.setPort q k).held = s.held := rfl
@[simp] theorem State.setPort_ctxs (s : State) (q : Nat) (k : Port) : (s.setPort q k).ctxs = s.ctxs := rfl
@[simp] theorem State.setPort_sec (s : State) (q : Nat) (k : Port) : (s.setPort q k).sec = s.sec := rfl
@[simp] theorem State.setPort_pkg (s : State) (q : Nat) (k : Port) : (s.setPort q k).pkg = s.pkg := rfl
@[simp] theorem State.portAt_setPort_self (s : State) (q : Nat) (k : Port) : (s.setPort q k).portAt q = k := by
  simp [State.portAt, State.setPort]
theorem State.portAt_setPort_ne (s : State) {q r : Nat} (k : Port) (h : r ≠ q) : (s.setPort q k).portAt r = s.portAt r := by
  simp [State.portAt, State.setPort, agetD, aget_aset_ne _ _ h]

/-! ### setChannel -/

@[simp] theorem State.setChannel_schedule (s : State) (c : Nat) (k : Channel) : (s.setChannel c k).schedule = s.schedule := rfl
@[simp] theorem State.setChannel_phase (s : State) (c : Nat) (k : Channel) : (s.setChannel c k).phase = s.phase := rfl
@[simp] theorem State.setChannel_cycles (s : State) (c : Nat) (k : Channel) : (s.setChannel c k).cycles = s.cycles := rfl
@[simp] theorem State.setChannel_focus (s : State) (c : Nat) (k : Channel) : (s.setChannel c k).focus = s.focus := rfl
@[simp] theorem State.setChannel_cur (s : State) (c : Nat) (k : Channel) : (s.setChannel c k).cur = s.cur := rfl
@[simp] theorem State.setChannel_free (s : State) (c : Nat) (k : Channel) : (s.setChannel c k).free = s.free := rfl
@[simp] theorem State.setChannel_nextId (s : State) (c : Nat) (k : Channel) : (s.setChannel c k).nextId = s.nextId := rfl
@[simp] theorem State.setChannel_hostData (s : State) (c : Nat) (k : Channel) : (s.setChannel c k).hostData = s.hostData := rfl
@[simp] theorem State.setChannel_time (s : State) (c : Nat) (k : Channel) : (s.setChannel c k).time = s.time := rfl
@[simp] theorem State.setChannel_phys (s : State) (c : Nat) (k : Channel) : (s.setChannel c k).phys = s.phys := rfl
@[simp] theorem State.setChannel_cores (s : State) (c : Nat) (k : Channel) : (s.setChannel c k).cores = s.cores := rfl
@[simp] theorem State.setChannel_stations (s : State) (c : Nat) (k : Channel) : (s.setChannel c k).stations = s.stations := rfl
@[simp] theorem State.setChannel_xlats (s : State) (c : Nat) (k : Channel) : (s.setChannel c k).xlats = s.xlats := rfl
@[simp] theorem State.setChannel_dram (s : State) (c : Nat) (k : Channel) : (s.setChannel c k).dram = s.dram := rfl
@[simp] theorem State.setChannel_accesses (s : State) (c : Nat) (k : Channel) : (s.setChannel c k).accesses = s.accesses := rfl
@[simp] theorem State.setChannel_flights (s : State) (c : Nat) (k : Channel) : (s.setChannel c k).flights = s.flights := rfl
@[simp] theorem State.setChannel_rowWaits (s : State) (c : Nat) (k : Channel) : (s.setChannel c k).rowWaits = s.rowWaits := rfl
@[simp] theorem State.setChannel_folds (s : State) (c : Nat) (k : Channel) : (s.setChannel c k).folds = s.folds := rfl
@[simp] theorem State.setChannel_replicas (s : State) (c : Nat) (k : Channel) : (s.setChannel c k).replicas = s.replicas := rfl
@[simp] theorem State.setChannel_lates (s : State) (c : Nat) (k : Channel) : (s.setChannel c k).lates = s.lates := rfl
@[simp] theorem State.setChannel_classes (s : State) (c : Nat) (k : Channel) : (s.setChannel c k).classes = s.classes := rfl
@[simp] theorem State.setChannel_serves (s : State) (c : Nat) (k : Channel) : (s.setChannel c k).serves = s.serves := rfl
@[simp] theorem State.setChannel_descs (s : State) (c : Nat) (k : Channel) : (s.setChannel c k).descs = s.descs := rfl
@[simp] theorem State.setChannel_held (s : State) (c : Nat) (k : Channel) : (s.setChannel c k).held = s.held := rfl
@[simp] theorem State.setChannel_ctxs (s : State) (c : Nat) (k : Channel) : (s.setChannel c k).ctxs = s.ctxs := rfl
@[simp] theorem State.setChannel_sec (s : State) (c : Nat) (k : Channel) : (s.setChannel c k).sec = s.sec := rfl
@[simp] theorem State.setChannel_pkg (s : State) (c : Nat) (k : Channel) : (s.setChannel c k).pkg = s.pkg := rfl
@[simp] theorem State.channelAt_setChannel_self (s : State) (c : Nat) (k : Channel) : (s.setChannel c k).channelAt c = k := by
  simp [State.channelAt, State.setChannel]
theorem State.channelAt_setChannel_ne (s : State) {c d : Nat} (k : Channel) (h : d ≠ c) :
    (s.setChannel c k).channelAt d = s.channelAt d := by
  simp [State.channelAt, State.setChannel, agetD, aget_aset_ne _ _ h]

/-! ### pass -/

@[simp] theorem State.pass_schedule (s : State) (n : Nat) : (s.pass n).schedule = s.schedule := rfl
@[simp] theorem State.pass_phase (s : State) (n : Nat) : (s.pass n).phase = s.phase := rfl
@[simp] theorem State.pass_focus (s : State) (n : Nat) : (s.pass n).focus = s.focus := rfl
@[simp] theorem State.pass_cur (s : State) (n : Nat) : (s.pass n).cur = s.cur := rfl
@[simp] theorem State.pass_free (s : State) (n : Nat) : (s.pass n).free = s.free := rfl
@[simp] theorem State.pass_nextId (s : State) (n : Nat) : (s.pass n).nextId = s.nextId := rfl
@[simp] theorem State.pass_hostData (s : State) (n : Nat) : (s.pass n).hostData = s.hostData := rfl
@[simp] theorem State.pass_phys (s : State) (n : Nat) : (s.pass n).phys = s.phys := rfl
@[simp] theorem State.pass_cores (s : State) (n : Nat) : (s.pass n).cores = s.cores := rfl
@[simp] theorem State.pass_stations (s : State) (n : Nat) : (s.pass n).stations = s.stations := rfl
@[simp] theorem State.pass_xlats (s : State) (n : Nat) : (s.pass n).xlats = s.xlats := rfl
@[simp] theorem State.pass_dram (s : State) (n : Nat) : (s.pass n).dram = s.dram := rfl
@[simp] theorem State.pass_accesses (s : State) (n : Nat) : (s.pass n).accesses = s.accesses := rfl
@[simp] theorem State.pass_flights (s : State) (n : Nat) : (s.pass n).flights = s.flights := rfl
@[simp] theorem State.pass_rowWaits (s : State) (n : Nat) : (s.pass n).rowWaits = s.rowWaits := rfl
@[simp] theorem State.pass_folds (s : State) (n : Nat) : (s.pass n).folds = s.folds := rfl
@[simp] theorem State.pass_replicas (s : State) (n : Nat) : (s.pass n).replicas = s.replicas := rfl
@[simp] theorem State.pass_lates (s : State) (n : Nat) : (s.pass n).lates = s.lates := rfl
@[simp] theorem State.pass_classes (s : State) (n : Nat) : (s.pass n).classes = s.classes := rfl
@[simp] theorem State.pass_serves (s : State) (n : Nat) : (s.pass n).serves = s.serves := rfl
@[simp] theorem State.pass_descs (s : State) (n : Nat) : (s.pass n).descs = s.descs := rfl
@[simp] theorem State.pass_held (s : State) (n : Nat) : (s.pass n).held = s.held := rfl
@[simp] theorem State.pass_ctxs (s : State) (n : Nat) : (s.pass n).ctxs = s.ctxs := rfl
@[simp] theorem State.pass_sec (s : State) (n : Nat) : (s.pass n).sec = s.sec := rfl
@[simp] theorem State.pass_pkg (s : State) (n : Nat) : (s.pass n).pkg = s.pkg := rfl
@[simp] theorem State.pass_host (s : State) (n : Nat) : (s.pass n).host = s.host := rfl
@[simp] theorem State.pass_time (s : State) (n : Nat) : (s.pass n).time = s.time + BitVec.ofNat 64 n := rfl

end Sys2Proof.Machine
end

