-- ==== Sys2Proof/Laws/State.lean ====
section
/-! SUPPORT. What each update of the state leaves in each field, and what the accessors read behind it. -/

namespace Sys2Proof.Machine

/-! ### setCore -/

@[simp] theorem State.setCore_schedule (s : State) (c : Nat) (k : Core) : (s.setCore c k).schedule = s.schedule := rfl
@[simp] theorem State.setCore_phase (s : State) (c : Nat) (k : Core) : (s.setCore c k).phase = s.phase := rfl
@[simp] theorem State.setCore_cycles (s : State) (c : Nat) (k : Core) : (s.setCore c k).cycles = s.cycles := rfl
@[simp] theorem State.setCore_focus (s : State) (c : Nat) (k : Core) : (s.setCore c k).focus = s.focus := rfl
@[simp] theorem State.setCore_cur (s : State) (c : Nat) (k : Core) : (s.setCore c k).cur = s.cur := rfl
@[simp] theorem State.setCore_free (s : State) (c : Nat) (k : Core) : (s.setCore c k).free = s.free := rfl
@[simp] theorem State.setCore_nextId (s : State) (c : Nat) (k : Core) : (s.setCore c k).nextId = s.nextId := rfl
@[simp] theorem State.setCore_hostData (s : State) (c : Nat) (k : Core) : (s.setCore c k).hostData = s.hostData := rfl
@[simp] theorem State.setCore_time (s : State) (c : Nat) (k : Core) : (s.setCore c k).time = s.time := rfl
@[simp] theorem State.setCore_phys (s : State) (c : Nat) (k : Core) : (s.setCore c k).phys = s.phys := rfl
@[simp] theorem State.setCore_stations (s : State) (c : Nat) (k : Core) : (s.setCore c k).stations = s.stations := rfl
@[simp] theorem State.setCore_xlats (s : State) (c : Nat) (k : Core) : (s.setCore c k).xlats = s.xlats := rfl
@[simp] theorem State.setCore_dram (s : State) (c : Nat) (k : Core) : (s.setCore c k).dram = s.dram := rfl
@[simp] theorem State.setCore_accesses (s : State) (c : Nat) (k : Core) : (s.setCore c k).accesses = s.accesses := rfl
@[simp] theorem State.setCore_flights (s : State) (c : Nat) (k : Core) : (s.setCore c k).flights = s.flights := rfl
@[simp] theorem State.setCore_rowWaits (s : State) (c : Nat) (k : Core) : (s.setCore c k).rowWaits = s.rowWaits := rfl
@[simp] theorem State.setCore_folds (s : State) (c : Nat) (k : Core) : (s.setCore c k).folds = s.folds := rfl
@[simp] theorem State.setCore_replicas (s : State) (c : Nat) (k : Core) : (s.setCore c k).replicas = s.replicas := rfl
@[simp] theorem State.setCore_lates (s : State) (c : Nat) (k : Core) : (s.setCore c k).lates = s.lates := rfl
@[simp] theorem State.setCore_classes (s : State) (c : Nat) (k : Core) : (s.setCore c k).classes = s.classes := rfl
@[simp] theorem State.setCore_serves (s : State) (c : Nat) (k : Core) : (s.setCore c k).serves = s.serves := rfl
@[simp] theorem State.setCore_descs (s : State) (c : Nat) (k : Core) : (s.setCore c k).descs = s.descs := rfl
@[simp] theorem State.setCore_held (s : State) (c : Nat) (k : Core) : (s.setCore c k).held = s.held := rfl
@[simp] theorem State.setCore_ctxs (s : State) (c : Nat) (k : Core) : (s.setCore c k).ctxs = s.ctxs := rfl
@[simp] theorem State.setCore_host (s : State) (c : Nat) (k : Core) : (s.setCore c k).host = s.host := rfl
@[simp] theorem State.setCore_sec (s : State) (c : Nat) (k : Core) : (s.setCore c k).sec = s.sec := rfl
@[simp] theorem State.setCore_pkg (s : State) (c : Nat) (k : Core) : (s.setCore c k).pkg = s.pkg := rfl

/-! ### modCore -/

@[simp] theorem State.modCore_schedule (s : State) (c : Nat) (f : Core → Core) : (s.modCore c f).schedule = s.schedule := rfl
@[simp] theorem State.modCore_phase (s : State) (c : Nat) (f : Core → Core) : (s.modCore c f).phase = s.phase := rfl
@[simp] theorem State.modCore_cycles (s : State) (c : Nat) (f : Core → Core) : (s.modCore c f).cycles = s.cycles := rfl
@[simp] theorem State.modCore_focus (s : State) (c : Nat) (f : Core → Core) : (s.modCore c f).focus = s.focus := rfl
@[simp] theorem State.modCore_cur (s : State) (c : Nat) (f : Core → Core) : (s.modCore c f).cur = s.cur := rfl
@[simp] theorem State.modCore_free (s : State) (c : Nat) (f : Core → Core) : (s.modCore c f).free = s.free := rfl
@[simp] theorem State.modCore_nextId (s : State) (c : Nat) (f : Core → Core) : (s.modCore c f).nextId = s.nextId := rfl
@[simp] theorem State.modCore_hostData (s : State) (c : Nat) (f : Core → Core) : (s.modCore c f).hostData = s.hostData := rfl
@[simp] theorem State.modCore_time (s : State) (c : Nat) (f : Core → Core) : (s.modCore c f).time = s.time := rfl
@[simp] theorem State.modCore_phys (s : State) (c : Nat) (f : Core → Core) : (s.modCore c f).phys = s.phys := rfl
@[simp] theorem State.modCore_stations (s : State) (c : Nat) (f : Core → Core) : (s.modCore c f).stations = s.stations := rfl
@[simp] theorem State.modCore_xlats (s : State) (c : Nat) (f : Core → Core) : (s.modCore c f).xlats = s.xlats := rfl
@[simp] theorem State.modCore_dram (s : State) (c : Nat) (f : Core → Core) : (s.modCore c f).dram = s.dram := rfl
@[simp] theorem State.modCore_accesses (s : State) (c : Nat) (f : Core → Core) : (s.modCore c f).accesses = s.accesses := rfl
@[simp] theorem State.modCore_flights (s : State) (c : Nat) (f : Core → Core) : (s.modCore c f).flights = s.flights := rfl
@[simp] theorem State.modCore_rowWaits (s : State) (c : Nat) (f : Core → Core) : (s.modCore c f).rowWaits = s.rowWaits := rfl
@[simp] theorem State.modCore_folds (s : State) (c : Nat) (f : Core → Core) : (s.modCore c f).folds = s.folds := rfl
@[simp] theorem State.modCore_replicas (s : State) (c : Nat) (f : Core → Core) : (s.modCore c f).replicas = s.replicas := rfl
@[simp] theorem State.modCore_lates (s : State) (c : Nat) (f : Core → Core) : (s.modCore c f).lates = s.lates := rfl
@[simp] theorem State.modCore_classes (s : State) (c : Nat) (f : Core → Core) : (s.modCore c f).classes = s.classes := rfl
@[simp] theorem State.modCore_serves (s : State) (c : Nat) (f : Core → Core) : (s.modCore c f).serves = s.serves := rfl
@[simp] theorem State.modCore_descs (s : State) (c : Nat) (f : Core → Core) : (s.modCore c f).descs = s.descs := rfl
@[simp] theorem State.modCore_held (s : State) (c : Nat) (f : Core → Core) : (s.modCore c f).held = s.held := rfl
@[simp] theorem State.modCore_ctxs (s : State) (c : Nat) (f : Core → Core) : (s.modCore c f).ctxs = s.ctxs := rfl
@[simp] theorem State.modCore_host (s : State) (c : Nat) (f : Core → Core) : (s.modCore c f).host = s.host := rfl
@[simp] theorem State.modCore_sec (s : State) (c : Nat) (f : Core → Core) : (s.modCore c f).sec = s.sec := rfl
@[simp] theorem State.modCore_pkg (s : State) (c : Nat) (f : Core → Core) : (s.modCore c f).pkg = s.pkg := rfl

/-! ### setStation -/

@[simp] theorem State.setStation_schedule (s : State) (n : Nat) (k : Station) : (s.setStation n k).schedule = s.schedule := rfl
@[simp] theorem State.setStation_phase (s : State) (n : Nat) (k : Station) : (s.setStation n k).phase = s.phase := rfl
@[simp] theorem State.setStation_cycles (s : State) (n : Nat) (k : Station) : (s.setStation n k).cycles = s.cycles := rfl
@[simp] theorem State.setStation_focus (s : State) (n : Nat) (k : Station) : (s.setStation n k).focus = s.focus := rfl
@[simp] theorem State.setStation_cur (s : State) (n : Nat) (k : Station) : (s.setStation n k).cur = s.cur := rfl
@[simp] theorem State.setStation_free (s : State) (n : Nat) (k : Station) : (s.setStation n k).free = s.free := rfl
@[simp] theorem State.setStation_nextId (s : State) (n : Nat) (k : Station) : (s.setStation n k).nextId = s.nextId := rfl
@[simp] theorem State.setStation_hostData (s : State) (n : Nat) (k : Station) : (s.setStation n k).hostData = s.hostData := rfl
@[simp] theorem State.setStation_time (s : State) (n : Nat) (k : Station) : (s.setStation n k).time = s.time := rfl
@[simp] theorem State.setStation_phys (s : State) (n : Nat) (k : Station) : (s.setStation n k).phys = s.phys := rfl
@[simp] theorem State.setStation_cores (s : State) (n : Nat) (k : Station) : (s.setStation n k).cores = s.cores := rfl
@[simp] theorem State.setStation_xlats (s : State) (n : Nat) (k : Station) : (s.setStation n k).xlats = s.xlats := rfl
@[simp] theorem State.setStation_dram (s : State) (n : Nat) (k : Station) : (s.setStation n k).dram = s.dram := rfl
@[simp] theorem State.setStation_accesses (s : State) (n : Nat) (k : Station) : (s.setStation n k).accesses = s.accesses := rfl
@[simp] theorem State.setStation_flights (s : State) (n : Nat) (k : Station) : (s.setStation n k).flights = s.flights := rfl
@[simp] theorem State.setStation_rowWaits (s : State) (n : Nat) (k : Station) : (s.setStation n k).rowWaits = s.rowWaits := rfl
@[simp] theorem State.setStation_folds (s : State) (n : Nat) (k : Station) : (s.setStation n k).folds = s.folds := rfl
@[simp] theorem State.setStation_replicas (s : State) (n : Nat) (k : Station) : (s.setStation n k).replicas = s.replicas := rfl
@[simp] theorem State.setStation_lates (s : State) (n : Nat) (k : Station) : (s.setStation n k).lates = s.lates := rfl
@[simp] theorem State.setStation_classes (s : State) (n : Nat) (k : Station) : (s.setStation n k).classes = s.classes := rfl
@[simp] theorem State.setStation_serves (s : State) (n : Nat) (k : Station) : (s.setStation n k).serves = s.serves := rfl
@[simp] theorem State.setStation_descs (s : State) (n : Nat) (k : Station) : (s.setStation n k).descs = s.descs := rfl
@[simp] theorem State.setStation_held (s : State) (n : Nat) (k : Station) : (s.setStation n k).held = s.held := rfl
@[simp] theorem State.setStation_ctxs (s : State) (n : Nat) (k : Station) : (s.setStation n k).ctxs = s.ctxs := rfl
@[simp] theorem State.setStation_host (s : State) (n : Nat) (k : Station) : (s.setStation n k).host = s.host := rfl
@[simp] theorem State.setStation_sec (s : State) (n : Nat) (k : Station) : (s.setStation n k).sec = s.sec := rfl
@[simp] theorem State.setStation_pkg (s : State) (n : Nat) (k : Station) : (s.setStation n k).pkg = s.pkg := rfl

/-! ### modStation -/

@[simp] theorem State.modStation_schedule (s : State) (n : Nat) (f : Station → Station) : (s.modStation n f).schedule = s.schedule := rfl
@[simp] theorem State.modStation_phase (s : State) (n : Nat) (f : Station → Station) : (s.modStation n f).phase = s.phase := rfl
@[simp] theorem State.modStation_cycles (s : State) (n : Nat) (f : Station → Station) : (s.modStation n f).cycles = s.cycles := rfl
@[simp] theorem State.modStation_focus (s : State) (n : Nat) (f : Station → Station) : (s.modStation n f).focus = s.focus := rfl
@[simp] theorem State.modStation_cur (s : State) (n : Nat) (f : Station → Station) : (s.modStation n f).cur = s.cur := rfl
@[simp] theorem State.modStation_free (s : State) (n : Nat) (f : Station → Station) : (s.modStation n f).free = s.free := rfl
@[simp] theorem State.modStation_nextId (s : State) (n : Nat) (f : Station → Station) : (s.modStation n f).nextId = s.nextId := rfl
@[simp] theorem State.modStation_hostData (s : State) (n : Nat) (f : Station → Station) : (s.modStation n f).hostData = s.hostData := rfl
@[simp] theorem State.modStation_time (s : State) (n : Nat) (f : Station → Station) : (s.modStation n f).time = s.time := rfl
@[simp] theorem State.modStation_phys (s : State) (n : Nat) (f : Station → Station) : (s.modStation n f).phys = s.phys := rfl
@[simp] theorem State.modStation_cores (s : State) (n : Nat) (f : Station → Station) : (s.modStation n f).cores = s.cores := rfl
@[simp] theorem State.modStation_xlats (s : State) (n : Nat) (f : Station → Station) : (s.modStation n f).xlats = s.xlats := rfl
@[simp] theorem State.modStation_dram (s : State) (n : Nat) (f : Station → Station) : (s.modStation n f).dram = s.dram := rfl
@[simp] theorem State.modStation_accesses (s : State) (n : Nat) (f : Station → Station) : (s.modStation n f).accesses = s.accesses := rfl
@[simp] theorem State.modStation_flights (s : State) (n : Nat) (f : Station → Station) : (s.modStation n f).flights = s.flights := rfl
@[simp] theorem State.modStation_rowWaits (s : State) (n : Nat) (f : Station → Station) : (s.modStation n f).rowWaits = s.rowWaits := rfl
@[simp] theorem State.modStation_folds (s : State) (n : Nat) (f : Station → Station) : (s.modStation n f).folds = s.folds := rfl
@[simp] theorem State.modStation_replicas (s : State) (n : Nat) (f : Station → Station) : (s.modStation n f).replicas = s.replicas := rfl
@[simp] theorem State.modStation_lates (s : State) (n : Nat) (f : Station → Station) : (s.modStation n f).lates = s.lates := rfl
@[simp] theorem State.modStation_classes (s : State) (n : Nat) (f : Station → Station) : (s.modStation n f).classes = s.classes := rfl
@[simp] theorem State.modStation_serves (s : State) (n : Nat) (f : Station → Station) : (s.modStation n f).serves = s.serves := rfl
@[simp] theorem State.modStation_descs (s : State) (n : Nat) (f : Station → Station) : (s.modStation n f).descs = s.descs := rfl
@[simp] theorem State.modStation_held (s : State) (n : Nat) (f : Station → Station) : (s.modStation n f).held = s.held := rfl
@[simp] theorem State.modStation_ctxs (s : State) (n : Nat) (f : Station → Station) : (s.modStation n f).ctxs = s.ctxs := rfl
@[simp] theorem State.modStation_host (s : State) (n : Nat) (f : Station → Station) : (s.modStation n f).host = s.host := rfl
@[simp] theorem State.modStation_sec (s : State) (n : Nat) (f : Station → Station) : (s.modStation n f).sec = s.sec := rfl
@[simp] theorem State.modStation_pkg (s : State) (n : Nat) (f : Station → Station) : (s.modStation n f).pkg = s.pkg := rfl

/-! ### setThread -/

@[simp] theorem State.setThread_schedule (s : State) (t : ThreadId) (th : Thread) : (s.setThread t th).schedule = s.schedule := rfl
@[simp] theorem State.setThread_phase (s : State) (t : ThreadId) (th : Thread) : (s.setThread t th).phase = s.phase := rfl
@[simp] theorem State.setThread_cycles (s : State) (t : ThreadId) (th : Thread) : (s.setThread t th).cycles = s.cycles := rfl
@[simp] theorem State.setThread_focus (s : State) (t : ThreadId) (th : Thread) : (s.setThread t th).focus = s.focus := rfl
@[simp] theorem State.setThread_cur (s : State) (t : ThreadId) (th : Thread) : (s.setThread t th).cur = s.cur := rfl
@[simp] theorem State.setThread_free (s : State) (t : ThreadId) (th : Thread) : (s.setThread t th).free = s.free := rfl
@[simp] theorem State.setThread_nextId (s : State) (t : ThreadId) (th : Thread) : (s.setThread t th).nextId = s.nextId := rfl
@[simp] theorem State.setThread_hostData (s : State) (t : ThreadId) (th : Thread) : (s.setThread t th).hostData = s.hostData := rfl
@[simp] theorem State.setThread_time (s : State) (t : ThreadId) (th : Thread) : (s.setThread t th).time = s.time := rfl
@[simp] theorem State.setThread_phys (s : State) (t : ThreadId) (th : Thread) : (s.setThread t th).phys = s.phys := rfl
@[simp] theorem State.setThread_stations (s : State) (t : ThreadId) (th : Thread) : (s.setThread t th).stations = s.stations := rfl
@[simp] theorem State.setThread_xlats (s : State) (t : ThreadId) (th : Thread) : (s.setThread t th).xlats = s.xlats := rfl
@[simp] theorem State.setThread_dram (s : State) (t : ThreadId) (th : Thread) : (s.setThread t th).dram = s.dram := rfl
@[simp] theorem State.setThread_accesses (s : State) (t : ThreadId) (th : Thread) : (s.setThread t th).accesses = s.accesses := rfl
@[simp] theorem State.setThread_flights (s : State) (t : ThreadId) (th : Thread) : (s.setThread t th).flights = s.flights := rfl
@[simp] theorem State.setThread_rowWaits (s : State) (t : ThreadId) (th : Thread) : (s.setThread t th).rowWaits = s.rowWaits := rfl
@[simp] theorem State.setThread_folds (s : State) (t : ThreadId) (th : Thread) : (s.setThread t th).folds = s.folds := rfl
@[simp] theorem State.setThread_replicas (s : State) (t : ThreadId) (th : Thread) : (s.setThread t th).replicas = s.replicas := rfl
@[simp] theorem State.setThread_lates (s : State) (t : ThreadId) (th : Thread) : (s.setThread t th).lates = s.lates := rfl
@[simp] theorem State.setThread_classes (s : State) (t : ThreadId) (th : Thread) : (s.setThread t th).classes = s.classes := rfl
@[simp] theorem State.setThread_serves (s : State) (t : ThreadId) (th : Thread) : (s.setThread t th).serves = s.serves := rfl
@[simp] theorem State.setThread_descs (s : State) (t : ThreadId) (th : Thread) : (s.setThread t th).descs = s.descs := rfl
@[simp] theorem State.setThread_held (s : State) (t : ThreadId) (th : Thread) : (s.setThread t th).held = s.held := rfl
@[simp] theorem State.setThread_ctxs (s : State) (t : ThreadId) (th : Thread) : (s.setThread t th).ctxs = s.ctxs := rfl
@[simp] theorem State.setThread_host (s : State) (t : ThreadId) (th : Thread) : (s.setThread t th).host = s.host := rfl
@[simp] theorem State.setThread_sec (s : State) (t : ThreadId) (th : Thread) : (s.setThread t th).sec = s.sec := rfl
@[simp] theorem State.setThread_pkg (s : State) (t : ThreadId) (th : Thread) : (s.setThread t th).pkg = s.pkg := rfl

/-! ### setCtx -/

@[simp] theorem State.setCtx_schedule (s : State) (c : Nat) (x : Context) : (s.setCtx c x).schedule = s.schedule := rfl
@[simp] theorem State.setCtx_phase (s : State) (c : Nat) (x : Context) : (s.setCtx c x).phase = s.phase := rfl
@[simp] theorem State.setCtx_cycles (s : State) (c : Nat) (x : Context) : (s.setCtx c x).cycles = s.cycles := rfl
@[simp] theorem State.setCtx_focus (s : State) (c : Nat) (x : Context) : (s.setCtx c x).focus = s.focus := rfl
@[simp] theorem State.setCtx_cur (s : State) (c : Nat) (x : Context) : (s.setCtx c x).cur = s.cur := rfl
@[simp] theorem State.setCtx_free (s : State) (c : Nat) (x : Context) : (s.setCtx c x).free = s.free := rfl
@[simp] theorem State.setCtx_nextId (s : State) (c : Nat) (x : Context) : (s.setCtx c x).nextId = s.nextId := rfl
@[simp] theorem State.setCtx_hostData (s : State) (c : Nat) (x : Context) : (s.setCtx c x).hostData = s.hostData := rfl
@[simp] theorem State.setCtx_time (s : State) (c : Nat) (x : Context) : (s.setCtx c x).time = s.time := rfl
@[simp] theorem State.setCtx_phys (s : State) (c : Nat) (x : Context) : (s.setCtx c x).phys = s.phys := rfl
@[simp] theorem State.setCtx_cores (s : State) (c : Nat) (x : Context) : (s.setCtx c x).cores = s.cores := rfl
@[simp] theorem State.setCtx_stations (s : State) (c : Nat) (x : Context) : (s.setCtx c x).stations = s.stations := rfl
@[simp] theorem State.setCtx_xlats (s : State) (c : Nat) (x : Context) : (s.setCtx c x).xlats = s.xlats := rfl
@[simp] theorem State.setCtx_dram (s : State) (c : Nat) (x : Context) : (s.setCtx c x).dram = s.dram := rfl
@[simp] theorem State.setCtx_accesses (s : State) (c : Nat) (x : Context) : (s.setCtx c x).accesses = s.accesses := rfl
@[simp] theorem State.setCtx_flights (s : State) (c : Nat) (x : Context) : (s.setCtx c x).flights = s.flights := rfl
@[simp] theorem State.setCtx_rowWaits (s : State) (c : Nat) (x : Context) : (s.setCtx c x).rowWaits = s.rowWaits := rfl
@[simp] theorem State.setCtx_folds (s : State) (c : Nat) (x : Context) : (s.setCtx c x).folds = s.folds := rfl
@[simp] theorem State.setCtx_replicas (s : State) (c : Nat) (x : Context) : (s.setCtx c x).replicas = s.replicas := rfl
@[simp] theorem State.setCtx_lates (s : State) (c : Nat) (x : Context) : (s.setCtx c x).lates = s.lates := rfl
@[simp] theorem State.setCtx_classes (s : State) (c : Nat) (x : Context) : (s.setCtx c x).classes = s.classes := rfl
@[simp] theorem State.setCtx_serves (s : State) (c : Nat) (x : Context) : (s.setCtx c x).serves = s.serves := rfl
@[simp] theorem State.setCtx_descs (s : State) (c : Nat) (x : Context) : (s.setCtx c x).descs = s.descs := rfl
@[simp] theorem State.setCtx_held (s : State) (c : Nat) (x : Context) : (s.setCtx c x).held = s.held := rfl
@[simp] theorem State.setCtx_host (s : State) (c : Nat) (x : Context) : (s.setCtx c x).host = s.host := rfl
@[simp] theorem State.setCtx_sec (s : State) (c : Nat) (x : Context) : (s.setCtx c x).sec = s.sec := rfl
@[simp] theorem State.setCtx_pkg (s : State) (c : Nat) (x : Context) : (s.setCtx c x).pkg = s.pkg := rfl

/-! ### modXlat -/

@[simp] theorem State.modXlat_schedule (s : State) (n : Nat) (f : XlatStation → XlatStation) : (s.modXlat n f).schedule = s.schedule := rfl
@[simp] theorem State.modXlat_phase (s : State) (n : Nat) (f : XlatStation → XlatStation) : (s.modXlat n f).phase = s.phase := rfl
@[simp] theorem State.modXlat_cycles (s : State) (n : Nat) (f : XlatStation → XlatStation) : (s.modXlat n f).cycles = s.cycles := rfl
@[simp] theorem State.modXlat_focus (s : State) (n : Nat) (f : XlatStation → XlatStation) : (s.modXlat n f).focus = s.focus := rfl
@[simp] theorem State.modXlat_cur (s : State) (n : Nat) (f : XlatStation → XlatStation) : (s.modXlat n f).cur = s.cur := rfl
@[simp] theorem State.modXlat_free (s : State) (n : Nat) (f : XlatStation → XlatStation) : (s.modXlat n f).free = s.free := rfl
@[simp] theorem State.modXlat_nextId (s : State) (n : Nat) (f : XlatStation → XlatStation) : (s.modXlat n f).nextId = s.nextId := rfl
@[simp] theorem State.modXlat_hostData (s : State) (n : Nat) (f : XlatStation → XlatStation) : (s.modXlat n f).hostData = s.hostData := rfl
@[simp] theorem State.modXlat_time (s : State) (n : Nat) (f : XlatStation → XlatStation) : (s.modXlat n f).time = s.time := rfl
@[simp] theorem State.modXlat_phys (s : State) (n : Nat) (f : XlatStation → XlatStation) : (s.modXlat n f).phys = s.phys := rfl
@[simp] theorem State.modXlat_cores (s : State) (n : Nat) (f : XlatStation → XlatStation) : (s.modXlat n f).cores = s.cores := rfl
@[simp] theorem State.modXlat_stations (s : State) (n : Nat) (f : XlatStation → XlatStation) : (s.modXlat n f).stations = s.stations := rfl
@[simp] theorem State.modXlat_dram (s : State) (n : Nat) (f : XlatStation → XlatStation) : (s.modXlat n f).dram = s.dram := rfl
@[simp] theorem State.modXlat_accesses (s : State) (n : Nat) (f : XlatStation → XlatStation) : (s.modXlat n f).accesses = s.accesses := rfl
@[simp] theorem State.modXlat_flights (s : State) (n : Nat) (f : XlatStation → XlatStation) : (s.modXlat n f).flights = s.flights := rfl
@[simp] theorem State.modXlat_rowWaits (s : State) (n : Nat) (f : XlatStation → XlatStation) : (s.modXlat n f).rowWaits = s.rowWaits := rfl
@[simp] theorem State.modXlat_folds (s : State) (n : Nat) (f : XlatStation → XlatStation) : (s.modXlat n f).folds = s.folds := rfl
@[simp] theorem State.modXlat_replicas (s : State) (n : Nat) (f : XlatStation → XlatStation) : (s.modXlat n f).replicas = s.replicas := rfl
@[simp] theorem State.modXlat_lates (s : State) (n : Nat) (f : XlatStation → XlatStation) : (s.modXlat n f).lates = s.lates := rfl
@[simp] theorem State.modXlat_classes (s : State) (n : Nat) (f : XlatStation → XlatStation) : (s.modXlat n f).classes = s.classes := rfl
@[simp] theorem State.modXlat_serves (s : State) (n : Nat) (f : XlatStation → XlatStation) : (s.modXlat n f).serves = s.serves := rfl
@[simp] theorem State.modXlat_descs (s : State) (n : Nat) (f : XlatStation → XlatStation) : (s.modXlat n f).descs = s.descs := rfl
@[simp] theorem State.modXlat_held (s : State) (n : Nat) (f : XlatStation → XlatStation) : (s.modXlat n f).held = s.held := rfl
@[simp] theorem State.modXlat_ctxs (s : State) (n : Nat) (f : XlatStation → XlatStation) : (s.modXlat n f).ctxs = s.ctxs := rfl
@[simp] theorem State.modXlat_host (s : State) (n : Nat) (f : XlatStation → XlatStation) : (s.modXlat n f).host = s.host := rfl
@[simp] theorem State.modXlat_sec (s : State) (n : Nat) (f : XlatStation → XlatStation) : (s.modXlat n f).sec = s.sec := rfl
@[simp] theorem State.modXlat_pkg (s : State) (n : Nat) (f : XlatStation → XlatStation) : (s.modXlat n f).pkg = s.pkg := rfl

/-! ### setQueue -/

@[simp] theorem State.setQueue_schedule (s : State) (q : Nat) (k : CmdQueue) : (s.setQueue q k).schedule = s.schedule := rfl
@[simp] theorem State.setQueue_phase (s : State) (q : Nat) (k : CmdQueue) : (s.setQueue q k).phase = s.phase := rfl
@[simp] theorem State.setQueue_cycles (s : State) (q : Nat) (k : CmdQueue) : (s.setQueue q k).cycles = s.cycles := rfl
@[simp] theorem State.setQueue_focus (s : State) (q : Nat) (k : CmdQueue) : (s.setQueue q k).focus = s.focus := rfl
@[simp] theorem State.setQueue_cur (s : State) (q : Nat) (k : CmdQueue) : (s.setQueue q k).cur = s.cur := rfl
@[simp] theorem State.setQueue_free (s : State) (q : Nat) (k : CmdQueue) : (s.setQueue q k).free = s.free := rfl
@[simp] theorem State.setQueue_nextId (s : State) (q : Nat) (k : CmdQueue) : (s.setQueue q k).nextId = s.nextId := rfl
@[simp] theorem State.setQueue_hostData (s : State) (q : Nat) (k : CmdQueue) : (s.setQueue q k).hostData = s.hostData := rfl
@[simp] theorem State.setQueue_time (s : State) (q : Nat) (k : CmdQueue) : (s.setQueue q k).time = s.time := rfl
@[simp] theorem State.setQueue_phys (s : State) (q : Nat) (k : CmdQueue) : (s.setQueue q k).phys = s.phys := rfl
@[simp] theorem State.setQueue_cores (s : State) (q : Nat) (k : CmdQueue) : (s.setQueue q k).cores = s.cores := rfl
@[simp] theorem State.setQueue_stations (s : State) (q : Nat) (k : CmdQueue) : (s.setQueue q k).stations = s.stations := rfl
@[simp] theorem State.setQueue_xlats (s : State) (q : Nat) (k : CmdQueue) : (s.setQueue q k).xlats = s.xlats := rfl
@[simp] theorem State.setQueue_dram (s : State) (q : Nat) (k : CmdQueue) : (s.setQueue q k).dram = s.dram := rfl
@[simp] theorem State.setQueue_accesses (s : State) (q : Nat) (k : CmdQueue) : (s.setQueue q k).accesses = s.accesses := rfl
@[simp] theorem State.setQueue_flights (s : State) (q : Nat) (k : CmdQueue) : (s.setQueue q k).flights = s.flights := rfl
@[simp] theorem State.setQueue_rowWaits (s : State) (q : Nat) (k : CmdQueue) : (s.setQueue q k).rowWaits = s.rowWaits := rfl
@[simp] theorem State.setQueue_folds (s : State) (q : Nat) (k : CmdQueue) : (s.setQueue q k).folds = s.folds := rfl
@[simp] theorem State.setQueue_replicas (s : State) (q : Nat) (k : CmdQueue) : (s.setQueue q k).replicas = s.replicas := rfl
@[simp] theorem State.setQueue_lates (s : State) (q : Nat) (k : CmdQueue) : (s.setQueue q k).lates = s.lates := rfl
@[simp] theorem State.setQueue_classes (s : State) (q : Nat) (k : CmdQueue) : (s.setQueue q k).classes = s.classes := rfl
@[simp] theorem State.setQueue_serves (s : State) (q : Nat) (k : CmdQueue) : (s.setQueue q k).serves = s.serves := rfl
@[simp] theorem State.setQueue_descs (s : State) (q : Nat) (k : CmdQueue) : (s.setQueue q k).descs = s.descs := rfl
@[simp] theorem State.setQueue_held (s : State) (q : Nat) (k : CmdQueue) : (s.setQueue q k).held = s.held := rfl
@[simp] theorem State.setQueue_ctxs (s : State) (q : Nat) (k : CmdQueue) : (s.setQueue q k).ctxs = s.ctxs := rfl
@[simp] theorem State.setQueue_sec (s : State) (q : Nat) (k : CmdQueue) : (s.setQueue q k).sec = s.sec := rfl
@[simp] theorem State.setQueue_pkg (s : State) (q : Nat) (k : CmdQueue) : (s.setQueue q k).pkg = s.pkg := rfl

/-! ### modPhys -/

@[simp] theorem State.modPhys_schedule (s : State) (f : Phys → Phys) : (s.modPhys f).schedule = s.schedule := rfl
@[simp] theorem State.modPhys_phase (s : State) (f : Phys → Phys) : (s.modPhys f).phase = s.phase := rfl
@[simp] theorem State.modPhys_cycles (s : State) (f : Phys → Phys) : (s.modPhys f).cycles = s.cycles := rfl
@[simp] theorem State.modPhys_focus (s : State) (f : Phys → Phys) : (s.modPhys f).focus = s.focus := rfl
@[simp] theorem State.modPhys_cur (s : State) (f : Phys → Phys) : (s.modPhys f).cur = s.cur := rfl
@[simp] theorem State.modPhys_free (s : State) (f : Phys → Phys) : (s.modPhys f).free = s.free := rfl
@[simp] theorem State.modPhys_nextId (s : State) (f : Phys → Phys) : (s.modPhys f).nextId = s.nextId := rfl
@[simp] theorem State.modPhys_hostData (s : State) (f : Phys → Phys) : (s.modPhys f).hostData = s.hostData := rfl
@[simp] theorem State.modPhys_time (s : State) (f : Phys → Phys) : (s.modPhys f).time = s.time := rfl
@[simp] theorem State.modPhys_cores (s : State) (f : Phys → Phys) : (s.modPhys f).cores = s.cores := rfl
@[simp] theorem State.modPhys_stations (s : State) (f : Phys → Phys) : (s.modPhys f).stations = s.stations := rfl
@[simp] theorem State.modPhys_xlats (s : State) (f : Phys → Phys) : (s.modPhys f).xlats = s.xlats := rfl
@[simp] theorem State.modPhys_dram (s : State) (f : Phys → Phys) : (s.modPhys f).dram = s.dram := rfl
@[simp] theorem State.modPhys_accesses (s : State) (f : Phys → Phys) : (s.modPhys f).accesses = s.accesses := rfl
@[simp] theorem State.modPhys_flights (s : State) (f : Phys → Phys) : (s.modPhys f).flights = s.flights := rfl
@[simp] theorem State.modPhys_rowWaits (s : State) (f : Phys → Phys) : (s.modPhys f).rowWaits = s.rowWaits := rfl
@[simp] theorem State.modPhys_folds (s : State) (f : Phys → Phys) : (s.modPhys f).folds = s.folds := rfl
@[simp] theorem State.modPhys_replicas (s : State) (f : Phys → Phys) : (s.modPhys f).replicas = s.replicas := rfl
@[simp] theorem State.modPhys_lates (s : State) (f : Phys → Phys) : (s.modPhys f).lates = s.lates := rfl
@[simp] theorem State.modPhys_classes (s : State) (f : Phys → Phys) : (s.modPhys f).classes = s.classes := rfl
@[simp] theorem State.modPhys_serves (s : State) (f : Phys → Phys) : (s.modPhys f).serves = s.serves := rfl
@[simp] theorem State.modPhys_descs (s : State) (f : Phys → Phys) : (s.modPhys f).descs = s.descs := rfl
@[simp] theorem State.modPhys_held (s : State) (f : Phys → Phys) : (s.modPhys f).held = s.held := rfl
@[simp] theorem State.modPhys_ctxs (s : State) (f : Phys → Phys) : (s.modPhys f).ctxs = s.ctxs := rfl
@[simp] theorem State.modPhys_host (s : State) (f : Phys → Phys) : (s.modPhys f).host = s.host := rfl
@[simp] theorem State.modPhys_sec (s : State) (f : Phys → Phys) : (s.modPhys f).sec = s.sec := rfl
@[simp] theorem State.modPhys_pkg (s : State) (f : Phys → Phys) : (s.modPhys f).pkg = s.pkg := rfl

/-! ### msix -/

@[simp] theorem State.msix_schedule (s : State) (v : Nat) : (s.msix v).schedule = s.schedule := by
  unfold State.msix; split <;> rfl
@[simp] theorem State.msix_phase (s : State) (v : Nat) : (s.msix v).phase = s.phase := by
  unfold State.msix; split <;> rfl
@[simp] theorem State.msix_cycles (s : State) (v : Nat) : (s.msix v).cycles = s.cycles := by
  unfold State.msix; split <;> rfl
@[simp] theorem State.msix_focus (s : State) (v : Nat) : (s.msix v).focus = s.focus := by
  unfold State.msix; split <;> rfl
@[simp] theorem State.msix_cur (s : State) (v : Nat) : (s.msix v).cur = s.cur := by
  unfold State.msix; split <;> rfl
@[simp] theorem State.msix_free (s : State) (v : Nat) : (s.msix v).free = s.free := by
  unfold State.msix; split <;> rfl
@[simp] theorem State.msix_nextId (s : State) (v : Nat) : (s.msix v).nextId = s.nextId := by
  unfold State.msix; split <;> rfl
@[simp] theorem State.msix_hostData (s : State) (v : Nat) : (s.msix v).hostData = s.hostData := by
  unfold State.msix; split <;> rfl
@[simp] theorem State.msix_time (s : State) (v : Nat) : (s.msix v).time = s.time := by
  unfold State.msix; split <;> rfl
@[simp] theorem State.msix_phys (s : State) (v : Nat) : (s.msix v).phys = s.phys := by
  unfold State.msix; split <;> rfl
@[simp] theorem State.msix_cores (s : State) (v : Nat) : (s.msix v).cores = s.cores := by
  unfold State.msix; split <;> rfl
@[simp] theorem State.msix_stations (s : State) (v : Nat) : (s.msix v).stations = s.stations := by
  unfold State.msix; split <;> rfl
@[simp] theorem State.msix_xlats (s : State) (v : Nat) : (s.msix v).xlats = s.xlats := by
  unfold State.msix; split <;> rfl
@[simp] theorem State.msix_dram (s : State) (v : Nat) : (s.msix v).dram = s.dram := by
  unfold State.msix; split <;> rfl
@[simp] theorem State.msix_accesses (s : State) (v : Nat) : (s.msix v).accesses = s.accesses := by
  unfold State.msix; split <;> rfl
@[simp] theorem State.msix_flights (s : State) (v : Nat) : (s.msix v).flights = s.flights := by
  unfold State.msix; split <;> rfl
@[simp] theorem State.msix_rowWaits (s : State) (v : Nat) : (s.msix v).rowWaits = s.rowWaits := by
  unfold State.msix; split <;> rfl
@[simp] theorem State.msix_folds (s : State) (v : Nat) : (s.msix v).folds = s.folds := by
  unfold State.msix; split <;> rfl
@[simp] theorem State.msix_replicas (s : State) (v : Nat) : (s.msix v).replicas = s.replicas := by
  unfold State.msix; split <;> rfl
@[simp] theorem State.msix_lates (s : State) (v : Nat) : (s.msix v).lates = s.lates := by
  unfold State.msix; split <;> rfl
@[simp] theorem State.msix_classes (s : State) (v : Nat) : (s.msix v).classes = s.classes := by
  unfold State.msix; split <;> rfl
@[simp] theorem State.msix_serves (s : State) (v : Nat) : (s.msix v).serves = s.serves := by
  unfold State.msix; split <;> rfl
@[simp] theorem State.msix_descs (s : State) (v : Nat) : (s.msix v).descs = s.descs := by
  unfold State.msix; split <;> rfl
@[simp] theorem State.msix_held (s : State) (v : Nat) : (s.msix v).held = s.held := by
  unfold State.msix; split <;> rfl
@[simp] theorem State.msix_ctxs (s : State) (v : Nat) : (s.msix v).ctxs = s.ctxs := by
  unfold State.msix; split <;> rfl
@[simp] theorem State.msix_sec (s : State) (v : Nat) : (s.msix v).sec = s.sec := by
  unfold State.msix; split <;> rfl
@[simp] theorem State.msix_pkg (s : State) (v : Nat) : (s.msix v).pkg = s.pkg := by
  unfold State.msix; split <;> rfl

/-! ### dropAccess -/

@[simp] theorem State.dropAccess_schedule (s : State) (i : Nat) : (s.dropAccess i).schedule = s.schedule := rfl
@[simp] theorem State.dropAccess_phase (s : State) (i : Nat) : (s.dropAccess i).phase = s.phase := rfl
@[simp] theorem State.dropAccess_cycles (s : State) (i : Nat) : (s.dropAccess i).cycles = s.cycles := rfl
@[simp] theorem State.dropAccess_focus (s : State) (i : Nat) : (s.dropAccess i).focus = s.focus := rfl
@[simp] theorem State.dropAccess_cur (s : State) (i : Nat) : (s.dropAccess i).cur = s.cur := rfl
@[simp] theorem State.dropAccess_free (s : State) (i : Nat) : (s.dropAccess i).free = s.free := rfl
@[simp] theorem State.dropAccess_nextId (s : State) (i : Nat) : (s.dropAccess i).nextId = s.nextId := rfl
@[simp] theorem State.dropAccess_hostData (s : State) (i : Nat) : (s.dropAccess i).hostData = s.hostData := rfl
@[simp] theorem State.dropAccess_time (s : State) (i : Nat) : (s.dropAccess i).time = s.time := rfl
@[simp] theorem State.dropAccess_phys (s : State) (i : Nat) : (s.dropAccess i).phys = s.phys := rfl
@[simp] theorem State.dropAccess_cores (s : State) (i : Nat) : (s.dropAccess i).cores = s.cores := rfl
@[simp] theorem State.dropAccess_stations (s : State) (i : Nat) : (s.dropAccess i).stations = s.stations := rfl
@[simp] theorem State.dropAccess_xlats (s : State) (i : Nat) : (s.dropAccess i).xlats = s.xlats := rfl
@[simp] theorem State.dropAccess_dram (s : State) (i : Nat) : (s.dropAccess i).dram = s.dram := rfl
@[simp] theorem State.dropAccess_flights (s : State) (i : Nat) : (s.dropAccess i).flights = s.flights := rfl
@[simp] theorem State.dropAccess_rowWaits (s : State) (i : Nat) : (s.dropAccess i).rowWaits = s.rowWaits := rfl
@[simp] theorem State.dropAccess_folds (s : State) (i : Nat) : (s.dropAccess i).folds = s.folds := rfl
@[simp] theorem State.dropAccess_replicas (s : State) (i : Nat) : (s.dropAccess i).replicas = s.replicas := rfl
@[simp] theorem State.dropAccess_lates (s : State) (i : Nat) : (s.dropAccess i).lates = s.lates := rfl
@[simp] theorem State.dropAccess_classes (s : State) (i : Nat) : (s.dropAccess i).classes = s.classes := rfl
@[simp] theorem State.dropAccess_serves (s : State) (i : Nat) : (s.dropAccess i).serves = s.serves := rfl
@[simp] theorem State.dropAccess_descs (s : State) (i : Nat) : (s.dropAccess i).descs = s.descs := rfl
@[simp] theorem State.dropAccess_held (s : State) (i : Nat) : (s.dropAccess i).held = s.held := rfl
@[simp] theorem State.dropAccess_ctxs (s : State) (i : Nat) : (s.dropAccess i).ctxs = s.ctxs := rfl
@[simp] theorem State.dropAccess_host (s : State) (i : Nat) : (s.dropAccess i).host = s.host := rfl
@[simp] theorem State.dropAccess_sec (s : State) (i : Nat) : (s.dropAccess i).sec = s.sec := rfl
@[simp] theorem State.dropAccess_pkg (s : State) (i : Nat) : (s.dropAccess i).pkg = s.pkg := rfl

/-! ### modAccess -/

@[simp] theorem State.modAccess_schedule (s : State) (i : Nat) (f : Access → Access) : (s.modAccess i f).schedule = s.schedule := rfl
@[simp] theorem State.modAccess_phase (s : State) (i : Nat) (f : Access → Access) : (s.modAccess i f).phase = s.phase := rfl
@[simp] theorem State.modAccess_cycles (s : State) (i : Nat) (f : Access → Access) : (s.modAccess i f).cycles = s.cycles := rfl
@[simp] theorem State.modAccess_focus (s : State) (i : Nat) (f : Access → Access) : (s.modAccess i f).focus = s.focus := rfl
@[simp] theorem State.modAccess_cur (s : State) (i : Nat) (f : Access → Access) : (s.modAccess i f).cur = s.cur := rfl
@[simp] theorem State.modAccess_free (s : State) (i : Nat) (f : Access → Access) : (s.modAccess i f).free = s.free := rfl
@[simp] theorem State.modAccess_nextId (s : State) (i : Nat) (f : Access → Access) : (s.modAccess i f).nextId = s.nextId := rfl
@[simp] theorem State.modAccess_hostData (s : State) (i : Nat) (f : Access → Access) : (s.modAccess i f).hostData = s.hostData := rfl
@[simp] theorem State.modAccess_time (s : State) (i : Nat) (f : Access → Access) : (s.modAccess i f).time = s.time := rfl
@[simp] theorem State.modAccess_phys (s : State) (i : Nat) (f : Access → Access) : (s.modAccess i f).phys = s.phys := rfl
@[simp] theorem State.modAccess_cores (s : State) (i : Nat) (f : Access → Access) : (s.modAccess i f).cores = s.cores := rfl
@[simp] theorem State.modAccess_stations (s : State) (i : Nat) (f : Access → Access) : (s.modAccess i f).stations = s.stations := rfl
@[simp] theorem State.modAccess_xlats (s : State) (i : Nat) (f : Access → Access) : (s.modAccess i f).xlats = s.xlats := rfl
@[simp] theorem State.modAccess_dram (s : State) (i : Nat) (f : Access → Access) : (s.modAccess i f).dram = s.dram := rfl
@[simp] theorem State.modAccess_flights (s : State) (i : Nat) (f : Access → Access) : (s.modAccess i f).flights = s.flights := rfl
@[simp] theorem State.modAccess_rowWaits (s : State) (i : Nat) (f : Access → Access) : (s.modAccess i f).rowWaits = s.rowWaits := rfl
@[simp] theorem State.modAccess_folds (s : State) (i : Nat) (f : Access → Access) : (s.modAccess i f).folds = s.folds := rfl
@[simp] theorem State.modAccess_replicas (s : State) (i : Nat) (f : Access → Access) : (s.modAccess i f).replicas = s.replicas := rfl
@[simp] theorem State.modAccess_lates (s : State) (i : Nat) (f : Access → Access) : (s.modAccess i f).lates = s.lates := rfl
@[simp] theorem State.modAccess_classes (s : State) (i : Nat) (f : Access → Access) : (s.modAccess i f).classes = s.classes := rfl
@[simp] theorem State.modAccess_serves (s : State) (i : Nat) (f : Access → Access) : (s.modAccess i f).serves = s.serves := rfl
@[simp] theorem State.modAccess_descs (s : State) (i : Nat) (f : Access → Access) : (s.modAccess i f).descs = s.descs := rfl
@[simp] theorem State.modAccess_held (s : State) (i : Nat) (f : Access → Access) : (s.modAccess i f).held = s.held := rfl
@[simp] theorem State.modAccess_ctxs (s : State) (i : Nat) (f : Access → Access) : (s.modAccess i f).ctxs = s.ctxs := rfl
@[simp] theorem State.modAccess_host (s : State) (i : Nat) (f : Access → Access) : (s.modAccess i f).host = s.host := rfl
@[simp] theorem State.modAccess_sec (s : State) (i : Nat) (f : Access → Access) : (s.modAccess i f).sec = s.sec := rfl
@[simp] theorem State.modAccess_pkg (s : State) (i : Nat) (f : Access → Access) : (s.modAccess i f).pkg = s.pkg := rfl

/-! ### sendAccess -/

@[simp] theorem State.sendAccess_schedule (s : State) (x : Access) : (s.sendAccess x).schedule = s.schedule := rfl
@[simp] theorem State.sendAccess_phase (s : State) (x : Access) : (s.sendAccess x).phase = s.phase := rfl
@[simp] theorem State.sendAccess_cycles (s : State) (x : Access) : (s.sendAccess x).cycles = s.cycles := rfl
@[simp] theorem State.sendAccess_focus (s : State) (x : Access) : (s.sendAccess x).focus = s.focus := rfl
@[simp] theorem State.sendAccess_cur (s : State) (x : Access) : (s.sendAccess x).cur = s.cur := rfl
@[simp] theorem State.sendAccess_free (s : State) (x : Access) : (s.sendAccess x).free = s.free := rfl
@[simp] theorem State.sendAccess_hostData (s : State) (x : Access) : (s.sendAccess x).hostData = s.hostData := rfl
@[simp] theorem State.sendAccess_time (s : State) (x : Access) : (s.sendAccess x).time = s.time := rfl
@[simp] theorem State.sendAccess_phys (s : State) (x : Access) : (s.sendAccess x).phys = s.phys := rfl
@[simp] theorem State.sendAccess_cores (s : State) (x : Access) : (s.sendAccess x).cores = s.cores := rfl
@[simp] theorem State.sendAccess_stations (s : State) (x : Access) : (s.sendAccess x).stations = s.stations := rfl
@[simp] theorem State.sendAccess_xlats (s : State) (x : Access) : (s.sendAccess x).xlats = s.xlats := rfl
@[simp] theorem State.sendAccess_dram (s : State) (x : Access) : (s.sendAccess x).dram = s.dram := rfl
@[simp] theorem State.sendAccess_flights (s : State) (x : Access) : (s.sendAccess x).flights = s.flights := rfl
@[simp] theorem State.sendAccess_rowWaits (s : State) (x : Access) : (s.sendAccess x).rowWaits = s.rowWaits := rfl
@[simp] theorem State.sendAccess_folds (s : State) (x : Access) : (s.sendAccess x).folds = s.folds := rfl
@[simp] theorem State.sendAccess_replicas (s : State) (x : Access) : (s.sendAccess x).replicas = s.replicas := rfl
@[simp] theorem State.sendAccess_lates (s : State) (x : Access) : (s.sendAccess x).lates = s.lates := rfl
@[simp] theorem State.sendAccess_classes (s : State) (x : Access) : (s.sendAccess x).classes = s.classes := rfl
@[simp] theorem State.sendAccess_serves (s : State) (x : Access) : (s.sendAccess x).serves = s.serves := rfl
@[simp] theorem State.sendAccess_descs (s : State) (x : Access) : (s.sendAccess x).descs = s.descs := rfl
@[simp] theorem State.sendAccess_held (s : State) (x : Access) : (s.sendAccess x).held = s.held := rfl
@[simp] theorem State.sendAccess_ctxs (s : State) (x : Access) : (s.sendAccess x).ctxs = s.ctxs := rfl
@[simp] theorem State.sendAccess_host (s : State) (x : Access) : (s.sendAccess x).host = s.host := rfl
@[simp] theorem State.sendAccess_sec (s : State) (x : Access) : (s.sendAccess x).sec = s.sec := rfl
@[simp] theorem State.sendAccess_pkg (s : State) (x : Access) : (s.sendAccess x).pkg = s.pkg := rfl

/-! ### modThread -/

@[simp] theorem State.modThread_schedule (s : State) (t : ThreadId) (f : Thread → Thread) : (s.modThread t f).schedule = s.schedule := by
  unfold State.modThread; split <;> rfl
@[simp] theorem State.modThread_phase (s : State) (t : ThreadId) (f : Thread → Thread) : (s.modThread t f).phase = s.phase := by
  unfold State.modThread; split <;> rfl
@[simp] theorem State.modThread_cycles (s : State) (t : ThreadId) (f : Thread → Thread) : (s.modThread t f).cycles = s.cycles := by
  unfold State.modThread; split <;> rfl
@[simp] theorem State.modThread_focus (s : State) (t : ThreadId) (f : Thread → Thread) : (s.modThread t f).focus = s.focus := by
  unfold State.modThread; split <;> rfl
@[simp] theorem State.modThread_cur (s : State) (t : ThreadId) (f : Thread → Thread) : (s.modThread t f).cur = s.cur := by
  unfold State.modThread; split <;> rfl
@[simp] theorem State.modThread_free (s : State) (t : ThreadId) (f : Thread → Thread) : (s.modThread t f).free = s.free := by
  unfold State.modThread; split <;> rfl
@[simp] theorem State.modThread_nextId (s : State) (t : ThreadId) (f : Thread → Thread) : (s.modThread t f).nextId = s.nextId := by
  unfold State.modThread; split <;> rfl
@[simp] theorem State.modThread_hostData (s : State) (t : ThreadId) (f : Thread → Thread) : (s.modThread t f).hostData = s.hostData := by
  unfold State.modThread; split <;> rfl
@[simp] theorem State.modThread_time (s : State) (t : ThreadId) (f : Thread → Thread) : (s.modThread t f).time = s.time := by
  unfold State.modThread; split <;> rfl
@[simp] theorem State.modThread_phys (s : State) (t : ThreadId) (f : Thread → Thread) : (s.modThread t f).phys = s.phys := by
  unfold State.modThread; split <;> rfl
@[simp] theorem State.modThread_stations (s : State) (t : ThreadId) (f : Thread → Thread) : (s.modThread t f).stations = s.stations := by
  unfold State.modThread; split <;> rfl
@[simp] theorem State.modThread_xlats (s : State) (t : ThreadId) (f : Thread → Thread) : (s.modThread t f).xlats = s.xlats := by
  unfold State.modThread; split <;> rfl
@[simp] theorem State.modThread_dram (s : State) (t : ThreadId) (f : Thread → Thread) : (s.modThread t f).dram = s.dram := by
  unfold State.modThread; split <;> rfl
@[simp] theorem State.modThread_accesses (s : State) (t : ThreadId) (f : Thread → Thread) : (s.modThread t f).accesses = s.accesses := by
  unfold State.modThread; split <;> rfl
@[simp] theorem State.modThread_flights (s : State) (t : ThreadId) (f : Thread → Thread) : (s.modThread t f).flights = s.flights := by
  unfold State.modThread; split <;> rfl
@[simp] theorem State.modThread_rowWaits (s : State) (t : ThreadId) (f : Thread → Thread) : (s.modThread t f).rowWaits = s.rowWaits := by
  unfold State.modThread; split <;> rfl
@[simp] theorem State.modThread_folds (s : State) (t : ThreadId) (f : Thread → Thread) : (s.modThread t f).folds = s.folds := by
  unfold State.modThread; split <;> rfl
@[simp] theorem State.modThread_replicas (s : State) (t : ThreadId) (f : Thread → Thread) : (s.modThread t f).replicas = s.replicas := by
  unfold State.modThread; split <;> rfl
@[simp] theorem State.modThread_lates (s : State) (t : ThreadId) (f : Thread → Thread) : (s.modThread t f).lates = s.lates := by
  unfold State.modThread; split <;> rfl
@[simp] theorem State.modThread_classes (s : State) (t : ThreadId) (f : Thread → Thread) : (s.modThread t f).classes = s.classes := by
  unfold State.modThread; split <;> rfl
@[simp] theorem State.modThread_serves (s : State) (t : ThreadId) (f : Thread → Thread) : (s.modThread t f).serves = s.serves := by
  unfold State.modThread; split <;> rfl
@[simp] theorem State.modThread_descs (s : State) (t : ThreadId) (f : Thread → Thread) : (s.modThread t f).descs = s.descs := by
  unfold State.modThread; split <;> rfl
@[simp] theorem State.modThread_held (s : State) (t : ThreadId) (f : Thread → Thread) : (s.modThread t f).held = s.held := by
  unfold State.modThread; split <;> rfl
@[simp] theorem State.modThread_ctxs (s : State) (t : ThreadId) (f : Thread → Thread) : (s.modThread t f).ctxs = s.ctxs := by
  unfold State.modThread; split <;> rfl
@[simp] theorem State.modThread_host (s : State) (t : ThreadId) (f : Thread → Thread) : (s.modThread t f).host = s.host := by
  unfold State.modThread; split <;> rfl
@[simp] theorem State.modThread_sec (s : State) (t : ThreadId) (f : Thread → Thread) : (s.modThread t f).sec = s.sec := by
  unfold State.modThread; split <;> rfl
@[simp] theorem State.modThread_pkg (s : State) (t : ThreadId) (f : Thread → Thread) : (s.modThread t f).pkg = s.pkg := by
  unfold State.modThread; split <;> rfl

/-! ### modCtx -/

@[simp] theorem State.modCtx_schedule (s : State) (c : Nat) (f : Context → Context) : (s.modCtx c f).schedule = s.schedule := by
  unfold State.modCtx; split <;> rfl
@[simp] theorem State.modCtx_phase (s : State) (c : Nat) (f : Context → Context) : (s.modCtx c f).phase = s.phase := by
  unfold State.modCtx; split <;> rfl
@[simp] theorem State.modCtx_cycles (s : State) (c : Nat) (f : Context → Context) : (s.modCtx c f).cycles = s.cycles := by
  unfold State.modCtx; split <;> rfl
@[simp] theorem State.modCtx_focus (s : State) (c : Nat) (f : Context → Context) : (s.modCtx c f).focus = s.focus := by
  unfold State.modCtx; split <;> rfl
@[simp] theorem State.modCtx_cur (s : State) (c : Nat) (f : Context → Context) : (s.modCtx c f).cur = s.cur := by
  unfold State.modCtx; split <;> rfl
@[simp] theorem State.modCtx_free (s : State) (c : Nat) (f : Context → Context) : (s.modCtx c f).free = s.free := by
  unfold State.modCtx; split <;> rfl
@[simp] theorem State.modCtx_nextId (s : State) (c : Nat) (f : Context → Context) : (s.modCtx c f).nextId = s.nextId := by
  unfold State.modCtx; split <;> rfl
@[simp] theorem State.modCtx_hostData (s : State) (c : Nat) (f : Context → Context) : (s.modCtx c f).hostData = s.hostData := by
  unfold State.modCtx; split <;> rfl
@[simp] theorem State.modCtx_time (s : State) (c : Nat) (f : Context → Context) : (s.modCtx c f).time = s.time := by
  unfold State.modCtx; split <;> rfl
@[simp] theorem State.modCtx_phys (s : State) (c : Nat) (f : Context → Context) : (s.modCtx c f).phys = s.phys := by
  unfold State.modCtx; split <;> rfl
@[simp] theorem State.modCtx_cores (s : State) (c : Nat) (f : Context → Context) : (s.modCtx c f).cores = s.cores := by
  unfold State.modCtx; split <;> rfl
@[simp] theorem State.modCtx_stations (s : State) (c : Nat) (f : Context → Context) : (s.modCtx c f).stations = s.stations := by
  unfold State.modCtx; split <;> rfl
@[simp] theorem State.modCtx_xlats (s : State) (c : Nat) (f : Context → Context) : (s.modCtx c f).xlats = s.xlats := by
  unfold State.modCtx; split <;> rfl
@[simp] theorem State.modCtx_dram (s : State) (c : Nat) (f : Context → Context) : (s.modCtx c f).dram = s.dram := by
  unfold State.modCtx; split <;> rfl
@[simp] theorem State.modCtx_accesses (s : State) (c : Nat) (f : Context → Context) : (s.modCtx c f).accesses = s.accesses := by
  unfold State.modCtx; split <;> rfl
@[simp] theorem State.modCtx_flights (s : State) (c : Nat) (f : Context → Context) : (s.modCtx c f).flights = s.flights := by
  unfold State.modCtx; split <;> rfl
@[simp] theorem State.modCtx_rowWaits (s : State) (c : Nat) (f : Context → Context) : (s.modCtx c f).rowWaits = s.rowWaits := by
  unfold State.modCtx; split <;> rfl
@[simp] theorem State.modCtx_folds (s : State) (c : Nat) (f : Context → Context) : (s.modCtx c f).folds = s.folds := by
  unfold State.modCtx; split <;> rfl
@[simp] theorem State.modCtx_replicas (s : State) (c : Nat) (f : Context → Context) : (s.modCtx c f).replicas = s.replicas := by
  unfold State.modCtx; split <;> rfl
@[simp] theorem State.modCtx_lates (s : State) (c : Nat) (f : Context → Context) : (s.modCtx c f).lates = s.lates := by
  unfold State.modCtx; split <;> rfl
@[simp] theorem State.modCtx_classes (s : State) (c : Nat) (f : Context → Context) : (s.modCtx c f).classes = s.classes := by
  unfold State.modCtx; split <;> rfl
@[simp] theorem State.modCtx_serves (s : State) (c : Nat) (f : Context → Context) : (s.modCtx c f).serves = s.serves := by
  unfold State.modCtx; split <;> rfl
@[simp] theorem State.modCtx_descs (s : State) (c : Nat) (f : Context → Context) : (s.modCtx c f).descs = s.descs := by
  unfold State.modCtx; split <;> rfl
@[simp] theorem State.modCtx_held (s : State) (c : Nat) (f : Context → Context) : (s.modCtx c f).held = s.held := by
  unfold State.modCtx; split <;> rfl
@[simp] theorem State.modCtx_host (s : State) (c : Nat) (f : Context → Context) : (s.modCtx c f).host = s.host := by
  unfold State.modCtx; split <;> rfl
@[simp] theorem State.modCtx_sec (s : State) (c : Nat) (f : Context → Context) : (s.modCtx c f).sec = s.sec := by
  unfold State.modCtx; split <;> rfl
@[simp] theorem State.modCtx_pkg (s : State) (c : Nat) (f : Context → Context) : (s.modCtx c f).pkg = s.pkg := by
  unfold State.modCtx; split <;> rfl

/-! ### waitFor -/

@[simp] theorem State.waitFor_schedule (s : State) (t : ThreadId) (w : Wait) : (s.waitFor t w).schedule = s.schedule := by
  simp [State.waitFor]
@[simp] theorem State.waitFor_phase (s : State) (t : ThreadId) (w : Wait) : (s.waitFor t w).phase = s.phase := by
  simp [State.waitFor]
@[simp] theorem State.waitFor_cycles (s : State) (t : ThreadId) (w : Wait) : (s.waitFor t w).cycles = s.cycles := by
  simp [State.waitFor]
@[simp] theorem State.waitFor_focus (s : State) (t : ThreadId) (w : Wait) : (s.waitFor t w).focus = s.focus := by
  simp [State.waitFor]
@[simp] theorem State.waitFor_cur (s : State) (t : ThreadId) (w : Wait) : (s.waitFor t w).cur = s.cur := by
  simp [State.waitFor]
@[simp] theorem State.waitFor_free (s : State) (t : ThreadId) (w : Wait) : (s.waitFor t w).free = s.free := by
  simp [State.waitFor]
@[simp] theorem State.waitFor_nextId (s : State) (t : ThreadId) (w : Wait) : (s.waitFor t w).nextId = s.nextId := by
  simp [State.waitFor]
@[simp] theorem State.waitFor_hostData (s : State) (t : ThreadId) (w : Wait) : (s.waitFor t w).hostData = s.hostData := by
  simp [State.waitFor]
@[simp] theorem State.waitFor_time (s : State) (t : ThreadId) (w : Wait) : (s.waitFor t w).time = s.time := by
  simp [State.waitFor]
@[simp] theorem State.waitFor_phys (s : State) (t : ThreadId) (w : Wait) : (s.waitFor t w).phys = s.phys := by
  simp [State.waitFor]
@[simp] theorem State.waitFor_stations (s : State) (t : ThreadId) (w : Wait) : (s.waitFor t w).stations = s.stations := by
  simp [State.waitFor]
@[simp] theorem State.waitFor_xlats (s : State) (t : ThreadId) (w : Wait) : (s.waitFor t w).xlats = s.xlats := by
  simp [State.waitFor]
@[simp] theorem State.waitFor_dram (s : State) (t : ThreadId) (w : Wait) : (s.waitFor t w).dram = s.dram := by
  simp [State.waitFor]
@[simp] theorem State.waitFor_accesses (s : State) (t : ThreadId) (w : Wait) : (s.waitFor t w).accesses = s.accesses := by
  simp [State.waitFor]
@[simp] theorem State.waitFor_flights (s : State) (t : ThreadId) (w : Wait) : (s.waitFor t w).flights = s.flights := by
  simp [State.waitFor]
@[simp] theorem State.waitFor_rowWaits (s : State) (t : ThreadId) (w : Wait) : (s.waitFor t w).rowWaits = s.rowWaits := by
  simp [State.waitFor]
@[simp] theorem State.waitFor_folds (s : State) (t : ThreadId) (w : Wait) : (s.waitFor t w).folds = s.folds := by
  simp [State.waitFor]
@[simp] theorem State.waitFor_replicas (s : State) (t : ThreadId) (w : Wait) : (s.waitFor t w).replicas = s.replicas := by
  simp [State.waitFor]
@[simp] theorem State.waitFor_lates (s : State) (t : ThreadId) (w : Wait) : (s.waitFor t w).lates = s.lates := by
  simp [State.waitFor]
@[simp] theorem State.waitFor_classes (s : State) (t : ThreadId) (w : Wait) : (s.waitFor t w).classes = s.classes := by
  simp [State.waitFor]
@[simp] theorem State.waitFor_serves (s : State) (t : ThreadId) (w : Wait) : (s.waitFor t w).serves = s.serves := by
  simp [State.waitFor]
@[simp] theorem State.waitFor_descs (s : State) (t : ThreadId) (w : Wait) : (s.waitFor t w).descs = s.descs := by
  simp [State.waitFor]
@[simp] theorem State.waitFor_held (s : State) (t : ThreadId) (w : Wait) : (s.waitFor t w).held = s.held := by
  simp [State.waitFor]
@[simp] theorem State.waitFor_ctxs (s : State) (t : ThreadId) (w : Wait) : (s.waitFor t w).ctxs = s.ctxs := by
  simp [State.waitFor]
@[simp] theorem State.waitFor_host (s : State) (t : ThreadId) (w : Wait) : (s.waitFor t w).host = s.host := by
  simp [State.waitFor]
@[simp] theorem State.waitFor_sec (s : State) (t : ThreadId) (w : Wait) : (s.waitFor t w).sec = s.sec := by
  simp [State.waitFor]
@[simp] theorem State.waitFor_pkg (s : State) (t : ThreadId) (w : Wait) : (s.waitFor t w).pkg = s.pkg := by
  simp [State.waitFor]

/-! ### setReg -/

@[simp] theorem State.setReg_schedule (s : State) (t : ThreadId) (r : Reg) (v : Word) : (s.setReg t r v).schedule = s.schedule := by
  unfold State.setReg; split
  · rfl
  · split <;> rfl
@[simp] theorem State.setReg_phase (s : State) (t : ThreadId) (r : Reg) (v : Word) : (s.setReg t r v).phase = s.phase := by
  unfold State.setReg; split
  · rfl
  · split <;> rfl
@[simp] theorem State.setReg_cycles (s : State) (t : ThreadId) (r : Reg) (v : Word) : (s.setReg t r v).cycles = s.cycles := by
  unfold State.setReg; split
  · rfl
  · split <;> rfl
@[simp] theorem State.setReg_focus (s : State) (t : ThreadId) (r : Reg) (v : Word) : (s.setReg t r v).focus = s.focus := by
  unfold State.setReg; split
  · rfl
  · split <;> rfl
@[simp] theorem State.setReg_cur (s : State) (t : ThreadId) (r : Reg) (v : Word) : (s.setReg t r v).cur = s.cur := by
  unfold State.setReg; split
  · rfl
  · split <;> rfl
@[simp] theorem State.setReg_free (s : State) (t : ThreadId) (r : Reg) (v : Word) : (s.setReg t r v).free = s.free := by
  unfold State.setReg; split
  · rfl
  · split <;> rfl
@[simp] theorem State.setReg_nextId (s : State) (t : ThreadId) (r : Reg) (v : Word) : (s.setReg t r v).nextId = s.nextId := by
  unfold State.setReg; split
  · rfl
  · split <;> rfl
@[simp] theorem State.setReg_hostData (s : State) (t : ThreadId) (r : Reg) (v : Word) : (s.setReg t r v).hostData = s.hostData := by
  unfold State.setReg; split
  · rfl
  · split <;> rfl
@[simp] theorem State.setReg_time (s : State) (t : ThreadId) (r : Reg) (v : Word) : (s.setReg t r v).time = s.time := by
  unfold State.setReg; split
  · rfl
  · split <;> rfl
@[simp] theorem State.setReg_phys (s : State) (t : ThreadId) (r : Reg) (v : Word) : (s.setReg t r v).phys = s.phys := by
  unfold State.setReg; split
  · rfl
  · split <;> rfl
@[simp] theorem State.setReg_stations (s : State) (t : ThreadId) (r : Reg) (v : Word) : (s.setReg t r v).stations = s.stations := by
  unfold State.setReg; split
  · rfl
  · split <;> rfl
@[simp] theorem State.setReg_xlats (s : State) (t : ThreadId) (r : Reg) (v : Word) : (s.setReg t r v).xlats = s.xlats := by
  unfold State.setReg; split
  · rfl
  · split <;> rfl
@[simp] theorem State.setReg_dram (s : State) (t : ThreadId) (r : Reg) (v : Word) : (s.setReg t r v).dram = s.dram := by
  unfold State.setReg; split
  · rfl
  · split <;> rfl
@[simp] theorem State.setReg_accesses (s : State) (t : ThreadId) (r : Reg) (v : Word) : (s.setReg t r v).accesses = s.accesses := by
  unfold State.setReg; split
  · rfl
  · split <;> rfl
@[simp] theorem State.setReg_flights (s : State) (t : ThreadId) (r : Reg) (v : Word) : (s.setReg t r v).flights = s.flights := by
  unfold State.setReg; split
  · rfl
  · split <;> rfl
@[simp] theorem State.setReg_rowWaits (s : State) (t : ThreadId) (r : Reg) (v : Word) : (s.setReg t r v).rowWaits = s.rowWaits := by
  unfold State.setReg; split
  · rfl
  · split <;> rfl
@[simp] theorem State.setReg_folds (s : State) (t : ThreadId) (r : Reg) (v : Word) : (s.setReg t r v).folds = s.folds := by
  unfold State.setReg; split
  · rfl
  · split <;> rfl
@[simp] theorem State.setReg_replicas (s : State) (t : ThreadId) (r : Reg) (v : Word) : (s.setReg t r v).replicas = s.replicas := by
  unfold State.setReg; split
  · rfl
  · split <;> rfl
@[simp] theorem State.setReg_lates (s : State) (t : ThreadId) (r : Reg) (v : Word) : (s.setReg t r v).lates = s.lates := by
  unfold State.setReg; split
  · rfl
  · split <;> rfl
@[simp] theorem State.setReg_classes (s : State) (t : ThreadId) (r : Reg) (v : Word) : (s.setReg t r v).classes = s.classes := by
  unfold State.setReg; split
  · rfl
  · split <;> rfl
@[simp] theorem State.setReg_serves (s : State) (t : ThreadId) (r : Reg) (v : Word) : (s.setReg t r v).serves = s.serves := by
  unfold State.setReg; split
  · rfl
  · split <;> rfl
@[simp] theorem State.setReg_descs (s : State) (t : ThreadId) (r : Reg) (v : Word) : (s.setReg t r v).descs = s.descs := by
  unfold State.setReg; split
  · rfl
  · split <;> rfl
@[simp] theorem State.setReg_held (s : State) (t : ThreadId) (r : Reg) (v : Word) : (s.setReg t r v).held = s.held := by
  unfold State.setReg; split
  · rfl
  · split <;> rfl
@[simp] theorem State.setReg_ctxs (s : State) (t : ThreadId) (r : Reg) (v : Word) : (s.setReg t r v).ctxs = s.ctxs := by
  unfold State.setReg; split
  · rfl
  · split <;> rfl
@[simp] theorem State.setReg_host (s : State) (t : ThreadId) (r : Reg) (v : Word) : (s.setReg t r v).host = s.host := by
  unfold State.setReg; split
  · rfl
  · split <;> rfl
@[simp] theorem State.setReg_sec (s : State) (t : ThreadId) (r : Reg) (v : Word) : (s.setReg t r v).sec = s.sec := by
  unfold State.setReg; split
  · rfl
  · split <;> rfl
@[simp] theorem State.setReg_pkg (s : State) (t : ThreadId) (r : Reg) (v : Word) : (s.setReg t r v).pkg = s.pkg := by
  unfold State.setReg; split
  · rfl
  · split <;> rfl

/-! ### Accessors behind updates -/

@[simp] theorem State.coreAt_setCore_self (s : State) (c : Nat) (k : Core) : (s.setCore c k).coreAt c = k := by
  simp [State.coreAt, State.setCore]
theorem State.coreAt_setCore_ne (s : State) {c d : Nat} (k : Core) (h : d ≠ c) : (s.setCore c k).coreAt d = s.coreAt d := by
  simp [State.coreAt, State.setCore, agetD_aset_ne _ _ _ h]
@[simp] theorem State.coreAt_modCore_self (s : State) (c : Nat) (f : Core → Core) :
    (s.modCore c f).coreAt c = f (s.coreAt c) := by
  simp [State.modCore]
theorem State.coreAt_modCore_ne (s : State) {c d : Nat} (f : Core → Core) (h : d ≠ c) :
    (s.modCore c f).coreAt d = s.coreAt d := by
  simp [State.modCore, State.coreAt_setCore_ne s _ h]

@[simp] theorem State.stationAt_setStation_self (s : State) (n : Nat) (k : Station) :
    (s.setStation n k).stationAt n = k := by
  simp [State.stationAt, State.setStation]
theorem State.stationAt_setStation_ne (s : State) {n m : Nat} (k : Station) (h : m ≠ n) :
    (s.setStation n k).stationAt m = s.stationAt m := by
  simp [State.stationAt, State.setStation, agetD_aset_ne _ _ _ h]
@[simp] theorem State.stationAt_modStation_self (s : State) (n : Nat) (f : Station → Station) :
    (s.modStation n f).stationAt n = f (s.stationAt n) := by
  simp [State.modStation]
theorem State.stationAt_modStation_ne (s : State) {n m : Nat} (f : Station → Station) (h : m ≠ n) :
    (s.modStation n f).stationAt m = s.stationAt m := by
  simp [State.modStation, State.stationAt_setStation_ne s _ h]

@[simp] theorem State.ctxAt_setCtx_self (s : State) (c : Nat) (x : Context) : (s.setCtx c x).ctxAt c = some x := by
  simp [State.ctxAt, State.setCtx]
theorem State.ctxAt_setCtx_ne (s : State) {c d : Nat} (x : Context) (h : d ≠ c) : (s.setCtx c x).ctxAt d = s.ctxAt d := by
  simp [State.ctxAt, State.setCtx, aget_aset_ne _ _ h]
@[simp] theorem State.ctxAt_modCtx_self (s : State) (c : Nat) (f : Context → Context) :
    (s.modCtx c f).ctxAt c = (s.ctxAt c).map f := by
  unfold State.modCtx; split <;> simp_all
theorem State.ctxAt_modCtx_ne (s : State) {c d : Nat} (f : Context → Context) (h : d ≠ c) :
    (s.modCtx c f).ctxAt d = s.ctxAt d := by
  unfold State.modCtx; split
  · rfl
  · exact State.ctxAt_setCtx_ne s _ h

@[simp] theorem State.queueAt_setQueue_self (s : State) (q : Nat) (k : CmdQueue) : (s.setQueue q k).queueAt q = k := by
  simp [State.queueAt, State.setQueue]
theorem State.queueAt_setQueue_ne (s : State) {q r : Nat} (k : CmdQueue) (h : r ≠ q) :
    (s.setQueue q k).queueAt r = s.queueAt r := by
  simp [State.queueAt, State.setQueue, agetD_aset_ne _ _ _ h]

@[simp] theorem State.threadAt_setThread_self (s : State) (t : ThreadId) (th : Thread) :
    (s.setThread t th).threadAt t = some th := by
  simp [State.threadAt, State.setThread]
theorem State.threadAt_setThread_ne (s : State) {t u : ThreadId} (th : Thread) (h : u ≠ t) :
    (s.setThread t th).threadAt u = s.threadAt u := by
  obtain ⟨c, p⟩ := t; obtain ⟨d, q⟩ := u
  by_cases hc : d = c
  · subst hc
    have hp : q ≠ p := fun e => h (by rw [e])
    simp [State.threadAt, State.setThread, aget_aset_ne _ _ hp]
  · simp [State.threadAt, State.setThread, State.coreAt_modCore_ne s _ hc]
@[simp] theorem State.threadAt_modThread_self (s : State) (t : ThreadId) (f : Thread → Thread) :
    (s.modThread t f).threadAt t = (s.threadAt t).map f := by
  unfold State.modThread; split <;> simp_all
theorem State.threadAt_modThread_ne (s : State) {t u : ThreadId} (f : Thread → Thread) (h : u ≠ t) :
    (s.modThread t f).threadAt u = s.threadAt u := by
  unfold State.modThread; split
  · rfl
  · exact State.threadAt_setThread_ne s _ h

@[simp] theorem State.threadAt_modStation (s : State) (n : Nat) (f : Station → Station) (t : ThreadId) :
    (s.modStation n f).threadAt t = s.threadAt t := rfl
@[simp] theorem State.threadAt_setStation (s : State) (n : Nat) (k : Station) (t : ThreadId) :
    (s.setStation n k).threadAt t = s.threadAt t := rfl
@[simp] theorem State.threadAt_setCtx (s : State) (c : Nat) (x : Context) (t : ThreadId) :
    (s.setCtx c x).threadAt t = s.threadAt t := rfl
@[simp] theorem State.threadAt_modCtx (s : State) (c : Nat) (f : Context → Context) (t : ThreadId) :
    (s.modCtx c f).threadAt t = s.threadAt t := by
  unfold State.modCtx; split <;> rfl
@[simp] theorem State.threadAt_setQueue (s : State) (q : Nat) (k : CmdQueue) (t : ThreadId) :
    (s.setQueue q k).threadAt t = s.threadAt t := rfl

/-- A change of a core that keeps its threads keeps every thread. -/
theorem State.threadAt_modCore (s : State) (c : Nat) (f : Core → Core) (hf : ∀ k, (f k).threads = k.threads)
    (t : ThreadId) : (s.modCore c f).threadAt t = s.threadAt t := by
  by_cases h : t.core = c
  · subst h; simp [State.threadAt, hf]
  · simp [State.threadAt, State.coreAt_modCore_ne s f h]

end Sys2Proof.Machine
end

