-- ==== Sys2Proof/Laws/Ops.lean ====
section
/-! SUPPORT. What the shared operations of the meanings do, said once: the register checks, completing an instruction, and
taking a trap. -/

namespace Sys2Proof

open Sys2Proof.Machine

/-! ### The executing thread and its register checks -/

theorem onThread_eq {s : State} {th : Thread} (h : s.threadAt s.cur = some th) (op : Thread → State) :
    s.onThread op = .next (op th) := by
  simp only [State.onThread, h]

theorem Executes.onThread {s : State} {th : Thread} {uses reads : List Reg} (h : Executes s th uses reads)
    (op : Thread → State) : s.onThread op = .next (op th) :=
  onThread_eq h.created op

/-- The register checks pass exactly where the registers lie in the window and have good parity. -/
theorem regFault_none {s : State} {th : Thread} {uses reads : List Reg}
    (hw : ∀ r ∈ uses, r.toNat < 8 * th.win.wsize)
    (hp : ∀ r ∈ reads, r ≠ 0 → th.rfEntry r.toNat ∉ (s.coreAt s.cur.core).rfBad) :
    s.regFault s.cur th uses reads = none := by
  have h1 : uses.filter (fun r => decide (8 * th.win.wsize ≤ r.toNat)) = [] := by
    rw [List.filter_eq_nil_iff]; intro r hr; have := hw r hr; simp; omega
  have h2 : reads.filter (fun r => r != 0 && (s.coreAt s.cur.core).rfBad.contains (th.rfEntry r.toNat)) = [] := by
    rw [List.filter_eq_nil_iff]; intro r hr
    by_cases h0 : r = 0#7
    · simp [h0]
    · simpa [h0] using hp r hr h0
  simp only [State.regFault, State.anyOf, h1, h2]

theorem Executes.gate {s : State} {th : Thread} {uses reads : List Reg} (h : Executes s th uses reads) (rest : State) :
    s.gate th uses reads rest = rest := by
  simp only [State.gate, regFault_none h.window h.parity]

/-- Fewer registers pass where more do. -/
theorem Executes.mono {s : State} {th : Thread} {uses reads uses' reads' : List Reg} (h : Executes s th uses reads)
    (hu : ∀ r ∈ uses', r ∈ uses) (hr : ∀ r ∈ reads', r ∈ reads) : Executes s th uses' reads' :=
  ⟨h.created, fun r m => h.window r (hu r m), fun r m => h.parity r (hr r m), h.single, h.stepped⟩

/-! ### Completing an instruction -/

/-- What follows an instruction where nothing single-steps it. -/
theorem afterInstr_eq {s : State} {t : ThreadId} {th : Thread} {mode : Mode} {pc0 : Word} (h : s.threadAt t = some th)
    (hss : th.dbg.ss = false ∨ mode ≠ .user) (hst : th.stepsLeft = none) : s.afterInstr t mode pc0 = s := by
  simp only [State.afterInstr, h, hst]
  have : (th.dbg.ss && mode == .user) = false := by
    rcases hss with h | h
    · simp [h]
    · cases mode <;> simp_all
  simp [this]

theorem complete_eq {s : State} {t : ThreadId} {th : Thread} {next : Word} (h : s.threadAt t = some th)
    (hss : th.dbg.ss = false ∨ th.status.mode ≠ .user) (hst : th.stepsLeft = none) :
    s.complete t next = s.setThread t (Thread.goTo th next) := by
  simp only [State.complete, h]
  exact afterInstr_eq (State.threadAt_setThread_self _ _ _) hss hst

theorem finish_eq {s : State} {t : ThreadId} {th : Thread} {n : Nat} (h : s.threadAt t = some th)
    (hss : th.dbg.ss = false ∨ th.status.mode ≠ .user) (hst : th.stepsLeft = none) :
    s.finish t n = s.setThread t (Thread.goTo th (th.pc + BitVec.ofNat 64 n)) := by
  simp only [State.finish, h]
  exact complete_eq h hss hst

/-! ### Writing a register -/

theorem setReg_zero (s : State) (t : ThreadId) (v : Word) : s.setReg t 0 v = s := by
  simp [State.setReg]

theorem setReg_eq {s : State} {t : ThreadId} {th : Thread} {r : Reg} {v : Word} (h : s.threadAt t = some th) (hr : r ≠ 0) :
    s.setReg t r v = (s.modCore t.core (fun k => k.setEntry (th.rfEntry r.toNat) v)).setThread t (th.spoil r) := by
  rw [State.setReg, if_neg hr, h]

theorem threadAt_setReg {s : State} {t : ThreadId} {th : Thread} {r : Reg} {v : Word} (h : s.threadAt t = some th) :
    (s.setReg t r v).threadAt t = some (Thread.wrote th r) := by
  by_cases hr : r = 0
  · subst hr; rw [setReg_zero, h]; rfl
  · rw [setReg_eq h hr, State.threadAt_setThread_self, Thread.wrote, if_neg hr]

@[simp] theorem wrote_pc (th : Thread) (d : Reg) : (Thread.wrote th d).pc = th.pc := by
  unfold Thread.wrote; split <;> rfl
@[simp] theorem wrote_dbg (th : Thread) (d : Reg) : (Thread.wrote th d).dbg = th.dbg := by
  unfold Thread.wrote; split <;> rfl
@[simp] theorem wrote_status (th : Thread) (d : Reg) : (Thread.wrote th d).status = th.status := by
  unfold Thread.wrote; split <;> rfl
@[simp] theorem wrote_stepsLeft (th : Thread) (d : Reg) : (Thread.wrote th d).stepsLeft = th.stepsLeft := by
  unfold Thread.wrote; split <;> rfl
@[simp] theorem wrote_win (th : Thread) (d : Reg) : (Thread.wrote th d).win = th.win := by
  unfold Thread.wrote; split <;> rfl
@[simp] theorem wrote_zero (th : Thread) : Thread.wrote th 0 = th := by
  simp [Thread.wrote]

/-- A write of register d by the executing thread, and then a pc: what Ran says. -/
theorem ran_setReg {s : State} {th : Thread} (h : s.threadAt s.cur = some th) (d : Reg) (v : Word) (th' : Thread) :
    Ran s th ((s.setReg s.cur d v).setThread s.cur th') th' d v := by
  by_cases hd : d = 0
  · subst hd
    rw [setReg_zero]
    refine ⟨State.threadAt_setThread_self _ _ _, fun h => absurd rfl h, fun c e _ => ?_, fun c e => ?_,
      fun u hu => State.threadAt_setThread_ne _ _ hu, fun c => ?_, rfl⟩
    all_goals
      by_cases hc : c = s.cur.core
      · subst hc; simp [State.setThread]
      · simp [State.setThread, State.coreAt_modCore_ne _ _ hc]
  · have hd' : ¬ d = 0#7 := hd
    rw [setReg_eq h hd]
    refine ⟨State.threadAt_setThread_self _ _ _, fun _ => ?_, fun c e he => ?_, fun c e => ?_, fun u hu => ?_, fun c => ?_, rfl⟩
    · simp [State.setThread, Core.setEntry]
    · by_cases hc : c = s.cur.core
      · subst hc
        have he : e ≠ th.rfEntry d.toNat := by simpa [hd'] using he
        simp [State.setThread, Core.setEntry, aget_aset_ne _ _ he]
      · simp [State.setThread, State.coreAt_modCore_ne _ _ hc]
    · by_cases hc : c = s.cur.core
      · subst hc; simp [State.setThread, Core.setEntry, hd']
      · simp [State.setThread, State.coreAt_modCore_ne _ _ hc, hc]
    · rw [State.threadAt_setThread_ne _ _ hu, State.threadAt_setThread_ne _ _ hu]
      exact State.threadAt_modCore s _ (fun k => k.setEntry _ v) (fun _ => rfl) _
    · by_cases hc : c = s.cur.core
      · subst hc; simp [State.setThread, Core.setEntry]
      · simp [State.setThread, State.coreAt_modCore_ne _ _ hc]

/-- Writing d and completing: the one fact behind every result statement. -/
theorem finishWith_ran {s : State} {th : Thread} (h : s.threadAt s.cur = some th)
    (hss : th.dbg.ss = false ∨ th.status.mode ≠ .user) (hst : th.stepsLeft = none) (n : Nat) (d : Reg) (v : Word) :
    Ran s th (s.finishWith n d v) (Thread.goTo (Thread.wrote th d) (th.pc + BitVec.ofNat 64 n)) d v := by
  have ht := threadAt_setReg (r := d) (v := v) h
  have := finish_eq (n := n) ht (by simpa using hss) (by simpa using hst)
  rw [State.finishWith, this, wrote_pc]
  exact ran_setReg h d v _

theorem setRegComplete_ran {s : State} {th : Thread} (h : s.threadAt s.cur = some th)
    (hss : th.dbg.ss = false ∨ th.status.mode ≠ .user) (hst : th.stepsLeft = none) (next : Word) (d : Reg) (v : Word) :
    Ran s th ((s.setReg s.cur d v).complete s.cur next) (Thread.goTo (Thread.wrote th d) next) d v := by
  have ht := threadAt_setReg (r := d) (v := v) h
  rw [complete_eq ht (by simpa using hss) (by simpa using hst)]
  exact ran_setReg h d v _

theorem complete_ran {s : State} {th : Thread} (h : s.threadAt s.cur = some th)
    (hss : th.dbg.ss = false ∨ th.status.mode ≠ .user) (hst : th.stepsLeft = none) (next : Word) (v : Word) :
    Ran s th (s.complete s.cur next) (Thread.goTo (Thread.wrote th 0) next) 0 v := by
  have := setRegComplete_ran h hss hst next 0 v
  rwa [setReg_zero] at this

theorem finish_ran {s : State} {th : Thread} (h : s.threadAt s.cur = some th)
    (hss : th.dbg.ss = false ∨ th.status.mode ≠ .user) (hst : th.stepsLeft = none) (n : Nat) (v : Word) :
    Ran s th (s.finish s.cur n) (Thread.goTo (Thread.wrote th 0) (th.pc + BitVec.ofNat 64 n)) 0 v := by
  have := finishWith_ran h hss hst n 0 v
  rwa [State.finishWith, setReg_zero] at this

theorem Executes.finishWith {s : State} {th : Thread} {uses reads : List Reg} (h : Executes s th uses reads) (n : Nat)
    (d : Reg) (v : Word) :
    Ran s th (s.finishWith n d v) (Thread.goTo (Thread.wrote th d) (th.pc + BitVec.ofNat 64 n)) d v :=
  finishWith_ran h.created h.single h.stepped n d v

/-! ### The shapes of a meaning -/

/-- A meaning that checks its registers, writes d and goes on completes. -/
theorem Completes.of_gate {i : Instr} {s : State} {th : Thread} {uses reads : List Reg} {n : Nat} {d : Reg} {v w : Word}
    (h : Executes s th uses reads)
    (hx : exec i s = s.onThread fun th => s.gate th uses reads (s.finishWith n d v)) (hv : v = w) :
    Completes i s th n d w := by
  subst hv; exact ⟨_, by rw [hx, h.onThread, h.gate], h.finishWith n d v⟩

theorem Completes.of_alu3 {i : Instr} {s : State} {th : Thread} {r : R3} {f : Word → Word → Word} {w : Word}
    (h : Executes s th [r.d, r.a, r.b] [r.a, r.b]) (hx : exec i s = alu3 s r f) (hv : f (s.g r.a) (s.g r.b) = w) :
    Completes i s th 4 r.d w := .of_gate h hx hv

theorem Completes.of_alu2 {i : Instr} {s : State} {th : Thread} {r : R2} {f : Word → Word} {w : Word}
    (h : Executes s th [r.d, r.a] [r.a]) (hx : exec i s = alu2 s r f) (hv : f (s.g r.a) = w) :
    Completes i s th 4 r.d w := .of_gate h hx hv

/-- A meaning that first changes the machine to b and its thread to thb, and then writes d and goes on. -/
theorem CompletesIn.of_finishWith {i : Instr} {s b : State} {th thb : Thread} {uses reads : List Reg} {n : Nat} {d : Reg}
    {v w : Word} (h : Executes s th uses reads) (hx : exec i s = .next (b.finishWith n d v)) (hb : b.cur = s.cur)
    (ht : b.threadAt s.cur = some thb) (hd : thb.dbg = th.dbg) (hm : thb.status = th.status)
    (hs : thb.stepsLeft = th.stepsLeft) (hv : v = w) : CompletesIn b thb i s n d w := by
  subst hv
  exact ⟨_, hx, finishWith_ran (by rw [hb]; exact ht) (by rw [hd, hm]; exact h.single) (by rw [hs]; exact h.stepped) n d v⟩

theorem CompletesIn.of_finish {i : Instr} {s b : State} {th thb : Thread} {uses reads : List Reg} {n : Nat} {v : Word}
    (h : Executes s th uses reads) (hx : exec i s = .next (b.finish s.cur n)) (hb : b.cur = s.cur)
    (ht : b.threadAt s.cur = some thb) (hd : thb.dbg = th.dbg) (hm : thb.status = th.status)
    (hs : thb.stepsLeft = th.stepsLeft) : CompletesIn b thb i s n 0 v := by
  refine ⟨_, hx, ?_⟩
  rw [← hb]
  exact finish_ran (by rw [hb]; exact ht) (by rw [hd, hm]; exact h.single) (by rw [hs]; exact h.stepped) n v

/-! ### Taking a trap -/

/-- A record of tracing off, or of a thread that does not trace, changes nothing. -/
theorem traceEvent_off {s : State} {t : ThreadId} {th : Thread} (h : s.threadAt t = some th) (htr : th.dbg.tr = false)
    (kind info : Nat) (pc : Word) : s.traceEvent t kind info pc = s := by
  simp [State.traceEvent, h, htr]

/-- Taking a trap outside a semaphore queue, without trace and debug step, changes the one thread as R215 says. -/
theorem takeTrap_eq {s : State} {t : ThreadId} {th : Thread} (h : s.threadAt t = some th) (htr : th.dbg.tr = false)
    (hst : th.stepsLeft = none) (hq : ∀ n, th.wait ≠ some (.semp n)) (c : TrapCause) :
    s.takeTrap t c = s.setThread t (th.enterTrap c) := by
  have hl : s.leaveQueues t = s := by
    unfold State.leaveQueues
    rw [h]
    dsimp only
    split
    · rename_i n hn; exact absurd hn (hq n)
    · rfl
  unfold State.takeTrap
  rw [hl, h]
  dsimp only
  rw [traceEvent_off (State.threadAt_setThread_self _ _ _) (by simpa [Thread.enterTrap] using htr), hst]
  rfl

end Sys2Proof
end

