-- ==== Sys2Proof/Laws/Own.lean ====
section
/-! SUPPORT. What an access to the own scratchpad does when its owner serves it at once, said once. -/

namespace Sys2Proof

open Sys2Proof.Machine

theorem orElse_none (s : State) : State.orElse none s = s := rfl

theorem orTrap_none (s r : State) : s.orTrap none r = r := rfl

/-- Counters that are zero, with no failure on record, delay nothing (R150, R222). -/
theorem counterStop_none {s : State} {t : ThreadId} {th : Thread} {mask : Nat} (h : Thread.quiet th mask) :
    s.counterStop t th mask = none := by
  have h1 : [1, 2, 3].any (fun k => selected mask k && th.counter k != 0) = false := by
    rw [List.any_eq_false]
    intro k hk; cases hs : selected mask k
    · simp
    · simp [(h k hk hs).1]
  have h2 : [1, 2, 3].find? (fun k => selected mask k && (th.failure k).isSome) = none := by
    rw [List.find?_eq_none]
    intro k hk; cases hs : selected mask k
    · simp
    · simp [(h k hk hs).2]
  simp only [State.counterStop, h1, h2, Bool.false_eq_true, if_false]

/-- A release that nothing delays (R81, R221). -/
theorem releaseStop_none {s : State} {th : Thread} {scope : Nat} (h : ReleaseFree s th scope) :
    s.releaseStop s.cur th scope = none := by
  have h1 : s.accesses.any (fun x => x.postedBy s.cur && decide (s.storeScope s.cur x ≤ scope)) = false := by
    rw [List.any_eq_false]
    intro x hx; cases hp : x.postedBy s.cur
    · simp
    · have := h.1 x hx hp; simp; omega
  have h2 : [1, 2, 3].find? (fun k => ((th.failure k).map (fun f => decide (f.scope ≤ scope))).getD false) = none := by
    rw [List.find?_eq_none]
    intro k hk; cases hf : th.failure k with
    | none => simp
    | some f => have := h.2 k hk f hf; simp; omega
  simp only [State.releaseStop, h1, h2, Bool.false_eq_true, if_false]

/-- No watch unit stops an unwatched access (R310). -/
theorem watchStop_none {s : State} {th : Thread} {sp n kind : Nat} {a : Word} (h : Unwatched s th sp a.toNat n kind) :
    s.watchStop s.cur th sp a n kind = none := by
  by_cases hm : th.status.mode = .user
  · have h1 : (List.range 2).find? (fun u => th.dbg.wen.getLsbD u &&
        ((aget (s.coreAt s.cur.core).watches u).map (fun w => w.hits sp a.toNat n kind)).getD false) = none := by
      rw [List.find?_eq_none]
      intro u hu
      cases hb : th.dbg.wen.getLsbD u
      · simp
      · cases hw : aget (s.coreAt s.cur.core).watches u with
        | none => simp
        | some w => simp [h hm u (by simpa using hu) hb w hw]
    simp only [State.watchStop, h1]; split <;> rfl
  · have : (th.status.mode != .user) = true := by simpa using hm
    simp only [State.watchStop, this, if_true]

/-- An aligned address inside the own scratchpad, under no lock, passes the checks of R79. -/
theorem addrFault_own {s : State} {th : Thread} {a : Word} {n kind : Nat} (h : OwnAccess s th a.toNat n kind) :
    s.addrFault s.cur 0 a n = none := by
  have hin := h.inside
  have hl : (s.coreAt s.cur.core).locked s.time.toNat (spadNumber s.cur.core 0 a.toNat) n = false := by
    simpa [spadNumber] using h.unlocked
  simp [State.addrFault, h.aligned, hl]; omega

/-! ### From one base to another -/

/-- What Ran says over S it says over b, where the two differ in threads of the executing slot only. -/
theorem Ran.rebase {S b t : State} {th1 th th' : Thread} {d : Reg} {v : Word} (h : Ran S th1 t th' d v)
    (hc : S.cur = b.cur) (hw : th1.win = th.win) (hs : S = { b with cores := S.cores })
    (hk : ∀ c, S.coreAt c = { b.coreAt c with threads := (S.coreAt c).threads })
    (ho : ∀ u, u ≠ b.cur → S.threadAt u = b.threadAt u) : Ran b th t th' d v := by
  have hrf (c : Nat) : (S.coreAt c).rf = (b.coreAt c).rf := by rw [hk c]
  have hbad (c : Nat) : (S.coreAt c).rfBad = (b.coreAt c).rfBad := by rw [hk c]
  have he (r : Reg) : th1.rfEntry r.toNat = th.rfEntry r.toNat := by simp only [Thread.rfEntry, hw]
  refine ⟨?_, ?_, ?_, ?_, ?_, ?_, ?_⟩
  · rw [← hc]; exact h.thread
  · intro hd; rw [← hc, ← he]; exact h.value hd
  · intro c e hx; rw [← hrf]; exact h.entries c e (by rw [hc, he]; exact hx)
  · intro c e; rw [← hbad, ← hc, ← he]; exact h.parity c e
  · intro u hu; rw [h.others u (by rw [hc]; exact hu), ho u hu]
  · intro c; rw [h.cores c, hk c]
  · have := h.rest; rw [hs] at this; exact this

/-- The access that an own-space instruction makes, at its owner. -/
def ownLoc (s : State) (x : Access) : Access := { x with id := s.nextId, loc := spadNumber s.cur.core 0 x.va }

theorem filter_fresh {s : State} (h : FreshId s) (y : Access) (hy : y.id = s.nextId) :
    (s.accesses ++ [y]).filter (fun x => x.id != s.nextId) = s.accesses := by
  rw [List.filter_append, List.filter_eq_self.mpr (fun x hx => by simpa using h x hx)]
  simp [hy]

/-- The machine while the owner performs an own access: one number drawn, the access listed, the thread waiting. -/
def whileOwn (s : State) (th : Thread) (x : Access) : State :=
  State.setThread { s with accesses := s.accesses ++ [{ ownLoc s x with sent := s.nextId }], nextId := s.nextId + 1 } s.cur
    { th with wait := some (.answer s.nextId) }

theorem ownAccess_eq {s : State} {th : Thread} (hth : s.threadAt s.cur = some th) (x : Access)
    (hp : s.posting s.cur (0, (s.cur.core * 2 ^ 18 + x.va) / 8) = false) :
    s.ownAccess s.cur x = (whileOwn s th x).meetOwner (.bank s.cur.core) (ownLoc s x) := by
  have h : (s.sendAccess (ownLoc s x)).threadAt s.cur = some th := hth
  have h2 : (s.sendAccess (ownLoc s x)).waitFor s.cur (.answer s.nextId) = whileOwn s th x := by
    simp only [State.waitFor, State.modThread, h]; rfl
  have hl : spadNumber s.cur.core 0 x.va = s.cur.core * 2 ^ 18 + x.va := by simp [spadNumber]
  simp only [State.ownAccess, hl, hp, Bool.false_eq_true, if_false]
  simp only [ownLoc, hl] at h2 ⊢
  rw [h2]

theorem coreAt_whileOwn (s : State) (th : Thread) (x : Access) (c : Nat) :
    (whileOwn s th x).coreAt c = { s.coreAt c with threads := ((whileOwn s th x).coreAt c).threads } := by
  unfold whileOwn State.setThread
  by_cases h : c = s.cur.core
  · subst h; rw [State.coreAt_modCore_self]; rfl
  · rw [State.coreAt_modCore_ne _ _ h]; rfl

/-- No request at the word of an own access is parked, so none is served behind it. -/
theorem no_parked_word {s : State} {th : Thread} {x : Access} {n kind : Nat} (own : OwnAccess s th x.va n kind) (S : State)
    (hp : (S.coreAt s.cur.core).park = (s.coreAt s.cur.core).park)
    (ha : S.accesses = s.accesses ++ [{ ownLoc s x with sent := s.nextId }] ∨ S.accesses = s.accesses) (q : Access)
    (hq : q ∈ (S.parkOf (.bank s.cur.core)).filterMap S.accessAt) : q.loc / 8 ≠ (ownLoc s x).loc / 8 := by
  simp only [State.parkOf, hp, List.mem_filterMap] at hq
  obtain ⟨i, hi, hq⟩ := hq
  obtain ⟨hne, hu⟩ := own.unparked i hi
  have hs : s.accessAt i = some q := by
    rcases ha with ha | ha
    · simp only [State.accessAt, ha, List.find?_append] at hq ⊢
      cases hf : s.accesses.find? (fun x => x.id == i) with
      | some y => rw [hf] at hq; simpa using hq
      | none =>
        rw [hf] at hq
        have : ((ownLoc s x).id == i) = false := by simp [ownLoc]; omega
        simp [this] at hq
    · simpa only [State.accessAt, ha] using hq
  have := hu q hs
  simpa [ownLoc, spadNumber] using this

theorem serveWord_none {s : State} {th : Thread} {x : Access} {n kind : Nat} (own : OwnAccess s th x.va n kind) (S : State)
    (hp : (S.coreAt s.cur.core).park = (s.coreAt s.cur.core).park) (ha : S.accesses = s.accesses) :
    S.serveWord (.bank s.cur.core) (ownLoc s x).loc = S := by
  unfold State.serveWord
  cases (S.parkOf (.bank s.cur.core)).length with
  | zero => rfl
  | succ k =>
    have : (List.filterMap S.accessAt (S.parkOf (.bank s.cur.core))).find? (fun q => q.loc / 8 == (ownLoc s x).loc / 8) = none := by
      rw [List.find?_eq_none]; intro q hq
      simpa using no_parked_word own S hp (Or.inr ha) q hq
    simp only [State.serve, this]

/-- A bank behind a write of w (none: no write) and, where c holds, a new full/empty bit. -/
def ownWith (w : Option Nat) (a n : Nat) (c full : Bool) (k : Core) : Core :=
  let k1 := match w with
    | none => k
    | some v => k.spadWrite a (bytesLE n v)
  if c then k1.setFull a full else k1

/-- What the bank of the own scratchpad becomes by an access (R148, R149, R152, R155, R156). -/
def ownEffect (x : Access) (k : Core) : Core :=
  ownWith (AccessKind.writes x.kind x.n (k.spad.readLE x.va x.n) x.x.toNat x.y.toNat) x.va x.n
    (x.kind == .fest || AccessKind.fullAfter x.kind (k.isFull x.va) x.x != k.isFull x.va)
    (AccessKind.fullAfter x.kind (k.isFull x.va) x.x) k

/-- The fields of the core that an own access may change. -/
theorem ownWith_frame (w : Option Nat) (a n : Nat) (c full : Bool) (k : Core) :
    ownWith w a n c full k = { k with spad := (ownWith w a n c full k).spad, spadBad := (ownWith w a n c full k).spadBad
                                      spadEmpty := (ownWith w a n c full k).spadEmpty } := by
  cases w <;> cases c <;> rfl

theorem ownEffect_frame (x : Access) (k : Core) :
    ownEffect x k = { k with spad := (ownEffect x k).spad, spadBad := (ownEffect x k).spadBad
                             spadEmpty := (ownEffect x k).spadEmpty } := ownWith_frame ..

theorem ownWith_threads (w : Option Nat) (a n : Nat) (c full : Bool) (k : Core) (ts : Assoc Thread) :
    ownWith w a n c full { k with threads := ts } = { ownWith w a n c full k with threads := ts } := by
  cases w <;> cases c <;> rfl

/-- The effect depends on the bank alone. -/
theorem ownEffect_threads (x : Access) (k : Core) (ts : Assoc Thread) :
    ownEffect x { k with threads := ts } = { ownEffect x k with threads := ts } := ownWith_threads ..

/-- An own access that its bank serves at once: its thread goes on with its register written, and the bank has taken the
access's effect. -/
theorem ownAccess_served {s : State} {th : Thread} {uses reads : List Reg} (h : Executes s th uses reads) {x : Access}
    {kind : Nat} (hi : x.issuer = .thread s.cur) (hsp : x.sp = 0) (own : OwnAccess s th x.va x.n kind)
    (hserve : AccessKind.parks x.kind = true → AccessKind.servable x.kind ((s.coreAt s.cur.core).isFull x.va) = true)
    (hpar : (s.coreAt s.cur.core).badParity x.va x.n = false ∨ (x.n = 8 ∧ AccessKind.reads x.kind = false)) :
    Ran (s.ownTouched (ownEffect x)) th (s.ownAccess s.cur x)
      (Thread.goTo (Thread.wrote th (if AccessKind.reads x.kind then x.rd else 0)) (th.pc + 4))
      (if AccessKind.reads x.kind then x.rd else 0)
      (x.extend ((s.coreAt s.cur.core).spad.readLE x.va x.n)) := by
  rw [ownAccess_eq h.created x own.unposted]
  generalize hS : whileOwn s th x = S
  have hcur : S.cur = s.cur := by rw [← hS]; rfl
  have hacc : S.accesses = s.accesses ++ [{ ownLoc s x with sent := s.nextId }] := by rw [← hS]; rfl
  have hcore (c : Nat) : S.coreAt c = { s.coreAt c with threads := (S.coreAt c).threads } := by
    rw [← hS]; exact coreAt_whileOwn s th x c
  have hloc : (ownLoc s x).loc % 2 ^ 18 = x.va := by
    have := own.inside; simp [ownLoc, spadNumber]; omega
  set K := S.coreAt s.cur.core with hK
  have hKe : K = { s.coreAt s.cur.core with threads := K.threads } := hcore _
  have hfull : K.isFull x.va = (s.coreAt s.cur.core).isFull x.va := by rw [hKe]; rfl
  have hbad : K.badParity x.va x.n = (s.coreAt s.cur.core).badParity x.va x.n := by rw [hKe]; rfl
  have hspad : K.spad = (s.coreAt s.cur.core).spad := by rw [hKe]
  have hpark : K.park = (s.coreAt s.cur.core).park := by rw [hKe]
  -- the owner finds no fault
  have hf : S.bankFault s.cur.core (ownLoc s x) = none := by
    simp only [State.bankFault, State.bankClosed, ← hK, hloc, show (ownLoc s x).sp = 0 from hsp, show (ownLoc s x).kind = x.kind from rfl,
      show (ownLoc s x).n = x.n from rfl, hbad]
    rcases hpar with hp | ⟨h8, hr⟩
    · simp [hp]
    · simp [hr, h8]
  -- it performs the access
  have hperf : S.performAt (.bank s.cur.core) (ownLoc s x) =
      (.ok (x.extend ((s.coreAt s.cur.core).spad.readLE x.va x.n)), S.modCore s.cur.core (ownEffect x)) := by
    have hlog : (K.badParity x.va x.n && decide (x.n < 8)) = false := by
      rw [hbad]; rcases hpar with hp | ⟨h8, _⟩
      · simp [hp]
      · simp [h8]
    simp only [State.performAt, State.bankPerform, hf, ← hK, hloc, show (ownLoc s x).kind = x.kind from rfl,
      show (ownLoc s x).n = x.n from rfl, show (ownLoc s x).x = x.x from rfl, show (ownLoc s x).y = x.y from rfl, hlog,
      Bool.false_eq_true, if_false, hspad]
    refine Prod.ext rfl ?_
    simp only [State.modCore, ← hK, ownEffect, hspad]
    rfl
  have hnow : (AccessKind.parks x.kind && !S.servesNow (.bank s.cur.core) (ownLoc s x)) = false := by
    cases hpk : AccessKind.parks x.kind
    · rfl
    · have h1 : AccessKind.servable x.kind (S.fullAt (.bank s.cur.core) (ownLoc s x).loc) = true := by
        simp only [State.fullAt, hloc, ← hK, hfull]; exact hserve hpk
      have h2 : ((S.parkOf (.bank s.cur.core)).filterMap S.accessAt).any (fun y => y.loc / 8 == (ownLoc s x).loc / 8) = false := by
        rw [List.any_eq_false]
        intro q hq
        have := no_parked_word own S hpark (Or.inl hacc) q hq
        simp [this]
      simp only [State.servesNow, show (ownLoc s x).kind = x.kind from rfl, h1, h2]; simp
  simp only [State.meetOwner, show (ownLoc s x).kind = x.kind from rfl, hnow, Bool.false_eq_true, if_false, hperf]
  -- the answer goes to the thread
  generalize hT : State.dropAccess (S.modCore s.cur.core (ownEffect x)) s.nextId = T
  have hTacc : T.accesses = s.accesses := by
    rw [← hT]; show (S.accesses).filter _ = _; rw [hacc]; exact filter_fresh own.fresh _ rfl
  have hTcore (c : Nat) : T.coreAt c =
      { (s.ownTouched (ownEffect x)).coreAt c with threads := (T.coreAt c).threads } := by
    rw [← hT]
    show (S.modCore s.cur.core (ownEffect x)).coreAt c =
      { (s.ownTouched (ownEffect x)).coreAt c with threads := ((S.modCore s.cur.core (ownEffect x)).coreAt c).threads }
    by_cases hc : c = s.cur.core
    · subst hc
      rw [State.coreAt_modCore_self, Machine.State.ownTouched, State.coreAt_modCore_self, ← hK, hKe, ownEffect_threads]
      rfl
    · rw [State.coreAt_modCore_ne _ _ hc, Machine.State.ownTouched, State.coreAt_modCore_ne _ _ hc, hcore c]; rfl
  have hth : ∀ u, T.threadAt u = S.threadAt u := by
    intro u; rw [← hT]
    show (S.modCore s.cur.core (ownEffect x)).threadAt u = _
    exact State.threadAt_modCore S _ (ownEffect x) (fun k => by rw [ownEffect_frame]) _
  have hT1 : T.threadAt s.cur = some { th with wait := some (.answer s.nextId) } := by
    rw [hth, ← hS]; exact State.threadAt_setThread_self _ _ _
  have hTcur : T.cur = s.cur := by rw [← hT]; exact hcur
  have hT2 : T.threadAt T.cur = some { th with wait := some (.answer s.nextId) } := by rw [hTcur]; exact hT1
  have hbase (t : State) (d : Reg) (v : Word) (th' : Thread)
      (hr : Ran T { th with wait := some (.answer s.nextId) } t th' d v) : Ran (s.ownTouched (ownEffect x)) th t th' d v := by
    refine hr.rebase hTcur rfl ?_ hTcore ?_
    · rw [← hT, ← hS]
      simp only [Machine.State.ownTouched, State.modCore, State.setCore, State.dropAccess, whileOwn, State.setThread]
      rw [filter_fresh own.fresh _ rfl]
    · intro u hu
      rw [hth, ← hS]
      rw [show (whileOwn s th x).threadAt u = s.threadAt u from State.threadAt_setThread_ne _ _ hu]
      exact (State.threadAt_modCore _ _ (ownEffect x) (fun k => by rw [ownEffect_frame]) _).symm
  have hdel : (S.modCore s.cur.core (ownEffect x)).deliver (ownLoc s x)
      (.ok (x.extend ((s.coreAt s.cur.core).spad.readLE x.va x.n))) =
      if AccessKind.reads x.kind then
        T.finishWith 4 x.rd (x.extend ((s.coreAt s.cur.core).spad.readLE x.va x.n))
      else T.finish s.cur 4 := by
    have hsp' : (ownLoc s x).sp = 0 := hsp
    have hhalt : (((S.modCore s.cur.core (ownEffect x)).threadAt s.cur).map Thread.halted).getD false = false := by
      rw [State.threadAt_modCore S _ (ownEffect x) (fun k => by rw [ownEffect_frame]), ← hth, hT1]; exact own.goes
    simp only [State.deliver, show (ownLoc s x).issuer = .thread s.cur from hi, hsp', hhalt, true_and, if_true,
      show (ownLoc s x).kind = x.kind from rfl, show (ownLoc s x).id = s.nextId from rfl, hT, Answer.ok]
    simp only [ne_eq, not_true_eq_false, if_false]
    split
    · simp only [State.finishWith, hTcur]; rfl
    · rfl
  rw [hdel]
  have hran : ∀ t, t = (if AccessKind.reads x.kind then
        T.finishWith 4 x.rd (x.extend ((s.coreAt s.cur.core).spad.readLE x.va x.n))
      else T.finish s.cur 4) → Ran (s.ownTouched (ownEffect x)) th t
      (Thread.goTo (Thread.wrote th (if AccessKind.reads x.kind then x.rd else 0)) (th.pc + 4))
      (if AccessKind.reads x.kind then x.rd else 0)
      (x.extend ((s.coreAt s.cur.core).spad.readLE x.va x.n)) := by
    intro t ht; subst ht
    apply hbase
    split
    · have := finishWith_ran (s := T) hT2 h.single h.stepped 4 x.rd
        (x.extend ((s.coreAt s.cur.core).spad.readLE x.va x.n))
      have e : Thread.goTo (Thread.wrote { th with wait := some (.answer s.nextId) } x.rd) (th.pc + 4) =
          Thread.goTo (Thread.wrote th x.rd) (th.pc + 4) := by
        simp only [Thread.wrote]; split <;> rfl
      rw [← e]; exact this
    · have := finish_ran (s := T) hT2 h.single h.stepped 4
        (x.extend ((s.coreAt s.cur.core).spad.readLE x.va x.n))
      rw [hTcur] at this
      exact this
  have r := hran _ rfl
  rw [serveWord_none own]
  · exact r
  · have := r.cores s.cur.core
    rw [this]
    show ((s.ownTouched (ownEffect x)).coreAt s.cur.core).park = _
    rw [Machine.State.ownTouched, State.coreAt_modCore_self, ownEffect_frame]; rfl
  · have := r.rest; rw [this]; rfl

/-- A memory instruction on the own scratchpad, once its checks pass, is its access. -/
theorem memOp_own {i : Instr} {s : State} {th : Thread} {m : MemOp} {k : AccessKind} {n : Nat} {sx st : Bool}
    (hsp : m.sp = 0) (h : Executes s th [m.t, m.a] (if st then [m.a, m.t] else [m.a])) (hq : Thread.quiet th (wkMask m.wk))
    (hx : exec i s = memOp s m k n sx st)
    (own : OwnAccess s th (effAddr (s.g m.a) m.off n).toNat n (AccessKind.watchKind k)) :
    exec i s = .next (s.ownAccess s.cur (Access.make s.cur th k 0 (effAddr (s.g m.a) m.off n).toNat n
      (if st then s.g m.t else 0) 0 m.t sx m.lu 0 s.time)) := by
  rw [hx]; unfold memOp; rw [h.onThread, h.gate, counterStop_none hq, orElse_none, hsp]
  have := addrFault_own own
  show Host.Outcome.next (s.orTrap (s.addrFault s.cur 0 _ n) _) = _
  rw [this, orTrap_none]
  show Host.Outcome.next (State.orElse (s.watchStop s.cur th 0 _ n _) _) = _
  rw [watchStop_none own.unwatched, orElse_none]; rfl

end Sys2Proof
end

