-- ==== Sys2Proof/Tests/Slice0.lean ====
section
/-! SUPPORT. Tests of the model: terms that well-formedness refuses, words worked out from the spec's encoding tables,
results of the spec's own worked examples, and for each statement about a state a state that meets its premises. -/

namespace Sys2Proof.Tests

open Sys2Proof Sys2Proof.Machine

/-! ### A small machine: one running context on station 0, whose core 0 has a thread of 128 registers in slot 0 -/

def user : Thread := Thread.create 0 16 .user 0x10000 0x20000 1 1
def super : Thread := Thread.create 0 16 .supervisor 0x10000 0x20000 1 1
def firm : Thread := Thread.create 0 16 .machine 0x10000 0x20000 1 1
/-- A halted thread. -/
def stopped : Thread := { user with halted := true }

def context : Context :=
  { root := 1, retry := 0, thresh := 0, save := 0, tag := 1, stations := [0], running := true, stoppedAt := 0, barriers := []
    page := ControlPage.reset, graphs := [], served := none, trace := TraceBuf.reset, falloutRegion := [], saved := none
    peal := none, measurement := [] }

/-- The thread th in slot 0 of the core k, on the station x. -/
def ready (th : Thread) (k : Core) (x : Station) : State :=
  { State.reset with
    cores := [(0, { k with threads := aset k.threads 0 th })], stations := [(0, x)], ctxs := [(1, context)] }

/-- A core whose register-file entries are rf. -/
def withRegs (rf : Assoc Word) : Core := { Core.reset with rf := rf }

/-- The small machine with registers alone. -/
def regs (rf : Assoc Word) : State := ready user (withRegs rf) Station.reset

/-- The thread of slot 0 behind an instruction. -/
def threadAfter (i : Instr) (s : State) : Option Thread :=
  match exec i s with | .next t => t.threadAt ⟨0, 0⟩ | _ => none

/-- The register-file entry e of core 0 behind an instruction. -/
def entryAfter (i : Instr) (s : State) (e : Nat) : Option Word :=
  match exec i s with | .next t => aget (t.coreAt 0).rf e | _ => none

/-- g3 behind an instruction of a thread with g3 = c, g4 = a, g5 = b. -/
def g3 (i : Instr) (a b c : Word) : Option Word := entryAfter i (regs [(3, c), (4, a), (5, b)]) 3

/-! ### Terms that well-formedness refuses, one for each check -/

theorem test_illformed_space : Instr.fieldError (.ldB ⟨3, 4, 0, 3, false, 0⟩) = some .space := by decide
theorem test_illformed_last_use : Instr.fieldError (.stD ⟨3, 4, 0, 1, true, 0⟩) = some .space := by decide
theorem test_illformed_rounding : Instr.fieldError (.fadd ⟨3, 4, 5, true, 5⟩) = some .rounding := by decide
theorem test_illformed_fcvt : Instr.fieldError (.fcvt ⟨5, 4, 4, 7, 0⟩) = some .fcvtPair := by decide
theorem test_illformed_bitfield : Instr.fieldError (.bfx ⟨3, 4, 61, 3⟩) = some .bitField := by decide
theorem test_illformed_waitk : Instr.fieldError (.waitk 0) = some .waitkMask := by decide
theorem test_illformed_cas : Instr.fieldError (.cas ⟨true, 9, 3, 0, 2, 3⟩) = some .casRegister := by decide
theorem test_illformed_slot : Instr.fieldError (.mclaim 64) = some .slot := by decide
theorem test_illformed_tile : Instr.fieldError (.mzero 16) = some .tile := by decide
theorem test_illformed_code : Instr.fieldError (.send 3 4 7) = some .code := by decide
theorem test_illformed_number : Instr.fieldError (.heartbeat 768) = some .number := by decide
theorem test_illformed_refused : Instr.wf (.mzero 16) = false ∧ Instr.wf (.mzero 15) = true := by decide

/-! ### Words of the spec's encodings (R56 to R65 and the examples beside the instructions) -/

theorem test_decode_integer :
    decodeTableWord 32 0x02183070 = some (.add ⟨6, 6, 7⟩) ∧ decodeTableWord 32 0x1A102A3F = some (.sari ⟨4, 5, 63⟩) ∧
    decodeTableWord 32 0x080C2056 = some (.sel ⟨3, 4, 5⟩) ∧ decodeTableWord 32 0x0C204050 = some (.hashm ⟨8, 8, 5⟩) ∧
    decodeTableWord 32 0x02204064 = some (.mulhu ⟨8, 8, 6⟩) ∧ decodeTableWord 32 0x0218307B = none := by decide
theorem test_decode_immediate :
    decodeTableWord 32 0x0E1027FF = some (.addi ⟨4, 4, -1⟩) ∧ decodeTableWord 32 0x1C140080 = some (.lui ⟨5, 128⟩) ∧
    decodeTableWord 32 0x1E140004 = some (.addpc ⟨5, 4⟩) ∧ decodeTableWord 64 0x00000105FE140007 = some (.luiH 5 0x105) ∧
    decodeTableWord 64 0xFFFC0FFCFE288001 = some (.addiLong ⟨10, 16, -258052⟩) := by decide
theorem test_decode_fields :
    decodeTableWord 32 0x280C2203 = some (.bfi ⟨3, 4, 8, 3⟩) ∧ decodeTableWord 32 0x24203B80 = some (.bfxu ⟨8, 7, 14, 0⟩) ∧
    decodeTableWord 32 0x220C2703 = some (.bfx ⟨3, 4, 60, 3⟩) := by decide
theorem test_decode_float :
    decodeTableWord 32 0x46141840 = some (.fma ⟨5, 3, 4, false, 0⟩) ∧
    decodeTableWord 32 0x44181840 = some (.fmul ⟨6, 3, 4, false, 0⟩) ∧
    decodeTableWord 32 0x404460E0 = some (.fadd ⟨17, 12, 14, false, 0⟩) ∧
    decodeTableWord 32 0x4C0C200A = some (.fsgn ⟨3, 4, 0, true⟩) ∧
    decodeTableWord 32 0x4E0C2059 = some (.fcmp ⟨3, 4, 5, true⟩ 1) ∧
    decodeTableWord 32 0x52142400 = some (.fcvt ⟨5, 4, 8, 0, 0⟩) := by decide
theorem test_decode_control :
    decodeTableWord 32 0x58040064 = some (.bl ⟨1, 100⟩) ∧ decodeTableWord 32 0x5A000800 = some (.jr 1) ∧
    decodeTableWord 32 0x5A044801 = some (.jlr ⟨1, 9⟩) ∧ decodeTableWord 32 0x5C0C27FE = some (.beq ⟨3, 4, -2⟩) ∧
    decodeTableWord 32 0x622C07F5 = some (.bge ⟨11, 0, -11⟩) := by decide
theorem test_decode_window :
    decodeTableWord 32 0x681C4000 = some (.xborrow ⟨7, 8⟩) ∧ decodeTableWord 32 0x6C24A000 = some (.xget ⟨9, 20⟩) ∧
    decodeTableWord 32 0x6E504800 = some (.xput 20 9) := by decide
theorem test_decode_registers :
    decodeTableWord 32 0xFA180003 = some (.rdc 6 3) ∧ decodeTableWord 32 0xFA002407 = some (.wrc 4 7) := by decide
theorem test_decode_memory :
    decodeTableWord 32 0x740C27F0 = some (.ldW ⟨3, 4, -1, 2, false, 0⟩) ∧
    decodeTableWord 32 0x7E2463E9 = some (.stB ⟨9, 12, 31, 1, false, 1⟩) ∧
    decodeTableWord 32 0x84181820 = some (.stD ⟨6, 3, 1, 0, false, 0⟩) ∧
    decodeTableWord 32 0x8A102808 = some (.stfe ⟨4, 5, 0, 1, false, 0⟩) ∧
    decodeTableWord 32 0x8C102808 = some (.stf ⟨4, 5, 0, 1, false, 0⟩) ∧
    decodeTableWord 32 0x86181800 = some (.ldfe ⟨6, 3, 0, 0, false, 0⟩) := by decide
theorem test_decode_sync :
    decodeTableWord 32 0x9A000002 = some (.waitk 2) ∧ decodeTableWord 32 0x9C0C2050 = some (.scope ⟨3, 4, 5⟩) ∧
    decodeTableWord 32 0x9E000005 = some (.semp 5) ∧ decodeTableWord 32 0x9E000205 = some (.semv 5) ∧
    decodeTableWord 32 0xA0000100 = some .step ∧ decodeTableWord 32 0xA000001A = some (.bar 3 2) ∧
    decodeTableWord 32 0xA20C0000 = some (.rdtime 3) ∧ decodeTableWord 32 0xA2002001 = some (.attime 4) ∧
    decodeTableWord 32 0xA4000001 = some .done := by decide
theorem test_decode_engines :
    decodeTableWord 32 0xB00018F0 = some (.tbldef 3 15) ∧ decodeTableWord 32 0xBA143072 = some (.segred ⟨5, 6, 7, 2⟩) ∧
    decodeTableWord 32 0xA8200000 = some (.popr 8) ∧
    decodeTableWord 32 0xA6009000 = some (.evwait 18) ∧ decodeTableWord 32 0xAA0028F0 = some (.send 5 15 0) ∧
    decodeTableWord 32 0xC8183881 = some (.rowdot ⟨6, 7, 8, 1⟩) ∧ decodeTableWord 32 0xE2000113 = some (.mslice ⟨0, 0, 17, 3⟩) := by decide

/-! ### Results of the spec's worked examples (09_scalar R105, R113; 08_numbers_notes; 10_scalar_notes) -/

/-- What the instruction of a word leaves in register d of a thread with g3 = c, g4 = a, g5 = b. -/
def wordGives (w : Nat) (a b c : Word) (d : Nat) : Option Word :=
  (decodeTableWord 32 w).bind fun i => entryAfter i (regs [(3, c), (4, a), (5, b)]) d

/-- The flags nv, dz, of, uf, nx that the instruction of a word leaves behind `fcsr` = 0. -/
def wordFlags (w : Nat) (a b c : Word) : Option (List Bool) :=
  (decodeTableWord 32 w).bind fun i => (threadAfter i (regs [(3, c), (4, a), (5, b)])).map fun th =>
    let f := th.fcsr.flags
    [f.nv, f.dz, f.ovf, f.uf, f.nx]

theorem test_add_wraps : g3 (.add ⟨3, 4, 5⟩) (-1) 2 0 = some 1 := by decide
theorem test_sub : g3 (.sub ⟨3, 4, 5⟩) 1 2 0 = some (-1) := by decide
theorem test_mul : g3 (.mul ⟨3, 4, 5⟩) (-1) 2 0 = some (-2) := by decide
theorem test_mulh : g3 (.mulh ⟨3, 4, 5⟩) (-1) (-1) 0 = some 0 := by decide
theorem test_mulhu : g3 (.mulhu ⟨3, 4, 5⟩) (-1) (-1) 0 = some 0xFFFFFFFFFFFFFFFE := by decide
theorem test_mulhsu : g3 (.mulhsu ⟨3, 4, 5⟩) (-1) (-1) 0 = some (-1) := by decide
theorem test_madd : g3 (.madd ⟨3, 4, 5⟩) 3 5 7 = some 22 := by decide
theorem test_div : g3 (.div ⟨3, 4, 5⟩) 7 (-2) 0 = some (-3) := by decide
theorem test_div_overflow : g3 (.div ⟨3, 4, 5⟩) 0x8000000000000000 (-1) 0 = some 0x8000000000000000 := by decide
theorem test_rem : g3 (.rem ⟨3, 4, 5⟩) (-7) 2 0 = some (-1) := by decide
theorem test_rem_by_zero : g3 (.rem ⟨3, 4, 5⟩) 42 0 0 = some 42 := by decide
theorem test_divu : g3 (.divu ⟨3, 4, 5⟩) (-1) 2 0 = some 0x7FFFFFFFFFFFFFFF := by decide
theorem test_remu_by_zero : g3 (.remu ⟨3, 4, 5⟩) 7 0 0 = some 7 := by decide
theorem test_andn : g3 (.andn ⟨3, 4, 5⟩) 0xC 0xA 0 = some 4 := by decide
theorem test_orn : g3 (.orn ⟨3, 4, 5⟩) 0 0xA 0 = some 0xFFFFFFFFFFFFFFF5 := by decide
theorem test_shl_by_64 : g3 (.shl ⟨3, 4, 5⟩) 1 64 0 = some 1 := by decide
theorem test_shr_by_65 : g3 (.shr ⟨3, 4, 5⟩) 0x8000000000000000 65 0 = some 0x4000000000000000 := by decide
theorem test_sar : g3 (.sar ⟨3, 4, 5⟩) 0x8000000000000000 63 0 = some (-1) := by decide
theorem test_rotl : g3 (.rotl ⟨3, 4, 5⟩) 1 60 0 = some 0x1000000000000000 := by decide
theorem test_min_signed : g3 (.min ⟨3, 4, 5⟩) (-1) 1 0 = some (-1) := by decide
theorem test_minu : g3 (.minu ⟨3, 4, 5⟩) (-1) 1 0 = some 1 := by decide
theorem test_slt : g3 (.slt ⟨3, 4, 5⟩) (-1) 1 0 = some 1 := by decide
theorem test_sltu : g3 (.sltu ⟨3, 4, 5⟩) (-1) 1 0 = some 0 := by decide
theorem test_sel : g3 (.sel ⟨3, 4, 5⟩) 8 9 0 = some 9 := by decide
theorem test_clz_zero : g3 (.clz ⟨3, 4⟩) 0 0 0 = some 64 := by decide
theorem test_clz : g3 (.clz ⟨3, 4⟩) 1 0 0 = some 63 := by decide
theorem test_ctz : g3 (.ctz ⟨3, 4⟩) 0x8000000000000000 0 0 = some 63 := by decide
theorem test_popc : g3 (.popc ⟨3, 4⟩) 0xF0F 0 0 = some 8 := by decide
theorem test_bswap : g3 (.bswap ⟨3, 4⟩) 0x0102030405060708 0 0 = some 0x0807060504030201 := by decide
theorem test_sextH : g3 (.sextH ⟨3, 4⟩) 0x18000 0 0 = some 0xFFFFFFFFFFFF8000 := by decide
theorem test_zextW : g3 (.zextW ⟨3, 4⟩) (-1) 0 0 = some 0xFFFFFFFF := by decide
/-- 10_scalar_notes: a key equal to the identifier 2^32 gives the constant of R110. -/
theorem test_hashm : g3 (.hashm ⟨3, 4, 5⟩) 0x100000000 0x100000000 0 = some 0xD6E8FEB86659FD93 := by decide
theorem test_addi : g3 (.addi ⟨3, 4, 0x7FF⟩) 0 0 0 = some (-1) := by decide
theorem test_sltiu : g3 (.sltiu ⟨3, 4, 0x7FF⟩) 5 0 0 = some 1 := by decide
theorem test_andiLong : g3 (.andiLong ⟨3, 4, 0x80000000⟩) (-1) 0 0 = some 0xFFFFFFFF80000000 := by decide
theorem test_lui : g3 (.lui ⟨3, 128⟩) 0 0 0 = some 0x40000 := by decide
theorem test_addpc : g3 (.addpc ⟨3, -1⟩) 0 0 0 = some 0xFFFC := by decide
theorem test_luiH : g3 (.luiH 3 0x105) 0 0 0 = some 0x10500000000 := by decide
/-- 10_scalar_notes: fields of 0x8000_0000_0000_0000. -/
theorem test_bfx : wordGives 0x220C2703 0x8000000000000000 0 0 3 = some 0xFFFFFFFFFFFFFFF8 := by decide
theorem test_bfxu : wordGives 0x260C2703 0x8000000000000000 0 0 3 = some 8 := by decide
theorem test_field_too_long : decodeTableWord 32 0x220C2743 = none := by decide
theorem test_bfi : wordGives 0x280C2203 0xF5 0 (-1) 3 = some 0xFFFFFFFFFFFFF5FF := by decide

/-- 10_scalar_notes, floating-point edges; the words are R116's, R118's, R120's and R123's majors with rd 3, ra 4, rb 5. -/
theorem test_fdiv_by_minus_zero :
    wordGives 0x480C2058 0x3FF0000000000000 0x8000000000000000 0 3 = some 0xFFF0000000000000 ∧
    wordFlags 0x480C2058 0x3FF0000000000000 0x8000000000000000 0 = some [false, true, false, false, false] := by decide
theorem test_fsqrt_minus_zero : wordGives 0x4A0C2000 0x80000000 0 0 3 = some 0x80000000 := by decide
theorem test_fma_zero_times_infinity :
    wordGives 0x460C2050 0 0x7F800000 0x7FC00001 3 = some 0x7FC00000 ∧
    wordFlags 0x460C2050 0 0x7F800000 0x7FC00001 = some [true, false, false, false, false] := by decide
theorem test_fadd_rdn : wordGives 0x400C205C 0x3FF0000000000000 0xBFF0000000000000 0 3 = some 0x8000000000000000 := by decide
theorem test_fmin_number_wins : wordGives 0x4C0C2050 0x7FC00001 0x40000000 0 3 = some 0x40000000 := by decide
theorem test_fmin_signalling :
    wordGives 0x4C0C2050 0x7FA00000 0x40000000 0 3 = some 0x7FC00000 ∧
    wordFlags 0x4C0C2050 0x7FA00000 0x40000000 0 = some [true, false, false, false, false] := by decide
theorem test_fcmp_lt_quiet :
    wordGives 0x4E0C2051 0x7FC00001 0x40000000 0 3 = some 0 ∧
    wordFlags 0x4E0C2051 0x7FC00001 0x40000000 0 = some [true, false, false, false, false] := by decide
theorem test_fround_tie :
    g3 (.fround ⟨3, 4, false, 0⟩) 0x40200000 0 0 = some 0x40000000 ∧
    g3 (.fround ⟨3, 4, false, 1⟩) 0xC0200000 0 0 = some 0xC0400000 := by decide
theorem test_fround_keeps_sign : g3 (.fround ⟨3, 4, false, 3⟩) 0xBF000000 0 0 = some 0x80000000 := by decide
theorem test_fsgn_abs : wordGives 0x4C0C200A 0xFFF0000000000001 0 0 3 = some 0x7FF0000000000001 := by decide
theorem test_fclass : g3 (.fclass ⟨3, 4, false⟩) 0 0 0 = some 0x10 := by decide

/-- 08_numbers_notes, conversions of g4 into g5. -/
theorem test_fcvt_e4_tie : wordGives 0x52142400 0x43E80000 0 0 5 = some 0x7E := by decide
theorem test_fcvt_e4_overflow :
    wordGives 0x52142400 0x43E88000 0 0 5 = some 0x7F ∧
    wordFlags 0x52142400 0x43E88000 0 0 = some [false, false, true, false, true] := by decide
theorem test_fcvt_e4s : wordGives 0x52142500 0x43E88000 0 0 5 = some 0x7E := by decide
theorem test_fcvt_e4_rtz : wordGives 0x52142402 0x43EF8000 0 0 5 = some 0x7E := by decide
theorem test_fcvt_bf : wordGives 0x52142180 0x3F808000 0 0 5 = some 0x3F80 ∧ wordGives 0x52142181 0x3F808000 0 0 5 = some 0x3F81 := by
  decide
theorem test_fcvt_h_rup : wordGives 0x52142103 0xC788B800 0 0 5 = some 0xFBFF := by decide
theorem test_fcvt_h_underflow :
    wordGives 0x52142100 0x33000000 0 0 5 = some 0 ∧
    wordFlags 0x52142100 0x33000000 0 0 = some [false, false, false, true, true] := by decide
theorem test_fcvt_h_rna : wordGives 0x52142101 0x33000000 0 0 5 = some 1 := by decide
theorem test_fcvt_wu : wordGives 0x52142280 0xBF000000 0 0 5 = some 0 := by decide
theorem test_fcvt_w_clamp :
    wordGives 0x52142202 0x4F800000 0 0 5 = some 0x7FFFFFFF ∧
    wordFlags 0x52142202 0x4F800000 0 0 = some [true, false, false, false, false] := by decide
theorem test_fcvt_refused : decodeTableWord 32 0x52142050 = none ∧ decodeTableWord 32 0x52142000 = none := by decide

/-! ### For each statement, states and operands that meet its premises: scalar instructions, traps and control registers -/

/-- A thread whose window has 128 registers of good parity executes any instruction word. -/
theorem executes_of {s : State} {th : Thread} (uses reads : List Reg) (h : s.threadAt s.cur = some th) (hw : th.win.wsize = 16)
    (hb : (s.coreAt s.cur.core).rfBad = []) (hs : th.dbg.ss = false) (hl : th.stepsLeft = none) :
    Executes s th uses reads := by
  refine ⟨h, fun r _ => ?_, fun r _ _ => ?_, .inl hs, hl⟩
  · rw [hw]; exact r.isLt
  · rw [hb]; exact List.not_mem_nil

theorem ready_executes {th : Thread} {k : Core} {x : Station} (uses reads : List Reg) (hw : th.win.wsize = 16)
    (hb : k.rfBad = []) (hs : th.dbg.ss = false) (hl : th.stepsLeft = none) : Executes (ready th k x) th uses reads :=
  executes_of uses reads (aget_aset_self _ _ _) hw hb hs hl

theorem user_executes (rf : Assoc Word) (uses reads : List Reg) : Executes (regs rf) user uses reads :=
  ready_executes uses reads rfl rfl rfl rfl

theorem super_executes (rf : Assoc Word) (uses reads : List Reg) :
    Executes (ready super (withRegs rf) Station.reset) super uses reads :=
  ready_executes uses reads rfl rfl rfl rfl

theorem firm_executes (rf : Assoc Word) (uses reads : List Reg) :
    Executes (ready firm (withRegs rf) Station.reset) firm uses reads :=
  ready_executes uses reads rfl rfl rfl rfl

theorem witness_IntegerArithmetic :
    Executes (regs [(4, 7)]) user [3, 4, 5] [3, 4, 5] ∧ (regs [(4, 7)]).g 5 = 0 ∧
    Executes (regs [(4, 0x8000000000000000), (5, -1)]) user [3, 4, 5] [4, 5] ∧
    (regs [(4, 0x8000000000000000), (5, -1)]).g 4 = 0x8000000000000000#64 ∧
    (regs [(4, 0x8000000000000000), (5, -1)]).g 5 = 0xFFFFFFFFFFFFFFFF#64 ∧
    Executes (regs [(4, -7), (5, 2)]) user [3, 4, 5] [4, 5] ∧ (regs [(4, -7), (5, 2)]).g 5 ≠ 0 := by
  refine ⟨user_executes _ _ _, ?_, user_executes _ _ _, ?_, ?_, user_executes _ _ _, ?_⟩ <;> decide

theorem witness_LogicalAndShiftBits :
    Executes (regs [(4, 1), (5, 64)]) user [3, 4, 5] [4, 5] ∧ Executes (regs [(4, 1), (5, 63)]) user [3, 4] [4] :=
  ⟨user_executes _ _ _, user_executes _ _ _⟩

theorem witness_CompareSelectCountHash :
    Executes (regs [(3, 1)]) user [3, 4, 5] [3, 4, 5] ∧ Executes (regs []) user [3, 4] [4] :=
  ⟨user_executes _ _ _, user_executes _ _ _⟩

theorem witness_ImmediatesAndFields :
    Executes (regs []) user [3, 4] [4] ∧ Executes (regs []) user [3] [] ∧ Executes (regs []) user [3, 4] [3, 4] ∧
    (let r : RF := ⟨3, 4, 0, 63⟩; r.pos.toNat + (r.lenm1.toNat + 1) ≤ 64) ∧
    (let r : RF := ⟨3, 4, 63, 0⟩; r.pos.toNat + (r.lenm1.toNat + 1) ≤ 64) := by
  refine ⟨user_executes _ _ _, user_executes _ _ _, user_executes _ _ _, ?_, ?_⟩ <;> decide

/-- A thread whose dynamic rounding mode is no rounding mode. -/
def badRounding : Thread := { user with fcsr := { user.fcsr with rm := 5 } }

theorem witness_FloatingPointResults :
    roundingBad user.fcsr 7 = false ∧ roundingBad badRounding.fcsr 4 = false ∧ Executes (regs []) user [3, 4, 5] [3, 4, 5] ∧
    Executes (regs []) user [3, 4, 5] [4, 5] ∧ Executes (regs []) user [3, 4] [4] ∧ 5 ≤ badRounding.fcsr.rm.toNat ∧
    Executes (ready badRounding Core.reset Station.reset) badRounding [3, 4, 5] [] ∧
    Executes (ready badRounding Core.reset Station.reset) badRounding [3, 4] [] := by
  refine ⟨?_, ?_, user_executes _ _ _, user_executes _ _ _, user_executes _ _ _, ?_, ready_executes _ _ rfl rfl rfl rfl,
    ready_executes _ _ rfl rfl rfl rfl⟩ <;> decide

/-- Encodings of each class in FP32: a signalling and a quiet NaN, infinities, zeros and finite numbers of both signs. -/
theorem witness_FloatingPointSpecialOperands :
    (decodeF Fmt.fp32 0x7F800001).cls = .snan ∧ (decodeF Fmt.fp32 0x7FC00000).cls = .qnan ∧
    (decodeF Fmt.fp32 0x7F800000).cls = .inf ∧ (decodeF Fmt.fp32 0xFF800000).cls = .inf ∧
    (decodeF Fmt.fp32 0xFF800000).neg = true ∧ (decodeF Fmt.fp32 0x7F800000).neg = false ∧
    (decodeF Fmt.fp32 0).cls = .zero ∧ (decodeF Fmt.fp32 0x80000000).cls = .zero ∧
    (decodeF Fmt.fp32 0x3F800000).cls = .finite ∧ (decodeF Fmt.fp32 0x80000001).cls = .finite ∧
    (decodeF Fmt.fp32 0x80000001).neg = true ∧ Fmt.e4m3.specials ≠ .ieee ∧ Fmt.e5m2.specials = .ieee := by decide

/-- Numbers of which one is below the other, two zeros of opposite sign, and integers that fcvt reads. -/
theorem witness_FloatingPointNumbers :
    (decodeF Fmt.fp32 0x80000000).isNumber ∧ (decodeF Fmt.fp32 0x3F800000).isNumber ∧
    (decodeF Fmt.fp32 0x80000000).value < (decodeF Fmt.fp32 0x3F800000).value ∧
    (decodeF Fmt.fp32 0x80000000).value = (decodeF Fmt.fp32 0).value ∧ (decodeF Fmt.fp32 0x80000000).neg = true ∧
    (decodeF Fmt.fp32 0).neg = false ∧ (FVal.ofInt (-1)).isNumber ∧ (FVal.ofInt 0).isNumber := by
  have h0 : decodeF Fmt.fp32 0 = ⟨.zero, false, 0, 0⟩ := by decide
  have hm : decodeF Fmt.fp32 0x80000000 = ⟨.zero, true, 0, 0⟩ := by decide
  have h1 : decodeF Fmt.fp32 0x3F800000 = ⟨.finite, false, 0x800000, -23⟩ := by decide
  rw [h0, hm, h1]
  refine ⟨.inr rfl, .inl rfl, ?_, ?_, rfl, rfl, .inl (by decide), .inr (by decide)⟩ <;> norm_num [FVal.value]

theorem witness_BranchesAndJumps :
    Executes (regs []) user [1] [] ∧ Executes (regs []) user [3, 4] [3, 4] ∧ (regs [(4, 0x1000)]).g 4 = 0x1000 ∧
    Executes (regs [(4, 0x1000)]) user [4] [4] ∧ Executes (regs [(4, 0x1002)]) user [4, 4] [4] ∧
    ((regs [(4, 0x1002)]).g 4).toNat % 4 ≠ 0 := by
  refine ⟨user_executes _ _ _, user_executes _ _ _, ?_, user_executes _ _ _, user_executes _ _ _, ?_⟩ <;> decide

/-- A thread in slot 9 that waits for a placement, with a window of 16 registers, beside a thread th in slot 0. -/
def waiter (lent : Bool) : Thread :=
  let w := Thread.create 16 2 .user 0x10000 0x20000 1 1
  { w with wait := some .work, win := { w.win with lent := lent } }
def pair (th : Thread) (lent : Bool) (rf : Assoc Word) : State :=
  ready th { withRegs rf with threads := [(9, waiter lent)], rotLen := 1 } Station.reset
def holder : Thread := { user with win := { user.win with held := true, bslot := 9 } }

theorem witness_WindowsLentAndHeld :
    (Executes (pair user false [(4, 9)]) user [3, 4] [4] ∧ ((pair user false [(4, 9)]).g 4).toNat ≤ 63 ∧
      user.win.held = false ∧ (pair user false [(4, 9)]).idle ⟨0, 9⟩ = true) ∧
    (63 < ((pair user false [(4, 64)]).g 4).toNat ∧ (pair user false [(4, 8)]).idle ⟨0, 8⟩ = false) ∧
    (Executes (pair holder true []) holder [3] [] ∧ Executes (pair holder true []) holder [] [] ∧ holder.win.held = true ∧
      (pair holder true []).threadAt ⟨0, 9⟩ = some (waiter true) ∧ (⟨0, 9⟩ : ThreadId) ≠ (pair holder true []).cur ∧
      15 < 8 * (waiter true).win.wsize ∧ 8 * (waiter true).win.wsize ≤ 16 ∧
      (waiter true).rfEntry 15 ∉ ((pair holder true []).coreAt 0).rfBad) ∧
    (let s := ready holder { Core.reset with threads := [(9, waiter true)], rfBad := [143] } Station.reset
     s.threadAt ⟨0, 9⟩ = some (waiter true) ∧ (waiter true).rfEntry 15 ∈ (s.coreAt 0).rfBad) := by
  refine ⟨⟨ready_executes _ _ rfl rfl rfl rfl, ?_, rfl, ?_⟩, ⟨?_, ?_⟩, ⟨ready_executes _ _ rfl rfl rfl rfl,
    ready_executes _ _ rfl rfl rfl rfl, rfl, rfl, ?_, ?_, ?_, ?_⟩, ?_⟩ <;> decide

/-- A user thread with every interrupt enabled, with a mailbox value and two messages pending (R220). -/
def listener : Thread :=
  { user with status := { user.status with ie := true, ien := 0x1F }
              inbox := { user.inbox with msgs := [⟨0, 0, 0, 0, [0], false, 1, 0⟩] } }
def listening (page : ControlPage) (th : Thread) : State :=
  { ready th Core.reset Station.reset with ctxs := [(1, { context with page := page })] }

theorem witness_TrapAndInterruptEntry :
    (regs []).threadAt ⟨0, 0⟩ = some user ∧ user.dbg.tr = false ∧ user.stepsLeft = none ∧ user.wait = none ∧
    (let s := listening { ControlPage.reset with knell := [1] } listener
     (s.pending ⟨0, 0⟩ listener &&& listener.status.ien).getLsbD 2 = true ∧ s.threadRuns ⟨0, 0⟩ = true) ∧
    (let s := listening { ControlPage.reset with migrate := [1] } listener
     let on := s.pending ⟨0, 0⟩ listener &&& listener.status.ien
     on.getLsbD 2 = false ∧ on.getLsbD 3 = true) ∧
    (let s := listening { ControlPage.reset with mailbox := [1] } listener
     let on := s.pending ⟨0, 0⟩ listener &&& listener.status.ien
     on.getLsbD 2 = false ∧ on.getLsbD 3 = false ∧ on.getLsbD 4 = true) ∧
    (let s := { listening { ControlPage.reset with timer := 1 } listener with time := 1 }
     let on := s.pending ⟨0, 0⟩ listener &&& listener.status.ien
     on.getLsbD 2 = false ∧ on.getLsbD 3 = false ∧ on.getLsbD 4 = false ∧ on.getLsbD 0 = true) ∧
    (let s := listening ControlPage.reset listener
     let on := s.pending ⟨0, 0⟩ listener &&& listener.status.ien
     on.getLsbD 2 = false ∧ on.getLsbD 3 = false ∧ on.getLsbD 4 = false ∧ on.getLsbD 0 = false ∧ on.getLsbD 1 = true) ∧
    (∀ w ∈ [Wait.release 2, .semp 5, .bar 0, .interrupt],
      let th : Thread := { listener with wait := some w }
      let s := listening ControlPage.reset th
      s.threadAt ⟨0, 0⟩ = some th ∧ th.status.ie = true ∧ th.halted = false ∧ th.win.lent = false ∧ s.threadRuns ⟨0, 0⟩ = true ∧
      s.pending ⟨0, 0⟩ th &&& th.status.ien ≠ 0 ∧ (w.abandoned = true ↔ w = .release 2 ∨ w = .semp 5)) := by
  decide

/-- A user thread under single step, without and with the debugger's bit; one that holds the window of slot 9. -/
def stepped (dbg : Bool) : Thread := { user with dbg := { user.dbg with ss := true, dbg := dbg } }
def borrower : Thread := { user with win := { user.win with bslot := 9 } }
def returns (tpc : Word) : Thread := { super with trap := { super.trap with tpc := tpc } }
def alarmed : Thread := { firm with inbox := listener.inbox }

theorem witness_SystemInstructions :
    Executes (regs []) user [] [] ∧ Executes (regs []) user [4] [4] ∧ (∀ n, user.wait ≠ some (.semp n)) ∧
    (regs []).g 4 = 0 ∧ (regs [(4, 1)]).g 4 ≠ 0 ∧
    Executes (ready (returns 4) Core.reset Station.reset) (returns 4) [] [] ∧ (returns 4).trap.tpc.toNat % 4 = 0 ∧
    Executes (ready (returns 6) Core.reset Station.reset) (returns 6) [] [] ∧ (returns 6).trap.tpc.toNat % 4 ≠ 0 ∧
    (returns 4).status.mode ≠ .user ∧ Executes (ready alarmed Core.reset Station.reset) alarmed [] [] ∧
    (ready alarmed Core.reset Station.reset).pending ⟨0, 0⟩ alarmed ≠ 0 ∧
    Executes (ready firm Core.reset Station.reset) firm [] [] ∧
    (ready firm Core.reset Station.reset).pending ⟨0, 0⟩ firm = 0 ∧ firm.status.mode = .machine ∧
    (ready (stepped true) Core.reset Station.reset).threadAt ⟨0, 0⟩ = some (stepped true) ∧ (stepped false).dbg.dbg = false ∧
    (stepped false).dbg.ss = true ∧ (stepped false).win.wsize ≠ 0 ∧
    (let s := ready borrower Core.reset Station.reset
     borrower.win.bslot ≠ s.cur.slot ∧ s.threadAt s.cur = some borrower ∧ borrower.status.mode = .user ∧
     (threadAfter (.add ⟨3, 4, 5⟩) s).map (fun u => (u.status.mode, u.wait)) = some (.user, none)) := by
  refine ⟨user_executes _ _ _, user_executes _ _ _, by intro n h; simp [user, Thread.create] at h, by decide, by decide,
    ready_executes _ _ rfl rfl rfl rfl, by decide, ready_executes _ _ rfl rfl rfl rfl, by decide, by decide,
    ready_executes _ _ rfl rfl rfl rfl, by decide, ready_executes _ _ rfl rfl rfl rfl, by decide, rfl, rfl, rfl, rfl, by decide, by decide⟩

/-- A thread with a window of 8 registers. -/
def narrow : Thread := Thread.create 0 1 .user 0x10000 0x20000 1 1
/-- The entry of g4 has bad parity. -/
def parityState : State := ready narrow { Core.reset with rfBad := [4] } Station.reset

theorem witness_PrivilegeAndRegisterFaults :
    (regs []).threadAt (regs []).cur = some user ∧ user.status.mode = .user ∧ user.status.mode ≠ .machine ∧
    parityState.threadAt parityState.cur = some narrow ∧ 8 * narrow.win.wsize ≤ (8 : Reg).toNat ∧
    ¬ 8 * narrow.win.wsize ≤ (7 : Reg).toNat ∧ (4 : Reg) ≠ 0 ∧ 4 ∈ (parityState.coreAt parityState.cur.core).rfBad ∧
    5 ∉ (parityState.coreAt parityState.cur.core).rfBad ∧ ModeAdmits (.add ⟨3, 4, 5⟩) narrow ∧
    (wordRegs (.add ⟨3, 4, 5⟩) = ([3, 4, 5], [4, 5]) ∧ RoundingAdmits (.add ⟨3, 4, 5⟩) narrow) ∧
    ((8 : Reg) ∈ (wordRegs (.add ⟨3, 8, 5⟩)).1) ∧
    (let s := ready holder { Core.reset with threads := [(9, waiter true)], rfBad := [4] } Station.reset
     s.threadAt s.cur = some holder ∧ (4 : Reg).toNat < 8 * holder.win.wsize ∧ 4 ∈ (s.coreAt 0).rfBad ∧ holder.win.held = true ∧
     s.threadAt ⟨0, holder.win.bslot⟩ = some (waiter true) ∧ (15 : Reg).toNat < 8 * (waiter true).win.wsize) := by
  refine ⟨rfl, rfl, by decide, rfl, by decide, by decide, by decide, by decide, by decide, trivial, ⟨rfl, trivial⟩, by decide, ?_⟩
  decide

theorem witness_ControlRegisters :
    Executes (regs []) user [3] [] ∧ Executes (ready super (withRegs []) Station.reset) super [3] [] ∧
    super.status.mode ≠ .user ∧ Executes (regs [(4, 1)]) user [4] [4] ∧
    Executes (ready firm (withRegs []) Station.reset) firm [4] [4] ∧ firm.status.mode = .machine :=
  ⟨user_executes _ _ _, super_executes _ _ _, by decide, user_executes _ _ _, firm_executes _ _ _, rfl⟩

/-- An access of the thread of slot 0. -/
def access (kind : AccessKind) (sp va counter : Nat) (stage : Stage) : Access :=
  { id := 5, issuer := .thread ⟨0, 0⟩, kind := kind, sp := sp, va := va, loc := va, n := 8, x := 7, y := 0, rd := 3
    sext := false, counter := counter, pc := 0x10000, user := true, ctx := 1, tag := 1, lu := false, issued := 0
    stage := stage, cancel := none, port := none, sent := 0 }
/-- The small machine with one access under way, and a core 1 open to its peers or not. -/
def peers (opened : Bool) (x : Access) : State :=
  { regs [] with cores := [(0, (regs []).coreAt 0), (1, { Core.reset with peersOpen := opened })], accesses := [x] }

/-- An engine's agent at station 0 in the small machine's context, and a forwarded and a late update of its. -/
def agentOf (who : HeldBy) : RowAgent := ⟨0, 1, 1, true, 0, who, none, 0⟩
def replica (pa since : Option Nat) (id : Nat) : PendingReplica :=
  { id := id, agent := agentOf (.replica id), va := 0x100030, pa := pa, heldSince := since, add := true, dbl := false
    row := List.replicate 16 0, applied := 0, delta := 9, cmd := 4, position := 0, failed := none }
def lateRow (id cmd pa : Nat) : LateUpdate :=
  { id := id, cmd := cmd, position := 0, agent := agentOf (.position 0 cmd 0), va := 0x100030, pa := pa, completed := none
    add := true, dbl := false, delta := 0, row := List.replicate 16 0 }

theorem witness_CodeAndTranslationInvalidation :
    Executes (regs [(5, 32767)]) user [4, 5] [4, 5] ∧ Executes (regs []) user [] [] ∧
    Executes (ready super (withRegs []) Station.reset) super [4, 5] [4, 5] ∧ super.status.mode ≠ .user ∧
    (∀ id, ¬ (ready super (withRegs []) Station.reset).Through 1 0 0 id) ∧
    (peers true (access .load 2 0x10000 0 .filling)).Through 1 1 1 5 ∧
    ({ regs [] with lates := [lateRow 5 4 0x20030] } : State).Through 1 16 1 5 ∧
    ({ regs [] with replicas := [replica (some 0x20030) none 5] } : State).Through 1 16 1 5 ∧
    (let th : Thread := { super with wait := some (.xlat [5]) }
     let s := ready th Core.reset Station.reset
     s.threadAt ⟨0, 0⟩ = some th ∧ ¬ s.Incomplete [5] ∧
     ({ s with accesses := [access .load 2 0x10000 0 .filling] } : State).Incomplete [5] ∧
     ¬ ({ s with accesses := [access .load 2 0x10000 0 (.answered 0 0 0 0)] } : State).Incomplete [5] ∧
     ({ s with lates := [lateRow 5 4 0x20030] } : State).Incomplete [5]) := by
  refine ⟨user_executes _ _ _, user_executes _ _ _, super_executes _ _ _, by decide, ?_, .inl ⟨_, List.mem_singleton.mpr rfl,
    rfl, rfl, rfl, .inl rfl, .inr (.inl ⟨by decide, by decide⟩)⟩, .inr (.inl ⟨_, List.mem_singleton.mpr rfl, rfl, rfl,
    .inr (.inl ⟨by decide, by decide⟩)⟩), .inr (.inr ⟨_, List.mem_singleton.mpr rfl, rfl, rfl, by decide, rfl,
    .inr (.inl ⟨by decide, by decide⟩)⟩), rfl, ?_, ?_, ?_, ?_⟩
  · rintro _ (⟨x, h, _⟩ | ⟨x, h, _⟩ | ⟨x, h, _⟩) <;> exact absurd h List.not_mem_nil
  · rintro (⟨x, h, _⟩ | ⟨x, h, _⟩ | ⟨x, h, _⟩) <;> exact absurd h List.not_mem_nil
  · exact .inl ⟨_, List.mem_singleton.mpr rfl, List.mem_singleton.mpr rfl, fun _ _ _ _ h => nomatch h⟩
  · rintro (⟨x, h, _, n⟩ | ⟨x, h, _⟩ | ⟨x, h, _⟩)
    · obtain rfl := List.mem_singleton.mp h
      exact n _ _ _ _ rfl
    all_goals exact absurd h List.not_mem_nil
  · exact .inr (.inl ⟨_, List.mem_singleton.mpr rfl, List.mem_singleton.mpr rfl⟩)

/-! ### Premises of the statements about memory and synchronisation -/

theorem ready_quiet {th : Thread} (mask : Nat) (h1 : th.k1 = 0 ∧ th.fail1 = none) (h2 : th.k2 = 0 ∧ th.fail2 = none)
    (h3 : th.k3 = 0 ∧ th.fail3 = none) : Thread.quiet th mask := by
  intro k hk _
  simp only [List.mem_cons, List.not_mem_nil, or_false] at hk
  rcases hk with rfl | rfl | rfl
  · exact h1
  · exact h2
  · exact h3

theorem release_of {s : State} {th : Thread} (scope : Nat) (ha : s.accesses = []) (h1 : th.fail1 = none) (h2 : th.fail2 = none)
    (h3 : th.fail3 = none) : ReleaseFree s th scope := by
  refine ⟨fun y hy => absurd (ha ▸ hy) List.not_mem_nil, fun j hj f hf => ?_⟩
  simp only [List.mem_cons, List.not_mem_nil, or_false] at hj
  rcases hj with rfl | rfl | rfl
  · exact absurd (h1.symm.trans hf) (by simp)
  · exact absurd (h2.symm.trans hf) (by simp)
  · exact absurd (h3.symm.trans hf) (by simp)

theorem ready_unwatched {th : Thread} {k : Core} {x : Station} (sp a n kind : Nat) (h : k.watches = []) :
    Unwatched (ready th k x) th sp a n kind := by
  intro _ u _ _ w hw
  have : ((ready th k x).coreAt (ready th k x).cur.core).watches = k.watches := rfl
  rw [this, h] at hw
  exact absurd hw (by simp [aget])

theorem ready_own {th : Thread} {k : Core} {x : Station} {a n kind : Nat} (ha : a % n = 0) (hi : a < 0x40000)
    (hl : k.locks = []) (hw : k.watches = []) (hp : k.park = []) (hh : th.halted = false) : OwnAccess (ready th k x) th a n kind := by
  have hk : ((ready th k x).coreAt (ready th k x).cur.core).locks = k.locks := rfl
  have hq : ((ready th k x).coreAt (ready th k x).cur.core).park = k.park := rfl
  refine ⟨ha, hi, ?_, ready_unwatched _ _ _ _ hw, fun y hy => absurd hy List.not_mem_nil, fun i hm => ?_, hh, rfl⟩
  · simp [Core.locked, hk, hl]
  · rw [hq, hp] at hm; exact absurd hm List.not_mem_nil

/-- Registers whose g4 is a and g3 is v, with the doubleword at 0x3FFF8 empty or full. -/
def spadCore (a v : Word) (empty : List Nat) : Core := { withRegs [(4, a), (3, v)] with spadEmpty := empty }

/-- The last byte and the last doubleword of the scratchpad. -/
theorem witness_OwnScratchpadLoads :
    (let s := ready user (spadCore 0x3FFFF 0 []) Station.reset
     Executes s user [3, 4] [4] ∧ Thread.quiet user 0 ∧ OwnAccess s user 0x3FFFF 1 1) ∧
    (let s := ready user (spadCore 0x3FFF8 0 []) Station.reset
     OwnAccess s user 0x3FFF8 8 1 ∧ (s.coreAt 0).badParity 0x3FFF8 8 = false ∧ (effAddr (s.g 4) 0 8).toNat = 0x3FFF8) :=
  ⟨⟨ready_executes _ _ rfl rfl rfl rfl, ready_quiet _ ⟨rfl, rfl⟩ ⟨rfl, rfl⟩ ⟨rfl, rfl⟩,
    ready_own (by decide) (by decide) rfl rfl rfl rfl⟩, ready_own (by decide) (by decide) rfl rfl rfl rfl, by decide, by decide⟩

theorem witness_OwnScratchpadStores :
    let s := ready user (spadCore 0x3FFF8 7 []) Station.reset
    Executes s user [3, 4] [4, 3] ∧ Thread.quiet user 0 ∧ OwnAccess s user 0x3FFF8 8 2 ∧ OwnAccess s user 0x3FFF8 4 2 ∧
    (s.coreAt 0).badParity 0x3FFF8 4 = false :=
  ⟨ready_executes _ _ rfl rfl rfl rfl, ready_quiet _ ⟨rfl, rfl⟩ ⟨rfl, rfl⟩ ⟨rfl, rfl⟩,
    ready_own (by decide) (by decide) rfl rfl rfl rfl, ready_own (by decide) (by decide) rfl rfl rfl rfl, by decide⟩

theorem witness_OwnFullEmptyOperations :
    (let s := ready user (spadCore 0x3FFF8 7 []) Station.reset
     Executes s user [3, 4] [4, 3] ∧ (s.coreAt 0).isFull 0x3FFF8 = true ∧ (s.coreAt 0).badParity 0x3FFF8 8 = false ∧
     OwnAccess s user 0x3FFF8 8 3 ∧ OwnAccess s user 0x3FFF8 8 1 ∧ OwnAccess s user 0x3FFF8 8 2 ∧
     (s.coreAt 0).park.length < 96) ∧
    (let s := ready user (spadCore 0x3FFF8 7 [0x7FFF]) Station.reset
     (s.coreAt 0).isFull 0x3FFF8 = false ∧ (s.coreAt 0).badParity 0x3FFF8 8 = false ∧ OwnAccess s user 0x3FFF8 8 3 ∧
     OwnAccess s user 0x3FFF8 8 1) :=
  ⟨⟨ready_executes _ _ rfl rfl rfl rfl, by decide, by decide, ready_own (by decide) (by decide) rfl rfl rfl rfl,
    ready_own (by decide) (by decide) rfl rfl rfl rfl, ready_own (by decide) (by decide) rfl rfl rfl rfl, by decide⟩,
    by decide, by decide, ready_own (by decide) (by decide) rfl rfl rfl rfl, ready_own (by decide) (by decide) rfl rfl rfl rfl⟩

theorem witness_OwnAtomics :
    let s := ready user (spadCore 0x3FFF8 7 []) Station.reset
    let m : AmoOp := ⟨true, 2, 4, 3, 0, 3⟩
    OwnAccess s user (s.g m.a).toNat 8 3 ∧ (s.coreAt 0).badParity 0x3FFF8 8 = false ∧ ReleaseFree s user m.scope.toNat ∧
    Executes s user [m.t, m.a] [m.t, m.a] ∧ Executes s user [m.t, m.t + 1, m.a] [m.t, m.t + 1, m.a] :=
  ⟨ready_own (by decide) (by decide) rfl rfl rfl rfl, by decide, release_of _ rfl rfl rfl rfl,
    ready_executes _ _ rfl rfl rfl rfl, ready_executes _ _ rfl rfl rfl rfl⟩

/-- Misaligned by one, first byte behind the own scratchpad and behind the last core's, bit 56 of a global address, and a range
lock over the last doubleword. -/
theorem witness_AddressChecks :
    (let s := ready user (spadCore 1 0 []) Station.reset
     Executes s user [3, 4] [4, 3] ∧ Thread.quiet user 0 ∧ (effAddr (s.g 4) 0 8).toNat % 8 ≠ 0) ∧
    (effAddr ((ready user (spadCore 0x40000 0 []) Station.reset).g 4) 0 8).toNat = 2 ^ 18 ∧
    (effAddr ((ready user (spadCore 0x1800000 0 []) Station.reset).g 4) 0 8).toNat = 96 * 2 ^ 18 ∧
    2 ^ 56 ≤ (effAddr ((ready user (spadCore 0x100000000000000 0 []) Station.reset).g 4) 0 8).toNat ∧
    (∃ l ∈ ((ready user { spadCore 0x3FFF8 0 [] with locks := [⟨9, 0x3FFF8, 8, some 0⟩] } Station.reset).coreAt 0).locks,
      (∀ t, l.freed = some t → 0 ≤ t) ∧ overlaps l.addr l.len (spadNumber 0 0 0x3FFF8) 8 = true) ∧
    (let th : Thread := { user with k1 := 1 }
     Executes (ready th (spadCore 0 0 []) Station.reset) th [3, 4] [4, 3] ∧ th.counter 1 ≠ 0) ∧
    (let th : Thread := { user with fail1 := some ⟨6, 0x10000, 0x10000, true, 2⟩ }
     let s := ready th (spadCore 0 0 []) Station.reset
     Executes s th [3, 4] [4, 3] ∧ th.counter 1 = 0 ∧ th.failure 1 = some ⟨6, 0x10000, 0x10000, true, 2⟩ ∧
     Executes s th [3, 4] [3, 4] ∧ s.accesses = [] ∧ ∀ j ∈ [1, 2, 3], j ≠ 1 → th.failure j = none) ∧
    (let x := access .store 1 0x7FFF8 1 .travelling
     let s := peers true x
     Executes s user [3, 4] [3, 4] ∧ Executes s user [3, 4, 4] [3, 4, 4] ∧ x ∈ s.accesses ∧ x.postedBy s.cur = true ∧
     s.storeScope s.cur x ≤ 2) := by
  refine ⟨⟨ready_executes _ _ rfl rfl rfl rfl, ready_quiet _ ⟨rfl, rfl⟩ ⟨rfl, rfl⟩ ⟨rfl, rfl⟩, by decide⟩, by decide, by decide,
    by decide, ⟨_, List.mem_singleton.mpr rfl, fun _ _ => Nat.zero_le _, by decide⟩, ⟨ready_executes _ _ rfl rfl rfl rfl, by decide⟩,
    ⟨ready_executes _ _ rfl rfl rfl rfl, rfl, rfl, ready_executes _ _ rfl rfl rfl rfl, rfl, by decide⟩,
    executes_of _ _ rfl rfl rfl rfl rfl, executes_of _ _ rfl rfl rfl rfl rfl, List.mem_singleton.mpr rfl, rfl, by decide⟩

theorem witness_RemoteRequestsLeave :
    let s := ready user (spadCore 0x40000 7 []) Station.reset
    Executes s user [3, 4] [4, 3] ∧ Executes s user [2, 2 + 1, 4] [2, 2 + 1, 4] ∧ Thread.quiet user 0 ∧
    ReleaseFree s user 3 ∧ s.addrFault ⟨0, 0⟩ 1 (effAddr (s.g 4) 0 8) 8 = none ∧ s.addrFault ⟨0, 0⟩ 2 (s.g 4) 8 = none ∧
    Unwatched s user 1 0x40000 8 1 ∧ Unwatched s user 2 0x40000 8 3 :=
  ⟨ready_executes _ _ rfl rfl rfl rfl, ready_executes _ _ rfl rfl rfl rfl, ready_quiet _ ⟨rfl, rfl⟩ ⟨rfl, rfl⟩ ⟨rfl, rfl⟩,
    release_of _ rfl rfl rfl rfl, by decide, by decide, ready_unwatched _ _ _ _ rfl, ready_unwatched _ _ _ _ rfl⟩

/-- A peer address, an address of this device and one of device 1; a counter with room and one at its limit. -/
theorem witness_PostedStores :
    (let s := ready user (spadCore 0x40000 7 []) Station.reset
     Executes s user [3, 4] [4, 3] ∧ Thread.quiet user 0 ∧ s.addrFault ⟨0, 0⟩ 1 (effAddr (s.g 4) 0 8) 8 = none ∧
     Unwatched s user 1 0x40000 8 2 ∧ s.addrFault ⟨0, 0⟩ 2 (effAddr (s.g 4) 0 8) 8 = none ∧ Unwatched s user 2 0x40000 8 2 ∧
     0x40000 / 2 ^ 42 % 2 ^ 14 = s.pkg.device.toNat ∧ user.counter 1 ≠ 0xFFFF) ∧
    (let s := ready user (spadCore 0x40000000000 7 []) Station.reset
     s.region (effAddr (s.g 4) 0 8).toNat = .outside ∧ 0x40000000000 / 2 ^ 42 % 2 ^ 14 ≠ s.pkg.device.toNat ∧
     s.addrFault ⟨0, 0⟩ 2 (effAddr (s.g 4) 0 8) 8 = none ∧ Unwatched s user 2 0x40000000000 8 2) ∧
    (let th : Thread := { user with k1 := 0xFFFF, k2 := 0xFFFF, k3 := 0xFFFF }
     th.counter 1 = 0xFFFF ∧ th.counter 2 = 0xFFFF ∧ th.counter 3 = 0xFFFF) ∧
    (let s := ready user (spadCore 0xFFFFFFFFFF0000 7 []) Station.reset
     Executes s user [3, 4] [4, 3] ∧ s.region (effAddr (s.g 4) 0 8).toNat = .discovery ∧
     s.addrFault ⟨0, 0⟩ 2 (effAddr (s.g 4) 0 8) 8 = none ∧ Unwatched s user 2 0xFFFFFFFFFF0000 8 2) :=
  ⟨⟨ready_executes _ _ rfl rfl rfl rfl, ready_quiet _ ⟨rfl, rfl⟩ ⟨rfl, rfl⟩ ⟨rfl, rfl⟩, by decide, ready_unwatched _ _ _ _ rfl,
    by decide, ready_unwatched _ _ _ _ rfl, by decide, by decide⟩, ⟨by decide, by decide, by decide,
    ready_unwatched _ _ _ _ rfl⟩, by decide, ready_executes _ _ rfl rfl rfl rfl, by decide, by decide, ready_unwatched _ _ _ _ rfl⟩

/-- The small machine with one access under way and a core 1 as given. -/
def peerBank (k : Core) (x : Access) : State :=
  { regs [] with cores := [(0, (regs []).coreAt 0), (1, k)], accesses := [x] }
/-- The small machine with an access to 0x10000 whose line has a key tag. -/
def global (tag : Nat) (poison : List Nat) (x : Access) : State :=
  { regs [] with
    accesses := [x], phys := { Phys.reset with tags := [(0x400, tag)], poison := poison }
    stations := [(homeStation 0x10000, { Station.reset with slice := [⟨0x400, 0, false, false, true⟩] })] }

theorem witness_PeerAccessReachesItsBank :
    (∀ p ∈ [({ Core.reset with peersOpen := true }, access .load 1 0x7FFF8 0 .travelling),
        ({ Core.reset with peersOpen := true }, access .store 1 0x7FFF8 1 .travelling),
        ({ Core.reset with peersOpen := true }, access .ldfe 1 0x7FFF8 0 .travelling),
        ({ Core.reset with peersOpen := true }, access .stfe 1 0x7FFF8 0 .travelling),
        ({ Core.reset with peersOpen := true, park := List.replicate 96 9 }, access .stfe 1 0x7FFF8 0 .travelling),
        (Core.reset, access .load 1 0x7FFF8 0 .travelling), ({ Core.reset with lost := true }, access .load 1 0x7FFF8 0 .travelling)],
      let s := peerBank p.1 p.2
      s.accessAt p.2.id = some p.2 ∧ p.2.issuer = .thread ⟨0, 0⟩ ∧ p.2.sp = 1 ∧ p.2.stage = .travelling ∧
      s.behindOwn p.2 = false ∧ s.behindWay p.2 = false ∧ (s.coreAt 0).lost = false ∧ p.2.va / 2 ^ 18 < 96 ∧ s.routeOpen (s.requestRoute p.2) = true ∧ s.coreAt 1 = p.1 ∧
      p.2.id ∉ p.1.park ∧ (∀ i ∈ p.1.park, s.accessAt i = none) ∧ p.1.badParity 0x3FFF8 8 = false ∧ 0x3FFF8 % p.2.n = 0 ∧
      p.2.n ∈ [1, 2, 4, 8]) ∧
    AccessKind.load.waitsFor = none ∧ AccessKind.ldfe.waitsFor = some true ∧ AccessKind.stfe.waitsFor = some false ∧
    (∀ p ∈ [(1, []), (0, []), (2, []), (1, [0x400])],
      let x := access .load 2 0x10000 0 .filling
      let s := global p.1 p.2 x
      x.n ∈ [1, 2, 4, 8] ∧ x.loc % x.n = 0 ∧ s.folds = [] ∧ x.loc / 64 ∉ s.phys.uncorr ∧ s.sec.tagState x.tag ≠ .dead ∧
      s.phys.lineTag (x.loc / 64) = p.1 ∧
      x.tag = 1 ∧ s.phys.poison = p.2 ∧ s.accessAt x.id = some x ∧ x.sp = 2 ∧ x.stage = .filling ∧
      (s.stationAt (homeStation x.loc)).park = [] ∧ (s.accesses.map Access.id).Nodup ∧
      (s.stationAt (homeStation x.loc)).slice = [⟨0x400, 0, false, false, true⟩] ∧ ∀ y ∈ s.accesses, y = x) ∧
    (∀ p ∈ [(true, 0xFFFFFFFFFF0000), (true, 0x40000000000), (false, 0x40000000000)],
      let x := access .load 2 p.2 0 .travelling
      let s := { peerBank Core.reset x with pkg := { Package.reset with inPod := p.1 } }
      s.accessAt x.id = some x ∧ s.behindOwn x = false ∧ s.behindWay x = false ∧ s.routeOpen (s.requestRoute x) = true ∧
      s.region x.va = (if p.2 = 0xFFFFFFFFFF0000 then .discovery else if p.1 then .remote 1 else .outside) ∧
      s.linked 1 = false) ∧
    ({ State.reset with host := { HostIf.reset with porttab := [(1, 1)] } } : State).linked 1 = true := by decide +kernel

theorem witness_AnswersAndAcknowledgements :
    (∀ x ∈ [access .load 1 0x7FFF8 0 (.answered 0 0 0 9), access (.amo .add) 2 0x40000 0 (.answered 17 0 0 0),
        access .store 1 0x7FFF8 1 (.answered 0 0 0 0), access .store 2 0x40000 3 (.answered 17 0 0 0),
        access .stfe 1 0x7FFF8 0 (.answered 0 0 0 0), access .load 2 0x40000000000 0 .offDevice],
      let s := peers true x
      s.accessAt x.id = some x ∧ x.issuer = .thread ⟨0, 0⟩ ∧ s.threadAt ⟨0, 0⟩ = some user ∧ user.dbg.ss = false ∧
      user.stepsLeft = none ∧ user.halted = false ∧ user.failure 3 = none ∧ x.rd ≠ 0 ∧ s.answerWay x = true ∧
      s.unsent x.id = false) ∧
    (let x := access .load 1 0x7FFF8 0 (.answered 0 0 0 9)
     let s := { peers true x with stations := [(0, { Station.reset with router := .asleep })] }
     s.accessAt x.id = some x ∧ s.answerWay x = false) ∧
    ({ user with fail3 := some ⟨5, 0, 0, false, 5⟩ } : Thread).failure 3 = some ⟨5, 0, 0, false, 5⟩ := by decide +kernel

theorem witness_ParkedAndHeldRequests :
    (∀ x ∈ [access .load 1 0x7FFF8 0 .refused, access .ldfe 1 0x7FFF8 0 .refused, access .ldfe 1 0x7FFF8 0 .parked,
        access .ldfe 2 0x40000000000 0 .offDevice, access .load 2 0x40000 0 (.held 0)],
      let s := { peers true x with time := 76000, ctxs := [(1, { context with retry := 75999 })] }
      s.accessAt x.id = some x ∧ x.issuer = .thread ⟨0, 0⟩ ∧ s.threadAt ⟨0, 0⟩ = some user ∧ s.threadRuns ⟨0, 0⟩ = true ∧
      s.inRotation ⟨0, 0⟩ = true ∧ user.halted = false ∧ (s.ctxAt x.ctx).map Context.retry = some 75999 ∧
      75999 < s.time.toNat - x.issued ∧ x.cancel = none ∧ x.sp ≠ 0 ∧ 0 + 76000 ≤ s.time.toNat) ∧
    (∀ c ∈ [Cancel.timeout, .interrupt, .peal], ∀ stage ∈ [Stage.parked, .offDevice], ∀ th ∈ [user, stopped],
      let x : Access := { access .ldfe 1 0x7FFF8 0 stage with cancel := some c }
      let s := { ready th Core.reset Station.reset with accesses := [x] }
      s.accessAt x.id = some x ∧ s.threadAt ⟨0, 0⟩ = some th) ∧
    user.halted = false ∧ stopped.halted = true ∧ AccessKind.parks .ldfe = true ∧
    (∀ p ∈ [(1024, Station.reset), (75999, { Station.reset with router := .asleep })],
      let x := access .load 2 0x40000 0 (.held 0)
      let s := { peers true x with
        accesses := [{ x with id := 4 }, x], held := [⟨.access 4, 0, 1, 0x40000⟩, ⟨.access 5, 0, 1, 0x40000⟩]
        stations := [(0, p.2)], time := BitVec.ofNat 64 p.1 }
      s.accessAt x.id = some x ∧ 0 + 1024 ≤ s.time.toNat ∧ s.time.toNat < 0 + 76000 ∧ s.region x.va = .paged ∧
      s.routeOpen (s.walkRoute 0 x.ctx x.va) = (p.1 == 1024) ∧ s.behindHeld (.access x.id) 0 x.ctx x.va = true) := by
  decide +kernel

/-- 16_tables_notes: a table of 1,024 rows of 16 bytes. -/
def image : List Word := [0x100000, 0x400, 0xFFFFFFFF, 0, 0, 0x10004, 0, 0]
/-- The device's page table maps the image at 0x10000; walked bare, it lies in lines of the context's tag. -/
def mapped : State :=
  let s := regs [(4, 0x10000), (5, 5)]
  let entry (a v : Nat) (m : Memory) : Memory := m.writeBytes a (bytesLE 8 v)
  let m : Memory := entry 8192 0x4001 (entry 0x4000 0x6001 (entry 0x6000 0x8001 (entry 0x8008 0x1003F [])))
  { s with phys := { s.phys with ram := m.writeBytes 0x10000 (image.flatMap (fun w => bytesLE 8 w.toNat))
                                 tags := [(0x400, 1)] }
           sec := { s.sec with memStacks := 0xFFF } }

/-- A thread whose instruction line is at 0x10000, in memory under a key tag. -/
def lineWaiting (tag : Nat) (poison : List Nat) : State :=
  let th : Thread := { user with pc := 0x10000, wait := some (.line 0x10000 none) }
  { mapped with
    cores := [(0, { Core.reset with threads := [(0, th)] })]
    phys := { mapped.phys with tags := [(0x400, tag)], poison := poison } }

theorem witness_FillsAndRefreshWindows :
    (let s := ready user Core.reset { Station.reset with slice := [⟨4, 1, false, false, true⟩] }
     (∃ l ∈ (s.stationAt 0).slice, l.line = 4 ∧ l.fill = true) ∧ ∀ x ∈ s.accesses, x.stage ≠ .filling) ∧
    (∀ linked ∈ [false, true], ∀ l ∈ [[], [{ access .load 2 0x40000000000 0 .offDevice with issuer := .fetch ⟨0, 0⟩, n := 64 }]],
      let th : Thread := { user with pc := 0x40000000000, wait := some (.line 0x40000000000 none) }
      let s := { ready th Core.reset Station.reset with
        pkg := { Package.reset with inPod := true }, accesses := l
        host := { HostIf.reset with porttab := if linked then [(1, 1)] else [] } }
      s.threadAt ⟨0, 0⟩ = some th ∧ th.halted = false ∧ s.region 0x40000000000 = .remote 1 ∧ lineBase th.pc.toNat = 0x40000000000 ∧
      s.linked 1 = linked ∧ s.unsent 5 = false ∧ ∀ x ∈ s.accesses, x.issuer = .fetch ⟨0, 0⟩) ∧
    (List.replicate 64 (0 : Byte)).length = 64 ∧
    (∀ p ∈ [(0, 76000), (76000, 76000)],
      let th : Thread := { user with pc := 0x10000, wait := some (.line 0x10000 (some p.1)) }
      let s := { ready th Core.reset Station.reset with time := BitVec.ofNat 64 p.2 }
      s.region 0x10000 = .paged ∧ s.threadAt ⟨0, 0⟩ = some th ∧ (p.1 + 76000 ≤ s.time.toNat ↔ p.1 = 0)) ∧
    (let s := { lineWaiting 1 [] with stations := [(0, { Station.reset with router := .asleep })] }
     s.routeOpen (s.memRoute 0 1 0x10000) = false) ∧
    (∀ p ∈ [(1, []), (0, []), (2, []), (2, [0x400]), (1, [0x400]), (0, [0x400])],
      let s := lineWaiting p.1 p.2
      let way := s.memRoute 0 1 0x10000
      let r := (s.touchRoute way).translateIn (.line ⟨0, 0⟩) 0 1 0x10000 .fetch true false
      (s.threadAt ⟨0, 0⟩).map Thread.halted = some false ∧ s.region 0x10000 = .paged ∧ s.routeOpen way = true ∧ r.1 = .pa 0x10000 ∧
      r.2.folds = [] ∧ r.2.accesses = [] ∧ r.2.phys.uncorr = [] ∧ r.2.phys.lineTag 0x400 = p.1 ∧ r.2.phys.poison = p.2 ∧
      user.ctxTag.toNat = 1 ∧ r.2.sec.tagState 1 ≠ .dead) ∧
    (let s := { State.reset with time := 60800000, stations := [(0, { Station.reset with slice := [⟨4, 1, false, true, false⟩] })] }
     s.dram.windowStart + 60800000 ≤ s.time.toNat ∧ ∀ p ∈ s.stations, ∀ l ∈ p.2.slice, l.pinned = true → l.dirty = false) := by
  decide +kernel

theorem witness_FencesWaitAndComplete :
    Executes (regs []) user [] [] ∧ ReleaseFree (regs []) user 0 ∧ Thread.quiet user 1 ∧
    Executes (peers true (access .store 1 0x7FFF8 1 .travelling)) user [] [] ∧
    (let x := access .store 1 0x7FFF8 1 .travelling
     let s := peers true x
     x ∈ s.accesses ∧ x.postedBy s.cur = true ∧ s.storeScope s.cur x ≤ 2) ∧
    (let th : Thread := { user with k1 := 1 }
     selected 1 1 = true ∧ th.counter 1 ≠ 0 ∧ Executes (ready th Core.reset Station.reset) th [] []) ∧
    (let th : Thread := { user with fail2 := some ⟨6, 0x10000, 0x10000, true, 2⟩ }
     let s := ready th Core.reset Station.reset
     Executes s th [] [] ∧ th.failure 2 = some ⟨6, 0x10000, 0x10000, true, 2⟩ ∧ th.failure 1 = none ∧ th.failure 3 = none ∧
     selected 2 2 = true ∧ th.counter 2 = 0 ∧ s.accesses = []) ∧
    Executes (regs []) user [3, 4, 5] [4, 5] ∧ (∀ c < 7, (regs []).routeOpen ((regs []).orderWay 0 c) = true) ∧
    (let s := ready user Core.reset { Station.reset with router := .asleep }
     Executes s user [] [] ∧ ReleaseFree s user 2 ∧ s.routeOpen (s.orderWay 0 2) = false) := by
  refine ⟨user_executes _ _ _, release_of _ rfl rfl rfl rfl, ready_quiet _ ⟨rfl, rfl⟩ ⟨rfl, rfl⟩ ⟨rfl, rfl⟩,
    ⟨?_, ?_, ?_, ?_, ?_⟩, ?_, ⟨?_, ?_, ready_executes _ _ rfl rfl rfl rfl⟩,
    ⟨ready_executes _ _ rfl rfl rfl rfl, ?_⟩, user_executes _ _ _, ?_, ready_executes _ _ rfl rfl rfl rfl,
    release_of _ rfl rfl rfl rfl, ?_⟩ <;> decide +kernel

/-- A station whose semaphore 5 has a count and waiters. -/
def semStation (count : Nat) (waiters : List ThreadId) : Station := { Station.reset with sems := [(5, ⟨count, waiters⟩)] }
def barriers (p : Nat) (arrived : List (ThreadId × Nat)) : State :=
  { regs [] with ctxs := [(1, { context with barriers := [(2, ⟨p, arrived⟩)] })] }

theorem witness_SemaphoresAndBarriers :
    Executes (ready user Core.reset (semStation 1 [])) user [] [] ∧
    ((ready user Core.reset (semStation 1 [])).stationAt 0).sem 5 = ⟨1, []⟩ ∧
    ((ready user Core.reset (semStation 0 [])).stationAt 0).sem 5 = ⟨0, []⟩ ∧
    ReleaseFree (ready user Core.reset (semStation (2 ^ 32 - 1) [])) user 3 ∧
    ((ready user Core.reset (semStation (2 ^ 32 - 1) [])).stationAt 0).sem 5 = ⟨2 ^ 32 - 1, []⟩ ∧
    (∀ halted ∈ [false, true],
     let w : Thread := { waiter false with halted := halted }
     let s := ready user { Core.reset with threads := [(9, w)] } (semStation 0 [⟨0, 9⟩])
     (s.stationAt 0).sem 5 = ⟨0, [⟨0, 9⟩]⟩ ∧ s.threadAt ⟨0, 9⟩ = some w ∧ (⟨0, 9⟩ : ThreadId) ≠ s.cur ∧ w.dbg.ss = false ∧
     w.stepsLeft = none ∧ w.halted = halted) ∧
    Executes (barriers 0 []) user [] [] ∧ ReleaseFree (barriers 2 []) user 3 ∧
    (((barriers 0 []).ctxAt 1).map (fun x => x.barrier 2)) = some ⟨0, []⟩ ∧
    (((barriers 2 []).ctxAt 1).map (fun x => x.barrier 2)) = some ⟨2, []⟩ ∧
    (((barriers 2 [(⟨0, 9⟩, 3)]).ctxAt 1).map (fun x => x.barrier 2)) = some ⟨2, [(⟨0, 9⟩, 3)]⟩ ∧
    (((barriers 1 []).ctxAt 1).map (fun x => x.barrier 2)) = some ⟨1, []⟩ := by
  refine ⟨ready_executes _ _ rfl rfl rfl rfl, by decide, by decide, release_of _ rfl rfl rfl rfl, by decide, by decide,
    executes_of _ _ (by decide) rfl (by decide) rfl rfl, release_of _ rfl rfl rfl rfl, by decide, by decide, by decide, by decide⟩

/-- An instance of a node of a graph under way, with a step count and a placed neighbour. -/
def nodeImage (k count deps : Nat) (succ : List Nat) : NodeImage :=
  { entry := 0x10000, nargs := 0, k := k, deps := deps, prio := 0, wsize := 1, count := count, keep := false, aff := 0
    affStation := none, args := [], succ := succ }
def placed (inst steps : Nat) : Placed :=
  { inst := inst, thread := ⟨0, inst⟩, steps := steps, finished := false, abandoned := false, contributed := false }
def node (img : NodeImage) (l : List Placed) : NodeState :=
  { image := img, depsLeft := img.deps, released := true, key := 0, next := l.length, again := [], placed := l
    contributions := 0, dones := 0, triggered := false, prio := 0, since := 0 }
def graph (nodes : List NodeState) : Graph := { id := 7, queue := 0, launch := 0, status := 0, irq := false, nodes := nodes }
def worker (steps : Nat) : Thread :=
  { user with task := { TaskReg.reset with valid := true }, held := ⟨some 7, false, false, steps, true⟩ }
def working (th : Thread) (nodes : List NodeState) : State :=
  { ready th Core.reset Station.reset with ctxs := [(1, { context with graphs := [graph nodes] })] }
def dynamic (steps : Nat) : Thread :=
  { user with task := { TaskReg.reset with valid := true, dyn := true }, held := ⟨none, false, false, steps, true⟩ }

theorem witness_StepCountsWithinDrift :
    Executes (regs []) user [] [] ∧ user.task.valid = false ∧
    (let s := ready (dynamic 0) Core.reset Station.reset
     Executes s (dynamic 0) [] [] ∧ (dynamic 0).task.valid = true ∧ s.heldPlace (dynamic 0) = none) ∧
    (dynamic (2 ^ 32 - 1)).held.steps = 2 ^ 32 - 1 ∧
    (let s := working (worker 0) [node (nodeImage 1 2 0 []) [placed 0 0, placed 1 0]]
     (s.heldPlace (worker 0)).isSome = true ∧ 1 ≠ 2 ^ 32 - 1 ∧ 0 + 1 ≤ 0 + 1) ∧
    (let s := working (worker 0) [node (nodeImage 1 2 0 []) [placed 0 1, placed 1 0]]
     (s.heldPlace (worker 0)).map (fun h => (h.placed.steps, h.node.image.k)) = some (1, 1)) ∧
    (let s := working (worker 0) [node (nodeImage 1 2 0 []) [placed 0 (2 ^ 32 - 1)]]
     (s.heldPlace (worker 0)).map (fun h => h.placed.steps) = some (2 ^ 32 - 1)) ∧
    (∀ p ∈ [(false, 2 ^ 24 + 1), (false, 2 ^ 24), (true, 2 ^ 24)],
      let th : Thread := { worker 0 with wait := some (.step 0 0 0) }
      let o : Thread := { user with halted := p.1, haltedAt := 9 }
      let s := { working th [node (nodeImage 1 2 0 []) [placed 0 1, placed 1 0]] with
        cores := [(0, { Core.reset with threads := [(0, th), (1, o)] })], time := BitVec.ofNat 64 p.2 }
      s.threadAt ⟨0, 0⟩ = some th ∧ th.halted = false ∧ s.threadRuns ⟨0, 0⟩ = true ∧ s.threadAt ⟨0, 1⟩ = some o ∧
      (s.ctxAt 1).map Context.peal = some none ∧
      (s.heldPlace th).map (fun h => (h.placed, h.node.placed, h.node.image.k)) =
        some (placed 0 1, [placed 0 1, placed 1 0], 1)) := by
  refine ⟨user_executes _ _ _, ?_, ⟨ready_executes _ _ rfl rfl rfl rfl, ?_, ?_⟩, ?_, ?_, ?_, ?_, ?_⟩ <;> decide

theorem witness_TimeIsReadAndAwaited :
    Executes (regs []) user [3] [] ∧ Executes (regs [(4, 1)]) user [4] [4] ∧
    ((regs []).g 4).toNat ≤ (regs []).time.toNat ∧ (regs [(4, 1)]).time.toNat < ((regs [(4, 1)]).g 4).toNat ∧
    (let th : Thread := { user with wait := some (.attime 0) }
     (ready th Core.reset Station.reset).threadAt ⟨0, 0⟩ = some th ∧
     (ready th Core.reset Station.reset).threadRuns ⟨0, 0⟩ = true ∧ th.halted = false) ∧
    (let th : Thread := { stopped with wait := some (.attime 0) }
     (ready th Core.reset Station.reset).threadAt ⟨0, 0⟩ = some th ∧ th.halted = true) ∧
    (∀ halted ∈ [false, true],
     let th : Thread := { firm with halted := halted, wait := some .interrupt }
     let x : Context := { context with page := { ControlPage.reset with timer := 1 } }
     let s := { ready th Core.reset Station.reset with time := 1, ctxs := [(1, x)] }
     s.ctxAt 1 = some x ∧ s.threadAt x.supervisor = some th ∧ x.active s.time = true ∧ x.page.timer ≠ 0 ∧
     x.page.timer.toNat ≤ s.time.toNat) := by
  refine ⟨user_executes _ _ _, user_executes _ _ _, ?_, ?_, ?_, ?_, ?_⟩ <;> decide

/-! ### Premises of the statements about Chime lines, tasks, messages, descriptors and engine commands -/

/-- A thread with a line and replies. -/
def chimed (c : Chime) (replies : List Word) : Thread := { user with chimes := [(15, c)], replies := replies }

theorem witness_ChimeLinesAndReplies :
    (let th := chimed ⟨1, true, false, 16, 9⟩ [0x0001000000000000, 2]
     let s := ready th (withRegs [(4, 15)]) Station.reset
     Executes s th [4] [4] ∧ Executes s th [3, 4] [4] ∧ Executes s th [3, 4] [3, 4] ∧ Executes s th [3] [] ∧
     (s.g 4).toNat % 16 = 15 ∧ (th.chime 15).fail = true ∧ (0x0001000000000000 : Word).toNat / 2 ^ 48 % 2 ^ 8 ≠ 0) ∧
    ((chimed ⟨1, false, false, 0, 0⟩ [7]).chime 15).fail = false ∧ 0 < ((chimed ⟨1, false, false, 0, 0⟩ [7]).chime 15).pend ∧
    (7 : Word).toNat / 2 ^ 48 % 2 ^ 8 = 0 ∧ (user.chime 15).fail = false ∧ (user.chime 15).pend = 0 ∧ user.replies = [] := by
  refine ⟨⟨ready_executes _ _ rfl rfl rfl rfl, ready_executes _ _ rfl rfl rfl rfl, ready_executes _ _ rfl rfl rfl rfl,
    ready_executes _ _ rfl rfl rfl rfl, ?_, ?_, ?_⟩, ?_, ?_, ?_, ?_, ?_, ?_⟩ <;> decide

/-- post's word: prio, wsize, entry. -/
def postWord (wsize : Nat) : Word := BitVec.ofNat 64 (2 ^ 61 + wsize * 2 ^ 56 + 0x10000)

theorem witness_TasksEndAndContribute :
    Executes (regs []) user [] [] ∧ user.win.held = false ∧ user.task.valid = false ∧ ReleaseFree (regs []) user 5 ∧
    ((regs []).coreAt 0).othersHold 0 = false ∧
    (let s := ready (dynamic 0) Core.reset Station.reset
     Executes s (dynamic 0) [] [] ∧ ReleaseFree s (dynamic 0) 5 ∧ (dynamic 0).task.dyn = true ∧
     (dynamic 0).held.graph = none ∧ (s.coreAt 0).othersHold 0 = false) ∧
    (let s := working (worker 0) [node (nodeImage 0 2 0 []) [placed 0 0]]
     Executes s (worker 0) [] [] ∧ ReleaseFree s (worker 0) 5 ∧ (worker 0).held.graph = some 7 ∧
     (worker 0).task.dyn = false ∧ (worker 0).held.contributed = false ∧ (worker 0).dbg.tr = false) ∧
    (Executes (pair holder true []) holder [] [] ∧ holder.win.held = true ∧ holder.task.valid = false) ∧
    (let s := ready (dynamic 0) { Core.reset with threads := [(1, dynamic 0)] } Station.reset
     Executes s (dynamic 0) [] [] ∧ ∃ p ∈ (s.coreAt 0).threads, p.1 ≠ 0 ∧ p.2.task.valid = true) ∧
    (∀ n ∈ [1, 2],
      let g := graph [node (nodeImage 0 n 0 []) [placed 0 0]]
      let x : Context := { context with graphs := [g] }
      let s := working (worker 0) g.nodes
      s.ctxAt 1 = some x ∧ x.graphs.find? (fun h => h.id == 7) = some g ∧ (x.graphs.map Graph.id).Nodup ∧ g.status = 0 ∧
      g.irq = false ∧ ((g.contribute 0 0 0).nodes.map (fun m => (m.triggered, m.dones + 1, m.image.count))) = [(n == 1, 1, n)]) ∧
    Executes (regs [(4, postWord 1)]) user [4, 5] [4, 5] ∧ ReleaseFree (regs [(4, postWord 1)]) user 3 ∧
    ((regs [(4, postWord 1)]).g 4).toNat / 2 ^ 56 % 2 ^ 5 = 1 ∧ ((regs [(4, postWord 16)]).g 4).toNat / 2 ^ 56 % 2 ^ 5 = 16 ∧
    16 < ((regs [(4, postWord 17)]).g 4).toNat / 2 ^ 56 % 2 ^ 5 ∧ ((regs [(4, postWord 0)]).g 4).toNat / 2 ^ 56 % 2 ^ 5 = 0 ∧
    2 ^ 63 ≤ ((regs [(4, 0x8100000000010000)]).g 4).toNat ∧
    (List.replicate 64 (postInst 0 (postWord 1) 0 0 0)).length = 64 := by
  refine ⟨user_executes _ _ _, rfl, rfl, release_of _ rfl rfl rfl rfl, by decide, ⟨ready_executes _ _ rfl rfl rfl rfl,
    release_of _ rfl rfl rfl rfl, rfl, rfl, by decide⟩, ⟨executes_of _ _ (by decide) rfl (by decide) rfl rfl,
    release_of _ rfl rfl rfl rfl, rfl, rfl, rfl, rfl⟩, ⟨ready_executes _ _ rfl rfl rfl rfl, rfl, rfl⟩,
    ⟨ready_executes _ _ rfl rfl rfl rfl, ?_⟩, ?_, user_executes _ _ _, release_of _ rfl rfl rfl rfl, ?_, ?_, ?_, ?_, ?_, ?_⟩ <;>
    decide

/-- The small machine with a thread in slot 1 of core 0 that waits for a placement, and a posted instance. -/
def posted : State :=
  let w := Thread.create 16 2 .user 0x10000 0x20000 1 1
  ready user { Core.reset with threads := [(1, { w with wait := some .work })] }
    { Station.reset with dyn := [postInst 0 (postWord 1) 9 0 3] }

/-- The same machine with a graph's node of two instances, the second of them pending again where asked, in place of the posted
one. -/
def offered (again : Bool) : State :=
  let img : NodeImage := { nodeImage 0 2 0 [] with args := [7, 8], nargs := 2 }
  let n : NodeState := { node img [placed 0 0] with again := if again then [⟨0, true, 0, 0⟩] else [] }
  { posted with stations := [(0, Station.reset)], ctxs := [(1, { context with graphs := [graph [n]] })] }

theorem posted_offered : posted.Offered context 0 ⟨.dyn 0, 1, turnKey 0 true 0 3 0, 1⟩ :=
  ⟨⟨⟨0, 1⟩, rfl, by decide, by decide, by decide, by decide, _, rfl, rfl, rfl, rfl, rfl, by decide, by decide⟩,
    .inr ⟨0, _, rfl, rfl⟩⟩

/-- A partition without threads. -/
def vacant : State := { State.reset with stations := [(0, Station.reset)], ctxs := [(1, context)] }

theorem vacant_offers (c : Candidate) : ¬ vacant.Offered context 0 c := by
  rintro ⟨⟨t, _, _, _, _, _, th, h, _⟩, _⟩
  cases h

theorem witness_GraphsAndPlacement :
    (posted.Offered context 0 ⟨.dyn 0, 1, turnKey 0 true 0 3 0, 1⟩ ∧ vacant.ctxOfStation 0 = some 1 ∧
      vacant.ctxAt 1 = some context ∧ ∀ c, ¬ vacant.Offered context 0 c) ∧
    (let g := graph [node (nodeImage 0 2 0 [1]) [placed 0 0, placed 1 0], node (nodeImage 0 1 1 []) []]
     g.nodes[0]?.map (fun n => (n.contributions + 1, n.image.count, n.image.succ)) = some (1, 2, [1]) ∧
     g.nodes[1]?.map NodeState.depsLeft = some 1 ∧ g.complete = false) ∧
    (let g := graph [node (nodeImage 0 1 0 [1, 2]) [placed 0 0], node (nodeImage 0 1 2 []) [], node (nodeImage 0 1 1 []) []]
     g.nodes[0]?.map (fun n => (n.contributions + 1, n.image.count)) = some (1, 1) ∧ [1, 2].Nodup ∧ 0 ∉ [1, 2] ∧
     g.nodes[1]?.map NodeState.depsLeft = some 2 ∧ g.nodes[2]?.map NodeState.depsLeft = some 1) ∧
    (posted.ctxOfStation 0 = some 1 ∧ posted.ctxAt 1 = some context ∧
      chooseCandidate context.served (posted.candidates context 0) = some ⟨.dyn 0, 1, turnKey 0 true 0 3 0, 1⟩ ∧
      posted.chooseThread 0 1 = some ⟨0, 1⟩ ∧ (posted.stationAt 0).dyn[0]? = some (postInst 0 (postWord 1) 9 0 3) ∧
      (posted.threadAt ⟨0, 1⟩).map (fun th => (th.dbg.tr, th.dbg.ss, th.stepsLeft)) = some (false, false, none)) ∧
    (∀ again ∈ [false, true],
      let s := offered again
      s.ctxOfStation 0 = some 1 ∧
      (s.ctxAt 1).bind (fun x => chooseCandidate x.served (s.candidates x 0)) =
        some ⟨.node 7 0 (if again then 0 else 1) again, 0, 0, 1⟩ ∧
      s.chooseThread 0 1 = some ⟨0, 1⟩ ∧
      ((s.ctxAt 1).bind (fun x => x.graphs.find? (fun h => h.id == 7))).map (fun g => g.nodes.map (fun n => n.image.args.length)) =
        some [2] ∧
      (s.threadAt ⟨0, 1⟩).map (fun th => (th.dbg.tr, th.dbg.ss, th.stepsLeft, th.owed)) = some (false, false, none, [])) ∧
    context.active 0 = true ∧ context.stations.Nodup ∧
    ({ Core.reset with rotNext := some 1, position := 8 } : Core).rotNext = some 1 ∧
    8 * 2 ^ ({ Core.reset with rotNext := some 1, position := 8 } : Core).rotLen.toNat = 8 := by
  refine ⟨⟨posted_offered, by decide, by decide, vacant_offers⟩, ?_, ?_, ?_, ?_, ?_, ?_, ?_, ?_⟩ <;> decide +kernel

/-- A message, and the small machine with a flight of it to a thread whose inbox holds n messages. -/
def note : Message := ⟨0x100, 0, 5, 0, [7], false, 1, 3⟩
def inboxOf (n : Nat) (refused : List Nat) : Thread :=
  { user with inbox := { user.inbox with msgs := List.replicate n note, refused := refused } }
def flying (stage : FlightStage) (sender : Option ThreadId) (th : Thread) : State :=
  { ready th Core.reset Station.reset with flights := [⟨3, sender, note, stage, none, 0⟩], time := 1024 }

theorem witness_MessagesSentReceivedAndRefused :
    (let s := regs [(4, 0), (5, 0x0001000F0003FF80)]
     Executes s user [4, 5] [4, 5] ∧ s.sendFault ⟨0, 0⟩ user (s.g 4) (s.g 5) = none ∧ ReleaseFree s user 0 ∧
     (s.g 5).toNat / 2 ^ 32 % 2 ^ 5 + 1 = 16 ∧ (s.coreAt 0).spadBad = [] ∧ user.sendq.length < 2 ∧
     (s.g 5).toNat / 2 ^ 37 % 2 ^ 11 = 0 ∧ (s.g 5).toNat / 2 ^ 18 % 2 ^ 14 = 0 ∧ (s.g 5).toNat % 2 ^ 18 % 8 = 0 ∧
     (s.g 5).toNat % 2 ^ 18 + 8 * 16 ≤ 0x40000 ∧ (s.ctxAt 1).map Context.stations = some [0] ∧
     (s.coreAt 0).locked 0 0x3FF80 128 = false ∧ ∀ i < 16, s.posting s.cur (0, 0x7FF0 + i) = false) ∧
    (∀ p ∈ [(0, 0x2000000000, precise 6 0x2000000000 5 0), (0, 0x40000, precise 6 0x40000 5 0), (0x40, 0, precise 6 0x40 5 0),
        (0x3000, 0, precise 6 0x3000 5 0), (0, 4, precise 4 4 0 0), (0, 0x10003FFF8, precise 6 0x3FFF8 5 0),
        (0x800, 0, precise 6 0x800 5 0), (0x40000, 0, precise 6 0x40000 5 0), (0, 0x30000, precise 7 0x30000 0 0)],
      let k := { withRegs [(4, BitVec.ofNat 64 p.1), (5, BitVec.ofNat 64 p.2.1)] with locks := [⟨9, 0x30000, 8, none⟩] }
      let s := ready user k Station.reset
      s.sendFault ⟨0, 0⟩ user (s.g 4) (s.g 5) = some p.2.2) ∧
    (let s := ready user { withRegs [(4, 0), (5, 0x10)] with spadBad := [2] } Station.reset
     Executes s user [4, 5] [4, 5] ∧ ∃ i < 1, 0x10 / 8 + i ∈ (s.coreAt 0).spadBad) ∧
    (let s := { regs [(4, 0x3FFF8), (5, 0x3FFF8)] with accesses := [access .store 1 0x3FFF8 1 .travelling] }
     Executes s user [4, 5] [4, 5] ∧ s.posting s.cur (0, 0x7FFF) = true) ∧
    2 ≤ ({ user with sendq := [1, 2] } : Thread).sendq.length ∧
    (∀ p ∈ [(0x3FFFC, precise 4 0x3FFFC 0 0), (0x40000, precise 6 0x40000 5 0), (0x30000, precise 7 0x30000 0 0)],
      (ready user { Core.reset with locks := [⟨9, 0x30000, 8, none⟩] } Station.reset).recvFault ⟨0, 0⟩ p.1 1 = some p.2) ∧
    (let th := inboxOf 1 []
     let s := ready th (withRegs [(4, 0x3FFF8)]) Station.reset
     Executes s th [3, 4] [4] ∧ th.inbox.msgs = [note] ∧ s.recvFault ⟨0, 0⟩ (s.g 4) note.payload.length = none) ∧
    Executes (regs [(4, 0)]) user [3, 4] [4] ∧ user.inbox.msgs = [] ∧
    (∀ p ∈ [(none, inboxOf 3 []), (some ⟨0, 0⟩, inboxOf 3 []), (none, inboxOf 4 (List.replicate 63 9))],
     let s := flying .travelling p.1 p.2
     let f : Flight := ⟨3, p.1, note, .travelling, none, 0⟩
     s.flights.find? (fun g => g.id == f.id) = some f ∧ s.behindMessage f = false ∧ s.inside f.msg = true ∧ s.behindPacket f = false ∧
     f.msg.dst.toNat / 2 ^ 18 % 2 ^ 14 = s.pkg.device.toNat ∧ s.ctxAt f.msg.ctx = some context ∧
     context.active s.time = true ∧ s.threadAt (threadOfPlace f.msg.dst.toNat) = some p.2 ∧ f.sender = p.1 ∧
     s.routeOpen (s.messageRoute f.msg) = true ∧ f.msg.returned = false ∧ p.2.inbox.refused.length < 64 ∧
     (s.coreAt 0).lost = false ∧ 0 ∉ s.pkg.deadPlaces ∧ 0 ∈ context.stations) ∧
    (inboxOf 3 []).inbox.msgs.length + (inboxOf 3 []).inbox.reserved.length < 4 ∧
    4 ≤ (inboxOf 4 (List.replicate 63 9)).inbox.msgs.length ∧ 3 ∉ (inboxOf 4 (List.replicate 63 9)).inbox.reserved ∧
    (let s := { flying .travelling none user with stations := [(0, { Station.reset with router := .asleep })] }
     s.routeOpen (s.messageRoute note) = false) ∧
    (∀ stage ∈ [FlightStage.noticed, .unrecorded 0],
     (flying stage none user).flights.find? (fun g => g.id == 3) = some ⟨3, none, note, stage, none, 0⟩) ∧
    0 + 1024 ≤ (flying (.unrecorded 0) none user).time.toNat := by
  refine ⟨⟨user_executes _ _ _, ?_, release_of _ rfl rfl rfl rfl, ?_⟩, ?_, ⟨ready_executes _ _ rfl (by decide) rfl rfl, ?_⟩,
    ⟨executes_of _ _ rfl rfl rfl rfl rfl, ?_⟩, ?_, ?_, ⟨ready_executes _ _ rfl rfl rfl rfl, ?_, ?_⟩, user_executes _ _ _, ?_, ?_, ?_, ?_, ?_, ?_, ?_, ?_⟩ <;> decide +kernel

/-- The mapped machine whose leaf for the page at 0x10000 reads e, without the key tag of the page's lines. -/
def mappedAs (e : Nat) : State :=
  { mapped with phys := { mapped.phys with ram := mapped.phys.ram.writeBytes 0x8008 (bytesLE 8 e) } }

/-- The partition of stations 0 and 1, with updates of a descriptor register on their way. -/
def spreading (l : List DescUpdate) : State :=
  { mapped with ctxs := [(1, { context with stations := [0, 1] })], descs := l }
def update (id : Nat) (todo : List Nat) : DescUpdate := { id := id, ctx := 1, reg := 5, image := some image, todo := todo }

theorem witness_DescriptorsAndShards :
    (Executes mapped user [4, 5] [4, 5] ∧ (mapped.g 5).toNat < 256 ∧ (mapped.g 4).toNat % 64 = 0 ∧
     mapped.postedAmong mapped.cur user 0x10000 8 = none ∧ mapped.routeOpen (mapped.tableWay mapped.cur user 0x10000) = true) ∧
    (let s := { mapped with accesses := [access .store 2 0x10008 1 .travelling] }
     (s.postedAmong s.cur user 0x10000 8).isSome = true) ∧
    (let s := { mapped with stations := [(0, { Station.reset with router := .asleep })] }
     s.routeOpen (s.tableWay s.cur user 0x10000) = false) ∧
    (let load (m : State) (va : Word) := (m.touchRoute (m.tableWay m.cur user 0x10000)).loadWords m.cur user va 8
     (load mapped 0x10000).1 = .words image ∧ (load mapped 0x10000).2.cur = mapped.cur ∧
     (load (mappedAs 0) 0x10000).1 = .bad (precise 5 0x10000 1 4) ∧ (load (mappedAs 0x1007F) 0x10000).1 = .held) ∧
    validImage image false = true ∧ validImage (List.replicate 8 0) false = false ∧ (∀ since, user.wait ≠ some (.held since)) ∧
    Executes (regs [(4, 255)]) user [4] [4] ∧ ((regs [(4, 255)]).g 4).toNat < 256 ∧ 256 ≤ ((regs [(4, 256)]).g 4).toNat ∧
    (∀ p ∈ [([0, 1], 0), ([1], 1), ([0, 1], 1), ([1], 0)],
      let s := spreading [update 7 p.1]
      FirstOf s.descs (fun w => w.id = 7) (update 7 p.1) ∧ s.lowestOf 1 = 0 ∧ s.routeOpen (routeOf 0 p.2) = true) ∧
    (let s := spreading [update 6 [1], update 7 [1]]
     update 6 [1] ∈ s.descs.takeWhile (fun w => w.id != 7) ∧ FirstOf s.descs (fun w => w.id = 7) (update 7 [1])) ∧
    (let th : Thread := { user with wait := some (.spread 7) }
     (ready th Core.reset Station.reset).threadAt ⟨0, 0⟩ = some th ∧ (∃ v ∈ (spreading [update 7 [1]]).descs, v.id = 7) ∧
     ∀ v ∈ (spreading []).descs, v.id ≠ 7) ∧
    (let s := ready user (withRegs [(4, 5), (5, 1023)]) { Station.reset with descs := [(5, image)] }
     Executes s user [3, 4, 5] [4, 5] ∧ aget (s.stationAt 0).descs (s.g 4).toNat = some image ∧
     (s.g 5).toNat % 2 ^ 32 < (Desc.ofImage image).rows ∧ (Desc.ofImage image).pod = false ∧
     (Desc.ofImage image).rows ≤ 1024 ∧ s.routeOpen (s.tableWay s.cur user 0x107FF0) = true) ∧
    mapped.region 0x10000 = .paged ∧ (mapped.leafFor 0 1 0x10000).1 = .leaf 4 0x1003F ∧
    (mapped.leafFor 0 1 0x10000).2.inMap (leafAddress 4 0x1003F 0x10000) = true ∧
    ((mappedAs 0x1007F).leafFor 0 1 0x10000).1 = .moving ∧ ((mappedAs 0).leafFor 0 1 0x10000).1 = .bad 1 4 ∧
    mapped.behindHeld (.table ⟨0, 0⟩) 0 1 0x10000 = false ∧
    (let y := access .load 2 0x10000 0 (.held 0)
     let s := { mapped with accesses := [y], held := [⟨.access 5, 0, 1, 0x10000⟩] }
     s.behindHeld (.table ⟨0, 0⟩) 0 1 0x10000 = true) ∧
    (mapped.homeOrNone (.table ⟨0, 0⟩) 0 1 (2 ^ 56)).1 = some 127 ∧
    (mapped.homeOrNone (.table ⟨0, 0⟩) 0 1 0x10000).1 = some (homeStation 0x10000) ∧
    ((mappedAs 0x1007F).homeOrNone (.table ⟨0, 0⟩) 0 1 0x10000).1 = none := by
  refine ⟨⟨executes_of _ _ rfl rfl rfl rfl rfl, ?_⟩, ?_, ?_, ?_, ?_, ?_, ?_, user_executes _ _ _, ?_, ?_, ?_, ?_, ?_,
    ⟨ready_executes _ _ rfl rfl rfl rfl, ?_⟩, ?_, ?_, ?_, ?_, ?_, ?_, ?_, ?_, ?_, ?_⟩
  on_goal 10 =>
    intro p hp
    simp only [List.mem_cons, List.not_mem_nil, or_false] at hp
    rcases hp with rfl | rfl | rfl | rfl <;> refine ⟨⟨[], [], rfl, rfl, fun _ h => nomatch h⟩, ?_⟩ <;> decide +kernel
  on_goal 10 => exact ⟨by decide, [update 6 [1]], [], rfl, rfl, fun x h => by rw [List.mem_singleton.mp h]; decide⟩
  all_goals first | decide +kernel | (intro _ h; exact nomatch h)

/-- Range locks that leave room for n more. -/
def locked (n : Nat) (k : Core) : Core := { k with locks := List.replicate (16 - n) ⟨9, 0x30000, 0, none⟩ }
def tableStation : Station := { Station.reset with descs := [(5, image)] }
def waitingReplies (n : Nat) : Thread := { user with replyReserved := n }
/-- The faults of a copy command's words at core 0. -/
def copyFaultOf (k : Core) (desc : List Word) (kind : CopyKind) (table list count : Nat) : Option TrapCause :=
  (ready user k { Station.reset with descs := [(5, desc)] }).copyFault 0 kind (BitVec.ofNat 64 table) (BitVec.ofNat 64 list)
    (BitVec.ofNat 64 count)

/-- Gathers of one row, timed and not, the operands of the other commands, and for each check of R198 words that fail it. -/
theorem witness_CopyCommandsEnterTheEngine :
    (∀ p ∈ [(CopyKind.gather, 0x500000800, 0x200000000000, 1), (.gather, 0x800500000800, 0x200000000000, 1),
        (.scatter, 0x500000800, 0x200000000000, 1), (.scadd, 0x500000800, 0x200000000000, 1), (.dedup, 0x500000800, 0x1000000, 1),
        (.segred, 0x500000800, 0x200001000000, 0x10001), (.isect, 0x500000800, 0x1000000, 0x10001)],
      let s := ready user (locked 4 Core.reset) tableStation
      s.timedFault s.cur user p.1 6 (BitVec.ofNat 64 p.2.1) = none ∧
      s.copyFault 0 p.1 (BitVec.ofNat 64 p.2.1) (BitVec.ofNat 64 p.2.2.1) (BitVec.ofNat 64 p.2.2.2) = none ∧
      aget (s.stationAt 0).descs (p.2.1 / 2 ^ 32 % 2 ^ 8) = some image ∧
      (copyRanges p.1 (Desc.ofImage image) (BitVec.ofNat 64 p.2.1) (BitVec.ofNat 64 p.2.2.1)
        (BitVec.ofNat 64 p.2.2.2)).length ≤ 16 - (s.coreAt 0).locksHeld) ∧
    (let s := ready user (locked 2 Core.reset) tableStation
     ¬ 3 ≤ 16 - (s.coreAt 0).locksHeld) ∧
    8 ≤ (waitingReplies 8).replies.length + (waitingReplies 8).replyReserved ∧
    (waitingReplies 7).replies.length + (waitingReplies 7).replyReserved < 8 ∧
    Executes (ready user (locked 4 Core.reset) tableStation) user [6, 7, 8] [6, 7, 8] ∧
    Executes (ready user (locked 4 Core.reset) tableStation) user [6, 7] [6, 7] ∧
    (let s := ready user { Core.reset with rfBad := [7] } tableStation
     wfld 0x800500000800 47 47 = 1 ∧ s.timedFault s.cur user .gather 127 0x800500000800 = some (precise 3 128 0 0) ∧
     s.timedFault s.cur user .gather 6 0x800500000800 = some (precise 20 7 2 0)) ∧
    (∀ p ∈ [(0x508000800, 0, 1, precise 16 0x508000800 0x20 0), (0x500000800, 0x40000, 1, precise 16 0x40000 0x20 0),
        (0x500000800, 0, 0, precise 16 0 0x20 0), (0x600000800, 0, 1, precise 16 6 0x21 0),
        (0x380500000800, 0, 1, precise 16 0x380500000800 0x22 0), (0x500000800, 1, 1, precise 4 1 0 0),
        (0x501FFF800, 0, 1, precise 6 0x1FFF800 5 0), (0x500000800, 0x3FFF8, 4, precise 6 0x3FFF8 5 0),
        (0x500000800, 0x30000, 1, precise 7 0x30000 0 0)],
      copyFaultOf { Core.reset with locks := [⟨9, 0x30000, 4, none⟩] } image .scatter p.1 p.2.1 p.2.2.1 = some p.2.2.2) ∧
    (∀ p ∈ [(CopyKind.scatter, 0x800500000800, 0, 1), (.dedup, 0x80500000800, 0, 1), (.gather, 0x506000800, 0, 1)],
      copyFaultOf Core.reset image p.1 p.2.1 p.2.2.1 p.2.2.2 = some (precise 16 (BitVec.ofNat 64 p.2.1) 0x20 0)) ∧
    copyFaultOf Core.reset image .segred 0x500000800 0 0x5000 = some (precise 16 0x5000 0x20 0) := by
  refine ⟨by decide, by decide, by decide, by decide, ready_executes _ _ rfl rfl rfl rfl, ready_executes _ _ rfl rfl rfl rfl,
    by decide, by decide, by decide, by decide⟩

/-- A copy-engine command of the thread of slot 0. -/
def copyCmd (kind : CopyKind) (startAt : Option Nat) (started : Bool) (results : Assoc PosResult) : CopyCmd :=
  { id := 4, thread := ⟨0, 0⟩, kind := kind, table := 0x500000800, list := 0x200000000000, count := 1, desc := image, ev := 2
    rcReg := 6, user := true, ctx := 1, tag := 1, issued := 0, startAt := startAt, started := started, loaded := false
    entries := [], badEntries := [], aux := none, results := results, rows := [], kept := [], segs := [], devs := [], seen := []
    out := [], reduced := false
    closed := false, ending := none }
/-- One that has read its lists. -/
def listed (kind : CopyKind) (entries : List Nat) (aux : Option (List Nat)) (results : Assoc PosResult) : CopyCmd :=
  { copyCmd kind none true results with loaded := true, entries := entries, aux := aux }
/-- The mapped machine with the table's first page behind its second leaf, a thread, core 0 and station 0 as given. -/
def tabled (th : Thread) (k : Core) (x : Station) : State :=
  { mapped with
    cores := [(0, { k with threads := [(0, th)] })], stations := [(0, x)]
    phys := { mapped.phys with ram := mapped.phys.ram.writeBytes 0x8080 (bytesLE 8 0x2003F), tags := [(0x400, 1), (0x800, 1)] } }
/-- The same with a command in the engine. -/
def engine (k : Core) (c : CopyCmd) : State :=
  tabled { waitingReplies 1 with owed := [⟨4, .segred, 6, none, false⟩] } k { tableStation with copies := [c] }

theorem listed_ripe (kind : CopyKind) (entries : List Nat) (aux : Option (List Nat)) (results : Assoc PosResult)
    (h : entries.length ≤ 4096) : Ripe (engine Core.reset (listed kind entries aux results)) (listed kind entries aux results) :=
  ⟨rfl, rfl, rfl, h, fun _ h => nomatch h⟩

/-- A table of a pod whose device list lies where the table does; a command that has read its first list entry. -/
def podImage : List Word := [0x100000, 0x400, 0xFFFFFFFF, 0, 0, 0x14004, 0, 0x100000]
def partRead (kind : CopyKind) : CopyCmd := { copyCmd kind none true [] with entries := [3], seen := [(0, 3, false)], count := 2 }

theorem witness_CopyCommandsStartAndComplete :
    (∀ c ∈ [copyCmd .gather (some 9) false [], copyCmd .gather (some 10) false [], copyCmd .dedup none true [],
        copyCmd .scatter none true [], copyCmd .segred none true [], listed .gather [3] none []],
      let s := { engine Core.reset c with time := 9 }
      s.copyAt 0 c.id = some c ∧ (s.ctxOfStation 0).isSome = true ∧ c.seen = [] ∧ c.results = [] ∧ c.out = [] ∧
      wfld c.list 17 0 + 4 * 1 ≤ 2 ^ 18 ∧ wfld c.list 35 18 + 4 * wfld c.count 28 16 ≤ 2 ^ 18 ∧ 0 ∈ c.listWords ∧ 0 ∈ c.wordsFor 0 ∧
      aget c.seen 0 = none) ∧
    (copyCmd .gather (some 9) false []).startAt.getD 0 ≤ 9 ∧ 9 < (copyCmd .gather (some 10) false []).startAt.getD 0 ∧
    (∀ kind ∈ [CopyKind.gather, .scatter, .scadd],
      let c := partRead kind
      (engine Core.reset c).copyAt 0 c.id = some c ∧ c.loaded = false ∧ (∀ w ∈ c.wordsFor 0, (aget c.seen w).isSome = true) ∧
      c.entries[0]? = some 3 ∧ c.open 0 = true ∧ (aget c.seen (0 + (wfld c.list 17 0 + 4 * 0) / 8)).isSome = true) ∧
    (∀ kind ∈ [CopyKind.gather, .scatter, .scadd, .segred],
      let c := listed kind [3, 0xFFFFFFFF, 2000, 3] (some [0]) []
      let s := engine Core.reset c
      let a := agentOf (.position 0 c.id 0)
      let way (update : Bool) := s.rowWay a c.d 3 (!update)
      c.hasRows = true ∧ c.entries[0]? = some 3 ∧ c.entries[1]? = some c.d.missing ∧ c.d.rows ≤ 2000 ∧ 3 < c.d.rows ∧
      c.d.oob = false ∧ (∀ p < 4, c.open p = true) ∧ c.seen = [] ∧ c.kept = [] ∧ s.lates = [] ∧
      s.routeOpen (way false) = true ∧ s.routeOpen (way true) = true ∧
      ((s.touchRoute (way false)).lookupRow a c.d 3).1 = .row (List.replicate 16 0) ∧ (mapped.lookupRow a c.d 3).1 = .failed 3 ∧
      ((s.touchRoute (way true)).updateRow a c.d 3 true (List.replicate 16 0) 4 0).1 = .done ∧
      (mapped.updateRow a c.d 3 true (List.replicate 16 0) 4 0).1 = .failed 3) ∧
    (let x := { tableStation with router := .asleep }
     let c := listed .gather [3] none []
     let s := tabled user Core.reset { x with copies := [c] }
     s.routeOpen (s.rowWay (agentOf (.position 0 c.id 0)) c.d 3 true) = false ∧
     s.routeOpen (s.rowWay (agentOf (.position 0 c.id 0)) c.d 3 false) = false) ∧
    (∀ r ∈ [PosResult.requested, .failed 3],
      let c : CopyCmd := { listed .gather [3, 3] none [(0, r)] with
        kept := if r = .requested then [] else [(3, List.replicate 16 0, false)] }
      c.open 1 = true ∧ c.entries[1]? = some 3 ∧ aget c.results 0 = some r ∧
      aget c.kept 3 = if r = .requested then none else some (List.replicate 16 0, false)) ∧
    (let c := { listed .scatter [3, 3] none [] with desc := podImage }
     let s := engine Core.reset c
     let a := agentOf (.position 0 c.id 0)
     c.d.pod = true ∧ aget c.devs 0 = none ∧ s.routeOpen (s.wayTo a (c.d.devlist + 2 * (c.d.shardOf 3).1)) = true ∧
     ((s.touchRoute (s.wayTo a (c.d.devlist + 2 * (c.d.shardOf 3).1))).rowDevice a c.d 3).1 = .row [0, 0]) ∧
    (let c := { listed .gather [3, 2000] none [] with
       desc := [0x100000, 0x400, 0xFFFFFFFF, 0x100000, 0, 0x10204, 0, 0], badEntries := [1], table := 0x400500000800 }
     let s := engine Core.reset c
     let a := agentOf (.position 0 c.id 1)
     c.d.oob = true ∧ 1 ∈ c.badEntries ∧ wfld c.table 46 46 = 1 ∧ s.routeOpen (s.wayTo a c.d.dflt) = true ∧
     ((s.touchRoute (s.wayTo a c.d.dflt)).engineRead a c.d.dflt 16 true).1 = .row (List.replicate 16 0)) ∧
    (let k := { Core.reset with spadBad := [0x100] }
     k.badParity 0x800 16 = true ∧ Core.reset.badParity 0x800 16 = false ∧ Core.reset.peersOpen = false ∧
     (0 : Nat) + 0x2000000 / 2 ^ 18 ≠ 0) := by
  refine ⟨?_, ?_, ?_, ?_, ?_, ?_, ?_, ?_, ?_, ?_⟩ <;> decide +kernel

theorem witness_CopyCommandsComplete :
    (∀ r ∈ [PosResult.written, .failed 4], ∀ kind ∈ [CopyKind.gather, .scatter, .scadd, .segred],
      let c := listed kind [3] (some [0]) [(0, r)]
      let s := engine Core.reset c
      c.Settled ∧ c.hasRows = true ∧ c.out = [] ∧ c.segs = [] ∧ wfld c.table 46 46 = 0 ∧ 3 ≤ c.d.rlog ∧ c.d.efmt ≤ 1 ∧ (∀ p ∈ c.rows, p.2.length = 16) ∧
      ∃ status record, c.Record status 0 (if status = 0 then 1 else 0) record ∧
        OpenAreas s c [⟨0, c.thread.core % 96 * 2 ^ 18 + wfld c.list 53 36, record⟩]) ∧
    Ripe (engine Core.reset (listed .segred [3] (some [0]) [(0, .written)])) (listed .segred [3] (some [0]) [(0, .written)]) ∧
    ((∃ l, [0] = 0 :: l) ∧ [0].Pairwise (· ≤ ·) ∧ ∀ x ∈ [0], x ≤ 1) ∧ ¬ (∃ l, [1] = 0 :: l) ∧
    (let c := listed .dedup [7, 0xFFFFFFFF, 3, 7] none []
     Ripe (engine Core.reset c) c ∧ c.badEntries = [] ∧ [3, 7].Pairwise (· < ·) ∧
     (∀ y, y ∈ [3, 7] ↔ y ≠ c.d.missing ∧ y ∈ c.entries) ∧
     OpenAreas (engine Core.reset c) c [⟨0, 0x1000, []⟩, ⟨0, 0x800, []⟩]) ∧
    ({ listed .dedup [7] none [] with badEntries := [0] } : CopyCmd).badEntries ≠ [] ∧
    (∀ l ∈ [[3, 5], [5, 3]],
      let c := listed .isect l (some [5, 7]) []
      Ripe (engine Core.reset c) c ∧ c.aux = some [5, 7] ∧ c.entries.takeWhile (· ≠ c.d.missing) = l ∧
      OpenAreas (engine Core.reset c) c [⟨0, 0x800, []⟩]) ∧
    [3, 5].Pairwise (· < ·) ∧ ¬ [5, 3].Pairwise (· < ·) ∧
    (∀ v ∈ [none, some 3],
      let o : Owed := ⟨4, .segred, 6, v, false⟩
      let th : Thread := { user with owed := [o] }
      (ready th Core.reset Station.reset).threadAt ⟨0, 0⟩ = some th ∧ th.owed.find? (fun x => x.id == o.id) = some o) ∧
    (let c := copyCmd .segred none true []
     c.id = 4 ∧ c.seen = [] ∧ (engine Core.reset c).copyAt 0 c.id = some c) ∧
    ((List.range 1).map (fun i => Core.reset.spad.readLE (0x100 + 2 * i) 2) = [0] ∧
     (List.range 1).map (fun i => ({ Core.reset with spad := [(0x100, 1)] } : Core).spad.readLE (0x100 + 2 * i) 2) = [1]) := by
  refine ⟨?_, ?_, ?_, ?_, ?_, ?_, ?_, ?_, ?_, ?_, ⟨rfl, rfl, rfl⟩, ?_⟩
  rotate_left
  · exact listed_ripe _ _ _ _ (by decide)
  · exact ⟨⟨[], rfl⟩, by decide, by decide⟩
  · rintro ⟨l, h⟩
    cases h
  · refine ⟨listed_ripe _ _ _ _ (by decide), by decide, by decide, ?_, by decide, by decide⟩
    intro y
    have hm : (listed .dedup [7, 0xFFFFFFFF, 3, 7] none []).d.missing = 4294967295 := by decide +kernel
    rw [hm]
    simp only [listed, List.mem_cons, List.not_mem_nil, or_false]
    omega
  · decide
  · intro l hl
    simp only [List.mem_cons, List.not_mem_nil, or_false] at hl
    rcases hl with rfl | rfl <;> exact ⟨listed_ripe _ _ _ _ (by decide), rfl, by decide, by decide, by decide⟩
  · decide
  · decide
  · intro v hv
    exact ⟨rfl, List.find?_cons_of_pos rfl⟩
  · exact ⟨rfl, rfl⟩
  · intro r hr kind hk
    simp only [List.mem_cons, List.not_mem_nil, or_false] at hr hk
    rcases hr with rfl | rfl <;> rcases hk with rfl | rfl | rfl | rfl <;>
      refine ⟨⟨rfl, by simp [listed, copyCmd]⟩, rfl, rfl, rfl, rfl, by decide, by decide, by decide, ?_⟩
    all_goals first
      | exact ⟨0, _, ⟨.inl ⟨by decide, rfl, rfl⟩, rfl⟩, by decide, by decide⟩
      | exact ⟨4, _, ⟨.inr ⟨by decide, by decide⟩, rfl⟩, by decide, by decide⟩

/-- The faults of a row command's words at core 0. -/
def rowFaultOf (k : Core) (fcsr : Fcsr) (kind : RowKind) (rc addrs word : Nat) : Option TrapCause :=
  (ready user k tableStation).rowFault 0 kind (BitVec.ofNat 64 rc) (BitVec.ofNat 64 addrs) (BitVec.ofNat 64 word) fcsr

/-- Row commands whose checks pass, and for each check of R209 words that fail it. -/
theorem witness_RowCommandsEnterTheUnit :
    (∀ p ∈ [(RowKind.get, 1, 0x100, 0x50000), (.put, 1, 0x100, 0x50000), (.add, 0x200, 0x100, 0), (.axpy, 0, 0x100, 0),
        (.scale, 0, 0x100, 0), (.dot, 0, 0x100, 0), (.cvt, 0, 0x100, 0x200000), (.zero, 0, 0x100, 0), (.copy, 0, 0x100, 0),
        (.topk, 1, 0x100, 0)],
      let s := ready user (locked 3 Core.reset) tableStation
      s.rowFault 0 p.1 (BitVec.ofNat 64 p.2.1) (BitVec.ofNat 64 p.2.2.1) (BitVec.ofNat 64 p.2.2.2) user.fcsr = none ∧
      (rowRanges p.1 (Desc.ofImage (if p.1 = .get ∨ p.1 = .put then image else [])) (BitVec.ofNat 64 p.2.1) (BitVec.ofNat 64 p.2.2.1)
        (BitVec.ofNat 64 p.2.2.2)).length ≤ 16 - (s.coreAt 0).locksHeld) ∧
    (let s := ready user (locked 0 Core.reset) tableStation
     ¬ 1 ≤ 16 - (s.coreAt 0).locksHeld) ∧
    Executes (ready user (locked 3 Core.reset) tableStation) user [6, 7, 8] [6, 7, 8] ∧
    Executes (ready user (locked 3 Core.reset) tableStation) user [6, 7] [7] ∧
    (∀ p ∈ [(RowKind.zero, 0, 0, 0x40000000, precise 16 0x40000000 0x20 0), (.add, 0, 0, 0x4000, precise 16 0x4000 0x20 0),
        (.cvt, 0, 0, 0, precise 16 0 0x20 0), (.add, 0, 0, 0x50000, precise 16 0x50000 0x20 0),
        (.add, 0, 0, 0x70000, precise 16 0x70000 0x20 0), (.zero, 0, 0x40000, 0, precise 16 0x40000 0x20 0),
        (.add, 0x40000, 0, 0, precise 16 0x40000 0x20 0), (.topk, 0, 0, 0, precise 16 0 0x20 0),
        (.get, 0, 0, 0x60000, precise 16 6 0x21 0), (.get, 0, 0, 0x38050000, precise 16 0x38050000 0x22 0),
        (.zero, 0, 1, 0, precise 4 1 0 0), (.zero, 0, 0x3FFFC, 1, precise 6 0x3FFFC 5 0), (.zero, 0, 0x30000, 0, precise 7 0x30000 0 0),
        (.get, 0, 0x30000, 0x50000, precise 7 0x30000 0 0)],
      rowFaultOf { Core.reset with locks := [⟨9, 0x30000, 4, none⟩] } ⟨5, user.fcsr.flags⟩ p.1 p.2.1 p.2.2.1 p.2.2.2.1 =
        some p.2.2.2.2) :=
  ⟨by decide, by decide, ready_executes _ _ rfl rfl rfl rfl, ready_executes _ _ rfl rfl rfl rfl, by decide +kernel⟩

def rowCmd (kind : RowKind) (started : Bool) (rc addrs word : Word) (desc : List Word) : RowCmd :=
  { id := 4, thread := ⟨0, 0⟩, kind := kind, rc := rc, addrs := addrs, word := word, rm := 0, desc := desc, ev := 2
    rcReg := 6, user := true, ctx := 1, tag := 1, issued := 0, started := started, heldSince := none, answer := none
    seen := [], dev := none, out := [], ending := none }
/-- The same machine with a command in core 0's row unit. -/
def rowUnit (k : Core) (c : RowCmd) : State :=
  tabled { waitingReplies 1 with owed := [⟨4, .dot, 6, none, false⟩] } { k with rows := [c] } tableStation

theorem witness_RowCommandsStartAndComplete :
    (∀ c ∈ [rowCmd .zero false 0 0x3FFFC 0 [], rowCmd .zero true 0 0x3FFFC 0 [], rowCmd .copy true 0 0x2000003FFFC 0 [],
        rowCmd .add true 0x3FFFC 0x2000000100 0 [], rowCmd .axpy true 0 0x2000000100 0 [], rowCmd .scale true 0 0x2000000100 0 [],
        rowCmd .cvt true 0 0x2000000100 0x200000 [], rowCmd .dot true 0 0x2000000100 0 [],
        rowCmd .topk true 0x30000000001 0x2000000100 1 [], rowCmd .get true 0xFFFFFFFF 0x100 0x50000 image,
        rowCmd .put true 0xFFFFFFFF 0x100 0x50000 image, rowCmd .get true 3 0x100 0x50000 image, rowCmd .put true 3 0x100 0x50000 image,
        rowCmd .get true 2000 0x100 0x50000 image, rowCmd .put true 2000 0x100 0x50000 image],
      let s := rowUnit Core.reset c
      (s.coreAt 0).rows = [c] ∧ c.thread.core = 0 ∧ c.thread.slot < 64 ∧ (s.ctxOfStation 0).isSome = true ∧
      (s.threadAt c.thread).isSome = true ∧ (s.coreAt 0).badParity 0x100 16 = false ∧ (s.coreAt 0).badParity 0x3FFFC 4 = false ∧
      (s.coreAt 0).badParity 0x200 4 = false ∧ c.answer = none ∧ c.seen = [] ∧ c.out = [] ∧ c.ending = none ∧ c.heldSince = none ∧
      (∀ w ∈ s.rowWaits, w.cmd ≠ c.id) ∧ (∀ w ∈ s.replicas, w.cmd ≠ c.id)) ∧
    (∀ kind ∈ [RowKind.get, .put],
      let c (rc : Word) := rowCmd kind true rc 0x100 0x50000 image
      (c 0xFFFFFFFF).index = (c 0xFFFFFFFF).d.missing ∧ (c 2000).d.rows ≤ (c 2000).index ∧ (c 2000).d.oob = false ∧
      (c 2000).index ≠ (c 2000).d.missing ∧ (c 3).index < (c 3).d.rows ∧ (c 3).index ≠ (c 3).d.missing) ∧
    (let c := rowCmd .put true 3 0x100 0x50000 image
     let s := rowUnit Core.reset c
     let a := agentOf (.row 0 c.id)
     let r := (s.touchRoute (s.rowWay a c.d 3 true)).lookupRow a c.d 3
     let u := (s.touchRoute (s.rowWay a c.d 3 false)).updateRow a c.d 3 false (List.replicate 16 0) 4 0
     s.routeOpen (s.rowWay a c.d 3 true) = true ∧ s.routeOpen (s.rowWay a c.d 3 false) = true ∧ s.accesses = [] ∧
     r.1 = .row (List.replicate 16 0) ∧ r.2.replicas = [] ∧ u.1 = .done ∧ u.2.replicas = []) ∧
    (let c := rowCmd .get true 3 0x100 0x50000 image
     let s := tabled user { Core.reset with rows := [c] } { tableStation with router := .asleep }
     s.routeOpen (s.rowWay (agentOf (.row 0 c.id)) c.d 3 true) = false) ∧
    (let c := { rowCmd .get true 3 0x100 0x50000 podImage with dev := some 1 }
     let s := { rowUnit Core.reset c with pkg := { Package.reset with inPod := true } }
     let r := s.lookupRow { agentOf (.row 0 c.id) with dev := some 1 } c.d 3
     r.1 = .remote 1 ∧ r.2.linked 1 = false ∧ r.2.replicas = []) ∧
    (let c := rowCmd .get true 3 0x100 0x50000 image
     (mapped.lookupRow (agentOf (.row 0 c.id)) c.d 3).1 = .failed 3 ∧
     (mapped.updateRow (agentOf (.row 0 c.id)) c.d 3 false (List.replicate 16 0) 4 0).1 = .failed 3) ∧
    ({ Core.reset with spadBad := [0x20] } : Core).badParity 0x100 16 = true ∧
    (let c := rowCmd .put true 2000 0x100 0x50000 [0x100000, 0x400, 0xFFFFFFFF, 0x100000, 0, 0x10204, 0, 0]
     c.d.oob = true ∧ c.d.rows ≤ c.index ∧
     ((rowUnit Core.reset c).engineRead (agentOf (.row 0 c.id)) c.d.dflt 16 true).1 = .row (List.replicate 16 0)) ∧
    (decodeF .fp32 0x3F800000).isNumber ∧ (decodeF .fp32 0x7FC00000).isNan = true ∧ (decodeF .fp32 0x7F800000).cls = .inf ∧
    (decodeF .fp32 0).cls = .zero := by
  refine ⟨?_, ?_, ?_, ?_, ?_, ?_, ?_, ?_, .inl ?_, ?_, ?_, ?_⟩ <;> decide +kernel

def tagged (tag : Nat) (poison : List Nat) (s : State) : State :=
  { s with phys := { s.phys with tags := [(0x400, tag), (0x800, tag)], poison := poison } }

theorem witness_RowsBetweenDevicesAndReplicas :
    (∀ p ∈ [(1, []), (0, []), (2, []), (1, [0x800])],
      let s := tagged p.1 p.2 (tabled user Core.reset tableStation)
      let r := s.translateIn (.row 0 4) 0 1 0x100030 .load true false
      s.region 0x100030 = .paged ∧ r.1 = .pa 0x20030 ∧ r.2.folds = [] ∧ r.2.replicas = [] ∧ r.2.lates = [] ∧ r.2.accesses = [] ∧
      r.2.phys.uncorr = [] ∧ r.2.sec.tagState 1 ≠ .dead ∧ r.2.phys.lineTag 0x800 = p.1 ∧ r.2.phys.poison = p.2 ∧
      s.folds = [] ∧ s.accesses = [] ∧ s.phys.uncorr = [] ∧ s.phys.lineTag 0x800 = p.1 ∧ s.phys.poison = p.2) ∧
    (mapped.translateIn (.row 0 4) 0 1 0x100030 .load true false).1 = .fault 5 1 4 ∧
    ((mappedAs 0x1007F).translateIn (.row 0 4) 0 1 0x10000 .load true false).1 = .held ∧
    (let f : PendingFold := ⟨1, 0x1000, false, [0, 0, 0, 0], 0, 0⟩
     let s := { State.reset with folds := [f, { f with id := 2 }] }
     s.folds.find? (fun g => g.id == 1) = some f ∧
     s.folds.filter (fun g => overlaps g.pa g.row.length f.pa f.row.length) = [f, { f with id := 2 }]) ∧
    (let f := replica (some 0x20030) none 1
     let g := replica (some 0x20030) none 2
     [g, f] = [g] ++ f :: [] ∧ g.id ≠ f.id ∧ f.failed = none ∧ g.failed = none ∧ g.agent.ctx = f.agent.ctx ∧
     overlaps g.va g.row.length f.va f.row.length = true ∧
     (tabled user Core.reset tableStation).routeOpen (routeOf 0 (homeStation 0x20030)) = true ∧
     (tabled user Core.reset { tableStation with router := .asleep }).routeOpen (routeOf 0 (homeStation 0x20030)) = false ∧
     ((tabled user Core.reset tableStation).updateAt f.agent 0x20030 f.add f.dbl 0 f.row).1 = .done ∧
     ((tagged 1 [0x800] (tabled user Core.reset tableStation)).updateAt f.agent 0x20030 f.add f.dbl 0 f.row).1 = .failed 5) ∧
    (replica none (some 0) 1).heldSince = some 0 ∧
    (mapped.routeOpen (mapped.walkRoute 0 1 0x100030) = true) ∧
    (let moved (m : State) (va : Nat) := (m.touchRoute (m.walkRoute 0 1 va)).translateIn (.replica 1) 0 1 va .both true false
     (moved (tabled user Core.reset tableStation) 0x100030).1 = .pa 0x20030 ∧ (moved (mappedAs 0x1007F) 0x10000).1 = .held ∧
     (moved mapped 0x100030).1 = .fault 5 1 4) ∧
    (∀ addr ∈ [0x100030, 0x10000, 0x110000, 0x40000100000],
      let q : RowReq := ⟨1, 0, 1, 0, 0, addr, 5, 0, 4⟩
      let m := tabled user Core.reset tableStation
      let s := { m with
        host := { m.host with podpair := 2 }, pkg := { m.pkg with inPod := true }
        phys := { m.phys with ram := m.phys.ram.writeBytes 0x8008 (bytesLE 8 0x1007F) } }
      let s0 : State := { s with nextId := s.nextId + 1 }
      let a : RowAgent := ⟨s.homeOf 1, 1, 1, false, 0xFFFFFFFF#32, .serve s.nextId, none, s.time.toNat⟩
      s.ctxAt q.ctx = some context ∧ m.host.podpair.toNat / 2 ^ q.ctx % 2 = 0 ∧ s.host.podpair.toNat / 2 ^ q.ctx % 2 = 1 ∧
      q.w ≠ 7 ∧ s0.routeOpen (s0.wayTo a q.addr) = true ∧
      ((s0.touchRoute (s0.wayTo a q.addr)).engineRead a addr 16 true).1 =
        if addr = 0x100030 then .row (List.replicate 16 0) else if addr = 0x10000 then .held
        else if addr = 0x110000 then .failed 3 else .remote 1) ∧
    (let q : RowReq := ⟨1, 0, 1, 0, 0, 0x10000, 5, 0, 4⟩
     let m := tabled user Core.reset { tableStation with router := .asleep }
     let r : RowServe := ⟨6, 0, .lookup q⟩
     let s := { m with serves := [r], held := [⟨.serve 6, m.homeOf 1, 1, 0x10000⟩], time := 1023 }
     m.routeOpen (m.wayTo ⟨m.homeOf 1, 1, 1, false, 0xFFFFFFFF#32, .serve m.nextId, none, 0⟩ q.addr) = false ∧
     s.serves.find? (fun y => y.id == r.id) = some r ∧ (∃ e ∈ s.held, e.who = .serve r.id) ∧ s.time.toNat < r.since + 1024 ∧
     r.since + 76000 ≤ { s with time := 76000 }.time.toNat) ∧
    (let c := listed .gather [3] none [(0, .requested)]
     let w : RowWait := ⟨6, 0, 4, 0, 0x100030, 0, false, none⟩
     let s := { ready user Core.reset { tableStation with copies := [c] } with rowWaits := [w] }
     s.rowWaits.find? (fun x => x.reqid == w.reqid && !x.update) = some w ∧ s.copyAt w.station w.cmd = some c ∧
     w.addr ≠ 0x100040 ∧ w.addr = 0x100030) := by
  refine ⟨?_, ?_, ?_, ?_, ?_, ?_, ?_, ?_, ?_, ?_, ?_⟩ <;> decide +kernel

/-! ### Premises of the statements about the slice array, the step, translation, queues, partitions, the host and the package -/

/-- A station whose slot 63 is o and whose tile 15 is t. -/
def arrayStation (o : OpSlot) (t : Tile) (array : List ArrCmd) : Station :=
  { Station.reset with slots := [(63, o)], tiles := [(15, t)], array := array }
def claimed : OpSlot := { OpSlot.reset with claim := some ⟨0, 0⟩ }
def openTile : Tile := { Tile.reset with state := .opened }
def arrCmd (kind : ArrKind) (tile ctl : Nat) (started ready : Bool) : ArrCmd :=
  { id := 4, thread := ⟨0, 0⟩, kind := kind, tile := tile, slot := 0, rc := 0, addrs := 0, ctl := ctl, ev := 0, rm := 0
    issued := 0, started := started, pair := 0, ready := ready, seen := [], out := [], ending := none, closed := false }

theorem witness_SlotsTilesAndSummaries :
    Executes (regs []) user [] [] ∧
    (agetD ((regs []).stationAt 0).slots 63 OpSlot.reset).claim = none ∧
    (agetD ((ready user Core.reset (arrayStation claimed openTile [])).stationAt 0).slots 63 OpSlot.reset).claim = some ⟨0, 0⟩ ∧
    (agetD ((ready user Core.reset (arrayStation { claimed with state := .releasing } openTile [])).stationAt 0).slots 63
      OpSlot.reset).state = .releasing ∧ claimed.state ≠ .releasing ∧
    (let s := ready user (withRegs [(5, 0x1FFF)]) (arrayStation claimed openTile [])
     (s.g 5).toNat < 2 ^ 13 ∧ Executes s user [3, 5] [5] ∧ Executes s user [4, 5] [4, 5] ∧
     (∀ c ∈ (s.stationAt 0).array, 15 ∉ c.tiles) ∧ ((s.stationAt 0).tileAt 15).state ≠ .empty ∧
     ((s.stationAt 0).tileAt 14).state = .empty) ∧
    2 ^ 13 ≤ (0x2000 : Word).toNat ∧
    (let s := ready user (withRegs [(5, 0x1FFF)]) (arrayStation claimed openTile [arrCmd .mzero 15 0 true false])
     Executes s user [3, 5] [5] ∧ (∃ c ∈ (s.stationAt 0).array, 15 ∈ c.tiles) ∧ Executes s user [3] [] ∧ Executes s user [0] [] ∧
     (s.stationAt 0).array.filter (fun c => c.tiles.contains 15) ≠ [] ∧ ∀ c ∈ (s.stationAt 0).array, c.issued < 1 ∧ ¬ c.issued < 0) ∧
    (∀ halted ∈ [false, true],
     let q : TileReq := ⟨false, 3, 15, 4095, true, 0⟩
     let th : Thread := { user with wait := some (.tile q), halted := halted }
     let s := ready th Core.reset (arrayStation claimed openTile [])
     s.threadAt ⟨0, 0⟩ = some th ∧ s.hasSlots ⟨0, 0⟩ = !halted) ∧
    (∀ failure ∈ [none, some (16, 15, 0x36)],
     let th : Thread := { user with wait := some (.array 3 9 failure) }
     (ready th Core.reset Station.reset).threadAt ⟨0, 0⟩ = some th ∧ th.dbg.ss = false ∧ th.stepsLeft = none) ∧
    (let o : Owed := ⟨4, .mstat, 6, some 3, false⟩
     let th : Thread := { user with owed := [o] }
     th.owed.find? (fun x => x.id == o.id) = some o) := by
  refine ⟨user_executes _ _ _, ?_, ?_, ?_, ?_, ⟨?_, ready_executes _ _ rfl rfl rfl rfl, ready_executes _ _ rfl rfl rfl rfl,
    ?_, ?_, ?_⟩, ?_, ⟨ready_executes _ _ rfl rfl rfl rfl, ?_, ready_executes _ _ rfl rfl rfl rfl,
    ready_executes _ _ rfl rfl rfl rfl, ?_⟩, ?_, ?_, ?_⟩ <;> decide +kernel

/-- The faults of an array command's words of the thread of slot 0, which claims slot 63. -/
def arrayFaultOf (k : Core) (kind : ArrKind) (rc addrs word tile slot : Nat) : Option TrapCause :=
  (ready user k (arrayStation claimed openTile [])).arrayFault ⟨0, 0⟩ user kind (BitVec.ofNat 64 rc) (BitVec.ofNat 64 addrs)
    (BitVec.ofNat 64 word) tile slot

/-- Control words: mload of s 1, j 1 into slot 63; msplit of s 1 of FP32; mslice of s 1 with B in slot 63; mcomb of tile 15; then
for each check words that fail it. -/
theorem witness_ArrayCommandsAreAccepted :
    (∀ p ∈ [(ArrKind.mload, 0x3F800000, 0x100000000000, 0x21F90000, 0, 0), (.msplit, 0x3F800000, 0x100000000000, 0x21F80000, 0, 0),
        (.mmul, 0, 0, 0x3F00, 15, 63), (.mslice, 0, 0, 0x3F01, 15, 63), (.mcomb, 0, 0x1000, 0x0F000000, 0, 0), (.mzero, 0, 0, 0, 15, 0),
        (.mdrain, 0, 0x100000000000, 0x0F000000, 0, 0)],
      arrayFaultOf (locked 2 Core.reset) p.1 p.2.1 p.2.2.1 p.2.2.2.1 p.2.2.2.2.1 p.2.2.2.2.2 = none ∧
        2 ≤ 16 - (locked 2 Core.reset).locksHeld) ∧
    arrayFaultOf (locked 0 Core.reset) .mzero 0 0 0 15 0 = none ∧ ¬ 1 ≤ 16 - (locked 0 Core.reset).locksHeld ∧
    Executes (ready user (locked 2 Core.reset) (arrayStation claimed openTile [])) user [6, 7, 8] [6, 7, 8] ∧
    Executes (ready user (locked 2 Core.reset) (arrayStation claimed openTile [])) user [] [] ∧
    (∀ p ∈ [(ArrKind.mload, 0, 0, 0x121F90000, 0, 0, precise 16 0x121F90000 0x30 0),
        (.msplit, 0, 0x8000000000000000, 0x21F80000, 0, 0, precise 16 0x8000000000000000 0x30 0),
        (.mmul, 0, 0, 0x80000000, 15, 63, precise 16 0x80000000 0x30 0), (.mslice, 0, 0, 0x3F00, 15, 63, precise 16 0x3F00 0x30 0),
        (.mcomb, 0, 0, 0x80000000, 0, 0, precise 16 0x80000000 0x30 0), (.mcomb, 0, 0x40000, 0x0F000000, 0, 0, precise 16 0x40000 0x30 0),
        (.mdrain, 0x8000000000000000, 0, 0x0F000000, 0, 0, precise 16 0x8000000000000000 0x30 0),
        (.mload, 0, 0, 0x21F10000, 0, 0, precise 18 62 1 0), (.mload, 0, 0, 0x21F90000, 0, 0, precise 16 0 0x31 0),
        (.mload, 0x3F800000, 1, 0x21F90000, 0, 0, precise 4 1 0 0), (.mload, 0x3F800000, 0x3F000, 0x21F90000, 0, 0, precise 6 0x3F000 5 0),
        (.mload, 0x3F800000, 0x30000, 0x21F90000, 0, 0, precise 7 0x30000 0 0),
        (.mdrain, 0, 0x100100000000, 0x0F000000, 0, 0, precise 4 0x1001 0 0),
        (.mdrain, 0, 0x3FFF800000000, 0x0F000000, 0, 0, precise 6 0x3FFF8 5 0),
        (.mdrain, 0, 0x100000040000, 0x0F000000, 0, 0, precise 6 0x100000040000 5 0),
        (.mdrain, 0, 0x3000000000000, 0x0F000000, 0, 0, precise 7 0x30000 0 0)],
      arrayFaultOf { Core.reset with locks := [⟨9, 0x30000, 4, none⟩] } p.1 p.2.1 p.2.2.1 p.2.2.2.1 p.2.2.2.2.1 p.2.2.2.2.2.1 =
        some p.2.2.2.2.2.2) :=
  ⟨by decide, by decide, by decide, ready_executes _ _ rfl rfl rfl rfl, ready_executes _ _ rfl rfl rfl rfl, by decide +kernel⟩

/-- A loaded slot of a side, and a station with an A slot 0, a B slot 63 and tiles 14 and 15. -/
def slotOf (sideB : Bool) : OpSlot :=
  { claimed with state := .loaded, sideB := sideB, s := 1, j := 1, exps := [], data := List.replicate 64 (List.replicate 128 0) }
def sliceStation (state : TileState) (array : List ArrCmd) : Station :=
  { Station.reset with
    slots := [(0, slotOf false), (63, slotOf true)], tiles := [(15, { Tile.reset with state := state, rowE := [], colE := [] })]
    array := array }
def hubStation (n : Nat) : Station := { Station.reset with dyn := List.replicate n (postInst 0 (postWord 1) 0 0 0) }

theorem witness_ArrayCommandsStartAndComplete :
    (∀ c ∈ [arrCmd .mzero 15 0 false false, arrCmd .mslice 15 0x3F01 false false, arrCmd .mload 0 0x21F90000 false false],
      let earlier : ArrCmd := { arrCmd .mload 0 0x21F90000 true false with id := 3 }
      ((ready user Core.reset (arrayStation claimed openTile [earlier, c])).stationAt 0).array = [earlier] ++ c :: [] ∧
      earlier.id ≠ c.id) ∧
    (arrayStation claimed openTile [arrCmd .mzero 15 0 false false]).mayStart (arrCmd .mzero 15 0 false false) = true ∧
    (arrayStation claimed openTile [arrCmd .mzero 15 0 true false]).mayStart (arrCmd .mzero 15 0 true false) = false ∧
    (sliceStation .empty [arrCmd .mslice 15 0x3F01 false false]).mayStart (arrCmd .mslice 15 0x3F01 false false) = true ∧
    ((slotOf false).Holds (slotOf false) 0 1 false ∧ (slotOf true).Holds (slotOf true) 0 1 true ∧
      Tile.reset.Takes (slotOf false) (slotOf true) 2 ∧ ¬ openTile.Takes (slotOf false) (slotOf true) 2) ∧
    ((ready user Core.reset (arrayStation claimed openTile [])).ctxOfStation 0).isSome = true ∧
    (ready user Core.reset (arrayStation claimed openTile [])).ctxOfStation 1 = none := by
  refine ⟨by decide, by decide, by decide, by decide +kernel, ⟨?_, ?_, .inl rfl, ?_⟩, by decide, by decide⟩
  · exact ⟨by decide, by decide, rfl, rfl, rfl, rfl, rfl, rfl, rfl, rfl⟩
  · exact ⟨by decide, by decide, rfl, rfl, rfl, rfl, rfl, rfl, rfl, rfl⟩
  · rintro (h | h)
    · exact absurd h (by decide)
    · exact absurd h.2.1 (by decide)

/-- A load's source that is bad, whose element 0 fails, or that loads; then operands and tiles that a product takes or not. -/
theorem witness_ArrayCommandsComplete :
    (∀ c ∈ [arrCmd .mload 0 0x21F90000 true false, arrCmd .msplit 0 0x21F80000 true false, arrCmd .mmul 15 0x3F00 true false,
        arrCmd .mzero 15 0 true false, arrCmd .mslice 15 0x3F01 true true, arrCmd .mslice 15 0x3F01 true false,
        arrCmd .mcomb 0 0x0F000000 true false, arrCmd .mdrain 0 0x0F000000 true false],
      ((ready user Core.reset (sliceStation .empty [c])).stationAt 0).array.find? (fun x => x.id == c.id) = some c ∧
      c.started = true ∧ c.seen = [] ∧ c.out = [] ∧ c.ending = none ∧ c.closed = false ∧ c.thread.slot < 64 ∧ c.rm ≤ 4 ∧
      (c.kind ∈ [.mcomb, .mdrain] → fld c.ctl 21 20 ≠ 3)) ∧
    (arrCmd .mload 0 0x21F90000 true false).BadWord { Core.reset with spadBad := [0] } 0 ∧
    (∀ w, ¬ (arrCmd .mload 0 0x21F90000 true false).BadWord Core.reset w) ∧
    (arrCmd .mload 0 0x21F90000 true false).FailsAt { Core.reset with spad := [(1, 1)] } 0 0 0x32 ∧
    (∀ i < 64, ∀ e sub, ¬ (arrCmd .mload 0 0x21F90000 true false).FailsAt Core.reset i e sub) ∧
    ((slotOf false).state ≠ .empty ∧ (slotOf false).data ≠ [] ∧ (slotOf false).sideB = false ∧ (slotOf true).sideB = true ∧
      Tile.reset.Takes (slotOf false) (slotOf true) 2 ∧ ¬ openTile.Takes (slotOf false) (slotOf true) 2 ∧
      OpSlot.reset.state = .empty) ∧
    (sliceStation .opened [arrCmd .mslice 15 0x3F01 true true]).runningSlice = some (arrCmd .mslice 15 0x3F01 true true) ∧
    (∀ p q, (p, q) ∈ [(1, 1)] ↔ 1 ≤ p ∧ p ≤ 1 ∧ 1 ≤ q ∧ q ≤ 1 ∧ (false = false → p + q ≤ 1 + 1)) ∧
    (∀ abort ∈ [false, true], ({ Mcur.reset with abort := abort } : Mcur).abort = abort) ∧
    (¬ (slotOf true).Holds (slotOf false) 0 1 true) ∧
    (∀ st ∈ [TileState.opened, .incomplete],
      ((ready user Core.reset (sliceStation st [])).stationAt 0).tileAt 15 = { Tile.reset with state := st, rowE := [], colE := [] }) ∧
    (∀ n ∈ [63, 64],
      let c := { arrCmd .mdrain 0 0x0F000000 true true with ending := some none, rc := postWord 1 }
      (ready user { Core.reset with peersOpen := true } (hubStation n)).stationAt 0 = hubStation n ∧ (hubStation n).dyn.length = n ∧
      c.rc ≠ 0 ∧ c.ending = some none) ∧
    (let c := arrCmd .mdrain 0 0x0F000000 true false
     64 * 8 ≤ c.pitch (64 * 8) ∧ 0 + 63 * c.pitch (64 * 8) + 64 * 8 ≤ 2 ^ 18) ∧
    ({ Core.reset with peersOpen := true } : Core).lost = false ∧ Core.reset.peersOpen = false := by
  have zero (a n : Nat) : Core.reset.spad.readLE a n = 0 := by
    show ofBytesLE (Memory.readBytes [] a n) = 0
    induction n generalizing a with
    | zero => rfl
    | succ n ih =>
      have h : Memory.read [] a = 0 := rfl
      simp [Memory.readBytes, ofBytesLE, ih, h]
  refine ⟨?_, ?_, ?_, ?_, ?_, ?_, ?_, ?_, ?_, ?_, ?_, ?_, ?_, ?_, ?_⟩
  · decide +kernel
  · exact ⟨by decide, .inl ⟨0, by decide, by decide +kernel⟩⟩
  · exact fun w h => nomatch h.1
  · exact ⟨by decide, .inr (.inr ⟨rfl, rfl, by decide +kernel⟩)⟩
  · rintro i - e sub ⟨-, ⟨-, h, -⟩ | ⟨-, h, -⟩ | ⟨-, -, h⟩⟩
    · exact absurd h (by decide)
    · exact absurd h (by decide)
    · simp [ArrCmd.container, ArrCmd.rowNumber, zero] at h
  · refine ⟨by decide, ?_, rfl, rfl, .inl rfl, ?_, rfl⟩
    · exact List.cons_ne_nil _ _
    · rintro (h | h)
      · exact absurd h (by decide)
      · exact absurd h.2.1 (by decide)
  · decide +kernel
  · intro p q
    simp only [List.mem_singleton, Prod.mk.injEq]
    omega
  · decide
  · exact fun h => absurd h.2.2.1 (by decide)
  all_goals decide +kernel

theorem witness_EncodingAndDecodingAgree :
    Instr.hasEncoding (.msliceLong ⟨15, 63, 15, 0xFFFFFFFF⟩) = true ∧ Instr.wf (.msliceLong ⟨15, 63, 15, 0xFFFFFFFF⟩) = true ∧
    (decodeWords 0xFFFFFFFF 0xFFFFFFFF).isOk = false ∧ (decodeWords 0xA4000001 0).isOk = true := by decide

/-- One word for each clause; the last word of a range where the clause has one. -/
theorem witness_ReservedWordsAreRefused :
    ∀ w ∈ [0, 0xF6000000, 0x0200000B, 0xFC000003, 0x90000500, 0x94000180, 0x4C000003, 0x4E000004, 0x50000001, 0xFE000000,
        0xFE000008, 0xFE0005D0, 0x40000005, 0x54000006, 0x52000000, 0x52000600, 0x52000050, 0x52000220, 0x70000018, 0x8E000004,
        0x200007E1, 0x9A000000, 0x90000480, 0x90240480, 0xD9000000, 0xE0020000, 0xE0400000, 0xEA008000, 0xAA000007],
      w < 2 ^ 32 ∧ firstWordIllegal w = true := by decide

/-- The small machine whose thread has the line of a word in its fetch register, or in its core's cache; and a long form over
two lines. -/
def lineOf (base : Nat) (off : Nat) (w : Nat) : FetchLine :=
  ⟨base, List.replicate off 0 ++ bytesLE 4 w ++ List.replicate (60 - off) 0⟩
def fetching (fetch : Option FetchLine) (icache : List ICacheLine) (pc : Word) : State :=
  ready { user with fetch := fetch, pc := pc } { Core.reset with icache := icache } Station.reset

theorem witness_StepRunsTheDecodedInstruction :
    (∀ s ∈ [fetching (some (lineOf 0x10000 0 0x02183070)) [] 0x10000,
        { fetching (some (lineOf 0x10000 0 0x02183070)) [] 0x10000 with schedule := [⟨0, .cycle 0⟩] },
        fetching none [⟨1, 0x10000, (lineOf 0x10000 60 0xFE140001).bytes⟩, ⟨1, 0x10040, List.replicate 64 0⟩] 0x1003C],
      let s1 : State := { State.pass { s with schedule := [] } 1 with free := s.free + 1, phase := 0 }
      (s.schedule = [] ∨ s.schedule = [⟨0, .cycle 0⟩]) ∧ s.sampleDue ⟨1, .cycle 0⟩ = none ∧
      ({ s with schedule := [] } : State).sampleDue ⟨0, .cycle 0⟩ = none ∧ (s1.ctxOfStation 0).isSome = true ∧ (s.coreAt 0).stopped = false ∧
      (s.coreAt 0).lost = false ∧ (s.coreAt 0).position < 8 * 2 ^ (s.coreAt 0).rotLen.toNat ∧
      (s.threadAt ⟨0, 0⟩).map (fun th => [th.halted, th.win.lent, (s1.tryInterrupt ⟨0, 0⟩ th).isSome, th.wait.isSome, th.dbg.skip]) =
        some [false, false, false, false, false]) ∧
    ((listening ControlPage.reset listener).tryInterrupt ⟨0, 0⟩ listener).isSome = true ∧
    (let th : Thread := { user with wait := some .granted }
     let s := ready th Core.reset Station.reset
     (s.tryInterrupt ⟨0, 0⟩ th).isSome = false ∧ (s.endWait ⟨0, 0⟩ th).isSome = true) ∧
    ((decodeBytes ((lineOf 0x10000 0 0x02183070).bytes.drop (0x10000 % 64))).map Prod.fst).toOption = some (.add ⟨6, 6, 7⟩) ∧
    (0x1003C % 64 = 60 ∧ isLong (ofBytesLE ((lineOf 0x10000 60 0xFE140001).bytes.drop 60)) = true ∧
      ((decodeBytes ((lineOf 0x10000 60 0xFE140001).bytes.drop 60 ++ List.replicate 64 0)).map Prod.fst).toOption =
        some (.addiLong ⟨5, 0, 0⟩)) ∧
    (let s := { State.reset with schedule := [⟨3, .event (.heartbeat 0)⟩] }
     s.schedule = [⟨3, .event (.heartbeat 0)⟩] ∧ ({ s with schedule := [] } : State).sampleDue ⟨3, .event (.heartbeat 0)⟩ = none) ∧
    Instr.hasEncoding (.heartbeat 0) = false ∧ Instr.hasEncoding (.mcurAbort 0) = false ∧
    ((ready user Core.reset { Station.reset with viewed := some 0 }).stationAt 0).viewed = some (regs []).time.toNat ∧
    (let x : Context := { context with trace := ⟨true, 0x10000, 12, false, 10, 0, 0, none, [(0, 0)]⟩ }
     let s := { regs [] with ctxs := [(1, x)], schedule := [⟨2000, .cycle 0⟩] }
     ({ s with schedule := [] } : State).sampleDue ⟨2000, .cycle 0⟩ = some (0, 1024) ∧
     ({ s with schedule := [] } : State).sampleDue ⟨1024, .cycle 0⟩ = none) ∧
    ((regs []).threadAt ⟨0, 1⟩ = none ∧ user.wait = none ∧ ((regs []).tryInterrupt ⟨0, 0⟩ user).isSome = false ∧
     (ready (waiter false) Core.reset Station.reset).threadAt ⟨0, 0⟩ = some (waiter false) ∧
     ((ready (waiter false) Core.reset Station.reset).endWait ⟨0, 0⟩ (waiter false)).isSome = false ∧
     (match (ready (waiter false) Core.reset Station.reset).polled ⟨0, 0⟩ (waiter false) with
      | .stopped _ => true
      | _ => false) = true) ∧
    (let th : Thread := { alarmed with wait := some .interrupt }
     let s := ready th Core.reset Station.reset
     s.threadAt ⟨0, 0⟩ = some th ∧ th.halted = false ∧ s.threadRuns ⟨0, 0⟩ = true ∧ s.pending ⟨0, 0⟩ th ≠ 0) := by decide +kernel

theorem witness_FetchStopsBeforeAnInstruction :
    (0x10001 : Word).toNat % 4 ≠ 0 ∧ 2 ^ 56 ≤ (0x100000000000000 : Word).toNat ∧
    (let s := fetching none [] 0x10000
     ∀ l ∈ (s.coreAt 0).icache, l.ctx ≠ 1 ∨ l.base ≠ 0x10000 / 64 * 64) ∧
    firstWordIllegal (ofBytesLE (((lineOf 0x10000 0 0).bytes.drop (0x10000 % 64)).take 4)) = true ∧
    (let th : Thread := { user with fetch := some (lineOf 0x10000 0 0), dbg := { user.dbg with ben := 8 } }
     let s := ready th { Core.reset with breaks := [(3, ⟨true, 0x10000⟩)] } Station.reset
     s.threadAt ⟨0, 0⟩ = some th ∧ th.status.mode = .user ∧ th.dbg.skip = false ∧ th.dbg.ben.getLsbD 3 = true ∧
     aget (s.coreAt 0).breaks 3 = some ⟨true, 0x10000⟩ ∧ ∀ v < 3, th.dbg.ben.getLsbD v = false) := by decide

theorem witness_EveryStepKeepsTheMemoriesCanonical :
    State.memoriesWf mapped = true ∧
    (match step (State.reset.withFetchWord 32 0x02183070) with | .next _ => true | _ => false) = true := by decide +kernel

theorem witness_UserModeKeepsWhatItMayNotWrite :
    Instr.hasEncoding .ecall = true ∧ (regs []).threadAt (regs []).cur = some user ∧ user.status.mode = .user ∧
    (threadAfter .ecall (regs [])).isSome = true := by decide

/-- Page tables whose third-level entry is e3 and whose fourth-level entry for the page 0x10000 is e4. -/
def tables (e3 e4 : Nat) : State :=
  let entry (a v : Nat) (m : Memory) : Memory := m.writeBytes a (bytesLE 8 v)
  { regs [] with
    phys := { Phys.reset with ram := entry 8192 0x4001 (entry 0x4000 0x6001 (entry 0x6000 e3 (entry 0x8008 e4 []))) }
    sec := { Security.reset with memStacks := 0xFFF } }

theorem witness_TranslationWalksThePageTable :
    (∀ e3 ∈ [0x8001, 0x400003F, 0x400007F, 0x400003B, 0x4000037, 0x400002F, 0x400001F, 0x9000000003F],
      let s := tables e3 0x1003F
      s.ctxAt 1 = some context ∧ (s.xlatAt 0).find 1 0x10008 = none ∧
      s.bareRead (context.root * 8192) 8 = .ok (bytesLE 8 0x4001) ∧ s.bareRead 0x4000 8 = .ok (bytesLE 8 0x6001) ∧
      s.bareRead 0x6000 8 = .ok (bytesLE 8 e3)) ∧
    (tables 0x8001 0x1003F).bareRead 0x8008 8 = .ok (bytesLE 8 0x1003F) ∧
    (tables 0x8001 0x1003F).inMap (0x10000 + 8) = true ∧ (tables 0x400003F 0).inMap (0x4000000 + 0x10008) = true ∧
    (tables 0x9000000003F 0).inMap (0x90000000000 + 0x10008) = false ∧
    ((regs []).bareRead (context.root * 8192) 8).toOption = none ∧
    (∀ e3 ∈ [0, 0x40000008001, 0x4010003F, 0x8001], ∀ e4 ∈ [0, 0x4000001003F, 0x10001, 0x1203F, 0x1007F, 0x1003B, 0x9000001003F],
      e3 < 2 ^ 64 ∧ e4 < 2 ^ 64 ∧ (tables e3 e4).bareRead 0x6000 8 = .ok (bytesLE 8 e3) ∧
      (tables e3 e4).bareRead 0x8008 8 = .ok (bytesLE 8 e4)) ∧
    (let y := access .load 2 0x10000 0 (.held 0)
     let s := { mapped with accesses := [y], held := [⟨.access 5, 0, 1, 0x10000⟩] }
     s.behindHeld (.table ⟨0, 0⟩) 0 1 0x10008 = true ∧ s.behindHeld (.access 5) 0 1 0x10008 = false) ∧
    ({ regs [] with sec := { Security.reset with memStacks := 0xFFF } } : State).bareRead 8192 8 = .ok (bytesLE 8 0) := by
  decide +kernel

/-- A queue of context 1 with the packet p at its head. -/
def queued (p : List Word) (waiting : Option Nat) : CmdQueue :=
  { CmdQueue.reset with base := 0x40, ctx := 1, lsize := 6, en := true, tail := 1, packet := some p, waiting := waiting }
def withQueue (k : CmdQueue) (s : State) : State :=
  { s with host := { s.host with ctxtab := 0x1000, queues := [(3, k)] }
           phys := { s.phys with ram := s.phys.ram.writeBytes 0x1040 [1] } }

theorem atHead_of {k : CmdQueue} {s : State} {p : List Word} {type : Nat} {x : Context} (hp : k.packet = some p)
    (h : k.en = true ∧ k.err = 0 ∧ (6 ≤ k.lsize ∧ k.lsize ≤ 16) ∧ (k.tail - k.head).toNat ≤ 2 ^ k.lsize)
    (hx : s.ctxAt k.ctx = some x) (ht : packetType p = type) : AtHead (withQueue k s) 3 k x p type :=
  ⟨rfl, hp, h.1, h.2.1, h.2.2.1, h.2.2.2, hx, ht⟩

def launchPacket (nodes : Nat) : List Word := [0x0100000000000000, 0x10040, BitVec.ofNat 64 nodes, 0, 0, 0, 0, 0]
def signalPacket (a : Word) : List Word := [0x0200000000000000, a, 7, 0, 0, 0, 0, 0]
def waitPacket (v : Word) : List Word := [0x0300000000000000, 0x10000, v, 1, 0, 0, 0, 0]
/-- Node images behind 0x10040: one of one instance of wsize 1, then one with count 0. -/
def launching (nodes : Nat) (open_ : List Nat) : State :=
  let s := withQueue { queued (launchPacket nodes) none with openGraphs := open_ } (tables 0x8001 0x1003F)
  { s with phys := { s.phys with
      ram := (s.phys.ram.writeBytes 0x10040 (bytesLE 8 0x20000)).writeBytes 0x10050 (bytesLE 8 0x01000001)
      tags := [(0x401, 1), (0x402, 1)] } }

/-- One node with a row affinity in a page that is in migration, which the queue has met 76,000 ticks ago. -/
def givingUp : State :=
  let s := launching 1 []
  let k : CmdQueue := { s.queueAt 3 with heldSince := some 0, heldVa := 0x20000 }
  { s with
    host := { s.host with queues := [(3, k)] }, time := 76000
    phys := { s.phys with
      ram := (s.phys.ram.writeBytes 0x8010 (bytesLE 8 0x2007F)).writeBytes 0x10058 (bytesLE 8 0x50002) }
    stations := [(0, { Station.reset with descs := [(5, [0x20000, 0x400, 0xFFFFFFFF, 0, 0, 0x10004, 0, 0])] })] }

theorem witness_PacketsLaunchSignalAndWait :
    (let k : CmdQueue := { queued [] none with packet := none }
     let s := withQueue k (tables 0x8001 0x1003F)
     let bad := { s with phys := { s.phys with ram := s.phys.ram.writeBytes 0x40000 (bytesLE 8 1) } }
     let good := { s with phys := { s.phys with ram := s.phys.ram.writeBytes 0x40000 (bytesLE 8 0x0200000000000000) } }
     s.queueAt 3 = k ∧ k.tail ≠ k.head ∧ (k.tail - k.head).toNat ≤ 2 ^ k.lsize ∧ (s.ctxAt k.ctx).isSome = true ∧
     s.folds = [] ∧ s.phys.uncorr = [] ∧
     ((bad.bareRead 0x40000 64).map (fun bs => packetOk ((chunkNats 8 8 bs).map (BitVec.ofNat 64)))).toOption = some false ∧
     ((good.bareRead 0x40000 64).map (fun bs => packetOk ((chunkNats 8 8 bs).map (BitVec.ofNat 64)))).toOption = some true) ∧
    (launching 1 []).recordValid 1 = true ∧
    ((launching 1 []).readNodes 3 1 0x10040 1 0 1).1.toOption.isSome = true ∧
    ((launching 2 []).readNodes 3 1 0x10040 2 0 2).1.toOption = none ∧
    (let s := givingUp
     let r := s.readNodes 3 1 0x10040 1 0 1
     (match r.1 with | .error (5, 0) => true | _ => false) = true ∧
     r.2.held.find? (fun h => h.who == .packet 3) = some ⟨.packet 3, s.homeOf 1, 1, 0x20000⟩ ∧
     (s.queueAt 3).heldSince = some 0 ∧ (s.queueAt 3).heldVa = 0x20000 ∧ 0 + 76000 ≤ s.time.toNat ∧ s.recordValid 1 = true) ∧
    (let s := withQueue (queued (signalPacket 0x10000) none) (tables 0x8001 0x1003F)
     (s.frontStore (.packet 3) 1 0x10000 7 true).1.toOption.isSome = true ∧ (s.frontStore (.packet 3) 1 0x20000 7 true).1.toOption = none ∧
     (s.frontLoad (.packet 3) 1 0x10000).1.toOption = some 0 ∧
     let r := s.translateIn (.packet 3) (s.homeOf 1) 1 0x10000 .store false false
     r.1 = .pa 0x10000 ∧ r.2.folds = [] ∧ r.2.accesses = [] ∧ s.region 0x10000 = .paged ∧ r.2.phys.lineTag 0x400 = 0) ∧
    (let s := withQueue (queued (signalPacket 0x10000) none) (tables 0x8001 0x1003F)
     let t := { s with phys := { s.phys with poison := [0x400] } }
     (t.translateIn (.packet 3) (t.homeOf 1) 1 0x10000 .store false false).2.phys.poison = [0x400]) ∧
    (let y : Access := { access .store 2 0x10000 0 .travelling with issuer := .front 3 0 }
     let s := withQueue (queued (signalPacket 0x10000) none) { tables 0x8001 0x1003F with accesses := [y] }
     ∃ y ∈ s.accesses, y.issuer = .front 3 0) ∧
    (∀ y ∈ (regs []).accesses, ∀ st, y.issuer ≠ .front 3 st) := by
  refine ⟨?_, ?_, ?_, ?_, ?_, ?_, ?_, ?_, fun _ h => nomatch h⟩ <;> decide +kernel

theorem witness_AtHead :
    AtHead (withQueue (queued (launchPacket 1) none) (tables 0x8001 0x1003F)) 3 (queued (launchPacket 1) none) context
      (launchPacket 1) 1 ∧
    AtHead (withQueue (queued (signalPacket 0x10000) none) (tables 0x8001 0x1003F)) 3 (queued (signalPacket 0x10000) none)
      context (signalPacket 0x10000) 2 ∧
    AtHead (withQueue (queued (waitPacket 0) (some 0)) (tables 0x8001 0x1003F)) 3 (queued (waitPacket 0) (some 0)) context
      (waitPacket 0) 3 ∧
    AtHead (withQueue (queued (waitPacket 1) none) (tables 0x8001 0x1003F)) 3 (queued (waitPacket 1) none) context
      (waitPacket 1) 3 := by
  refine ⟨atHead_of rfl ?_ rfl ?_, atHead_of rfl ?_ rfl ?_, atHead_of rfl ?_ rfl ?_, atHead_of rfl ?_ rfl ?_⟩ <;> decide

def debugPacket (op : Nat) (addr a b status : Word) : List Word :=
  [0x0400000000000000, BitVec.ofNat 64 (op * 2 ^ 56), addr, a, b, status, 0, 0]

/-- A debug request for the thread of slot 0 at the head of queue 3. -/
def asking (op : Nat) (addr a b status : Word) (waiting : Option Nat) (th : Thread) : State :=
  withQueue (queued (debugPacket op addr a b status) waiting)
    { tables 0x8001 0x1003F with cores := [(0, { Core.reset with threads := [(0, th)] })] }

theorem asked_of {op : Nat} {addr a b status : Word} {waiting : Option Nat} {th : Thread}
    (h : let w := (BitVec.ofNat 64 (op * 2 ^ 56)).toNat
      w / 2 ^ 56 % 2 ^ 8 = op ∧ w / 2 ^ 18 % 2 ^ 14 = 0 ∧ placeBad (w % 2 ^ 32) = false ∧
      (⟨0, 0⟩ : ThreadId) = threadOfPlace (w % 2 ^ 32)) :
    Asked (asking op addr a b status waiting th) 3 (queued (debugPacket op addr a b status) waiting) context
      (debugPacket op addr a b status) op ⟨0, 0⟩ :=
  ⟨atHead_of rfl ⟨rfl, rfl, ⟨by show 6 ≤ 6; omega, by show 6 ≤ 16; omega⟩, by show ((1 : BitVec 32) - 0).toNat ≤ 2 ^ 6; decide⟩ rfl
    (by show fld (0x0400000000000000 : Word).toNat 63 56 = 4; decide), h.1, rfl, h.2.1, h.2.2.1, h.2.2.2, by show 0 / 8 ∈ [0]; decide, rfl⟩

theorem witness_DebugHaltsResumesStepsAndArms :
    (∀ op ∈ [1, 2, 3, 8, 9], ∀ a ∈ [(1 : Word), 65535, 65536, 0, 0x8300000000010000, 0x8100000000010000],
      ∀ b ∈ [(0 : Word), 0x220], ∀ status ∈ [(0 : Word), 0x10008], ∀ waiting ∈ [none, some 0], ∀ th ∈ [user, stopped],
      Asked (asking op 0 a b status waiting th) 3 (queued (debugPacket op 0 a b status) waiting) context
        (debugPacket op 0 a b status) op ⟨0, 0⟩) ∧
    (let u := asking 1 0 0 0 0x10008 none user
     (u.frontStore (.access u.nextId) 1 0x10008 9 false).1.toOption.isSome = true) ∧
    (∀ stepOf ∈ [some 3, some 4], ∀ left ∈ [some 5, none],
      let th : Thread := { user with stepsLeft := left, stepOf := stepOf }
      (asking 3 0 5 0 0 (some 0) th).threadAt ⟨0, 0⟩ = some th ∧ th.dbg.tr = false ∧ th.halted = false) ∧
    (∀ done ∈ [some 2, none],
      let k : CmdQueue := { queued (debugPacket 3 0 5 0 0) (some 0) with stepDone := done }
      let s := withQueue k { tables 0x8001 0x1003F with cores := [(0, { Core.reset with threads := [(0, stopped)] })] }
      AtHead s 3 k context (debugPacket 3 0 5 0 0) 4 ∧ k.waiting.isSome = true) ∧
    (asking 2 0 0 0 0 none stopped).threadAt ⟨0, 0⟩ = some stopped ∧ stopped.dbg.tr = false ∧
    ((0x8300000000010000 : Word).toNat / 2 ^ 58 % 2 ^ 5 = 0 ∧ (0x8300000000010000 : Word).toNat % 4 = 0) ∧
    ((0x8100000000010000 : Word).toNat / 2 ^ 57 % 2 ^ 6 = 0 ∧ (0x8100000000010000 : Word).toNat % 8 = 0 ∧
      (0x220 : Word).toNat / 2 ^ 10 = 0 ∧ (0x220 : Word).toNat / 2 ^ 8 % 4 ≤ 2 ∧ (0x220 : Word).toNat / 2 ^ 4 % 4 ≠ 0 ∧
      (0x220 : Word).toNat % 16 ≤ 9) ∧
    (packetWord (debugPacket 8 0 0 0 0 |>.set 1 0x0800000000040000) 1 / 2 ^ 18 % 2 ^ 14 ≠ 0) := by
  refine ⟨?_, by decide +kernel, by decide +kernel, ?_, rfl, rfl, by decide, by decide, by decide⟩
  on_goal 2 =>
    intro done hd
    simp only [List.mem_cons, List.not_mem_nil, or_false] at hd
    rcases hd with rfl | rfl <;> exact ⟨atHead_of rfl (by decide) rfl (by decide), rfl⟩
  intro op ho a _ b _ status _ waiting _ th _
  simp only [List.mem_cons, List.not_mem_nil, or_false] at ho
  rcases ho with rfl | rfl | rfl | rfl | rfl <;> exact asked_of (by decide)

theorem witness_DebugReadsWritesCountsAndTraces :
    (∀ op ∈ [4, 5, 6, 7, 10, 11, 12], ∀ addr a b status : Word,
      Asked (asking op addr a b status none stopped) 3 (queued (debugPacket op addr a b status) none) context
        (debugPacket op addr a b status) op ⟨0, 0⟩) ∧
    (let s := asking 4 0x10000 0 0 0 none stopped
     s.threadAt ⟨0, 0⟩ = some stopped ∧ (s.frontStores (.packet 3) 1 0x10000 (s.dbgRegisters ⟨0, 0⟩ stopped)).1 = none ∧
     (s.frontStores (.packet 3) 1 0x20000 (s.dbgRegisters ⟨0, 0⟩ stopped)).1 = some (5, 0x20000) ∧
     (s.frontStores (.packet 3) 1 0x10000 [0]).1 = none ∧ (s.coreAt 0).badParity 0x3FFF8 8 = false ∧
     (s.frontLoads (.packet 3) 1 0x10000 1).1.toOption = some [0] ∧ (s.frontStores (.packet 3) 1 0x10000 (s.countRecord 0)).1 = none) ∧
    0x3FFF8 + 8 ≤ 2 ^ 18 ∧ (127 : Word).toNat < 8 * stopped.win.wsize ∧ (127 : Word).toNat < 128 ∧
    8 * narrow.win.wsize ≤ (8 : Word).toNat ∧
    ((0x118010C : Word).toNat / 2 ^ 24 % 2 = 1 ∧ (0x118010C : Word).toNat % 32 = 12 ∧ (0x118010C : Word).toNat / 2 ^ 16 % 32 = 24) ∧
    (∀ written ∈ [127, 128],
      let x : Context := { context with trace := ⟨true, 0x10000, 12, false, 10, written, 0, none, []⟩ }
      let s := { tables 0x8001 0x1003F with ctxs := [(1, x)] }
      s.ctxOfStation 0 = some 1 ∧ s.ctxAt 1 = some x ∧ (s.coreAt 0).stopped = false ∧ (s.coreAt 0).lost = false ∧
      (s.coreAt 0).position < 8 * 2 ^ (s.coreAt 0).rotLen.toNat ∧ s.threadAt ⟨0, 0⟩ = some user ∧
      (if written = 127 then written < 2 ^ (12 - 5) else 2 ^ (12 - 5) ≤ written) ∧ x.trace.on = true ∧ x.trace.s ≠ 0 ∧
      s.time.toNat % 2 ^ x.trace.s = 0 ∧ aget x.trace.sampled 0 ≠ some s.time.toNat ∧ 0x10000 + 32 * 127 + 32 ≤ 2 ^ 56) ∧
    2 ^ 56 < (0xFFFFFFFFFFFFF0 : Nat) + 32 ∧ ({ regs [] with time := 1 } : State).time.toNat % 2 ^ 10 ≠ 0 ∧
    (let y : Access := { access .store 2 0x10000 0 .travelling with issuer := .trace 0 }
     let s := { asking 12 0 0 0 0 none stopped with accesses := [y] }
     (∃ y ∈ s.accesses, y.ctx = 1 ∧ y.issuer = .trace 0) ∧ s.threadAt ⟨0, 0⟩ = some stopped) ∧
    (asking 12 0 0 0 0 none stopped).accesses = [] ∧
    ({ context with trace := { TraceBuf.reset with failedAt := some 5 } } : Context).trace.failedAt = some 5 := by
  refine ⟨?_, by decide +kernel, by decide, by decide, by decide, by decide, by decide, by decide +kernel, by decide, by decide,
    by decide, rfl, rfl⟩
  intro op ho addr a b status
  simp only [List.mem_cons, List.not_mem_nil, or_false] at ho
  rcases ho with rfl | rfl | rfl | rfl | rfl | rfl | rfl <;> exact asked_of (by decide)

/-- A request of the partition management block. -/
def managed (kind : Nat) (sta ctx tick img : Word) (s : State) : State :=
  { s with host := { s.host with ctxtab := 0x1000, pm := ⟨true, 1, 0, kind, 0, sta, 0, ctx, tick, img⟩ } }
/-- n lines from one on, under key tag 1. -/
def tagRun (l : Nat) : Nat → Assoc Nat
  | 0 => []
  | n + 1 => (l, 1) :: tagRun (l + 1) n

/-- Device memory with a record of context 1 at 0x1040 and a load image at 0x80000 for station 0, with one thread. -/
def loadable : State :=
  let entry (a v : Nat) (m : Memory) : Memory := m.writeBytes a (bytesLE 8 v)
  let m : Memory := entry 0x1040 0x2001 (entry 0x1060 1 (entry 0x80000 1 (entry 0x80008 1 (entry 0x80080 0x8000000000010200
    (entry 0x80088 0x10000 (entry 0x80090 0x20000 []))))))
  managed 1 1 0x10000 0 0x80000 { State.reset with
    phys := { Phys.reset with ram := m, tags := tagRun 0x2000 514 }, sec := { Security.reset with memStacks := 0xFFF } }

theorem tagRun_get (n : Nat) : ∀ l k, l ≤ k → k < l + n → aget (tagRun l n) k = some 1 := by
  induction n with
  | zero => intro l k h1 h2; omega
  | succ n ih =>
    intro l k h1 h2
    by_cases h : l = k
    · simp [tagRun, aget, h]
    · simpa [tagRun, aget, h] using ih (l + 1) k (by omega) (by omega)
theorem loadable_tag (l : Nat) (h : 0x2000 ≤ l) (h2 : l < 0x2202) : loadable.phys.lineTag l = 1 := by
  show (aget (tagRun 0x2000 514) l).getD 0 = 1
  rw [tagRun_get 514 0x2000 l h h2]
  rfl
theorem loadable_bytes (n : Nat) : ∀ a, 0x80000 ≤ a → a + n ≤ 0x88080 →
    loadable.phys.bytesFor 1 a n = loadable.phys.ram.readBytes a n := by
  induction n with
  | zero => intro a _ _; rfl
  | succ n ih =>
    intro a h1 h2
    rw [Phys.bytesFor, Memory.readBytes, ih (a + 1) (by omega) (by omega), Phys.byteFor, loadable_tag (a / 64) (by omega) (by omega)]
    rfl
theorem loadable_block (i : Nat) (hi : i < 8) : loadable.imageRead 1 (0x80000 + 64 + 4096 * i) 4096 =
    some (loadable.phys.ram.readBytes (0x80000 + 64 + 4096 * i) 4096) := by
  have one : ∀ l ∈ linesOf (0x80000 + 64 + 4096 * i) 4096, loadable.phys.lineTag l = 1 := by
    intro l hl
    obtain ⟨k, hk, rfl⟩ := List.mem_map.mp hl
    have := List.mem_range.mp hk
    exact loadable_tag _ (by omega) (by omega)
  have h : loadable.phys.readFault 1 (0x80000 + 64 + 4096 * i) 4096 = none := by
    have clean : loadable.phys.poison = [] := rfl
    have h1 : ((linesOf (0x80000 + 64 + 4096 * i) 4096).any
        (fun l => loadable.phys.lineTag l != 1 && loadable.phys.lineTag l != 0)) = false :=
      List.any_eq_false.mpr fun l hl => by simp [one l hl]
    simp [Phys.readFault, h1, clean]
  have map : ∀ l < 0x2202, loadable.inMap (l * 64) = true := by
    intro l hl
    have fast : inFast (l * 64) = true := decide_eq_true (by omega)
    have stack : l * 64 / stackBytes = 0 := Nat.div_eq_of_lt (by unfold stackBytes; omega)
    have present : bitAt loadable.sec.memStacks.toNat 0 = true := by decide
    rw [State.inMap, fast, stack, present]
    rfl
  have h2 : ((linesOf (0x80000 + 64 + 4096 * i) 4096).any
      (fun l => !loadable.inMap (l * 64) || loadable.phys.lineTag l != 1)) = false :=
    List.any_eq_false.mpr fun l hl => by
      obtain ⟨k, hk, rfl⟩ := List.mem_map.mp hl
      have hk := List.mem_range.mp hk
      have hm := map ((0x80000 + 64 + 4096 * i) / 64 + k) (by omega)
      simp only [one _ hl, hm]
      decide
  have fast : ∀ i < 8, inFast (0x80000 + 64 + 4096 * i + 4096 - 1) = true := by decide +kernel
  have live : loadable.sec.tagState 1 ≠ .dead := by decide +kernel
  rw [State.imageRead, fast i hi, State.firmRead, h2, State.tagRead, h, State.seenBytes, if_neg live,
    loadable_bytes 4096 _ (by omega) (by omega)]
  rfl
set_option maxRecDepth 100000 in
theorem first_block :
    (let w := dwords (loadable.phys.ram.readBytes (0x80000 + 64) 4096)
     blockGood w = true ∧ w.getD 1 0 = 0) ∧ imageGood [] = true := by decide +kernel
theorem read_above (m : Memory) (a : Nat) (h : ∀ c ∈ m, c.1 < a) : m.read a = 0 := by
  induction m with
  | nil => rfl
  | cons c r ih =>
    have hc : c.1 ≠ a := Nat.ne_of_lt (h c (by simp))
    simp only [Memory.read, hc, if_false]
    exact ih fun d hd => h d (by simp [hd])
theorem loadable_zero (n : Nat) : ∀ a, 0x80140 ≤ a → loadable.phys.ram.readBytes a n = List.replicate n 0 := by
  have low : ∀ c ∈ loadable.phys.ram, c.1 < 0x80140 := by decide +kernel
  induction n with
  | zero => intro a _; rfl
  | succ n ih =>
    intro a ha
    rw [Memory.readBytes, ih (a + 1) (by omega), read_above _ _ fun c hc => Nat.lt_of_lt_of_le (low c hc) ha]
    rfl
set_option maxRecDepth 100000 in
theorem zero_block :
    (let w := dwords (List.replicate 4096 0); blockGood w = true ∧ w.getD 1 0 = 0) ∧ imageGood [] = true := by decide +kernel

theorem allThere_isSome {α : Type} (l : List (Option α)) (h : ∀ x ∈ l, x.isSome = true) : (allThere l).isSome = true := by
  induction l with
  | nil => rfl
  | cons x r ih =>
    cases x with
    | none => exact absurd (h none (by simp)) (by simp)
    | some a => simpa [allThere] using ih fun y hy => h y (by simp [hy])

theorem witness_blocks : (loadable.readBlocks 1 0x80000 (List.range 8)).isSome = true := by
  have good (i : Nat) (hi : i < 8) (w : List Word) (hw : dwords (loadable.phys.ram.readBytes (0x80000 + 64 + 4096 * i) 4096) = w)
      (h : (blockGood w = true ∧ w.getD 1 0 = 0) ∧ imageGood [] = true) : (loadable.readBlock 1 0x80000 i).isSome = true := by
    have hs : loadable.spadImage 1 w = some [] := if_pos h.1.2
    have hg : (!blockGood w) = false := by rw [h.1.1]; rfl
    unfold State.readBlock
    rw [loadable_block i hi]
    show (if (!blockGood (dwords _)) = true then none else _ : Option _).isSome = true
    rw [hw, hg, hs]
    show (if imageGood [] = true then some _ else none : Option _).isSome = true
    rw [h.2]
    rfl
  have each (i : Nat) (hi : i < 8) : (loadable.readBlock 1 0x80000 i).isSome = true := by
    rcases Nat.eq_zero_or_pos i with rfl | h0
    · exact good 0 (by omega) _ rfl first_block
    · exact good i hi _ (by rw [loadable_zero 4096 _ (by omega)]) zero_block
  refine allThere_isSome _ fun x hx => ?_
  obtain ⟨i, hi, rfl⟩ := List.mem_map.mp hx
  exact each i (List.mem_range.mp hi)

/-- A running partition without threads, at its Peal, beside one that is switched out. -/
def emptyPartition (p : Peal) : State :=
  { State.reset with ctxs := [(1, { context with peal := some p }), (2, { context with running := false, saved := some ⟨0, [], []⟩ })] }

/-- Two contexts of one mask, one of which runs. -/
def twoContexts (first : Bool) : State :=
  { State.reset with ctxs := [(0, { context with running := !first }), (1, { context with running := first })] }

set_option maxRecDepth 100000 in
theorem witness_PartitionsLoadSwitchUnloadAndResume :
    ((loadable.host.pm.go = true ∧ loadable.host.pm.kind = 1 ∧ loadable.ctxAt 1 = none ∧ loadable.ctxs.length < 64 ∧
      loadable.host.pm.stations = [0] ∧ loadable.stationTaken [0] [] = false ∧
      ((loadable.bareRead (loadable.host.ctxtab + 64 * 1) 64).map (fun rb => recordOk (dwords rb))).toOption = some true ∧
      (loadable.imageRead 1 0x80000 64).map (fun hb => headerOk (dwords hb) loadable.host.pm) = some true ∧
      loadable.host.pm.img.toNat % 64 = 0 ∧ loadable.folds = [] ∧ loadable.phys.uncorr = [] ∧ loadable.accesses = [] ∧
      loadable.host.pm.stations.length = 1) ∧
     (0x80020 : Word).toNat % 64 ≠ 0 ∧
     (managed 1 1 0x10000 0 0x80000 (regs [])).ctxAt 1 = some context ∧
     (managed 1 1 0x20000 0 0x80000 (regs [])).stationTaken [0] [] = true) ∧
    (let s := managed 2 1 0x1000101 9 0 (regs [])
     s.host.pm.go = true ∧ (∀ c ∈ s.ctxs, c.2.peal = none) ∧ s.host.pm.ctx.getLsbD 24 = true ∧ s.host.pm.ctx.toNat % 2 ^ 6 = 1) ∧
    (let s := managed 2 1 0x1000001 9 0 (regs [])
     s.host.pm.ctx.getLsbD 8 = false ∧ s.host.pm.ctx.getLsbD 24 = true ∧ s.ctxAt 1 = some context ∧ context.running = true ∧
     context.peal = none ∧ sortedSet context.stations = s.host.pm.stations ∧ s.stationTaken s.host.pm.stations [1] = false ∧
     s.ctxAt 2 = none) ∧
    (let v : Saved := ⟨0, [(0, { Core.reset with threads := [(0, user)] })], [(0, Station.reset)]⟩
     let x : Context := { context with running := false, saved := some v }
     let s := managed 4 1 0x10000 0 0 { State.reset with ctxs := [(1, x)] }
     s.host.pm.kind = 4 ∧ s.host.pm.ctx.toNat / 2 ^ 16 % 2 ^ 6 = 1 ∧ s.ctxAt 1 = some x ∧ sortedSet x.stations = s.host.pm.stations ∧
     s.stationTaken s.host.pm.stations [1] = false ∧ (v.cores.map Prod.fst).Nodup) ∧
    (let s := managed 2 0 0x1000101 9 0 (regs [])
     s.host.pm.ctx.getLsbD 8 = true) ∧
    (∀ running ∈ [true, false],
      let s := managed 2 1 0 9 0 (twoContexts running)
      (∀ c ∈ s.ctxs, c.2.peal = none) ∧ sortedSet context.stations = s.host.pm.stations ∧
      (s.ctxAt 1).map Context.running = some running ∧ (s.ctxAt 0).map Context.running = some (!running) ∧
      s.stationTaken s.host.pm.stations [0, 1] = false) ∧
    (0x10101 : Word).getLsbD 8 = true ∧ (0x10101 : Word).getLsbD 24 = false ∧ (0x10001 : Word).getLsbD 8 = false ∧
    (∀ running ∈ [true, false],
      let x : Context := { context with running := running }
      let s := managed 3 1 1 0 0 { State.reset with ctxs := [(1, x)] }
      s.host.pm.go = true ∧ s.host.pm.kind = 3 ∧ s.ctxAt 1 = some x ∧ sortedSet x.stations = s.host.pm.stations ∧ x.peal = none) ∧
    (∀ p ∈ [(⟨0, none, true⟩ : Peal), ⟨0, none, false⟩, ⟨0, some 2, false⟩],
      let s := emptyPartition p
      let x : Context := { context with peal := some p }
      let u := (s.markHeader 1 x p.tick 1).drain 1 p.tick x.stations
      s.ctxAt 1 = some x ∧ p.tick ≤ s.time.toNat ∧ x.running = true ∧ u.busy 1 x.stations = false ∧
      (u.ctxAt 1).isSome = true ∧ u.accesses = [] ∧ (u.ctxAt 2).bind Context.saved = some ⟨0, [], []⟩) ∧
    (let s := { emptyPartition ⟨0, none, true⟩ with accesses := [access .load 2 0x40000000000 0 .offDevice] }
     let x : Context := { context with peal := some ⟨0, none, true⟩ }
     ((s.markHeader 1 x 0 1).drain 1 0 x.stations).busy 1 x.stations = true) ∧
    (emptyPartition ⟨9, none, true⟩).time.toNat < 9 := by
  refine ⟨?_, ?_, ?_, ?_, ?_, ?_, ?_, ?_, ?_, ?_, ?_, ?_, ?_⟩ <;> decide +kernel

/-- A core that is lost, in the running partition of context 1 with a remap asked for. -/
def lostCore (used : Nat) : State :=
  { ready user Core.reset Station.reset with
    cores := [(0, (regs []).coreAt 0), (1, { Core.reset with lost := true, threads := [(3, narrow)] })]
    ctxs := [(1, { context with page := { ControlPage.reset with rstat := 1, rplace := 0x100 } })]
    pkg := { Package.reset with spares := [(0, used)] } }

theorem witness_CoresAreLostAndRecovered :
    (let s := { regs [] with time := 65536 }
     (s.coreAt 0).stopped = false ∧ (s.coreAt 0).lost = false ∧ (s.coreAt 0).lastBeat + 65536 ≤ s.time.toNat) ∧
    (regs []).time.toNat < ((regs []).coreAt 0).lastBeat + 65536 ∧
    (State.reset.sec.errtail + 1) % 1024 ≠ State.reset.sec.errhead ∧
    (let c : Security := { Security.reset with errtail := 1023 }
     (c.errtail + 1) % 1024 = c.errhead) ∧
    (let s := { regs [] with time := 196608 }
     (s.coreAt 1).lost = false ∧ (s.coreAt 1).lastBeat + 3 * 65536 ≤ s.time.toNat ∧ s.ctxOfStation 0 = some 1 ∧
     s.ctxAt 1 = some context ∧ context.supervisor.core ≠ 1 ∧ context.page.knell.length < 256) ∧
    (let s := peerBank { Core.reset with park := [5], lost := false } (access .ldfe 1 0x7FFF8 0 .parked)
     ∃ z ∈ s.accesses, z.id ∈ (s.coreAt 1).park ∧ z.issuer = .thread ⟨0, 0⟩) ∧
    (∀ used ∈ [1, 2],
      let lost : Core := { Core.reset with lost := true }
      let s := { lostCore used with cores := (lostCore used).cores ++ [(2, lost)], time := 196608 }
      (s.coreAt 3).lost = false ∧ (s.cores.filter (fun p => p.2.lost && p.1 != 3 && p.1 / 48 == 3 / 48)).length = 2) ∧
    (let s := { regs [] with time := 196608 }
     (s.coreAt 0).lost = false ∧ context.supervisor.core = 0 ∧ s.host.hknell.length < 256 ∧ s.ctxOfStation (16 / 8) = none ∧
     (s.coreAt 16).lost = false) ∧
    (List.replicate 256 (0 : Word)).length = 256 ∧
    context.page.rstat ≠ 1 ∧
    (∀ used ∈ [1, 2], (lostCore used).ctxAt 1 = some { context with page := { ControlPage.reset with rstat := 1, rplace := 0x100 } } ∧
      (threadOfPlace 0x100).core = 1 ∧ ((lostCore used).coreAt 1).lost = true ∧
      agetD (lostCore used).pkg.spares 0 0 = used ∧ 0 ∈ context.stations ∧ 1 ∉ (lostCore used).pkg.deadPlaces) := by decide +kernel

theorem witness_HostRegistersReadAndWrite :
    State.reset.sec.recovery = false ∧ State.reset.host.xinvGo = false ∧ State.reset.host.pm.go = false ∧
    (let c : Security := { Security.reset with recovery := true }
     c.recovery = true ∧ (0xFFFFF8 : Nat) < 0x1000000) ∧ State.reset.sec.go = false ∧
    (let k : CmdQueue := queued (signalPacket 0) none
     k.en = true → k.err = 0 → 6 ≤ k.lsize ∧ k.lsize ≤ 16 ∧ (k.tail - k.head).toNat ≤ 2 ^ k.lsize) ∧
    (let k : CmdQueue := queued (signalPacket 0) none
     k.en = true ∧ k.err = 0 ∧ 6 ≤ k.lsize ∧ k.lsize ≤ 16 ∧ 2 ^ k.lsize < ((65 : BitVec 32) - k.head).toNat) ∧
    ((0x4B : Word).getLsbD 0 = true ∧ (0x4B : Word).toNat / 2 % 2 ^ 5 < 6) ∧
    (∀ e ∈ [1, 4], ({ CmdQueue.reset with err := e } : CmdQueue).statusFailed = false) ∧
    ({ HostIf.reset with hknell := [5] } : HostIf).hknell = [5] ∧
    ({ HostIf.reset with xinvGo := true } : HostIf).xinvGo = true ∧ State.reset.accesses = [] ∧
    (∀ stage ∈ [Stage.filling, .answered 0 0 0 0],
     let s := { peers true (access .load 2 0x10000 0 stage) with
       host := { HostIf.reset with xinvva := 0x0100000000010000, xinvGo := true, xinvIds := [5] } }
     ∃ x ∈ s.accesses, x.id ∈ s.host.xinvIds ∧ x.stage = stage) ∧
    (peers true (access .load 2 0x10000 0 .filling)).Incomplete [5] ∧ ¬ (regs []).Incomplete [5] ∧
    (peers true (access .load 2 0x10000 0 .filling)).Through 1 1 1 5 ∧
    ((regs []).ctxs = [(1, context)] ∧ context.running = true ∧ context.page.mailbox.length < 16) := by
  refine ⟨?_, ?_, ?_, ?_, ?_, ?_, ?_, ?_, ?_, ?_, ?_, ?_, ?_,
    .inl ⟨_, List.mem_singleton.mpr rfl, List.mem_singleton.mpr rfl, fun _ _ _ _ h => nomatch h⟩, ?_,
    .inl ⟨_, List.mem_singleton.mpr rfl, rfl, rfl, rfl, .inl rfl, .inr (.inl ⟨by decide, by decide⟩)⟩, ?_⟩
  on_goal 14 => rintro (⟨x, h, _⟩ | ⟨x, h, _⟩ | ⟨x, h, _⟩) <;> exact absurd h List.not_mem_nil
  all_goals decide

theorem witness_DeviceMemoryThroughTheHost :
    (let s := tables 0x8001 0x1003F
     s.inMap 0x10038 = true ∧ s.accesses = [] ∧ s.sec.sweeping = none ∧ 8 ≤ 64 - 0x10038 % 64 ∧ s.inMap 0x9000000000 = false ∧ s.folds = [] ∧ s.phys.uncorr = [] ∧
     s.phys.poison = [] ∧ s.phys.lineTag (0x10038 / 64) = s.host.bar2tag ∧ s.sec.tagState 0 ≠ .dead ∧
     s.host.bar2err.getLsbD 63 = false ∧ s.sec.recovery = false) ∧
    (let s := { mapped with host := { HostIf.reset with bar2tag := 1 }, sec := { mapped.sec with tags := [(1, .dead)] } }
     s.inMap 0x10000 = true ∧ s.phys.lineTag (0x10000 / 64) = s.host.bar2tag ∧ s.sec.tagState 1 = .dead) ∧
    (let s := { tables 0x8001 0x1003F with host := { HostIf.reset with bar2tag := 2 } }
     s.phys.lineTag (0x10038 / 64) = 0 ∧ s.host.bar2tag ≠ 0) ∧
    (let s := { mapped with host := { HostIf.reset with bar2tag := 2 } }
     s.phys.lineTag (0x10038 / 64) ≠ s.host.bar2tag ∧ s.phys.lineTag (0x10000 / 64) ≠ 0) ∧
    (let k : Channel := { Channel.reset with src := 0x400, dst := 0x800 }
     let s := { tables 0x8001 0x1003F with host := { HostIf.reset with channels := [(3, k)] } }
     s.channelAt 3 = k ∧ k.go = false ∧ k.src % 2 ^ 10 = 0 ∧ k.dst % 2 ^ 10 = 0 ∧ s.inMap (k.src * 2 ^ 16) = true ∧
     s.inMap (k.dst * 2 ^ 16) = true ∧ k.src * 2 ^ 16 + 1 * 2 ^ 26 ≤ k.dst * 2 ^ 16 ∧
     ¬ (k.src * 2 ^ 16 + 2 * 2 ^ 26 ≤ k.dst * 2 ^ 16 ∨ k.dst * 2 ^ 16 + 2 * 2 ^ 26 ≤ k.src * 2 ^ 16)) ∧
    (let k : Channel := { Channel.reset with src := 1, dst := 0x900000 }
     k.src % 2 ^ 10 ≠ 0 ∧ (tables 0x8001 0x1003F).inMap (k.dst * 2 ^ 16) = false) ∧
    (let k : Channel := { Channel.reset with go := true, count := 1, dst := 1 }
     let s := { State.reset with phys := { Phys.reset with ram := [(5, 1)] }, host := { HostIf.reset with channels := [(3, k)] } }
     s.channelAt 3 = k ∧ k.go = true ∧ k.waits = false ∧ s.accesses = [] ∧ k.src * 2 ^ 16 + k.count * 2 ^ 16 ≤ k.dst * 2 ^ 16 ∧ s.folds = [] ∧
     s.phys.ram.wf = true) ∧
    (let k : Channel := { Channel.reset with go := true, count := 1, dst := 1, waits := true }
     let s := { State.reset with host := { HostIf.reset with channels := [(3, k)] }, sec := { Security.reset with sweeping := some 1 } }
     s.channelAt 3 = k ∧ k.waits = true ∧ s.sec.sweeping.isSome = true) := by decide

def flit (crc tag : Bool) (packets : List PodPacket) : Flit := ⟨23, 0, 0, 1, 1, 1, crc, tag, packets⟩
/-- The small machine whose reticle 0 has counted n core cycles of its clock of 1,900 MHz, with a router's state and an access. -/
def routed (n : Nat) (r : RouterPower) (accesses : List Access) : State :=
  { ready user Core.reset { Station.reset with router := r } with cycles := [(0, 1900 * n)], accesses := accesses }
/-- A device whose port 23 is as given. -/
def ported (p : Port) (s : State) : State := { s with host := { s.host with ports := [(23, p)] } }

theorem witness_LinksAndRouters :
    (let s := routed 4096 (.awake 0) []
     (s.stationAt 0).router = .awake 0 ∧ 0 + 4096 ≤ agetD s.cycles (0 / 24) 0 / 1900 ∧ s.host.nodown = false ∧ s.accesses = [] ∧
     s.flights = [] ∧ (∀ p ∈ s.cores, p.2.rows = [] ∧ ∀ t ∈ p.2.threads, t.2.wait = none) ∧ (∀ p ∈ s.stations, p.2.copies = []) ∧
     s.lates = [] ∧ s.replicas = [] ∧ s.serves = [] ∧ s.descs = []) ∧
    agetD (routed 4095 (.awake 0) []).cycles 0 0 / 1900 < 0 + 4096 ∧
    (∀ stage ∈ [Stage.travelling, .held 0, .answered 0 0 0 9],
      let x := access .load 2 0x10000 0 stage
      let s := routed 4096 .asleep [x]
      (s.stationAt 0).router = .asleep ∧ s.accesses = [x] ∧ x.sp ≠ 0 ∧ 0 ∈ s.requestRoute x ∧ 0 ∈ s.walkRoute 0 x.ctx x.va ∧
      0 ∈ s.answerRoute x) ∧
    (let s := { routed 4096 .asleep [] with lates := [lateRow 5 4 0x20030], replicas := [replica none (some 0) 6] }
     (∃ l ∈ s.lates, 0 ∈ routeOf l.agent.station (homeStation l.pa)) ∧ ∃ r ∈ s.replicas, 0 ∈ s.replicaWay r) ∧
    (let s := routed 40 (.waking 0) []
     (s.stationAt 0).router = .waking 0 ∧ 0 + 40 ≤ agetD s.cycles (0 / 24) 0 / 1900) ∧
    (flit true true []).port < 24 ∧ (State.reset.portAt 23).failed = false ∧ (State.reset.portAt 23).badFlits < 16 ∧
    ((ported { Port.reset with badFlits := 16 } State.reset).portAt 23).badFlits = 16 ∧
    (flit true true []).seq = (State.reset.portAt 23).expect ∧
    ((∀ x ∈ (State.reset.portAt 23).replay, x.1 ≠ (flit true true []).ack) ∧ [] = (State.reset.portAt 23).replay) ∧
    (let k := (ported { Port.reset with replay := [(0, 0, [.timeLock]), (1, 0, [.timeLock])] } State.reset).portAt 23
     k.replay = [] ++ (0, 0, [.timeLock]) :: [(1, 0, [.timeLock])] ∧ (flit true true []).ack = 0) ∧
    (let a : PodAccess := ⟨1, 9, .load, 1, 0x10000, 8, 0, 0, true⟩
     (flit true true [.access a]).packets = [.access a] ∧ (regs []).host.podpair.toNat / 2 ^ 1 % 2 = 0 ∧
     (let s := { regs [] with host := { HostIf.reset with podpair := 2 } }
      s.host.podpair.toNat / 2 ^ 1 % 2 = 1 ∧ s.ctxAt 1 = some context)) ∧
    (let m : WireMessage := toWire { note with src := 0x40000 }
     (flit true true [.message m]).packets = [.message m] ∧ m.returned = false ∧ m.w ≠ 7 ∧
     m.src.toNat / 2 ^ 18 ≠ State.reset.pkg.device.toNat) ∧
    (let m : PodPacket := .message (toWire note)
     2 ≤ (List.replicate 4 m).length ∧ 224 < ((List.replicate 4 m).map podBytes).sum) ∧
    (let k := (ported { Port.reset with out := [.timeLock, .access 1 1 5] } State.reset).portAt 23
     k.failed = false ∧ k.out = [.timeLock] ++ [.access 1 1 5] ∧ [OutPacket.timeLock] ≠ [] ∧ [OutPacket.timeLock].length = 1 ∧
     ([OutPacket.timeLock].map (fun _ => 32)).sum ≤ 224 ∧
     ∀ p ∈ [OutPacket.timeLock], packetCtx p = packetCtx ([OutPacket.timeLock].headD .timeLock)) ∧
    (let s := { ported { Port.reset with replay := [(0, 0, [.timeLock])] } State.reset with time := 2 ^ 20 }
     (s.portAt 23).replay = (0, 0, [.timeLock]) :: [] ∧ 0 + 2 ^ 20 ≤ s.time.toNat ∧ (s.portAt 23).lastAck + 2 ^ 20 ≤ s.time.toNat) ∧
    ((ported { Port.reset with failed := true } State.reset).portAt 23).failed = true ∧ (State.reset.portAt 23).replay = [] := by
  refine ⟨?_, ?_, ?_, ?_, ?_, ?_, ?_, ?_, ?_, ?_, ?_, ?_, ?_, ?_, ?_, ?_, ?_, ?_, ?_⟩ <;> decide +kernel

def requested (kind : Nat) (arg : Word) (state : TagState) : Security :=
  { Security.reset with go := true, kind := kind, arg := arg, tags := [(255, state)] }

theorem witness_KeysSweepsAndAttestation :
    ((requested 1 255 .free).tagState 255 = .free ∧ (requested 2 255 .live).tagState 255 = .live ∧
      (requested 3 255 .dead).tagState 255 = .dead ∧ (255 : Word).toNat % 2 ^ 8 = 255) ∧
    ({ State.reset with sec := requested 2 255 .live } : State).tagInUse 255 = false ∧
    ({ State.reset with sec := requested 2 255 .live, host := { HostIf.reset with bar2tag := 255 } } : State).tagInUse 255 = true ∧
    ({ requested 2 255 .live with killWaits := [0] } : Security).killWaits ≠ [] ∧
    (let s : State := { State.reset with sec := { requested 3 255 .dead with sweeping := some 255 } }
     s.sec.sweeping = some 255 ∧ (255 : Nat) ≠ 0) ∧
    (let s : State := { State.reset with sec := requested 4 5 .free }
     s.sec.arg.getLsbD 8 = false ∧ s.ctxAt (s.sec.arg.toNat % 2 ^ 6) = none) ∧
    (let s : State := { State.reset with sec := { requested 4 0x100 .free with memStacks := 0xFFF, addr := 0x10000 } }
     s.sec.arg.getLsbD 8 = true ∧ s.rangeInMap s.sec.addr 360 = true ∧ s.sec.addr % 64 = 0 ∧ s.folds = [] ∧ s.phys.uncorr = [] ∧
     s.phys.poison = [] ∧ s.accesses = [] ∧ ∀ l ∈ linesOf s.sec.addr 360, s.phys.lineTag l = 0) ∧
    Security.reset.go = false ∧
    (∀ p ∈ [(0x8000000000000000, 0), (0x8000000000000001, 1), (0x8000000000000004, 4), (0x8000000000000005, 5),
        (0x8000000000000006, 6), (0x8000000000000007, 7)],
      (p.1 : Word).getLsbD 63 = true ∧ (p.1 : Word).toNat % 2 ^ 8 = p.2) ∧
    (requested 1 255 .free).kind ≠ 2 ∧ ({ requested 3 255 .dead with sweeping := some 255 } : Security).sweeping = some 255 := by
  decide

/-- POWER to 2,600 MHz at 600 mV, the upper limit, and to 2,625 MHz, beyond it. -/
theorem witness_PowerClockAndBoot :
    (let w : Word := BitVec.ofNat 64 (600 * 2 ^ 32 + 2600 * 2 ^ 16)
     w.toNat / 2 ^ 32 % 2 ^ 16 = 600 ∧ w.toNat / 2 ^ 16 % 2 ^ 16 = 2600 ∧ 2600 % 25 = 0 ∧ ¬ 2400 + 4 * (600 - 550) < 2600 ∧
     2400 + 4 * (600 - 550) < 2625 ∧ (requested 5 w .free).kind = 5 ∧ (requested 5 w .free).go = true ∧
     ((requested 5 w .free).pwrAt 0).changing = false) ∧
    (let c : Security := { requested 5 0 .free with pwr := [(0, ⟨1900, 450, 0, false, 1900, 450⟩)] }
     (c.pwrAt 0).changing = false ∧ 1875 < (c.pwrAt 0).mhz ∧ (c.pwrAt 0).mhz ≤ 2600) ∧
    (let c : Security := { requested 5 0 .free with
       pwr := [(0, ⟨1900, 450, 1, true, 2600, 600⟩), (1, ⟨1800, 450, 2, false, 1900, 450⟩), (2, ⟨1700, 450, 2, true, 1900, 500⟩)] }
     (c.pwrAt 0).changing = true ∧ (c.pwrAt 0).state = 1 ∧ (c.pwrAt 1).state = 2 ∧ (c.pwrAt 1).changing = false ∧
     (c.pwrAt 2).state = 2 ∧ (c.pwrAt 2).changing = true) ∧ (requested 6 0 .free).kind = 6 ∧
    (∀ k ∈ [none, some 0, some 7, some 8], ({ Package.reset with rewriting := k } : Package).rewriting = k) ∧
    (∀ n ≤ 5, let s := { State.reset with pkg := { Package.reset with table := [(n, ⟨[], [], [1900, 1900, 1900, 1900], 0⟩)] } }
     (aget s.pkg.table n).isSome = true) ∧
    (let b : BootInput := ⟨[], [], [], 0, 0, false, 0, []⟩
     (∀ n < 10, b.normalOk.getD n true = true) ∧ b.badCores = []) ∧ State.reset.sec.failedSteps = [] ∧ State.reset.sec.jtail < 256 ∧
    (let b : BootInput := ⟨[false], [], [], 0, 0, false, 0, []⟩
     b.normalOk.getD 0 true = false ∧ 1 ∉ State.reset.sec.failedSteps) ∧
    ({ Security.reset with recovery := true } : Security).recovery = true := by
  refine ⟨?_, ?_, ?_, ?_, ?_, ?_, ?_, ?_, ?_, ?_, ?_⟩ <;> decide +kernel

/-! ### One step from reset with an instruction placed where it fetches -/

/-- What the first step with a word leaves in a register of its thread. -/
def firstStep (nbits w d : Nat) : Option Word :=
  match step (State.reset.withFetchWord nbits w) with
  | .next t => (t.threadAt t.cur).bind fun th => aget (t.coreAt t.cur.core).rf (th.rfEntry d)
  | _ => none

/-- addi g3, g0, 5 and li g15, 0x3E80_0000 (12_memory_isa_notes). -/
theorem test_first_step : firstStep 32 0x0E0C0005 3 = some 5 := by decide +kernel
theorem test_first_step_long : firstStep 64 0x3E800000FE3C0001 15 = some 0x3E800000 := by decide +kernel
/-- R66, R215: the all-zero word raises ILLEGAL, with itself in tval. -/
theorem test_first_step_illegal :
    (match step (State.reset.withFetchWord 32 0) with
     | .next t => (t.threadAt t.cur).map fun th => (th.trap.tcause, th.trap.tval)
     | _ => none) = some (1, 0) := by decide +kernel
/-- R133: ecall saves the address behind itself, with code 15. -/
theorem test_ecall :
    (threadAfter .ecall (regs [])).map (fun th => (th.pc, th.trap.tpc, th.trap.tcause, th.status.mode)) =
      some (0x20000, 0x10004, 15, .supervisor) := by decide
/-- R149: a store of a halfword leaves the bytes beside it. -/
theorem test_store_halfword :
    (match exec (.stH ⟨3, 4, 0, 0, false, 0⟩) (ready user (spadCore 0x3FFFE 0xABCD []) Station.reset) with
     | .next t => some ((t.coreAt 0).spad)
     | _ => none) = some [(0x3FFFE, 0xCD), (0x3FFFF, 0xAB)] := by decide
/-- R147: an offset counts in units of the access size. -/
theorem test_load_offset :
    entryAfter (.ldW ⟨3, 4, -1, 0, false, 0⟩)
      (ready user { spadCore 0x104 0 [] with spad := [(0x100, 0x01), (0x103, 0x80)] } Station.reset) 3 =
      some 0xFFFFFFFF80000001 := by decide

end Sys2Proof.Tests
end

section
/-! Registers of BAR0: what a host's write changes, what a read gives and clears (O56). -/

namespace Sys2Proof

open Sys2Proof.Machine

/-! ### Translations that an invalidation removes -/

theorem overlaps_iff (a n b m : Nat) : overlaps a n b m = true ↔ a < b + m ∧ b < a + n ∧ n ≠ 0 ∧ m ≠ 0 := by
  simp [overlaps, and_assoc]

/-- The v-th block of n pages meets a run of pages exactly where it holds a page of the run. -/
theorem overlaps_block_iff {n : Nat} (hn : 0 < n) (v page pages : Nat) :
    overlaps (v * n) n page pages = true ↔ ∃ k, page ≤ k ∧ k < page + pages ∧ k / n = v := by
  rw [overlaps_iff]
  constructor
  · rintro ⟨h1, h2, -, h3⟩
    exact ⟨max page (v * n), by omega, by omega, Nat.div_eq_of_lt_le (by omega) (by rw [Nat.succ_mul]; omega)⟩
  · rintro ⟨k, h1, h2, rfl⟩
    have h3 := Nat.div_mul_le_self k n
    have h4 := Nat.lt_div_mul_add hn (a := k)
    omega

/-- A single page meets a run of pages exactly where it lies in it. -/
theorem overlaps_page_iff (p page pages : Nat) :
    overlaps p 1 page pages = true ↔ page ≤ p ∧ p < page + pages := by
  rw [overlaps_iff]; omega

/-- The leaf of a level that maps a page of 64 KiB, by the page's number. -/
theorem page_of_level (level k : Nat) :
    k * 65536 / 2 ^ (if level = 3 then 26 else 16) = k / 2 ^ (pageBits level - 16) := by
  unfold pageBits; split <;> omega

/-- A leaf maps a page of a run exactly where its block of pages meets the run. -/
theorem TlbEntry.covers_iff (e : TlbEntry) (ctx page pages : Nat) :
    e.Covers ctx page pages ↔ e.ctx = ctx ∧ (pages = 0 ∨
      overlaps (e.vpage * 2 ^ (pageBits e.level - 16)) (2 ^ (pageBits e.level - 16)) page pages = true) := by
  simp only [TlbEntry.Covers, page_of_level, overlaps_block_iff (Nat.two_pow_pos _)]

/-- The translation stations drop the leaves that R142 names and no others. -/
theorem invalidate_removed (s : State) (ctx page pages : Nat) :
    Removed s (s.invalidate ctx (page * 65536) pages) ctx page pages := by
  refine ⟨fun e => e.ctx != ctx || !(pages == 0 ||
    overlaps (e.vpage * 2 ^ (pageBits e.level - 16)) (2 ^ (pageBits e.level - 16)) page pages), fun e => ?_, ?_⟩
  · simp only [TlbEntry.covers_iff, Bool.or_eq_false_iff, bne_eq_false_iff_eq, Bool.not_eq_false', Bool.or_eq_true,
      beq_iff_eq]
  · simp only [State.invalidate, XlatStation.invalidate, Nat.mul_div_cancel _ (show 0 < 65536 by decide)]

/-! ### Accesses behind an invalidation (log entry 17) -/

theorem through_iff (s : State) (ctx page pages va : Nat) :
    s.through ctx page pages va = true ↔ s.Maps ctx page pages va := by
  simp only [State.through, Machine.State.Maps, Bool.or_eq_true, Bool.and_eq_true, beq_iff_eq, List.any_eq_true,
    overlaps_page_iff, overlaps_block_iff (show 0 < 1024 by decide), or_assoc, and_assoc]

theorem inSlice_iff (x : Access) : x.inSlice = true ↔ x.sp = 2 ∧ (x.stage = .filling ∨ x.stage = .parked) := by
  simp [Access.inSlice]

theorem mem_translatedThrough (s : State) (ctx page pages id : Nat) :
    id ∈ s.translatedThrough ctx page pages ↔ s.Through ctx page pages id := by
  simp only [State.translatedThrough, Machine.State.Through, List.mem_append, List.mem_map, List.mem_filter,
    Bool.and_eq_true, beq_iff_eq, through_iff, inSlice_iff, Option.isSome_iff_ne_none, Option.isNone_iff_eq_none, or_assoc]
  refine or_congr (exists_congr fun x => ?_) (or_congr (exists_congr fun l => ?_) (exists_congr fun r => ?_)) <;> tauto

theorem pending_iff (x : Access) : x.pending = true ↔ ∀ f sub info v, x.stage ≠ .answered f sub info v := by
  unfold Access.pending; split <;> simp_all

theorem anyPending_iff (s : State) (ids : List Nat) : s.anyPending ids = true ↔ s.Incomplete ids := by
  simp only [State.anyPending, Machine.State.Incomplete, Bool.or_eq_true, List.any_eq_true, Bool.and_eq_true,
    List.contains_iff_mem, pending_iff, Option.isNone_iff_eq_none, or_assoc]

/-! ### Writes of BAR0 registers -/

/-- Outside recovery a write below the block of the queues is one of the first block. -/
theorem registerWrite_block0 {s t : State} {off : Nat} {w : Word} (hr : s.sec.recovery = false) (ho : off < 0x100000)
    (ht : s.writeBlock0 off w = t) : exec (.registerWrite off w) s = .next t := by
  rw [Laws.exec_registerWrite, execRegisterWrite, if_neg (by omega), hr, if_neg (by decide), if_pos ho, ht]

/-- `qhead` and `qstat` are read only. -/
theorem registerWrite_queue_readOnly {s : State} (hr : s.sec.recovery = false) {q r : Nat} (hq : q < 256)
    (h1 : 16 ≤ r) (h2 : r < 32) (w : Word) : exec (.registerWrite (0x100000 + 32 * q + r) w) s = .next s := by
  rw [Laws.exec_registerWrite, execRegisterWrite, if_neg (by omega), hr, if_neg (by decide), if_neg (by omega),
    if_pos (by omega), show (0x100000 + 32 * q + r) % 32 = r by omega]
  congr 1
  unfold State.writeQueue
  split
  · omega
  · omega
  · rfl

theorem registerWrite_pm {s t : State} {off : Nat} {w : Word} (hr : s.sec.recovery = false) (h1 : 0x300000 ≤ off)
    (h2 : off < 0x300040) (ht : s.writePm (off - 0x300000) w = t) : exec (.registerWrite off w) s = .next t := by
  rw [Laws.exec_registerWrite, execRegisterWrite, if_neg (by omega), hr, if_neg (by decide), if_neg (by omega),
    if_neg (by omega), if_neg (by omega), if_pos ⟨h1, h2⟩, ht]

theorem registerWrite_porttab {s : State} (hr : s.sec.recovery = false) {d : Nat} (hd : d < 2 ^ 14) (w : Word) :
    exec (.registerWrite (0x400000 + 4 * d) w) s =
      .next { s with host := { s.host with porttab := aset s.host.porttab d (w.toNat % 2 ^ 24) } } := by
  rw [Laws.exec_registerWrite, execRegisterWrite, if_neg (by omega), hr, if_neg (by decide), if_neg (by omega),
    if_neg (by omega), if_neg (by omega), if_neg (by omega), if_pos (by omega)]
  simp only [wfld, fld, Nat.pow_zero, Nat.div_one, Nat.add_sub_cancel_left, Nat.mul_div_cancel_left d (show 0 < 4 by decide)]

theorem writeBlock0_bar2tag (s : State) (w : Word) :
    s.writeBlock0 0x10 w = { s with host := { s.host with bar2tag := w.toNat % 2 ^ 8 } } := by
  simp [State.writeBlock0, wfld, fld]

theorem writeBlock0_xinvva {s : State} (h : s.host.xinvGo = false) (w : Word) :
    s.writeBlock0 0x30 w = { s with host := { s.host with xinvva := w &&& 0x3FFFFFFFFFFF0000#64 } } := by
  simp [State.writeBlock0, h]

theorem writeBlock0_xinvva_busy {s : State} (h : s.host.xinvGo = true) (w : Word) : s.writeBlock0 0x30 w = s := by
  simp [State.writeBlock0, h]

/-- While a request of the partition management block runs, its registers stay (R300). -/
theorem writePm_busy {s : State} (h : s.host.pm.go = true) (off : Nat) (w : Word) : s.writePm off w = s := by
  simp [State.writePm, h]

theorem writePm_sta {s : State} (h : s.host.pm.go = false) (w : Word) :
    s.writePm 0x08 w = { s with host := { s.host with pm := { s.host.pm with sta := w } } } := by
  simp [State.writePm, h]

theorem writePm_tick {s : State} (h : s.host.pm.go = false) (w : Word) :
    s.writePm 0x20 w = { s with host := { s.host with pm := { s.host.pm with tick := w } } } := by
  simp [State.writePm, h]

theorem registerWrite_outside (s : State) (w : Word) : exec (.registerWrite 0x700000 w) s = .next s := by
  simp [execRegisterWrite]

/-- In recovery a write outside the security block is discarded (R325). -/
theorem registerWrite_recovery {s : State} (hr : s.sec.recovery = true) {off : Nat} (ho : off < 0x1000000) (w : Word) :
    exec (.registerWrite off w) s = .next s := by
  rw [Laws.exec_registerWrite, execRegisterWrite, if_neg (by omega), hr, if_pos rfl]

theorem bar0_sarg (s : State) : s.bar0 0x1000008 = s.sec.arg := rfl

theorem securityWrite_sarg {c : Security} (h : c.go = false) (w : Word) : c.write 8 w = { c with arg := w } := by
  simp [Security.write, h]

/-! ### The registers of a command queue -/

/-- What keeps an enabled queue without an error in order (R295). -/
theorem CmdQueue.fault_eq_zero {k : CmdQueue} (h1 : 6 ≤ k.lsize) (h2 : k.lsize ≤ 16)
    (h3 : (k.tail - k.head).toNat ≤ 2 ^ k.lsize) : k.fault = 0 := by
  rw [CmdQueue.fault, if_neg (by omega), if_neg (by simpa [CmdQueue.depth] using h3)]

theorem CmdQueue.check_inOrder {k : CmdQueue}
    (h : k.en = true → k.err = 0 → 6 ≤ k.lsize ∧ k.lsize ≤ 16 ∧ (k.tail - k.head).toNat ≤ 2 ^ k.lsize) : k.check = k := by
  unfold CmdQueue.check
  split
  · next hc =>
    obtain ⟨hen, herr⟩ : k.en = true ∧ k.err = 0 := by simpa using hc
    obtain ⟨h1, h2, h3⟩ := h hen herr
    rw [CmdQueue.fault_eq_zero h1 h2 h3, ← herr]
  · rfl

theorem CmdQueue.check_badSize {k : CmdQueue} (hen : k.en = true) (herr : k.err = 0) (h : k.lsize < 6 ∨ 16 < k.lsize) :
    k.check = { k with err := 2 } := by
  simp [CmdQueue.check, CmdQueue.fault, hen, herr, h]

theorem CmdQueue.check_tooDeep {k : CmdQueue} (hen : k.en = true) (herr : k.err = 0) (h1 : 6 ≤ k.lsize) (h2 : k.lsize ≤ 16)
    (h3 : 2 ^ k.lsize < (k.tail - k.head).toNat) : k.check = { k with err := 3 } := by
  have hf : k.fault = 3 := by rw [CmdQueue.fault, if_neg (by omega), CmdQueue.depth, if_pos h3]
  simp [CmdQueue.check, hen, herr, hf]

theorem bitAt_zero (w : Word) : bitAt w.toNat 0 = w.getLsbD 0 := by
  simp [bitAt, BitVec.getLsbD, beq_eq_decide]

theorem qtailDoorbell_of_check {s : State} {q : Nat} {w : Word} {k : CmdQueue} (hr : s.sec.recovery = false)
    (hk : ({ s.queueAt q with tail := w.setWidth 32 } : CmdQueue).check = k) :
    exec (.qtailDoorbell q w) s = .next (s.setQueue q k) := by
  rw [Laws.exec_qtailDoorbell, execQtailDoorbell, hr, if_neg (by decide), State.writeQtail, BitVec.ofNat_toNat, hk]

theorem qbaseWrite_of_check {s : State} {q : Nat} {w : Word} {k : CmdQueue} (hr : s.sec.recovery = false)
    (hk : ({ s.queueAt q with
      base := w.toNat / 2 ^ 12 % 2 ^ 30, ctx := w.toNat / 2 ^ 6 % 2 ^ 6, lsize := w.toNat / 2 % 2 ^ 5
      en := w.getLsbD 0 } : CmdQueue).check = k) :
    exec (.qbaseWrite q w) s = .next (s.setQueue q k) := by
  rw [Laws.exec_qbaseWrite, execQbaseWrite, hr, if_neg (by decide), State.writeQbase, bitAt_zero, ← hk]
  rfl

/-! ### Resuming a queue -/

theorem msix_phys (s : State) (v : Nat) : (s.msix v).phys = s.phys := by
  unfold State.msix; split <;> rfl

theorem queueAt_msix (s : State) (v q : Nat) : (s.msix v).queueAt q = s.queueAt q := by
  unfold State.msix; split <;> rfl

theorem packetIrq_phys (s : State) (irq : Bool) (q : Nat) : (s.packetIrq irq q).phys = s.phys := by
  cases irq
  · rfl
  · exact msix_phys s _

theorem queueAt_packetIrq (s : State) (irq : Bool) (q r : Nat) : (s.packetIrq irq q).queueAt r = s.queueAt r := by
  cases irq
  · rfl
  · exact queueAt_msix s _ r

/-- Resuming passes the packet after err 1 and after err 4 of a WAIT or SIGNAL, and leaves head after the others (R295). -/
theorem queueAt_resumeQueue (s : State) (q : Nat) :
    (s.resumeQueue q).queueAt q =
      if (s.queueAt q).err = 1 then ({ s.queueAt q with err := 0 } : CmdQueue).past
      else if (s.queueAt q).err = 4 ∧ (s.queueAt q).statusFailed = false then
        ({ s.queueAt q with err := 0, statusFailed := false } : CmdQueue).past
      else { s.queueAt q with err := 0, statusFailed := false } := by
  unfold State.resumeQueue
  dsimp only
  split
  · exact State.queueAt_setQueue_self _ _ _
  · split
    · rw [State.passPacket, queueAt_packetIrq, State.queueAt_setQueue_self, State.queueAt_setQueue_self]
    · exact State.queueAt_setQueue_self _ _ _

theorem resumeQueue_err (s : State) (q : Nat) : ((s.resumeQueue q).queueAt q).err = 0 := by
  rw [queueAt_resumeQueue]; split
  · rfl
  · split <;> rfl

theorem resumeQueue_seq (s : State) (q : Nat) : ((s.resumeQueue q).queueAt q).seq = (s.queueAt q).seq := by
  rw [queueAt_resumeQueue]; split
  · rfl
  · split <;> rfl

theorem resumeQueue_passes {s : State} {q : Nat}
    (h : (s.queueAt q).err = 1 ∨ ((s.queueAt q).err = 4 ∧ (s.queueAt q).statusFailed = false)) :
    ((s.resumeQueue q).queueAt q).head = (s.queueAt q).head + 1 ∧ ((s.resumeQueue q).queueAt q).packet = none := by
  rw [queueAt_resumeQueue]
  rcases h with h | h
  · rw [if_pos h]; exact ⟨rfl, rfl⟩
  · rw [if_neg (by omega), if_pos h]; exact ⟨rfl, rfl⟩

theorem resumeQueue_stays {s : State} {q : Nat}
    (h : (s.queueAt q).err ∉ [1, 4] ∨ ((s.queueAt q).err = 4 ∧ (s.queueAt q).statusFailed = true)) :
    ((s.resumeQueue q).queueAt q).head = (s.queueAt q).head := by
  rw [queueAt_resumeQueue]
  rcases h with h | ⟨h, hf⟩
  · simp only [List.mem_cons, List.not_mem_nil, or_false, not_or] at h
    rw [if_neg h.1, if_neg (fun e => h.2 e.1)]
  · rw [if_neg (by omega), if_neg (by simp [hf])]

theorem resumeQueue_phys (s : State) (q : Nat) : (s.resumeQueue q).phys = s.phys := by
  unfold State.resumeQueue
  dsimp only
  split
  · rfl
  · split
    · exact packetIrq_phys _ _ _
    · rfl

theorem stat_toNat (k : CmdQueue) : k.stat.toNat = k.seq.toNat * 2 ^ 16 + k.err % 256 := by
  have := k.seq.isLt
  rw [CmdQueue.stat, BitVec.toNat_ofNat]
  omega

theorem qstatRead_eq {s : State} (hr : s.sec.recovery = false) (q : Nat) :
    exec (.qstatRead q) s = .next { s.resumeQueue q with
      hostData := bytesLE 8 ((s.queueAt q).seq.toNat * 2 ^ 16 + (s.queueAt q).err % 256) } := by
  rw [Laws.exec_qstatRead, execQstatRead, hr, if_neg (by decide), stat_toNat]

/-! ### xinvreg and cntclr -/

theorem xinvregStart_eq {s : State} (hr : s.sec.recovery = false) (hgo : s.host.xinvGo = false) (w : Word) :
    let ctx := s.host.xinvva.toNat / 2 ^ 56 % 2 ^ 6
    let first := s.host.xinvva.toNat / 2 ^ 16 % 2 ^ 40
    let pages := w.toNat % 2 ^ 32
    exec (.xinvregStart w) s = .next { s.invalidate ctx (first * 65536) pages with
      host := { s.host with
        xinvCount := pages, xinvGo := true, xinvIds := s.translatedThrough ctx first pages } } := by
  have hbit : (w ||| 1#64 <<< 63).getLsbD 63 = true := by simp
  have hcount : wfld (w ||| 1#64 <<< 63) 31 0 = w.toNat % 2 ^ 32 := by
    have h : (w ||| 1#64 <<< 63).setWidth 32 = w.setWidth 32 := by rw [BitVec.setWidth_or]; simp
    rw [wfld, fld, Nat.pow_zero, Nat.div_one, ← BitVec.toNat_setWidth, h, BitVec.toNat_setWidth]
  rw [Laws.exec_xinvregStart, execXinvregStart, hr, if_neg (by decide), State.writeXinvreg, hgo, if_neg (by decide)]
  simp only [hbit, if_true, hcount]
  rfl

theorem xinvregStart_busy {s : State} (hgo : s.host.xinvGo = true) (w : Word) : exec (.xinvregStart w) s = .next s := by
  simp [execXinvregStart, State.writeXinvreg, hgo]

theorem xinvregComplete_done {s : State} (hgo : s.host.xinvGo = true) (h : ¬ s.Incomplete s.host.xinvIds) :
    exec .xinvregComplete s = .next { s with host := { s.host with xinvGo := false, xinvIds := [] } } := by
  rw [← anyPending_iff] at h
  simp [execXinvregComplete, hgo, h]

theorem xinvregComplete_waits {s : State} (h : s.host.xinvGo = false ∨ s.Incomplete s.host.xinvIds) :
    exec .xinvregComplete s = .next s := by
  rw [← anyPending_iff] at h
  rw [Laws.exec_xinvregComplete, execXinvregComplete, if_pos (by simpa using h)]

theorem xinvregStart_recovery {s : State} (hr : s.sec.recovery = true) (w : Word) : exec (.xinvregStart w) s = .next s := by
  simp [execXinvregStart, hr]

theorem aget_aerase {α : Type} (t : Assoc α) (k : Nat) : aget (aerase t k) k = none := by
  induction t with
  | nil => rfl
  | cons p r ih =>
    by_cases h : p.1 = k
    · simpa [aerase, h] using ih
    · have : aerase (p :: r) k = p :: aerase r k := by simp [aerase, h]
      rw [this, aget_cons, if_neg h, ih]

theorem clearCounts_counts (s : State) : ∀ p ∈ s.clearCounts.xlats, p.2.counts = [] := by
  intro p hp
  obtain ⟨x, -, rfl⟩ := List.mem_map.mp hp
  rfl

theorem clearCount_count (s : State) (page : Nat) :
    aget ((s.clearCount page).xlatAt (countStation (page * 65536))).counts page = none := by
  simp [State.clearCount, State.modXlat, State.xlatAt, aget_aerase]

theorem cntclrAll_eq {s : State} (hr : s.sec.recovery = false) : exec .cntclrAll s = .next s.clearCounts := by
  simp [execCntclrAll, hr]

theorem cntclrPage_eq {s : State} (hr : s.sec.recovery = false) (page : Nat) :
    exec (.cntclrPage page) s = .next (s.clearCount page) := by
  simp [execCntclrPage, hr]

/-! ### What BAR0 shows -/

theorem bar0_errlost (s : State) : s.bar0 0x1000040 = BitVec.ofNat 64 s.sec.errlost := rfl

theorem bar0_recovery {s : State} (hr : s.sec.recovery = true) {off : Nat} (ho : off < 0x1000000) : s.bar0 off = 0 := by
  rw [State.bar0, if_neg (by omega), hr, if_pos rfl]

theorem bar0_bar2err {s : State} (hr : s.sec.recovery = false) : s.bar0 0x18 = s.host.bar2err := by
  simp [State.bar0, HostIf.word, hr]

theorem bar0_hknell {s : State} (hr : s.sec.recovery = false) : s.bar0 0x500008 = pageView s.host.hknell s.host.hknellLost := by
  simp [State.bar0, hr]

/-! ### Registers that a read clears -/

theorem bar2errRead_eq {s : State} (hr : s.sec.recovery = false) :
    exec .bar2errRead s = .next { s with
      hostData := bytesLE 8 s.host.bar2err.toNat, host := { s.host with bar2err := 0 } } := by
  rw [Laws.exec_bar2errRead, execBar2errRead, State.hostReads, bar0_bar2err hr]
  simp only [hr, Bool.false_eq_true, if_false]

theorem bar2errRead_recovery {s : State} (hr : s.sec.recovery = true) :
    exec .bar2errRead s = .next { s with hostData := bytesLE 8 0 } := by
  rw [Laws.exec_bar2errRead, execBar2errRead, State.hostReads, bar0_recovery hr (by decide), if_pos hr]
  rfl

theorem hknellRead_recovery {s : State} (hr : s.sec.recovery = true) :
    exec .hknellRead s = .next { s with hostData := bytesLE 8 0 } := by
  rw [Laws.exec_hknellRead, execHknellRead, State.hostReads, bar0_recovery hr (by decide), if_pos hr]
  rfl

theorem hknellRead_eq {s : State} (hr : s.sec.recovery = false) :
    exec .hknellRead s = .next { s with
      hostData := bytesLE 8 (pageView s.host.hknell s.host.hknellLost).toNat
      host := { s.host with
        hknell := s.host.hknell.drop 1, hknellLost := s.host.hknell == [] && s.host.hknellLost } } := by
  rw [Laws.exec_hknellRead, execHknellRead, State.hostReads, bar0_hknell hr]
  simp only [hr, Bool.false_eq_true, if_false]

/-- A read of an empty queue of Knells leaves it. -/
theorem hknell_drop_nil {h : HostIf} (hk : h.hknell = []) :
    ({ h with hknell := h.hknell.drop 1, hknellLost := h.hknell == [] && h.hknellLost } : HostIf) = h := by
  cases h
  subst hk
  rfl

theorem hknellRead_empty {s : State} (hr : s.sec.recovery = false) (hk : s.host.hknell = []) :
    exec .hknellRead s = .next { s with hostData := bytesLE 8 0 } := by
  rw [hknellRead_eq hr, hknell_drop_nil hk, hk]
  rfl

/-! ### The mailbox -/

theorem mailboxCtx_single {s : State} {c : Nat} {x : Context} (h : s.ctxs = [(c, x)]) (hx : x.running = true) :
    s.mailboxCtx = some c := by
  simp [State.mailboxCtx, h, hx]

theorem hmailWrite_eq {s : State} {c : Nat} {x : Context} (hr : s.sec.recovery = false) (hs : s.ctxs = [(c, x)])
    (hx : x.running = true) (hm : x.page.mailbox.length < 16) (w : Word) :
    exec (.hmailWrite w) s = .next { s with ctxs := [(c, { x with page := { x.page with
      mailbox := x.page.mailbox ++ [BitVec.ofNat 64 (w.toNat % 2 ^ 62)] } })] } := by
  have hc : s.ctxAt c = some x := by simp [State.ctxAt, hs, aget]
  rw [Laws.exec_hmailWrite, execHmailWrite, hr, if_neg (by decide), State.queueMail, mailboxCtx_single hs hx]
  simp [State.modCtx, hc, State.setCtx, hs, aset, pushBounded, hm, wfld, fld]

/-! ### The statement -/

/-- Settles O56: the registers one by one, the queues by what a check of their registers and a resumption do, xinvreg by what an
invalidation removes and which accesses it waits for. -/
theorem hostRegistersReadAndWrite : Obligations.HostRegistersReadAndWrite := by
  unfold Obligations.HostRegistersReadAndWrite
  refine ⟨?writes, ?recovery, ?security, ?queues, ?others⟩
  case writes =>
    intro s w hr
    exact ⟨registerWrite_block0 hr (by decide) rfl, registerWrite_block0 hr (by decide) rfl,
      registerWrite_block0 hr (by decide) (writeBlock0_bar2tag s w), registerWrite_block0 hr (by decide) rfl,
      registerWrite_block0 hr (by decide) rfl,
      fun hgo => registerWrite_block0 hr (by decide) (writeBlock0_xinvva hgo w),
      fun hgo => registerWrite_block0 hr (by decide) (writeBlock0_xinvva_busy hgo w),
      registerWrite_block0 hr (by decide) rfl, registerWrite_outside s w,
      fun q hq => ⟨registerWrite_queue_readOnly hr hq (by decide) (by decide) w,
        registerWrite_queue_readOnly hr hq (by decide) (by decide) w⟩,
      fun d hd => registerWrite_porttab hr hd w,
      fun hgo off ho =>
        have hb : 0x300000 ≤ off ∧ off < 0x300040 :=
          (show ∀ o ∈ [0x300000, 0x300008, 0x300010, 0x300018, 0x300020, 0x300028], 0x300000 ≤ o ∧ o < 0x300040 by decide) off ho
        registerWrite_pm hr hb.1 hb.2 (writePm_busy hgo _ w),
      fun hgo => ⟨registerWrite_pm hr (by decide) (by decide) (writePm_sta hgo w),
        registerWrite_pm hr (by decide) (by decide) (writePm_tick hgo w)⟩⟩
  case recovery => exact fun s off w hr ho => registerWrite_recovery hr ho w
  case security =>
    intro s w hgo
    have harg : (s.sec.write 8 w).arg = w := by rw [securityWrite_sarg hgo]
    exact ⟨_, rfl, harg, rfl, rfl, rfl, (bar0_sarg _).trans harg⟩
  case queues =>
    intro s q w k inOrder k1 k2
    refine ⟨fun hr hk => ?_, fun hr hen herr h1 h2 h3 => ?_, fun hr hk => ?_, fun hr hen herr hl => ?_, fun hr => ⟨?_, ?_, ?_⟩,
      fun hr => ⟨_, qstatRead_eq hr q, rfl, ?_⟩⟩
    · exact qtailDoorbell_of_check hr (CmdQueue.check_inOrder (k := k1) hk)
    · exact qtailDoorbell_of_check hr (CmdQueue.check_tooDeep (k := k1) hen herr h1 h2 h3)
    · exact qbaseWrite_of_check hr (CmdQueue.check_inOrder (k := k2) hk)
    · exact qbaseWrite_of_check hr (CmdQueue.check_badSize (k := k2) hen herr hl)
    · simp [execQtailDoorbell, hr]
    · simp [execQbaseWrite, hr]
    · simp [execQstatRead, hr]
    · exact ⟨resumeQueue_err s q, resumeQueue_seq s q, resumeQueue_phys s q, resumeQueue_passes, resumeQueue_stays⟩
  case others =>
    intro s w page
    refine ⟨fun hr hgo => ⟨_, _, invalidate_removed s _ _ _, mem_translatedThrough s _ _ _, xinvregStart_eq hr hgo w⟩,
      fun hgo => xinvregStart_busy hgo w, ⟨xinvregComplete_done, xinvregComplete_waits⟩, fun hr => ⟨?_, ?_, ?_⟩, fun hr => ?_,
      ?_, fun hk hr => hknellRead_empty hr hk, fun e r hk hr => ⟨_, hknellRead_eq hr, ?_⟩,
      fun c x hr hs hx hm => hmailWrite_eq hr hs hx hm w⟩
    · exact ⟨_, cntclrAll_eq hr, clearCounts_counts s, rfl⟩
    · exact ⟨_, cntclrPage_eq hr page, rfl, clearCount_count s page⟩
    · exact ⟨_, bar2errRead_eq hr, rfl, rfl, rfl⟩
    · exact ⟨xinvregStart_recovery hr w, by simp [execCntclrAll, hr], by simp [execCntclrPage, hr], by simp [execHmailWrite, hr],
        bar2errRead_recovery hr, hknellRead_recovery hr⟩
    · refine ⟨_, rfl, ?_, rfl, rfl⟩
      show bytesLE 8 (s.bar0 0x1000040).toNat = _
      rw [bar0_errlost, BitVec.toNat_ofNat]
    · simp [hk, pageView]

end Sys2Proof
end

section
/-! The step of a sample that comes before the scheduled actor (O45). -/

namespace Sys2Proof

open Sys2Proof.Machine

/-! ### A sample that comes too late for its tick -/

/-- The tick of the state that an outcome goes on with. -/
def tickAfter (r : Res) : Option Word :=
  match r with
  | .next t => some t.time
  | _ => none

/-- The step of a sample that comes before the scheduled actor: a sample is an actor too, so the ticks that pass before it are those
of `State.ticksTo`, one where something behind rank 2 has acted in the tick (R306, R331). -/
theorem step_of_sampleDue {s : State} {u : Turn} {r : List Turn} {core n : Nat} (hs : s.schedule = u :: r)
    (hd : ({ s with schedule := r } : State).sampleDue u = some (core, n)) :
    step s = settled (.next (State.act
      (({ s with schedule := ⟨u.ticks - n, u.who⟩ :: r } : State).turn ⟨n, .sample core⟩).2 (.sample core))) := by
  simp only [step, State.nextTurn, hs, State.turnOr, hd, State.turn]

/-- Core 0 of a running partition that traces, with its sampling tick due now, in a tick whose phase is 3: no actor of the model has
that rank, but `State.phase` is any number. -/
def behindLastRank : State :=
  { State.reset.setCore 0 Core.reset with
    ctxs := [(0, { Context.bare [0] 1 with trace := { TraceBuf.reset with on := true, s := 10 } })]
    schedule := [⟨1, .cycle 0⟩], phase := 3 }

theorem behindLastRank_sampleDue :
    ({ behindLastRank with schedule := [] } : State).sampleDue ⟨1, .cycle 0⟩ = some (0, 0) := by decide

/-- The sample comes too late for the tick, so that it is recorded in the next one. -/
theorem behindLastRank_tick : tickAfter (step behindLastRank) = some 1 := by
  rw [step_of_sampleDue rfl behindLastRank_sampleDue]
  decide

/-- Refutes O45: its clause on samples lets the ticks to the sample pass and no more, whatever the phase, where the model lets a
sample that comes too late for the tick wait for the next (R331). In a state of phase 3 the clause leaves the tick at 0, and the
step goes on to tick 1. A hypothesis that the phase is at most 2, the highest rank of an actor, would keep the clause from this
case. -/
theorem not_stepRunsTheDecodedInstruction : ¬ Obligations.StepRunsTheDecodedInstruction := by
  unfold Obligations.StepRunsTheDecodedInstruction
  intro ⟨_, _, samples, _⟩
  have claimed := samples behindLastRank ⟨1, .cycle 0⟩ [] 0 0 rfl behindLastRank_sampleDue
  have stays : tickAfter (step behindLastRank) = some 0 := by
    rw [claimed]
    decide
  rw [behindLastRank_tick] at stays
  exact absurd stays (by decide)

end Sys2Proof
end

section
/-! What reset leaves (O47), posted stores (O20) and fences (O25). -/

namespace Sys2Proof

open Sys2Proof.Machine

/-! ### What reset leaves -/

/-- Every key tag but 0 is free at reset (R317). -/
theorem tagState_reset {tag : Nat} (h : tag ≠ 0) : Security.reset.tagState tag = .free := by
  simp [Security.tagState, h, Security.reset, agetD]

/-- Settles O47: every field is the one that `State.reset` lists; a register of BAR0 is read off from them. -/
theorem resetLeavesTheStatedValues : Obligations.ResetLeavesTheStatedValues := by
  have hstat : CmdQueue.reset.stat = 0 := by decide
  exact ⟨rfl, rfl, rfl, fun _ => rfl, fun _ => rfl, fun _ _ => ⟨rfl, rfl, rfl, hstat⟩, fun _ _ => rfl, rfl, rfl, rfl, rfl, rfl, rfl,
    fun _ _ h => tagState_reset h, rfl, rfl, rfl, by decide⟩

/-! ### The counters of a thread, and what an access does to its thread -/

theorem modThread_eq {s : State} {t : ThreadId} {th : Thread} (h : s.threadAt t = some th) (f : Thread → Thread) :
    s.modThread t f = s.setThread t (f th) := by
  simp only [State.modThread, h]

/-- The counter of a posted store to global space (R80). -/
theorem counterOf_global (s : State) (va : Nat) :
    s.counterOf 2 va = if s.region va = .discovery ∨ s.region va = .control ∨ s.region va = .hostWindow ∨
      va / 2 ^ 42 % 2 ^ 14 = s.pkg.device.toNat then 2 else 3 := by
  have hf : fld va 55 42 = va / 2 ^ 42 % 2 ^ 14 := rfl
  simp only [State.counterOf, show ¬ (2 = 1) by decide, if_false, hf]
  cases s.region va <;> simp

@[simp] theorem setCounter_dbg (th : Thread) (k : Nat) (v : BitVec 16) : (th.setCounter k v).dbg = th.dbg := by
  unfold Thread.setCounter; split <;> [rfl; split <;> rfl]
@[simp] theorem setCounter_status (th : Thread) (k : Nat) (v : BitVec 16) : (th.setCounter k v).status = th.status := by
  unfold Thread.setCounter; split <;> [rfl; split <;> rfl]
@[simp] theorem setCounter_stepsLeft (th : Thread) (k : Nat) (v : BitVec 16) :
    (th.setCounter k v).stepsLeft = th.stepsLeft := by
  unfold Thread.setCounter; split <;> [rfl; split <;> rfl]

/-- A waiting access takes the next number, and its thread waits for that number's answer (R79). -/
theorem request_eq {s : State} {th : Thread} (h : s.threadAt s.cur = some th) (x : Access) :
    s.request s.cur x = State.setThread { s with
      accesses := s.accesses ++ [{ x with id := s.nextId, sent := s.nextId }], nextId := s.nextId + 1 } s.cur
      { th with wait := some (.answer s.nextId) } :=
  modThread_eq (s := s.sendAccess x) h _

/-- A posted store waits while its counter stands at 65,535 (R150). -/
theorem post_waits {s : State} {t : ThreadId} {th : Thread} {x : Access} (hk : th.counter (s.counterOf x.sp x.va) = 0xFFFF) :
    s.post t th x = s.waitFor t (.counterRoom (s.counterOf x.sp x.va)) := by
  simp only [State.post, hk, if_true]

/-- The machine behind a posted store that has left: one access more, and its counter raised (R80). -/
def posted (s : State) (th : Thread) (x : Access) (k : Nat) : State :=
  State.setThread { s with
    accesses := s.accesses ++ [{ x with id := s.nextId, sent := s.nextId, counter := k }], nextId := s.nextId + 1 } s.cur
    (th.setCounter k (th.counter k + 1))

/-- A posted store below that limit leaves, and its instruction completes (R80). -/
theorem post_completes {i : Instr} {s : State} {th : Thread} {uses reads : List Reg} (h : Executes s th uses reads)
    {x : Access} {k : Nat} (hx : exec i s = .next (s.post s.cur th x)) (hc : s.counterOf x.sp x.va = k)
    (hk : th.counter k ≠ 0xFFFF) :
    CompletesIn (posted s th x k) (th.setCounter k (th.counter k + 1)) i s 4 0 0 := by
  have hp : s.post s.cur th x = (posted s th x k).finish s.cur 4 := by
    simp only [State.post, hc, hk, if_false, modThread_eq h.created]
    rfl
  exact .of_finish h (by rw [hx, hp]) rfl (State.threadAt_setThread_self _ _ _) (by simp) (by simp) (by simp)

/-! ### Memory instructions whose checks pass -/

/-- A memory instruction that nothing delays and no check stops launches its access (R148, R152). -/
theorem memOp_launches {i : Instr} {s : State} {th : Thread} {m : MemOp} {k : AccessKind} {n : Nat} {sx st : Bool}
    (hx : exec i s = memOp s m k n sx st) (h : Executes s th [m.t, m.a] (if st then [m.a, m.t] else [m.a]))
    (hq : Thread.quiet th (wkMask m.wk)) (ha : s.addrFault s.cur m.sp.toNat (effAddr (s.g m.a) m.off n) n = none)
    (hw : Unwatched s th m.sp.toNat (effAddr (s.g m.a) m.off n).toNat n (AccessKind.watchKind k)) :
    let ea := effAddr (s.g m.a) m.off n
    exec i s = .next (s.launchAccess th (s.posts k m.sp.toNat ea.toNat)
      (Access.make s.cur th k m.sp.toNat ea.toNat n (if st then s.g m.t else 0) 0 m.t sx m.lu 0 s.time)) := by
  simp only [hx, memOp, h.onThread, h.gate, counterStop_none hq, orElse_none, ha, orTrap_none, watchStop_none hw]

/-! ### Posted stores -/

/-- What an answer of PROT sub 6 makes of an access to the discovery page that is not a load (R22). -/
theorem meetGlobal_discovery_refuses {s : State} {x : Access} {t : ThreadId} (hi : x.issuer = .thread t) (hsp : x.sp = 2)
    (hr : s.region x.va = .discovery) (hk : x.kind ≠ .load) (st : Nat) :
    s.meetGlobal x st = s.modAccess x.id (fun y => { y with stage := .answered 6 6 0 0 }) := by
  simp [State.meetGlobal, hr, hk, State.deliver, hi, hsp, Answer.bad]

/-- An access that leaves the core is posted, or its thread waits for the answer (R79, R80). -/
theorem launchAccess_away {s : State} {th : Thread} {x : Access} (h : x.sp ≠ 0) (posts : Bool) :
    s.launchAccess th posts x = if posts then s.post s.cur th x else s.request s.cur x := by
  rw [State.launchAccess, if_neg h]

/-- Settles O20: a store that no check stops is launched; whether it is posted, and under which counter, follows from its address. -/
theorem postedStores : Obligations.PostedStores := by
  intro s th m hsp h hq p hp ea own hfault hwatch
  obtain ⟨hkind, hexec⟩ : (p.2.2 = .store ∨ p.2.2 = .stf ∨ p.2.2 = .fest) ∧ exec p.1 s = memOp s m p.2.2 p.2.1 false true := by
    simp only [List.mem_cons, List.not_mem_nil, or_false] at hp
    rcases hp with rfl | rfl | rfl | rfl | rfl | rfl <;> exact ⟨by simp, rfl⟩
  have hwk : AccessKind.watchKind p.2.2 = 2 := by rcases hkind with e | e | e <;> rw [e] <;> rfl
  have hload : p.2.2 ≠ .load := by rcases hkind with e | e | e <;> rw [e] <;> decide
  have hsp0 : m.sp.toNat ≠ 0 := by rcases hsp with e | e <;> rw [e] <;> decide
  set x : Access := Access.make s.cur th p.2.2 m.sp.toNat ea.toNat p.2.1 (s.g m.t) 0 m.t false m.lu 0 s.time with hx
  have hl : exec p.1 s = .next (if s.posts p.2.2 m.sp.toNat ea.toNat then s.post s.cur th x else s.request s.cur x) :=
    (memOp_launches hexec h hq hfault (by rw [hwk]; exact hwatch)).trans (congrArg _ (launchAccess_away hsp0 _))
  refine ⟨fun hns h2 hd => ?discovery, fun k hposts hk => ?posts⟩
  case discovery =>
    have hno : s.posts p.2.2 m.sp.toNat ea.toNat = false := by
      simp [State.posts, hns, h2, hd]
    refine ⟨{ x with id := s.nextId, sent := s.nextId }, rfl, rfl, rfl, by rw [hx, h2]; rfl, rfl, rfl, rfl, ?_,
      meetGlobal_discovery_refuses (t := s.cur) rfl (by rw [hx, h2]; rfl) hd hload⟩
    rw [hl, hno]
    exact congrArg _ (request_eq h.created x)
  case posts =>
    have hyes : s.posts p.2.2 m.sp.toNat ea.toNat = true := by
      rcases hkind with e | e | e <;> rw [e] at hposts ⊢ <;> simp [State.posts] at hposts ⊢
      all_goals rcases hposts with e | e <;> simp [e]
    have hc : s.counterOf x.sp x.va = k := by
      rcases hk with ⟨h1, rfl⟩ | ⟨h2, ho, rfl⟩ | ⟨h2, ho, rfl⟩
      · rw [hx, h1]; rfl
      · rw [hx, h2]; exact (counterOf_global s _).trans (if_pos ho)
      · rw [hx, h2]; exact (counterOf_global s _).trans (if_neg ho)
    rw [hyes, if_pos rfl] at hl
    refine ⟨fun hfull => ?_, fun hroom => ⟨{ x with id := s.nextId, sent := s.nextId, counter := k }, rfl, rfl, rfl, rfl, rfl, rfl,
      rfl, rfl, rfl, rfl, post_completes h hl hc hroom⟩⟩
    rw [hl, post_waits (by rw [hc]; exact hfull), hc]

/-! ### Releases and counter waits that stop an instruction -/

/-- A member that alone meets a test is the one found. -/
theorem find?_of_unique {α : Type} {p : α → Bool} {k : α} {l : List α} (hm : k ∈ l) (hp : p k = true)
    (ho : ∀ j ∈ l, j ≠ k → p j = false) : l.find? p = some k := by
  obtain ⟨j, hj⟩ := Option.isSome_iff_exists.1 (List.find?_isSome.2 ⟨k, hm, hp⟩)
  have hpj := List.find?_some hj
  by_cases h : j = k
  · rw [hj, h]
  · rw [ho j (List.mem_of_find?_eq_some hj) h] at hpj; cases hpj

/-- The state in which the executing thread has taken DEFSTORE for a failure of counter k, whose record is gone (R222). -/
def reported (s : State) (th : Thread) (k : Nat) (f : StoreFailure) : State :=
  (s.setThread s.cur (th.setFailure k none)).takeTrap s.cur
    (precise 13 f.addr f.code (f.pc.toNat / 4 * 4 + if f.more then 1 else 0))

theorem reportFailure_eq {s : State} {th : Thread} (h : s.threadAt s.cur = some th) (k : Nat) (f : StoreFailure) :
    s.reportFailure s.cur k f = reported s th k f := by
  rw [State.reportFailure, modThread_eq h]; rfl

/-- An enclosed store that is not performed holds a release back (R81). -/
theorem releaseStop_waits {s : State} {th : Thread} {scope : Nat}
    (h : ∃ x ∈ s.accesses, x.postedBy s.cur = true ∧ s.storeScope s.cur x ≤ scope) :
    s.releaseStop s.cur th scope = some (s.waitFor s.cur (.release scope)) := by
  have hany : s.accesses.any (fun x => x.postedBy s.cur && decide (s.storeScope s.cur x ≤ scope)) = true := by
    simpa using h
  simp only [State.releaseStop, hany, if_true]

/-- A release reports the one failure on record, where it covers it (R222). -/
theorem releaseStop_reports {s : State} {th : Thread} {scope k : Nat} {f : StoreFailure} (hth : s.threadAt s.cur = some th)
    (hk : k ∈ [1, 2, 3]) (hf : th.failure k = some f) (ho : ∀ j ∈ [1, 2, 3], j ≠ k → th.failure j = none) (hs : f.scope ≤ scope)
    (hfree : ∀ x ∈ s.accesses, x.postedBy s.cur = true → scope < s.storeScope s.cur x) :
    s.releaseStop s.cur th scope = some (reported s th k f) := by
  have hany : s.accesses.any (fun x => x.postedBy s.cur && decide (s.storeScope s.cur x ≤ scope)) = false := by
    simpa using hfree
  have hfind := find?_of_unique (p := fun k => ((th.failure k).map (fun f => decide (f.scope ≤ scope))).getD false) hk
    (by simp [hf, hs]) (fun j hj hne => by simp [ho j hj hne])
  simp only [State.releaseStop, hany, hfind, hf, Bool.false_eq_true, if_false, reportFailure_eq hth]

/-- A selected counter that is not zero holds a wait back (R150). -/
theorem counterStop_waits {s : State} {t : ThreadId} {th : Thread} {mask : Nat}
    (h : ∃ k ∈ [1, 2, 3], selected mask k = true ∧ th.counter k ≠ 0) :
    s.counterStop t th mask = some (s.waitFor t (.counters mask)) := by
  have hany : [1, 2, 3].any (fun k => selected mask k && th.counter k != 0) = true := by
    rw [List.any_eq_true]; simpa using h
  simp only [State.counterStop, hany, if_true]

/-- A wait for counters that are zero reports the one failure on record (R222). -/
theorem counterStop_reports {s : State} {th : Thread} {mask k : Nat} {f : StoreFailure} (hth : s.threadAt s.cur = some th)
    (hk : k ∈ [1, 2, 3]) (hf : th.failure k = some f) (ho : ∀ j ∈ [1, 2, 3], j ≠ k → th.failure j = none)
    (hs : selected mask k = true) (hz : ∀ j ∈ [1, 2, 3], selected mask j = true → th.counter j = 0) :
    s.counterStop s.cur th mask = some (reported s th k f) := by
  have hany : [1, 2, 3].any (fun k => selected mask k && th.counter k != 0) = false := by
    rw [List.any_eq_false]; intro j hj; cases hsel : selected mask j <;> simp [hz j hj, hsel]
  have hfind := find?_of_unique (p := fun k => selected mask k && (th.failure k).isSome) hk
    (by simp [hf, hs]) (fun j hj hne => by simp [ho j hj hne])
  simp only [State.counterStop, hany, hfind, hf, Bool.false_eq_true, if_false, reportFailure_eq hth]

/-! ### Fences -/

theorem fence_eq {s : State} {th : Thread} (h : s.threadAt s.cur = some th) (c : BitVec 3) :
    exec (.fence c) s = .next (State.orElse (s.releaseStop s.cur th c.toNat) (s.finish s.cur 4)) := by
  rw [Laws.exec_fence, execFence, onThread_eq h]

theorem fenceSc_eq {s : State} {th : Thread} (h : s.threadAt s.cur = some th) (c : BitVec 3) :
    exec (.fenceSc c) s = .next (State.orElse (s.releaseStop s.cur th c.toNat)
      (s.byWay s.cur (s.orderWay (s.cur.core / 8) c.toNat) (fun s => s.finish s.cur 4))) := by
  rw [Laws.exec_fenceSc, execFenceSc, onThread_eq h]; rfl

theorem waitk_eq {s : State} {th : Thread} (h : s.threadAt s.cur = some th) (c : BitVec 3) :
    exec (.waitk c) s = .next (State.orElse (s.counterStop s.cur th c.toNat) (s.finish s.cur 4)) := by
  rw [Laws.exec_waitk, execWaitk, onThread_eq h]

/-- Moving along a path changes the stations alone. -/
theorem touchRoute_eq (s : State) (path : List Nat) : s.touchRoute path = { s with stations := (s.touchRoute path).stations } := by
  induction path generalizing s with
  | nil => rfl
  | cons n r ih => exact (ih _).trans rfl

theorem touchRoute_cur (s : State) (path : List Nat) : (s.touchRoute path).cur = s.cur := by rw [touchRoute_eq]
theorem touchRoute_threadAt (s : State) (path : List Nat) (t : ThreadId) : (s.touchRoute path).threadAt t = s.threadAt t := by
  rw [touchRoute_eq]; rfl

/-- The scope of two places by their first differing bits (R19). -/
theorem scopeOf_eq {a b : Nat} (ha : a < 2 ^ 32) (hb : b < 2 ^ 32) :
    scopeOf a b = if a / 2 ^ 18 ≠ b / 2 ^ 18 then 6 else if a / 2 ^ 16 ≠ b / 2 ^ 16 then 5 else if a / 2 ^ 15 ≠ b / 2 ^ 15 then 4
      else if a / 2 ^ 14 ≠ b / 2 ^ 14 then 3 else if a / 2 ^ 8 ≠ b / 2 ^ 8 then 2 else if a % 2 ^ 6 ≠ b % 2 ^ 6 then 1 else 0 := by
  simp only [scopeOf, fld]
  norm_num
  grind

/-- Settles O25: a fence and a waitk are their stop, if there is one, and else complete; of a fence.sc the way decides then. -/
theorem fencesWaitAndComplete : Obligations.FencesWaitAndComplete := by
  intro s th
  refine ⟨fun h c => ⟨fun hfree => ⟨?fence, fun hopen => ?fenceSc, fun hshut => ?shut⟩, fun hx => ?waits, fun hq => ?waitk,
    fun hx => ?counters, fun k hk f hf ho => ⟨fun hs hfree => ?release, fun hsel hz => ?counter⟩⟩, fun r h => ?scope⟩
  case fence =>
    exact ⟨_, by rw [fence_eq h.created, releaseStop_none hfree, orElse_none], finish_ran h.created h.single h.stepped 4 0⟩
  case fenceSc =>
    refine .of_finish h (by rw [fenceSc_eq h.created, releaseStop_none hfree, orElse_none, State.byWay, if_pos hopen, touchRoute_cur])
      (touchRoute_cur s _) ((touchRoute_threadAt s _ _).trans h.created) rfl rfl rfl
  case shut =>
    rw [fenceSc_eq h.created, releaseStop_none hfree, orElse_none, State.byWay, if_neg (by simpa using hshut)]
  case waits => exact ⟨by rw [fence_eq h.created, releaseStop_waits hx]; rfl, by rw [fenceSc_eq h.created, releaseStop_waits hx]; rfl⟩
  case waitk =>
    exact ⟨_, by rw [waitk_eq h.created, counterStop_none hq, orElse_none], finish_ran h.created h.single h.stepped 4 0⟩
  case counters => rw [waitk_eq h.created, counterStop_waits hx]; rfl
  case release =>
    have hstop := releaseStop_reports h.created hk hf ho hs hfree
    exact ⟨(fence_eq h.created c).trans (by rw [hstop]; rfl), (fenceSc_eq h.created c).trans (by rw [hstop]; rfl)⟩
  case counter => exact (waitk_eq h.created c).trans (by rw [counterStop_reports h.created hk hf ho hsel hz]; rfl)
  case scope =>
    refine .of_gate h (Laws.exec_scope r s) ?_
    have hw (w : Word) : wfld w 31 0 = w.toNat % 2 ^ 32 := by simp [wfld, fld]
    rw [hw, hw, scopeOf_eq (Nat.mod_lt _ (by decide)) (Nat.mod_lt _ (by decide))]
    simp only [apply_ite (BitVec.ofNat 64)]
    rfl

end Sys2Proof
end

section
/-! Supply and clock, the discovery table, and boot (O60). -/

namespace Sys2Proof

open Sys2Proof.Machine

/-- What each step of a fold keeps, the fold keeps. -/
theorem foldl_keeps {α σ β : Type} {f : σ → α → σ} (g : σ → β) (h : ∀ s a, g (f s a) = g s) (l : List α) (s : σ) :
    g (l.foldl f s) = g s := by
  induction l generalizing s with
  | nil => rfl
  | cons a r ih => rw [List.foldl_cons, ih, h]

/-! ### The discovery table (R22, R23) -/

/-- A rewrite begins: gen becomes odd, or stays where a rewrite is under way (R23). -/
theorem rewriteTable_pkg (s : State) :
    (s.pkg.rewriting = none → s.rewriteTable.pkg =
      { s.pkg with gen := BitVec.ofNat 64 ((s.pkg.gen.toNat + 1) % 2 ^ 32), rewriting := some 0 }) ∧
    (s.pkg.rewriting.isSome = true → s.rewriteTable.pkg = { s.pkg with rewriting := some 0 }) := by
  constructor <;> intro h <;> simp [State.rewriteTable, h, Package.bump]

theorem writeEntry_none {s : State} (h : s.pkg.rewriting = none) : s.writeEntry = s := by
  simp only [State.writeEntry, h]

theorem writeEntry_last {s : State} {k : Nat} (h : s.pkg.rewriting = some k) (hk : 8 ≤ k) :
    s.writeEntry = { s with pkg := { s.pkg.bump with rewriting := none } } := by
  simp only [State.writeEntry, h, hk, if_true]

theorem writeEntry_next {s : State} {k : Nat} (h : s.pkg.rewriting = some k) (hk : k < 8) :
    s.writeEntry = { s with pkg := { s.pkg with table := aset s.pkg.table k s.tableEntry, rewriting := some (k + 1) } } := by
  simp only [State.writeEntry, h, Nat.not_le.2 hk, if_false]

theorem mem_sparePlaces (s : State) (i : Nat) :
    i ∈ s.sparePlaces ↔ ∃ p ∈ s.cores, p.1 = i ∧ p.2.spare = true ∧ p.2.lost = false := by
  simp only [State.sparePlaces, List.mem_map, List.mem_filter, Bool.and_eq_true, Bool.not_eq_true']
  exact ⟨fun ⟨p, ⟨hm, hs⟩, hi⟩ => ⟨p, hm, hi, hs⟩, fun ⟨p, hm, hi, hs⟩ => ⟨p, ⟨hm, hs⟩, hi⟩⟩

/-- Firmware's remaining writes, when it stands before entry k: the last of them ends the rewrite with gen one higher. -/
theorem writeEntries_pkg {n k : Nat} {s : State} (h : s.pkg.rewriting = some k) (hk : k + n = 8) :
    (s.writeEntries (n + 1)).pkg.rewriting = none ∧ (s.writeEntries (n + 1)).pkg.gen = s.pkg.bump.gen := by
  induction n generalizing k s with
  | zero => rw [State.writeEntries, writeEntry_last h (by omega)]; exact ⟨rfl, rfl⟩
  | succ n ih => rw [State.writeEntries, writeEntry_next h (by omega)]; exact ih (k := k + 1) rfl (by omega)

/-- A rewrite that nothing disturbs adds two to gen (R23). -/
theorem writeTable_pkg {s : State} (h : s.pkg.rewriting = none) :
    s.writeTable.pkg.rewriting = none ∧ s.writeTable.pkg.gen = s.pkg.bump.bump.gen := by
  obtain ⟨hr, hg⟩ := writeEntries_pkg (n := 8) (k := 0) (s := s.rewriteTable) rfl rfl
  refine ⟨hr, hg.trans ?_⟩
  have := (rewriteTable_pkg s).1 h
  rw [Package.bump, this]; rfl

/-- A rewrite changes the package's fields alone. -/
theorem writeEntry_frame (s : State) : s.writeEntry = { s with pkg := s.writeEntry.pkg } := by
  unfold State.writeEntry; split
  · rfl
  · split <;> rfl

theorem writeEntries_frame (n : Nat) (s : State) : s.writeEntries n = { s with pkg := (s.writeEntries n).pkg } := by
  induction n generalizing s with
  | zero => rfl
  | succ n ih => rw [State.writeEntries, ih, writeEntry_frame s]

theorem writeTable_frame (s : State) : s.writeTable = { s with pkg := s.writeTable.pkg } := by
  rw [State.writeTable, writeEntries_frame]; rfl

/-! ### Reading the discovery page (R22) -/

/-- The n bytes of a line from an offset on, as a number. -/
def fieldAt (line : List Byte) (off n : Nat) : Nat := ofBytesLE ((line.drop off).take n)

theorem fieldAt_head (n v : Nat) (post : List Byte) : fieldAt (bytesLE n v ++ post) 0 n = v % 256 ^ n := by
  rw [fieldAt, List.drop_zero, List.take_left' (length_bytesLE n v), ofBytesLE_bytesLE]

theorem fieldAt_skip {m off : Nat} (h : m ≤ off) (n v : Nat) (post : List Byte) :
    fieldAt (bytesLE m v ++ post) off n = fieldAt post (off - m) n := by
  rw [fieldAt, List.drop_append, List.drop_eq_nil_of_le (by simpa using h), length_bytesLE, List.nil_append, fieldAt]

theorem discoveryRead_header (s : State) (t : ThreadId) {off : Nat} (h : off < 64) (n : Nat) :
    s.discoveryRead t off n = fieldAt s.discoveryHeader off n := by
  rw [State.discoveryRead, Nat.div_eq_of_lt h, Nat.mod_eq_of_lt h]; rfl

theorem discoveryRead_entry (s : State) (t : ThreadId) {code at_ : Nat} (h : code ≤ 7) (ha : at_ < 64) (n : Nat) :
    s.discoveryRead t (64 + 64 * code + at_) n = fieldAt (s.discoveryEntry t code) at_ n := by
  have hd : (64 + 64 * code + at_) / 64 = code + 1 := by omega
  have hm : (64 + 64 * code + at_) % 64 = at_ := by omega
  simp only [State.discoveryRead, hd, hm]
  rw [if_neg (by omega), if_pos (by omega), Nat.add_sub_cancel]; rfl

theorem discoveryHeader_reads (s : State) (t : ThreadId) :
    s.discoveryRead t 0 2 = 1 ∧ s.discoveryRead t 2 2 = 64 ∧ s.discoveryRead t 4 4 = s.pkg.gen.toNat % 2 ^ 32 ∧
      s.discoveryRead t 8 4 = s.pkg.device.toNat % 2 ^ 32 := by
  have hr (off n : Nat) (h : off < 64) := discoveryRead_header s t h n
  rw [hr 0 2 (by decide), hr 2 2 (by decide), hr 4 4 (by decide), hr 8 4 (by decide)]
  simp [State.discoveryHeader, fieldAt_skip, fieldAt_head]

/-- The six fields of an entry, from what firmware wrote it (R22). -/
theorem discoveryEntry_reads {s : State} {t : ThreadId} {code : Nat} {e : TableEntry} {f : List Nat} (hc : code ≤ 7)
    (he : aget s.pkg.table code = some e) (hf : s.entryFields e t code = f) :
    let reads (at_ size : Nat) : Nat := s.discoveryRead t (64 + 64 * code + at_) size
    reads 0 8 = f.getD 0 0 % 256 ^ 8 ∧ reads 8 4 = f.getD 1 0 % 256 ^ 4 ∧ reads 12 4 = f.getD 2 0 % 256 ^ 4 ∧
      reads 16 4 = f.getD 3 0 % 256 ^ 4 ∧ reads 20 4 = f.getD 4 0 % 256 ^ 4 ∧ reads 24 4 = code % 256 ^ 4 := by
  have hr (at_ size : Nat) (ha : at_ < 64) := discoveryRead_entry s t hc ha size
  simp only [hr 0 8 (by decide), hr 8 4 (by decide), hr 12 4 (by decide), hr 16 4 (by decide), hr 20 4 (by decide), hr 24 4 (by decide),
    State.discoveryEntry, he, hf, List.append_assoc]
  simp [fieldAt_skip, fieldAt_head]

/-- At the nominal clock a tick is a core cycle (R8). -/
theorem ticks_nominal {e : TableEntry} (h : e.mhz = [1900, 1900, 1900, 1900]) {reticle : Nat} (hr : reticle < 4)
    (code fieldNo cycles : Nat) : e.ticks reticle code fieldNo cycles = cycles := by
  have hf : (if code ≤ 4 then e.mhz.getD reticle 0 else e.mhz.headD 0) = 1900 := by
    rw [h]; split
    · interval_cases reticle <;> rfl
    · rfl
  simp only [TableEntry.ticks, hf]
  simp [h]

/-- What an entry says where no spare serves, no place is dead and every clock is nominal (R22, R25, R274). -/
theorem entryFields_nominal {s : State} {t : ThreadId} {code : Nat} {e : TableEntry} (hc : code ≤ 5) (ht : t.core < 768)
    (hs : e.spares = []) (hd : e.dead = []) (hm : e.mhz = [1900, 1900, 1900, 1900]) :
    s.entryFields e t code = [[1, 64, 3072, 6144, 12288, 49152].getD code 0, [0, 0, 24, 68, 76, 108].getD code 0,
      [0, 0, 520, 1300, 1452, 2060].getD code 0, [2, 2, 24, 68, 76, 108].getD code 0, [0, 0, 24, 68, 76, 108].getD code 0] := by
  have hret : stationOfCore t.core / 24 < 4 := by simp only [stationOfCore]; omega
  simp only [State.entryFields, if_pos hc, ticks_nominal hm hret, State.agents, State.fenceCycles, State.worstCycles,
    State.tripCycles, hs, hd]
  interval_cases code <;> rfl

/-- The first byte of the identity's point is 4 (R322). -/
theorem bar0_identity (s : State) : (s.bar0 0x1010000).toNat % 2 ^ 8 = 4 := by
  have hw : s.bar0 0x1010000 = BitVec.ofNat 64 (ofBytesLE ((List.range 8).map (fun i => identityByte i))) := rfl
  obtain ⟨r, hr⟩ : ∃ r, ofBytesLE ((List.range 8).map (fun i => identityByte i)) = 4 + 256 * r := ⟨_, rfl⟩
  rw [hw, hr, BitVec.toNat_ofNat]
  omega

/-! ### Supply and clock (R329, R330) -/

/-- A request of the pending kind is performed (R321). -/
theorem secAct_pending {s : State} {kind : Nat} (hgo : s.sec.go = true) (hk : s.sec.kind = kind) (act : State) :
    s.secAct kind act = .next act := by
  simp [State.secAct, hgo, hk]

/-- A POWER's values are out of range (R329). -/
def PowerBad (w : Word) : Prop :=
  let mv := w.toNat / 2 ^ 32 % 2 ^ 16
  let mhz := w.toNat / 2 ^ 16 % 2 ^ 16
  mv < 400 ∨ 600 < mv ∨ mv % 10 ≠ 0 ∨ mhz < 400 ∨ mhz % 25 ≠ 0 ∨ clockLimit mv < mhz

theorem powerBad_iff (w : Word) : powerBad w = true ↔ PowerBad w := by
  have hmv : powerMv w = w.toNat / 2 ^ 32 % 2 ^ 16 := rfl
  have hmhz : powerMhz w = w.toNat / 2 ^ 16 % 2 ^ 16 := rfl
  simp only [powerBad, PowerBad, hmv, hmhz, Bool.or_eq_true, decide_eq_true_eq, bne_iff_ne, or_assoc]

theorem power_bad {s : State} (hgo : s.sec.go = true) (hk : s.sec.kind = 5) (hb : PowerBad s.sec.arg) :
    exec .power s = .next (s.secEnd 2 0) := by
  rw [Laws.exec_power, execPower, secAct_pending hgo hk, if_pos ((powerBad_iff _).2 hb)]

theorem power_busy {s : State} (hgo : s.sec.go = true) (hk : s.sec.kind = 5) (hb : ¬ PowerBad s.sec.arg)
    (hc : (s.sec.pwrAt (powerReticle s.sec.arg)).changing = true) : exec .power s = .next s := by
  rw [Laws.exec_power, execPower, secAct_pending hgo hk, if_neg (mt (powerBad_iff _).1 hb)]
  exact congrArg _ (if_pos hc)

/-- What a reticle shows while a POWER changes it: the lower clock and the higher supply (R329; log entry 41). -/
def powering (s : State) : State :=
  let arg := s.sec.arg
  let p := s.sec.pwrAt (powerReticle arg)
  s.modSec (fun c => { c with pwr := aset c.pwr (powerReticle arg) { p with
    mhz := min p.mhz (powerMhz arg), mv := max p.mv (powerMv arg), changing := true
    state := if p.state = 2 then 2 else 1, targetMhz := powerMhz arg, targetMv := powerMv arg } })

theorem power_starts {s : State} (hgo : s.sec.go = true) (hk : s.sec.kind = 5) (hb : ¬ PowerBad s.sec.arg)
    (hc : (s.sec.pwrAt (powerReticle s.sec.arg)).changing = false) :
    exec .power s = .next (if powerMhz s.sec.arg < (s.sec.pwrAt (powerReticle s.sec.arg)).mhz then (powering s).rewriteTable
      else powering s) := by
  rw [Laws.exec_power, execPower, secAct_pending hgo hk, if_neg (mt (powerBad_iff _).1 hb)]
  exact congrArg _ (if_neg (by simp [hc]))

/-- A reticle whose change has ended, before the request is answered (R330). -/
def powered (s : State) (r : Nat) : State :=
  let p := s.sec.pwrAt r
  (s.modSec (fun c => { c with pwr := aset c.pwr r { p with
    mhz := if p.state = 2 then p.mhz else p.targetMhz, mv := p.targetMv, changing := false
    state := if p.state = 2 then 2 else 0 } })).rewriteTable

theorem powerChangeComplete_eq {s : State} {r : Nat} (hc : (s.sec.pwrAt r).changing = true) :
    exec (.powerChangeComplete r) s = .next
      (if s.sec.go && s.sec.kind == 5 && powerReticle s.sec.arg == r then (powered s r).secEnd 0 0 else powered s r) := by
  rw [Laws.exec_powerChangeComplete, execPowerChangeComplete]
  simp only [hc, Bool.true_eq_false, if_false]
  split <;> rfl

theorem powerChangeComplete_idle {s : State} {r : Nat} (hc : (s.sec.pwrAt r).changing = false) :
    exec (.powerChangeComplete r) s = .next s := by
  rw [Laws.exec_powerChangeComplete, execPowerChangeComplete]
  exact if_pos hc

/-- The register of a reticle that has been set. -/
theorem pwrAt_aset (c : Security) (r : Nat) (p : PwrReg) : ({ c with pwr := aset c.pwr r p } : Security).pwrAt r = p :=
  agetD_aset_self c.pwr r p _

theorem thermalRecover_idle {s : State} {r : Nat} (h : (s.sec.pwrAt r).state ≠ 2 ∨ (s.sec.pwrAt r).changing = true) :
    exec (.thermalRecover r) s = .next s := by
  rw [Laws.exec_thermalRecover, execThermalRecover]
  exact if_pos h

theorem thermalRecover_eq {s : State} {r : Nat} (h2 : (s.sec.pwrAt r).state = 2) (hc : (s.sec.pwrAt r).changing = false) :
    exec (.thermalRecover r) s = .next (State.rewriteTable (s.modSec (fun c => { c with
      pwr := aset c.pwr r { s.sec.pwrAt r with
        mhz := min (s.sec.pwrAt r).targetMhz ((s.sec.pwrAt r).mhz + 100)
        state := if (s.sec.pwrAt r).targetMhz ≤ (s.sec.pwrAt r).mhz + 100 then 0 else 2 } }))) := by
  rw [Laws.exec_thermalRecover, execThermalRecover]
  simp only [h2, hc, ne_eq, not_true_eq_false, Bool.false_eq_true, or_self, if_false, min_eq_left_iff]

/-! ### Boot (R324 to R327) -/

/-- What the third boot step leaves as it is: all but cores, counts of spares and dead places. -/
def untested (s : State) : Security × Phys × Assoc Context × Word × Option Nat :=
  (s.sec, s.phys, s.ctxs, s.pkg.gen, s.pkg.rewriting)

theorem untested_modCores (f : Core → Core) (l : List Nat) (s : State) :
    untested (l.foldl (fun s c => s.modCore c f) s) = untested s := by
  refine foldl_keeps untested ?_ l s
  exact fun _ _ => rfl

theorem untested_testCores (s : State) (b : BootInput) : untested (s.testCores b) = untested s := by
  refine foldl_keeps untested ?_ (List.range 16) s
  exact fun _ _ => (untested_modCores _ _ _).trans (untested_modCores _ _ _)

theorem testCores_sec (s : State) (b : BootInput) : (s.testCores b).sec = s.sec := congrArg (·.1) (untested_testCores s b)
theorem testCores_phys (s : State) (b : BootInput) : (s.testCores b).phys = s.phys := congrArg (·.2.1) (untested_testCores s b)
theorem testCores_ctxs (s : State) (b : BootInput) : (s.testCores b).ctxs = s.ctxs := congrArg (·.2.2.1) (untested_testCores s b)
theorem testCores_gen (s : State) (b : BootInput) : (s.testCores b).pkg.gen = s.pkg.gen :=
  congrArg (·.2.2.2.1) (untested_testCores s b)
theorem testCores_rewriting (s : State) (b : BootInput) : (s.testCores b).pkg.rewriting = s.pkg.rewriting :=
  congrArg (·.2.2.2.2) (untested_testCores s b)

/-- A step that works, done the normal way and journalled (R324, R326). -/
def bootStep (b : BootInput) (s : State) (n : Nat) : State := (s.bootAct b n true).journal n 0 0

/-- What the journal and the record of failures are, apart from the other fields. -/
def bootLog (s : State) : Assoc JournalEntry × Nat × BitVec 16 × List Nat × Bool × Bool :=
  (s.sec.journal, s.sec.jtail, s.sec.bootCount, s.sec.failedSteps, s.sec.jclr, s.sec.recovery)

/-- No step itself touches the journal, the count or what is remembered of failures. -/
theorem bootLog_bootAct (s : State) (b : BootInput) (n : Nat) : bootLog (s.bootAct b n true) = bootLog s := by
  unfold State.bootAct
  split
  case h_3 => exact congrArg (fun c : Security => (c.journal, c.jtail, c.bootCount, c.failedSteps, c.jclr, c.recovery)) (testCores_sec s b)
  case h_9 => rw [writeTable_frame]; rfl
  all_goals rfl

/-- What a working step leaves in the log. -/
theorem bootStep_log (b : BootInput) (s : State) (n : Nat) :
    (bootStep b s n).sec.jtail = (s.sec.jtail + 1) % 256 ∧ (bootStep b s n).sec.bootCount = s.sec.bootCount ∧
      (bootStep b s n).sec.failedSteps = s.sec.failedSteps ∧ (bootStep b s n).sec.jclr = s.sec.jclr ∧
      (bootStep b s n).sec.recovery = s.sec.recovery ∧
      (bootStep b s n).sec.journal = aset s.sec.journal s.sec.jtail
        { boot := s.sec.bootCount, step := n, outcome := 0, cause := 0, detail := 0 } := by
  have h := bootLog_bootAct s b n
  simp only [bootLog, Prod.mk.injEq] at h
  obtain ⟨hj, ht, hb, hf, hc, hr⟩ := h
  refine ⟨congrArg (fun x => (x + 1) % 256) ht, hb, hf, hc, hr, ?_⟩
  simp [bootStep, State.journal, State.modSec, hj, ht, hb]

/-- Steps that all work are done one after the other. -/
theorem bootSteps_all {b : BootInput} {l : List Nat} {s : State} (hf : s.sec.failedSteps = [])
    (hw : ∀ n ∈ l, stepWorks b n true = true) : s.bootSteps b l = l.foldl (bootStep b) s := by
  induction l generalizing s with
  | nil => rfl
  | cons n r ih =>
    have hd : bootDetail b n true = 0 := rfl
    simp only [State.bootSteps, hf, List.contains_nil, Bool.false_and, Bool.false_eq_true, if_false,
      hw n (List.mem_cons_self ..), if_true, hd]
    exact ih ((bootStep_log b s n).2.2.1.trans hf) (fun m hm => hw m (List.mem_cons_of_mem _ hm))

/-- Working steps leave the count and what is remembered. -/
theorem bootSteps_log (b : BootInput) (s : State) (l : List Nat) :
    let t := l.foldl (bootStep b) s
    t.sec.bootCount = s.sec.bootCount ∧ t.sec.failedSteps = s.sec.failedSteps ∧ t.sec.jclr = s.sec.jclr ∧
      t.sec.recovery = s.sec.recovery := by
  have h := foldl_keeps (f := bootStep b) (fun s => (s.sec.bootCount, s.sec.failedSteps, s.sec.jclr, s.sec.recovery))
    (fun s n => by
      obtain ⟨-, hb, hf, hc, hr, -⟩ := bootStep_log b s n
      simp only [hb, hf, hc, hr]) l s
  simpa only [Prod.mk.injEq] using h

/-- Each working step has its journal entry, in order (R326). -/
theorem bootSteps_journal (b : BootInput) {s : State} (ht : s.sec.jtail < 256) (l : List Nat) (hl : l.length ≤ 256) :
    (l.foldl (bootStep b) s).sec.jtail = (s.sec.jtail + l.length) % 256 ∧
      ∀ i (hi : i < l.length), aget (l.foldl (bootStep b) s).sec.journal ((s.sec.jtail + i) % 256) =
        some { boot := s.sec.bootCount, step := l[i], outcome := 0, cause := 0, detail := 0 } := by
  induction l using List.reverseRecOn with
  | nil => exact ⟨(Nat.mod_eq_of_lt ht).symm, fun i hi => absurd hi (Nat.not_lt_zero i)⟩
  | append_singleton l n ih =>
    rw [List.length_append, List.length_singleton] at hl
    obtain ⟨hj, he⟩ := ih (by omega)
    obtain ⟨st, -, -, -, -, sj⟩ := bootStep_log b (l.foldl (bootStep b) s) n
    rw [List.foldl_append, List.foldl_cons, List.foldl_nil]
    refine ⟨by rw [st, hj, List.length_append, List.length_singleton]; omega, fun i hi => ?_⟩
    rw [List.length_append, List.length_singleton] at hi
    rw [sj, hj, (bootSteps_log b s l).1]
    by_cases h : i < l.length
    · rw [aget_aset_ne _ _ (by omega), he i h, List.getElem_append_left h]
    · obtain rfl : i = l.length := by omega
      rw [aget_aset_self, List.getElem_concat_length rfl]

/-- What boot steps leave behind, but the log of them. -/
structure BootView where
  memStacks : BitVec 12
  memCap : Bool
  booted : Bool
  pwr : Assoc PwrReg
  phys : Phys
  ctxs : Assoc Context
  gen : Word
  rewriting : Option Nat

def bootView (s : State) : BootView :=
  { memStacks := s.sec.memStacks, memCap := s.sec.memCap, booted := s.sec.booted, pwr := s.sec.pwr, phys := s.phys, ctxs := s.ctxs
    gen := s.pkg.gen, rewriting := s.pkg.rewriting }

/-- The clock registers as the second step sets them (R324). -/
def nominalClocks : Assoc PwrReg :=
  (List.range 4).map (fun r => (r, { mhz := 1900, mv := 450, state := 0, changing := false, targetMhz := 1900, targetMv := 450 }))

section
variable (b : BootInput) (s : State)

theorem bootView_step1 : bootView (bootStep b s 1) = bootView s := rfl
theorem bootView_step2 : bootView (bootStep b s 2) = { bootView s with pwr := nominalClocks } := rfl
theorem bootView_step3 : bootView (bootStep b s 3) = bootView s := by
  show bootView (s.testCores b) = bootView s
  rw [bootView, testCores_sec, testCores_phys, testCores_ctxs, testCores_gen, testCores_rewriting]; rfl
theorem bootView_step4 : bootView (bootStep b s 4) = { bootView s with memStacks := 0xFFF } := rfl
theorem bootView_step5 : bootView (bootStep b s 5) = { bootView s with memCap := true } := rfl
theorem bootView_step6 : bootView (bootStep b s 6) = { bootView s with phys := { Phys.reset with host := (bootView s).phys.host } } :=
  rfl
theorem bootView_step7 : bootView (bootStep b s 7) = bootView s := rfl
theorem bootView_step8 : bootView (bootStep b s 8) = bootView s := rfl
theorem bootView_step9 : bootView (bootStep b s 9) = bootView s := rfl
theorem bootView_step10 (h : (bootView s).rewriting = none) : bootView (bootStep b s 10) =
    { bootView s with booted := true, gen := ({ s.pkg with gen := (bootView s).gen } : Package).bump.bump.gen, rewriting := none } := by
  obtain ⟨hr, hg⟩ := writeTable_pkg (s := s) h
  have hb : bootStep b s 10 = State.journal (s.writeTable.modSec (fun c =>
      { c with cfgMeasure := sha384 s.configInput, booted := true })) 10 0 0 := rfl
  rw [hb, writeTable_frame, show ({ s.pkg with gen := (bootView s).gen } : Package) = s.pkg from rfl, ← hg, ← hr]
  generalize s.writeTable.pkg = p
  rfl

/-- What all ten steps leave, where they work. -/
theorem bootView_steps (h : (bootView s).rewriting = none) (hg : (bootView s).gen = 0) :
    bootView ([1, 2, 3, 4, 5, 6, 7, 8, 9, 10].foldl (bootStep b) s) =
      { memStacks := 0xFFF, memCap := true, booted := true, pwr := nominalClocks
        phys := { Phys.reset with host := (bootView s).phys.host }, ctxs := (bootView s).ctxs, gen := 2, rewriting := none } := by
  have h9 : bootView ([1, 2, 3, 4, 5, 6, 7, 8, 9].foldl (bootStep b) s) =
      { bootView s with memStacks := 0xFFF, memCap := true, pwr := nominalClocks
                        phys := { Phys.reset with host := (bootView s).phys.host } } := by
    simp only [List.foldl_cons, List.foldl_nil, bootView_step1, bootView_step2, bootView_step3, bootView_step4, bootView_step5,
      bootView_step6, bootView_step7, bootView_step8, bootView_step9]
  rw [show [1, 2, 3, 4, 5, 6, 7, 8, 9, 10] = [1, 2, 3, 4, 5, 6, 7, 8, 9] ++ [10] from rfl, List.foldl_append, List.foldl_cons,
    List.foldl_nil, bootView_step10 _ _ (by rw [h9]; exact h), h9]
  simp only [hg]
  rfl

end

/-- The device as a boot finds it, before the first step: the count has risen and a JCLR has taken effect (R325). -/
def bootBegun (s : State) : State :=
  s.restart.modSec (fun c => { c with
    bootCount := c.bootCount + 1, failedSteps := if c.jclr then [] else c.failedSteps, jclr := false })

theorem boot_eq (s : State) (b : BootInput) :
    exec (.boot b) s = .next ((bootBegun s).bootSteps b [1, 2, 3, 4, 5, 6, 7, 8, 9, 10]) := rfl

/-- Without a failed core every step works that the environment lets work. -/
theorem stepWorks_normal {b : BootInput} (hn : ∀ n < 10, b.normalOk.getD n true = true) (hc : b.badCores = []) {n : Nat}
    (h1 : 1 ≤ n) (h10 : n ≤ 10) : stepWorks b n true = true := by
  rw [stepWorks, if_pos rfl, hn (n - 1) (by omega), Bool.true_and]
  simp [failedIn, hc, sortedSet]

/-- A first step that fails leads to recovery (R325). -/
theorem bootSteps_imageFails {b : BootInput} {s : State} (hb : b.normalOk.getD 0 true = false) (hf : 1 ∉ s.sec.failedSteps)
    (rest : List Nat) : s.bootSteps b (1 :: rest) = (s.journal 1 1 0).recover := by
  have hc : s.sec.failedSteps.contains 1 = false := by simpa using hf
  have hw : stepWorks b 1 true = false := by rw [stepWorks, if_pos rfl, hb, Bool.false_and]
  simp only [State.bootSteps, hc, hw, Bool.false_and, Bool.false_eq_true, if_false, if_true]

/-- Settles O60: POWER, its end and the thermal steps by what each makes of its register, the table by its writes, the page by its
fields, and a boot step by step. -/
theorem powerClockAndBoot : Obligations.PowerClockAndBoot := by
  refine ⟨fun s r => ?supply, fun s => ⟨writeEntry_none, fun k => writeEntry_last, fun k h hk =>
    ⟨s.tableEntry, writeEntry_next h hk, mem_sparePlaces s, rfl, rfl⟩⟩, fun s t => ?page, bar0_identity, fun s b hn hc hf => ?boot,
    fun s b hb hf => ?fails, fun s b => ⟨fun hr => ?idle, fun hr => ?again⟩⟩
  case supply =>
    refine ⟨power_bad, fun hgo hk hb hc => power_busy hgo hk hb hc, fun hgo hk hb hc => ⟨_, power_starts hgo hk hb hc, ?_⟩,
      powerChangeComplete_idle, fun hc => ⟨_, powerChangeComplete_eq hc, ?_⟩,
      ⟨_, rfl, rewriteTable_pkg (s.modSec _), rfl, rfl, pwrAt_aset ..⟩, thermalRecover_idle,
      fun h2 hc => ⟨_, thermalRecover_eq h2 hc, rewriteTable_pkg (s.modSec _), rfl, rfl, pwrAt_aset ..⟩, fun hgo hk => ?_⟩
    · split
      · rename_i hlt
        exact ⟨rfl, rfl, fun _ => rewriteTable_pkg (powering s), fun hle => absurd hlt (Nat.not_lt.2 hle), rfl⟩
      · rename_i hge
        exact ⟨rfl, rfl, fun hlt => absurd hlt hge, fun _ => rfl, rfl⟩
    · split
      · exact ⟨rewriteTable_pkg (s.modSec _), rfl, rfl, pwrAt_aset .., fun _ _ _ => ⟨rfl, rfl⟩⟩
      · rename_i hother
        refine ⟨rewriteTable_pkg (s.modSec _), rfl, rfl, pwrAt_aset .., fun hgo hk hn => absurd ?_ hother⟩
        simp only [hgo, hk, Bool.true_and, beq_self_eq_true, beq_iff_eq]
        exact hn
    · rw [Laws.exec_jclr, execJclr, secAct_pending hgo hk]; rfl
  case page =>
    obtain ⟨h0, h2, h4, h8⟩ := discoveryHeader_reads s t
    refine ⟨h0, h2, h4, h8, fun n e hn ht he hs hd hm => ?_⟩
    have h := discoveryEntry_reads (Nat.le_trans hn (by decide)) he (entryFields_nominal hn ht hs hd hm)
    interval_cases n <;> exact h
  case boot =>
    have h0 : (bootBegun s).sec.failedSteps = [] := by
      show (if s.sec.jclr then [] else s.sec.failedSteps) = []
      rcases hf with h | h <;> simp [h]
    have hall := bootSteps_all (l := [1, 2, 3, 4, 5, 6, 7, 8, 9, 10]) h0
      (fun n hm => stepWorks_normal hn hc (by revert n; decide) (by revert n; decide))
    have hview := bootView_steps b (bootBegun s) rfl rfl
    obtain ⟨hcount, hfailed, hjclr, hrec⟩ := bootSteps_log b (bootBegun s) [1, 2, 3, 4, 5, 6, 7, 8, 9, 10]
    have hjournal (ht : s.sec.jtail < 256) :=
      bootSteps_journal b (s := bootBegun s) ht [1, 2, 3, 4, 5, 6, 7, 8, 9, 10] (by decide)
    rw [boot_eq, hall]
    generalize [1, 2, 3, 4, 5, 6, 7, 8, 9, 10].foldl (bootStep b) (bootBegun s) = t at hview hcount hfailed hjclr hrec hjournal
    simp only [bootView, BootView.mk.injEq] at hview
    obtain ⟨hstacks, hcap, hbooted, hpwr, hphys, hctxs, hgen, hrw⟩ := hview
    refine ⟨t, rfl, hbooted, hrec, hcount, hjclr, hfailed.trans h0, by rw [hphys]; rfl, by rw [hphys]; rfl, by rw [hphys]; rfl,
      hctxs, hgen, hrw, hstacks, hcap, fun r hr => ?_,
      fun ht => ⟨(hjournal ht).1, fun n hn => ⟨_, (hjournal ht).2 n hn, ?_, rfl, rfl, rfl⟩⟩⟩
    · rw [Security.pwrAt, hpwr]
      interval_cases r <;> exact ⟨rfl, rfl⟩
    · interval_cases n <;> rfl
  case fails =>
    have h1 : 1 ∉ (bootBegun s).sec.failedSteps := by
      show 1 ∉ (if s.sec.jclr then [] else s.sec.failedSteps)
      split <;> simp [hf]
    exact ⟨_, (boot_eq s b).trans (congrArg _ (bootSteps_imageFails hb h1 _)), rfl, rfl, rfl⟩
  case idle => rw [Laws.exec_recoveryImage, execRecoveryImage, hr]; rfl
  case again => rw [Laws.exec_recoveryImage, execRecoveryImage, hr]; rfl

end Sys2Proof
end

section
/-! Heartbeats, lost cores, Knells, the control page and remaps (O55). -/

namespace Sys2Proof

open Sys2Proof.Machine

/-! ### Tables and ascending lists -/

theorem mem_insertNat {x y : Nat} {l : List Nat} : y ∈ insertNat x l ↔ y = x ∨ y ∈ l := by
  induction l with
  | nil => simp [insertNat]
  | cons a r ih =>
    simp only [insertNat]
    split
    · simp
    · split
      · rename_i h; subst h; simp
      · simp only [List.mem_cons, ih]; tauto

/-- A table whose entries change and whose keys stay. -/
theorem aget_map_entries {α β : Type} {g : Nat × α → Nat × β} (hg : ∀ p, (g p).1 = p.1) (t : Assoc α) (k : Nat) :
    aget (t.map g) k = (aget t k).map (fun v => (g (k, v)).2) := by
  induction t with
  | nil => rfl
  | cons p r ih =>
    rw [List.map_cons, aget_cons, aget_cons, hg, ih]
    split
    · rename_i h; rw [← h]; rfl
    · rfl

/-! ### Heartbeats and stops (R233, R234, R237) -/

theorem heartbeat_due {s : State} {core : Nat} (h1 : (s.coreAt core).stopped = false) (h2 : (s.coreAt core).lost = false)
    (h3 : (s.coreAt core).lastBeat + 65536 ≤ s.time.toNat) :
    exec (.heartbeat core) s = .next (s.setCore core { s.coreAt core with lastBeat := s.time.toNat }) := by
  rw [Laws.exec_heartbeat, execHeartbeat]
  exact if_neg (by simp [h1, h2, h3])

theorem heartbeat_idle {s : State} {core : Nat}
    (h : (s.coreAt core).stopped = true ∨ (s.coreAt core).lost = true ∨ s.time.toNat < (s.coreAt core).lastBeat + 65536) :
    exec (.heartbeat core) s = .next s := by
  rw [Laws.exec_heartbeat, execHeartbeat]
  exact if_pos h

/-- An error record goes to the ring, or is counted where the ring is full (R328; log entry 14). -/
theorem logError_sec (s : State) (kind sub ctx : Nat) (place : BitVec 32) (addr : Nat) :
    let t := s.logError kind sub ctx place addr
    ((s.sec.errtail + 1) % 1024 ≠ s.sec.errhead → aget t.sec.errlog s.sec.errtail =
        some { kind := kind, sub := sub, ctx := ctx, place := place, addr := BitVec.ofNat 64 addr, time := s.time } ∧
      t.sec.errtail = (s.sec.errtail + 1) % 1024) ∧
    ((s.sec.errtail + 1) % 1024 = s.sec.errhead → t.sec.errlost = s.sec.errlost + 1) := by
  refine ⟨fun h => ?_, fun h => ?_⟩
  · simp only [State.logError, h, if_false, State.msix_sec, aget_aset_self, and_self]
  · simp only [State.logError, h, if_true]

theorem logError_phys (s : State) (kind sub ctx : Nat) (place : BitVec 32) (addr : Nat) :
    (s.logError kind sub ctx place addr).phys = s.phys := by
  simp only [State.logError]; split <;> simp

theorem logError_cores (s : State) (kind sub ctx : Nat) (place : BitVec 32) (addr : Nat) :
    (s.logError kind sub ctx place addr).cores = s.cores := by
  simp only [State.logError]; split <;> simp

/-! ### What the loss of a core leaves (R237, R238) -/

/-- The state t is s but for stations, threads, ports, messages under way and numbers drawn. -/
structure BesideWork (s t : State) : Prop where
  phys : t.phys = s.phys
  ctxs : t.ctxs = s.ctxs
  accesses : t.accesses = s.accesses
  time : t.time = s.time
  sec : t.sec = s.sec
  pkg : t.pkg = s.pkg
  host : { t.host with ports := s.host.ports } = s.host
  core : ∀ c, { t.coreAt c with threads := (s.coreAt c).threads } = s.coreAt c

theorem BesideWork.refl (s : State) : BesideWork s s := ⟨rfl, rfl, rfl, rfl, rfl, rfl, rfl, fun _ => rfl⟩

theorem BesideWork.trans {s t u : State} (h : BesideWork s t) (g : BesideWork t u) : BesideWork s u where
  phys := g.phys.trans h.phys
  ctxs := g.ctxs.trans h.ctxs
  accesses := g.accesses.trans h.accesses
  time := g.time.trans h.time
  sec := g.sec.trans h.sec
  pkg := g.pkg.trans h.pkg
  host := by rw [← h.host, ← g.host]
  core c := by rw [← h.core c, ← g.core c]

theorem BesideWork.foldl {α : Type} {f : State → α → State} (h : ∀ s a, BesideWork s (f s a)) (l : List α) (s : State) :
    BesideWork s (l.foldl f s) := by
  induction l generalizing s with
  | nil => exact .refl s
  | cons a r ih => exact (h s a).trans (ih _)

theorem BesideWork.modStation (s : State) (n : Nat) (f : Station → Station) : BesideWork s (s.modStation n f) :=
  ⟨rfl, rfl, rfl, rfl, rfl, rfl, rfl, fun _ => rfl⟩

theorem BesideWork.modThread (s : State) (t : ThreadId) (f : Thread → Thread) : BesideWork s (s.modThread t f) := by
  unfold State.modThread
  split
  · exact .refl s
  · refine ⟨rfl, rfl, rfl, rfl, rfl, rfl, rfl, fun c => ?_⟩
    by_cases h : c = t.core
    · subst h; rw [State.setThread, State.coreAt_modCore_self]
    · rw [State.setThread, State.coreAt_modCore_ne _ _ h]

theorem BesideWork.modCopy (s : State) (st id : Nat) (f : CopyCmd → CopyCmd) : BesideWork s (s.modCopy st id f) :=
  .modStation _ _ _

theorem BesideWork.listsRead (s : State) (st : Nat) (c : CopyCmd) : BesideWork s (s.listsRead st c) := by
  unfold State.listsRead
  split
  · exact .trans (.modThread _ _ _) (.foldl (fun s r => .modCopy s st _ _) _ _)
  · exact .modThread _ _ _

theorem BesideWork.readLists (s : State) (st : Nat) (c : CopyCmd) (words : List Nat) :
    BesideWork s (s.readLists st c words) := by
  unfold State.readLists
  split
  · exact .refl s
  · dsimp only
    split
    · exact .trans (.modCopy _ _ _ _) (.listsRead _ _ _)
    · exact .modCopy _ _ _ _

theorem BesideWork.readLost (s : State) (core : Nat) : BesideWork s (s.readLost core) :=
  .foldl (fun s c => .readLists s _ c _) _ _

theorem BesideWork.leaveSendQueue (s : State) (f : Flight) : BesideWork s (s.leaveSendQueue f) := by
  have h : BesideWork s { s with flights := s.flights.filter (fun g => g.id != f.id) } :=
    ⟨rfl, rfl, rfl, rfl, rfl, rfl, rfl, fun _ => rfl⟩
  unfold State.leaveSendQueue
  split
  · exact h
  · exact h.trans (.modThread _ _ _)

theorem BesideWork.sendPacket (s : State) (port : Option Nat) (p : OutPacket) : BesideWork s (s.sendPacket port p) := by
  unfold State.sendPacket
  split
  · exact .refl s
  · exact ⟨rfl, rfl, rfl, rfl, rfl, rfl, rfl, fun _ => rfl⟩

theorem BesideWork.sendBack (s : State) (f : Flight) : BesideWork s (s.sendBack f) := by
  unfold State.sendBack
  refine .trans (.leaveSendQueue s f) ?_
  split
  · split
    · exact .refl _
    · exact .sendPacket _ _ _
  · exact ⟨rfl, rfl, rfl, rfl, rfl, rfl, rfl, fun _ => rfl⟩

theorem BesideWork.returnRefused (s : State) (core : Nat) : BesideWork s (s.returnRefused core) :=
  .foldl (fun s f => .sendBack s f) _ _

/-! ### Knells (R236, R237) -/

/-- The Knell of a lost core (R237). -/
def knellWord (s : State) (core : Nat) : Word :=
  knellEntry (if (s.coreAt core).stopped then 4 else 1) (s.place { core := core, slot := 0 })

/-- A bounded queue takes an entry, or drops it and shows lost (R236). -/
theorem pushBounded_spec (n : Nat) (q : List Word) (lost : Bool) (w : Word) :
    (q.length < n → (pushBounded n q lost w).1 = q ++ [w] ∧ (pushBounded n q lost w).2 = lost) ∧
      (n ≤ q.length → (pushBounded n q lost w).1 = q ∧ (pushBounded n q lost w).2 = true) := by
  refine ⟨fun h => ?_, fun h => ?_⟩
  · simp only [pushBounded, h, if_true, and_self]
  · simp only [pushBounded, Nat.not_lt.2 h, if_false, and_self]

/-- A Knell goes to the running partition whose supervisor thread lives (R237). -/
theorem knell_partition {s : State} {core c : Nat} {x : Context} (hc : s.ctxOfStation (core / 8) = some c)
    (hx : s.ctxAt c = some x) (hs : x.supervisor.core ≠ core) : s.knell core = s.knellTo c (knellWord s core) := by
  rw [State.knell, show stationOfCore core = core / 8 from rfl, hc]
  simp only [hx, hs, if_false, knellWord]

/-- It goes to the host where no partition runs, or the core holds its supervisor thread (R237). -/
theorem knell_host {s : State} {core : Nat} (h : s.ctxOfStation (core / 8) = none ∨
    ∃ c x, s.ctxOfStation (core / 8) = some c ∧ s.ctxAt c = some x ∧ x.supervisor.core = core) :
    s.knell core = s.knellToHost (knellWord s core) := by
  rw [State.knell, show stationOfCore core = core / 8 from rfl]
  rcases h with h | ⟨c, x, hc, hx, hs⟩
  · rw [h]; rfl
  · simp only [hc, hx, hs, if_true, knellWord]

theorem ctxAt_knellTo {s : State} {c : Nat} {x : Context} (hx : s.ctxAt c = some x) (w : Word) :
    (s.knellTo c w).ctxAt c = some { x with page := { x.page with
      knell := (pushBounded 256 x.page.knell x.page.knellLost w).1
      knellLost := (pushBounded 256 x.page.knell x.page.knellLost w).2 } } := by
  rw [State.knellTo, State.ctxAt_modCtx_self, hx]; rfl

/-- The host's queue takes the Knell, and vector 0 is raised (R289, R292). -/
theorem host_knellToHost (s : State) (w : Word) :
    (s.knellToHost w).host.hknell = (pushBounded 256 s.host.hknell s.host.hknellLost w).1 ∧
      (s.knellToHost w).host.hknellLost = (pushBounded 256 s.host.hknell s.host.hknellLost w).2 ∧
      (0 ∈ (s.knellToHost w).host.msixPending ∨ (s.knellToHost w).host.msix = s.host.msix ++ [0]) := by
  simp only [State.knellToHost, State.msix]
  split
  · exact ⟨rfl, rfl, .inl (mem_insertNat.2 (.inl rfl))⟩
  · exact ⟨rfl, rfl, .inr rfl⟩

theorem host_modCtx (s : State) (c : Nat) (f : Context → Context) : (s.modCtx c f).host = s.host := by
  unfold State.modCtx; split <;> rfl

/-- What a Knell leaves as it is. -/
theorem knell_keeps (s : State) (core : Nat) :
    (s.knell core).phys = s.phys ∧ (s.knell core).cores = s.cores ∧ (s.knell core).accesses = s.accesses ∧
      (s.knell core).pkg = s.pkg := by
  have hctx (c : Nat) (w : Word) : (s.knellTo c w).phys = s.phys ∧ (s.knellTo c w).cores = s.cores ∧
      (s.knellTo c w).accesses = s.accesses ∧ (s.knellTo c w).pkg = s.pkg := by
    unfold State.knellTo State.modCtx; split <;> exact ⟨rfl, rfl, rfl, rfl⟩
  have hhost (w : Word) : (s.knellToHost w).phys = s.phys ∧ (s.knellToHost w).cores = s.cores ∧
      (s.knellToHost w).accesses = s.accesses ∧ (s.knellToHost w).pkg = s.pkg := by
    simp [State.knellToHost]
  rw [State.knell]
  generalize knellEntry _ _ = w
  split
  · exact hhost _
  · split
    · exact hhost _
    · split
      · exact hhost _
      · exact hctx _ _

/-! ### A core is declared lost (R20, R21, R237, R238, R267) -/

theorem thirdLoss_iff (s : State) (core : Nat) : s.thirdLoss core = true ↔
    2 ≤ agetD s.pkg.spares (core / 48) 0 + (s.cores.filter (fun p =>
      p.2.lost && p.1 != core && p.1 / 48 == core / 48 && !s.pkg.deadPlaces.contains p.1)).length := by
  have hl (c : Nat) : layerOf (stationOfCore c) = c / 48 := by simp only [layerOf, stationOfCore, Nat.div_div_eq_div_mul]
  simp only [State.thirdLoss, hl, decide_eq_true_eq]

/-- No slot of a station stays claimed by a thread of a core whose claims are released (R267). -/
theorem claim_releaseClaims (k : Station) (core n : Nat) :
    (agetD (k.releaseClaims core).slots n OpSlot.reset).claim.map ThreadId.core ≠ some core := by
  have hall : (k.releaseClaims core).slots.all (fun p => decide (p.2.claim.map ThreadId.core ≠ some core)) = true := by
    simp only [Station.releaseClaims, Station.freeSlots, List.all_map, List.all_eq_true, Function.comp]
    intro p _
    by_cases hc : p.2.claim.map ThreadId.core = some core
    · simp only [hc, beq_self_eq_true, if_true]
      split <;> rfl
    · simp only [beq_iff_eq, hc, if_false]
      split
      · rfl
      · exact decide_eq_true hc
  rw [agetD]
  cases h : aget (k.releaseClaims core).slots n with
  | none => simp [OpSlot.reset]
  | some o => exact of_decide_eq_true (all_aget _ _ n o hall h)

/-- An uncorrectable core-state error logs a record and stops the core (R233, R234). -/
theorem coreStateStop_spec (s : State) (core : Nat) (addr : Word) :
    ∃ t, exec (.coreStateStop core addr) s = .next t ∧ t.coreAt core = { s.coreAt core with stopped := true } ∧ t.phys = s.phys ∧
      ((s.sec.errtail + 1) % 1024 ≠ s.sec.errhead → ∃ r, aget t.sec.errlog s.sec.errtail = some r ∧ r.kind = 20 ∧ r.sub = 4 ∧
        r.place = BitVec.ofNat 32 (s.place ⟨core, 0⟩) ∧ r.addr = addr ∧ r.time = s.time ∧
        t.sec.errtail = (s.sec.errtail + 1) % 1024) ∧
      ((s.sec.errtail + 1) % 1024 = s.sec.errhead → t.sec.errlost = s.sec.errlost + 1) := by
  obtain ⟨hfree, hfull⟩ := logError_sec s 20 4 ((s.ctxOfStation (stationOfCore core)).getD 0)
    (BitVec.ofNat 32 (s.place { core := core, slot := 0 })) addr.toNat
  refine ⟨_, rfl, ?_, logError_phys .., fun h => ?_, hfull⟩
  · rw [State.coreAt_modCore_self, State.coreAt, logError_cores]; rfl
  · obtain ⟨hlog, htail⟩ := hfree h
    exact ⟨_, hlog, rfl, rfl, rfl, BitVec.ofNat_toNat .. |>.trans (BitVec.setWidth_eq _), rfl, htail⟩

/-! ### The core and its place -/

theorem coreLost_idle {s : State} {core : Nat}
    (h : (s.coreAt core).lost = true ∨ s.time.toNat < (s.coreAt core).lastBeat + 3 * 65536) :
    exec (.coreLost core) s = .next s := by
  rw [Laws.exec_coreLost, execCoreLost]
  exact if_pos h

theorem coreAt_clearParked (s : State) (core : Nat) : ((s.clearParked core).coreAt core).park = [] := by
  change ((aget (List.map _ s.cores) core).getD Core.reset).park = []
  rw [aget_map_entries]
  · cases aget s.cores core with
    | none => rfl
    | some k => simp
  · exact fun _ => rfl

theorem coreAt_orphanWork (s : State) (core c : Nat) : ((s.orphanWork core).coreAt c).park = (s.coreAt c).park := by
  change ((aget (List.map _ s.cores) c).getD Core.reset).park = ((aget s.cores c).getD Core.reset).park
  rw [aget_map_entries]
  · cases aget s.cores c with
    | none => rfl
    | some k => simp only [Option.map_some, Option.getD_some]; split <;> rfl
  · intro p; split <;> rfl

/-- A request of another core that is parked at the lost core answers PEERGONE with sub 2 (R238). -/
theorem answered_clearParked {s : State} {core : Nat} {z : Access} (hz : z ∈ s.accesses) (hp : z.id ∈ (s.coreAt core).park)
    (hi : ∀ u, z.issuer = .thread u → u.core ≠ core) :
    { z with stage := .answered 9 2 0 0 } ∈ (s.clearParked core).accesses := by
  refine List.mem_map.2 ⟨z, List.mem_filter.2 ⟨hz, ?_⟩, if_pos (List.contains_iff_mem.2 hp)⟩
  cases h : z.issuer with
  | thread u => simp [h, hi u h]
  | _ => simp [h]

/-- An access keeps its number and its stage when its issuer is a thread of the lost core no more. -/
theorem kept_orphanWork {s : State} {z : Access} (hz : z ∈ s.accesses) (core : Nat) :
    ∃ z' ∈ (s.orphanWork core).accesses, z'.id = z.id ∧ z'.stage = z.stage := by
  refine ⟨_, List.mem_map.2 ⟨z, hz, rfl⟩, ?_⟩
  cases z.issuer <;> exact ⟨rfl, rfl⟩

theorem ctxOfStation_congr {s t : State} (h : BesideWork s t) (st : Nat) : t.ctxOfStation st = s.ctxOfStation st := by
  rw [State.ctxOfStation, State.ctxOfStation, h.ctxs, h.time]

theorem ctxAt_congr {s t : State} (h : BesideWork s t) (c : Nat) : t.ctxAt c = s.ctxAt c := by
  rw [State.ctxAt, State.ctxAt, h.ctxs]

theorem knellWord_congr {s t : State} (h : BesideWork s t) (core : Nat) : knellWord t core = knellWord s core := by
  have hs : (t.coreAt core).stopped = (s.coreAt core).stopped := by rw [← h.core core]
  simp only [knellWord, hs, State.place, h.pkg]

/-- The parked requests and the work of a lost core leave, and it is lost (R238, R267). -/
def unloaded (s : State) (core : Nat) : State :=
  ((s.clearParked core).orphanWork core).modCore core (fun k => { k with lost := true })

/-- What that leaves as it is. -/
theorem unloaded_keeps (s : State) (core : Nat) : (unloaded s core).phys = s.phys ∧ (unloaded s core).pkg = s.pkg ∧
    (unloaded s core).ctxs = s.ctxs ∧ (unloaded s core).host = s.host := ⟨rfl, rfl, rfl, rfl⟩

theorem coreAt_unloaded (s : State) (core : Nat) :
    ((unloaded s core).coreAt core).lost = true ∧ ((unloaded s core).coreAt core).park = [] := by
  rw [unloaded, State.coreAt_modCore_self]
  exact ⟨rfl, (coreAt_orphanWork _ core core).trans (coreAt_clearParked _ core)⟩

theorem answered_unloaded {s : State} {core : Nat} {z : Access} (hz : z ∈ s.accesses) (hp : z.id ∈ (s.coreAt core).park)
    (hi : ∀ u, z.issuer = .thread u → u.core ≠ core) :
    ∃ z' ∈ (unloaded s core).accesses, z'.id = z.id ∧ z'.stage = .answered 9 2 0 0 := by
  rw [unloaded, State.modCore_accesses]
  exact kept_orphanWork (answered_clearParked hz hp hi) core

/-- The machine behind the loss of a core, before its place may be declared dead. -/
def lostState (s : State) (core : Nat) : State :=
  (unloaded ((s.readLost core).knell core) core).returnRefused core

theorem coreLost_eq {s : State} {core : Nat} (h1 : (s.coreAt core).lost = false)
    (h2 : (s.coreAt core).lastBeat + 3 * 65536 ≤ s.time.toNat) :
    exec (.coreLost core) s =
      .next (if s.thirdLoss core then (lostState s core).declareDead core else lostState s core).rewriteTable := by
  rw [Laws.exec_coreLost, execCoreLost]
  exact if_neg (by simp [h1, h2])

theorem lostState_keeps (s : State) (core : Nat) :
    (lostState s core).phys = s.phys ∧ (lostState s core).pkg = s.pkg ∧
      (lostState s core).ctxs = ((s.readLost core).knell core).ctxs ∧
      { (lostState s core).host with ports := ((s.readLost core).knell core).host.ports } = ((s.readLost core).knell core).host := by
  have hr := BesideWork.readLost s core
  have hb := BesideWork.returnRefused (unloaded ((s.readLost core).knell core) core) core
  obtain ⟨hphys, -, -, hpkg⟩ := knell_keeps (s.readLost core) core
  obtain ⟨uphys, upkg, uctxs, uhost⟩ := unloaded_keeps ((s.readLost core).knell core) core
  refine ⟨?_, ?_, ?_, ?_⟩
  · rw [lostState, hb.phys, uphys, hphys, hr.phys]
  · rw [lostState, hb.pkg, upkg, hpkg, hr.pkg]
  · rw [lostState, hb.ctxs, uctxs]
  · have hhost := hb.host
    rw [uhost] at hhost
    exact hhost

theorem coreAt_lostState (s : State) (core : Nat) :
    ((lostState s core).coreAt core).lost = true ∧ ((lostState s core).coreAt core).park = [] := by
  have hcore := (BesideWork.returnRefused (unloaded ((s.readLost core).knell core) core) core).core core
  obtain ⟨hlost, hpark⟩ := coreAt_unloaded ((s.readLost core).knell core) core
  exact ⟨(congrArg Core.lost hcore).trans hlost, (congrArg Core.park hcore).trans hpark⟩

theorem answered_lostState {s : State} {core : Nat} {z : Access} (hz : z ∈ s.accesses) (hp : z.id ∈ (s.coreAt core).park)
    (hi : ∀ u, z.issuer = .thread u → u.core ≠ core) :
    ∃ z' ∈ (lostState s core).accesses, z'.id = z.id ∧ z'.stage = .answered 9 2 0 0 := by
  have hr := BesideWork.readLost s core
  obtain ⟨-, hcores, hacc, -⟩ := knell_keeps (s.readLost core) core
  have hpark : (((s.readLost core).knell core).coreAt core).park = (s.coreAt core).park := by
    rw [State.coreAt, hcores, ← hr.core core]; rfl
  rw [lostState, (BesideWork.returnRefused _ core).accesses]
  exact answered_unloaded (by rw [hacc, hr.accesses]; exact hz) (by rw [hpark]; exact hp) hi

/-- What the end of a loss leaves: a place declared dead where the loss is its layer's third, and a table to rewrite. -/
theorem declared_keeps (s : State) (core : Nat) (third : Bool) :
    let t := (if third then s.declareDead core else s).rewriteTable
    t.cores = s.cores ∧ t.phys = s.phys ∧ t.ctxs = s.ctxs ∧ t.host = s.host ∧ t.accesses = s.accesses := by
  cases third <;> exact ⟨rfl, rfl, rfl, rfl, rfl⟩

theorem deadPlaces_rewriteTable (s : State) : s.rewriteTable.pkg.deadPlaces = s.pkg.deadPlaces := by
  rw [State.rewriteTable]; split <;> rfl

theorem spares_rewriteTable (s : State) : s.rewriteTable.pkg.spares = s.pkg.spares := by
  rw [State.rewriteTable]; split <;> rfl

/-- A place declared dead is on record, and its threads' slots are theirs no longer (R21, R267). -/
theorem declareDead_spec (s : State) (core : Nat) :
    core ∈ (s.declareDead core).rewriteTable.pkg.deadPlaces ∧
      ∀ n, (agetD ((s.declareDead core).rewriteTable.stationAt (core / 8)).slots n OpSlot.reset).claim.map ThreadId.core ≠
        some core := by
  refine ⟨?_, fun n => ?_⟩
  · rw [deadPlaces_rewriteTable]
    exact mem_insertNat.2 (.inl rfl)
  · have hst : (s.declareDead core).rewriteTable.stationAt (core / 8) = ((s.markDead core).stationAt (core / 8)).releaseClaims core :=
      State.stationAt_modStation_self (s.markDead core) (core / 8) (fun k => k.releaseClaims core)
    rw [hst]
    exact claim_releaseClaims _ core n

/-- A queue takes the Knell of a lost core, or drops it and shows lost (R236). -/
def QueuesKnell (s : State) (core : Nat) (q : List Word) (lost : Bool) (q' : List Word) (lost' : Bool) : Prop :=
  (q.length < 256 → q' = q ++ [knellWord s core] ∧ lost' = lost) ∧ (256 ≤ q.length → q' = q ∧ lost' = true)

theorem knell_toPartition {s : State} {core c : Nat} {x : Context} (hc : s.ctxOfStation (core / 8) = some c)
    (hx : s.ctxAt c = some x) (hs : x.supervisor.core ≠ core) :
    ((s.readLost core).knell core).host.hknell = s.host.hknell ∧ ∃ y, ((s.readLost core).knell core).ctxAt c = some y ∧
      QueuesKnell s core x.page.knell x.page.knellLost y.page.knell y.page.knellLost := by
  have hr := BesideWork.readLost s core
  have hx0 : (s.readLost core).ctxAt c = some x := (ctxAt_congr hr c).trans hx
  rw [knell_partition ((ctxOfStation_congr hr _).trans hc) hx0 hs, knellWord_congr hr]
  refine ⟨?_, _, ctxAt_knellTo hx0 _, pushBounded_spec ..⟩
  rw [State.knellTo, host_modCtx, ← hr.host]

theorem knell_toHost {s : State} {core : Nat} (h : s.ctxOfStation (core / 8) = none ∨
    ∃ c x, s.ctxOfStation (core / 8) = some c ∧ s.ctxAt c = some x ∧ x.supervisor.core = core) :
    QueuesKnell s core s.host.hknell s.host.hknellLost ((s.readLost core).knell core).host.hknell
        ((s.readLost core).knell core).host.hknellLost ∧
      (0 ∈ ((s.readLost core).knell core).host.msixPending ∨ ((s.readLost core).knell core).host.msix = s.host.msix ++ [0]) := by
  have hr := BesideWork.readLost s core
  rw [knell_host (by simpa only [ctxOfStation_congr hr, ctxAt_congr hr] using h), knellWord_congr hr]
  obtain ⟨hq, hl, hm⟩ := host_knellToHost (s.readLost core) (knellWord s core)
  rw [hq, hl, ← hr.host]
  exact ⟨pushBounded_spec .., hm⟩

/-- The loss of a core that has missed three heartbeats (R21, R237, R238). -/
theorem coreLost_spec {s : State} {core : Nat} (h1 : (s.coreAt core).lost = false)
    (h2 : (s.coreAt core).lastBeat + 3 * 65536 ≤ s.time.toNat) :
    ∃ t, exec (.coreLost core) s = .next t ∧ (t.coreAt core).lost = true ∧ (t.coreAt core).park = [] ∧ t.phys = s.phys ∧
      (s.thirdLoss core = true → core ∈ t.pkg.deadPlaces ∧
        ∀ n, (agetD (t.stationAt (core / 8)).slots n OpSlot.reset).claim.map ThreadId.core ≠ some core) ∧
      (¬ s.thirdLoss core = true → t.pkg.deadPlaces = s.pkg.deadPlaces) ∧
      (∀ (c : Nat) (x : Context), s.ctxOfStation (core / 8) = some c → s.ctxAt c = some x → x.supervisor.core ≠ core →
        t.host.hknell = s.host.hknell ∧ ∃ y, t.ctxAt c = some y ∧
          QueuesKnell s core x.page.knell x.page.knellLost y.page.knell y.page.knellLost) ∧
      (s.ctxOfStation (core / 8) = none ∨
          (∃ c x, s.ctxOfStation (core / 8) = some c ∧ s.ctxAt c = some x ∧ x.supervisor.core = core) →
        QueuesKnell s core s.host.hknell s.host.hknellLost t.host.hknell t.host.hknellLost ∧
        (0 ∈ t.host.msixPending ∨ t.host.msix = s.host.msix ++ [0])) ∧
      ∀ z ∈ s.accesses, z.id ∈ (s.coreAt core).park → (∀ u, z.issuer = .thread u → u.core ≠ core) →
        ∃ z' ∈ t.accesses, z'.id = z.id ∧ z'.stage = .answered 9 2 0 0 := by
  obtain ⟨kcores, kphys, kctxs, khost, kacc⟩ := declared_keeps (lostState s core) core (s.thirdLoss core)
  obtain ⟨hphys, hpkg, hctxs, hhost⟩ := lostState_keeps s core
  obtain ⟨hlost, hpark⟩ := coreAt_lostState s core
  refine ⟨_, coreLost_eq h1 h2, ?_, ?_, kphys.trans hphys, fun h => ?_, fun h => ?_, fun c x hc hx hs => ?_, fun h => ?_,
    fun z hz hp hi => ?_⟩
  · rw [State.coreAt, kcores]; exact hlost
  · rw [State.coreAt, kcores]; exact hpark
  · rw [if_pos h]; exact declareDead_spec _ core
  · rw [if_neg h, deadPlaces_rewriteTable, hpkg]
  · rw [khost, State.ctxAt, kctxs, hctxs]
    obtain ⟨hk, hy⟩ := knell_toPartition hc hx hs
    exact ⟨(congrArg HostIf.hknell hhost).trans hk, hy⟩
  · rw [khost]
    have hh := knell_toHost h
    rw [← hhost] at hh
    exact hh
  · rw [kacc]
    exact answered_lostState hz hp hi

/-! ### The control page (R236, R239) -/

theorem modCtx_eq {s : State} {c : Nat} {x : Context} (hx : s.ctxAt c = some x) (f : Context → Context) :
    s.modCtx c f = s.setCtx c (f x) := by
  rw [State.modCtx, hx]

theorem remap_eq {s : State} {c : Nat} {x : Context} (hx : s.ctxAt c = some x) (w : Word) :
    exec (.remap c w) s = .next (s.setCtx c { x with page := x.page.requestRemap w }) := by
  rw [Laws.exec_remap, execRemap, modCtx_eq hx]; rfl

/-- A store to remap requests a recovery, unless one runs (R239; log entry 20). -/
theorem requestRemap_eq (p : ControlPage) (w : Word) : p.requestRemap w =
    if p.rstat = 1 then p else { p with rstat := 1, rplace := w.setWidth 32, runits := w.extractLsb' 32 8 } := by
  have hplace : BitVec.ofNat 32 w.toNat = w.setWidth 32 := rfl
  have hunits : BitVec.ofNat 8 (wfld w 39 32) = w.extractLsb' 32 8 := by
    apply BitVec.eq_of_toNat_eq
    simp [wfld, fld, BitVec.extractLsb'_toNat, Nat.shiftRight_eq_div_pow]
  rw [ControlPage.requestRemap, hplace, hunits]

theorem readPage_eq {s : State} {c : Nat} {x : Context} (hx : s.ctxAt c = some x) (off : Nat) :
    s.readPage c off = { s.setCtx c { x with page := (x.page.read off).2 } with hostData := bytesLE 8 (x.page.read off).1.toNat } := by
  rw [State.readPage, hx]

/-- What a read of a queue shows: its oldest entry, or zero (R236). -/
theorem pageView_eq (q : List Word) (lost : Bool) : pageView q lost =
    if q = [] then 0#64 else 1#64 <<< 63 ||| (if lost then 1#64 <<< 62 else 0) ||| q.headD 0 := by
  cases q <;> rfl

/-! ### Remaps (R20, R21, R239) -/

/-- A thread's held STEP may take the time of halts into account; nothing else of a core changes (R50). -/
theorem coreAt_settleSteps (s : State) (core : Nat) : ((s.settleSteps).coreAt core).lost = (s.coreAt core).lost ∧
    ∀ slot, (∀ th, aget (s.coreAt core).threads slot = some th →
        ∃ w, aget ((s.settleSteps).coreAt core).threads slot = some { th with wait := w }) ∧
      (aget (s.coreAt core).threads slot = none → aget ((s.settleSteps).coreAt core).threads slot = none) := by
  change ((aget (List.map _ s.cores) core).getD Core.reset).lost = ((aget s.cores core).getD Core.reset).lost ∧
    ∀ slot, (∀ th, aget ((aget s.cores core).getD Core.reset).threads slot = some th →
      ∃ w, aget ((aget (List.map _ s.cores) core).getD Core.reset).threads slot = some { th with wait := w }) ∧
      (aget ((aget s.cores core).getD Core.reset).threads slot = none →
        aget ((aget (List.map _ s.cores) core).getD Core.reset).threads slot = none)
  rw [aget_map_entries]
  · cases aget s.cores core with
    | none => exact ⟨rfl, fun slot => ⟨fun th h => by simp [Core.reset] at h, fun h => h⟩⟩
    | some k =>
      refine ⟨rfl, fun slot => ?_⟩
      simp only [Option.map_some, Option.getD_some]
      rw [aget_map_entries]
      · refine ⟨fun th h => ?_, fun h => by rw [h]; rfl⟩
        rw [h, Option.map_some]
        split
        · exact ⟨_, rfl⟩
        · exact ⟨th.wait, rfl⟩
      · intro p; split <;> rfl
  · exact fun _ => rfl

/-- The page shows how a recovery ended, and the units asked for are reset (R239 step 4). -/
def recoveryEnded (ctx stat : Nat) (s : State) : State :=
  s.modCtx ctx (fun x => { x.resetUnits x.page.runits.toNat with page := { x.page with rstat := stat } })

theorem ctxAt_ended {s : State} {c : Nat} {x : Context} (hx : s.ctxAt c = some x) (stat : Nat) :
    ∃ y, (recoveryEnded c stat s).ctxAt c = some y ∧ y.page.rstat = stat := by
  rw [recoveryEnded, modCtx_eq hx]
  exact ⟨_, State.ctxAt_setCtx_self .., rfl⟩

theorem cores_ended (c stat : Nat) (s : State) : (recoveryEnded c stat s).cores = s.cores := State.modCtx_cores ..
theorem pkg_ended (c stat : Nat) (s : State) : (recoveryEnded c stat s).pkg = s.pkg := State.modCtx_pkg ..

/-- Steps 4 and 5 of a recovery: units reset, instances pending again, claims released (R239). -/
def recoveryReplayed (ctx core : Nat) (s : State) : State :=
  ((recoveryEnded ctx 2 s).modCtx ctx (fun x => x.replay core s.time.toNat)).modStation (stationOfCore core) (fun k => k.releaseClaims core)

theorem ctxAt_replayed {s : State} {c : Nat} {x : Context} (hx : s.ctxAt c = some x) (core : Nat) :
    ∃ y, (recoveryReplayed c core s).ctxAt c = some y ∧ y.page.rstat = 2 := by
  obtain ⟨y, hy, hstat⟩ := ctxAt_ended hx 2
  refine ⟨y.replay core s.time.toNat, ?_, hstat⟩
  rw [State.ctxAt, recoveryReplayed, State.modStation_ctxs, modCtx_eq hy]
  exact State.ctxAt_setCtx_self ..

theorem cores_replayed (c core : Nat) (s : State) : (recoveryReplayed c core s).cores = s.cores := by
  rw [recoveryReplayed, State.modStation_cores, State.modCtx_cores, cores_ended]
theorem pkg_replayed (c core : Nat) (s : State) : (recoveryReplayed c core s).pkg = s.pkg := by
  rw [recoveryReplayed, State.modStation_pkg, State.modCtx_pkg, pkg_ended]

/-- A spare takes the place (R239 steps 1 to 3). -/
def spared (s : State) (core ctx tag : Nat) : State :=
  let t := s.setCore core (s.spareCore core ctx tag)
  { t with pkg := { t.pkg with
    spares := aset s.pkg.spares (layerOf (stationOfCore core)) (agetD s.pkg.spares (layerOf (stationOfCore core)) 0 + 1) } }

theorem remapComplete_eq {s : State} {c : Nat} {x : Context} (hx : s.ctxAt c = some x) (hr : x.page.rstat = 1) {core : Nat}
    (hcore : (threadOfPlace x.page.rplace.toNat).core = core) (hl : (s.coreAt core).lost = true) (hst : core / 8 ∈ x.stations) :
    exec (.remapComplete c) s = .next
      (if agetD s.pkg.spares (core / 8 / 6) 0 < 2 ∧ s.pkg.deadPlaces.contains core = false then
        spared (recoveryReplayed c core s.settleSteps) core c x.tag
      else recoveryEnded c 3 ((recoveryReplayed c core s.settleSteps).declareDead core)).rewriteTable := by
  have hx1 : s.settleSteps.ctxAt c = some x := hx
  have hl1 : (s.settleSteps.coreAt core).lost = true := (coreAt_settleSteps s core).1.trans hl
  have hpkg : (recoveryReplayed c core s.settleSteps).pkg = s.pkg := pkg_replayed c core _
  rw [Laws.exec_remapComplete, execRemapComplete]
  have hin : ¬ (False ∨ x.stations.contains (stationOfCore core) = false) := by
    rw [false_or, Bool.not_eq_false]; exact List.contains_iff_mem.2 hst
  simp only [hx1, hr, hcore, hl1, Bool.true_eq_false, ne_eq, not_true_eq_false, if_false, hin]
  change (if agetD s.pkg.spares (core / 8 / 6) 0 < 2 ∧ s.pkg.deadPlaces.contains core = false then _ else _) = _
  split <;> rfl

theorem coreAt_spared (s : State) (core ctx tag : Nat) : (spared s core ctx tag).coreAt core = s.spareCore core ctx tag :=
  State.coreAt_setCore_self s core _

theorem ctxAt_spared (s : State) (core ctx tag c : Nat) : (spared s core ctx tag).rewriteTable.ctxAt c = s.ctxAt c := rfl
theorem coreAt_rewriteTable (s : State) (core : Nat) : s.rewriteTable.coreAt core = s.coreAt core := rfl

/-- A lost place takes a spare while its layer has one and it is not dead, with its threads as the loader created them. -/
theorem remapComplete_spare {s : State} {c : Nat} {x : Context} (hx : s.ctxAt c = some x) (hr : x.page.rstat = 1) {core : Nat}
    (hcore : (threadOfPlace x.page.rplace.toNat).core = core) (hl : (s.coreAt core).lost = true) (hst : core / 8 ∈ x.stations)
    (hu : agetD s.pkg.spares (core / 8 / 6) 0 < 2) (hd : core ∉ s.pkg.deadPlaces) :
    ∃ t y, exec (.remapComplete c) s = .next t ∧ t.ctxAt c = some y ∧ y.page.rstat = 2 ∧
      (t.coreAt core).lost = false ∧ (t.coreAt core).spare = true ∧ (t.coreAt core).spad = [] ∧
      agetD t.pkg.spares (core / 8 / 6) 0 = agetD s.pkg.spares (core / 8 / 6) 0 + 1 ∧
      (∀ slot, (aget (s.coreAt core).threads slot).isNone = (aget (t.coreAt core).threads slot).isNone) ∧
      (∀ slot th, aget (s.coreAt core).threads slot = some th → aget (t.coreAt core).threads slot =
        some (Thread.create th.win.wbase th.win.wsize th.entryMode th.entry th.entryTvec (BitVec.ofNat 8 x.tag)
          (BitVec.ofNat 6 c))) := by
  have hthreads (slot : Nat) : aget ((spared (recoveryReplayed c core s.settleSteps) core c x.tag).coreAt core).threads slot =
      (aget (s.settleSteps.coreAt core).threads slot).map (fun th => Thread.create th.win.wbase th.win.wsize th.entryMode th.entry
        th.entryTvec (BitVec.ofNat 8 x.tag) (BitVec.ofNat 6 c)) := by
    have hcores : (recoveryReplayed c core s.settleSteps).coreAt core = s.settleSteps.coreAt core := by
      rw [State.coreAt, cores_replayed]; rfl
    rw [coreAt_spared, State.spareCore, hcores]
    dsimp only
    rw [aget_map_entries]
    exact fun _ => rfl
  obtain ⟨y, hy, hstat⟩ := ctxAt_replayed (s := s.settleSteps) (x := x) hx core
  have hplaced := (coreAt_rewriteTable _ core).trans (coreAt_spared (recoveryReplayed c core s.settleSteps) core c x.tag)
  refine ⟨(spared (recoveryReplayed c core s.settleSteps) core c x.tag).rewriteTable, y,
    by rw [remapComplete_eq hx hr hcore hl hst, if_pos ⟨hu, by simpa using hd⟩], (ctxAt_spared ..).trans hy, hstat,
    congrArg Core.lost hplaced, congrArg Core.spare hplaced, congrArg Core.spad hplaced, ?_,
    fun slot => ?_, fun slot th h => ?_⟩
  · rw [spares_rewriteTable, spared, pkg_replayed]
    exact agetD_aset_self ..
  · refine .trans ?_ (congrArg Option.isNone (hthreads slot)).symm
    obtain ⟨hsome, hnone⟩ := (coreAt_settleSteps s core).2 slot
    cases h : aget (s.coreAt core).threads slot with
    | none => rw [hnone h]; rfl
    | some th => obtain ⟨w, hw⟩ := hsome th h; rw [hw]; rfl
  · refine (hthreads slot).trans ?_
    obtain ⟨w, hw⟩ := ((coreAt_settleSteps s core).2 slot).1 th h
    rw [hw]; rfl

/-- Else it is dead (R21). -/
theorem remapComplete_dead {s : State} {c : Nat} {x : Context} (hx : s.ctxAt c = some x) (hr : x.page.rstat = 1) {core : Nat}
    (hcore : (threadOfPlace x.page.rplace.toNat).core = core) (hl : (s.coreAt core).lost = true) (hst : core / 8 ∈ x.stations)
    (h : 2 ≤ agetD s.pkg.spares (core / 8 / 6) 0 ∨ core ∈ s.pkg.deadPlaces) :
    ∃ t y, exec (.remapComplete c) s = .next t ∧ t.ctxAt c = some y ∧ y.page.rstat = 3 ∧ core ∈ t.pkg.deadPlaces ∧
      (t.coreAt core).lost = true := by
  have hno : ¬ (agetD s.pkg.spares (core / 8 / 6) 0 < 2 ∧ s.pkg.deadPlaces.contains core = false) := by
    rintro ⟨h1, h2⟩
    exact h.elim (fun h => absurd h1 (Nat.not_lt.2 h)) (fun h => by simp [h] at h2)
  obtain ⟨x1, hx1, -⟩ := ctxAt_replayed (s := s.settleSteps) (x := x) hx core
  obtain ⟨y, hy, hstat⟩ := ctxAt_ended (s := (recoveryReplayed c core s.settleSteps).declareDead core) (x := x1) hx1 3
  refine ⟨(recoveryEnded c 3 ((recoveryReplayed c core s.settleSteps).declareDead core)).rewriteTable, y,
    by rw [remapComplete_eq hx hr hcore hl hst, if_neg hno], hy, hstat, ?_, ?_⟩
  · rw [deadPlaces_rewriteTable, pkg_ended, ← deadPlaces_rewriteTable]
    exact (declareDead_spec _ core).1
  · change ((recoveryEnded c 3 ((recoveryReplayed c core s.settleSteps).declareDead core)).coreAt core).lost = true
    rw [State.coreAt, cores_ended]
    change (agetD (recoveryReplayed c core s.settleSteps).cores core Core.reset).lost = true
    rw [cores_replayed]
    exact (coreAt_settleSteps s core).1.trans hl

/-- Settles O55: heartbeats, stops and losses of cores, then the control page, then the ends of a recovery. -/
theorem coresAreLostAndRecovered : Obligations.CoresAreLostAndRecovered := by
  refine ⟨fun s core addr => ⟨heartbeat_due, heartbeat_idle, coreStateStop_spec s core addr, coreLost_idle, fun h1 h2 => ?_⟩,
    fun s c x w hx => ⟨fun h => ?_, fun h => ?_, ?_, ?_⟩, fun s c x hx hr => ?_⟩
  · obtain ⟨t, ht, hlost, hpark, hphys, hthird, hkept, hpart, hhost, hacc⟩ := coreLost_spec h1 h2
    exact ⟨t, ht, hlost, hpark, hphys, fun h => hthird ((thirdLoss_iff s core).2 h),
      fun h => hkept (fun h' => h ((thirdLoss_iff s core).1 h')), hpart, hhost, hacc⟩
  · rw [remap_eq hx, requestRemap_eq, if_neg h]
  · rw [remap_eq hx, requestRemap_eq, if_pos h]
  · rw [Laws.exec_timerWrite, execTimerWrite, modCtx_eq hx]; rfl
  · intro i q lost rest hmem
    simp only [List.mem_cons, List.not_mem_nil, or_false, Prod.mk.injEq] at hmem
    rw [← pageView_eq]
    obtain ⟨rfl, rfl, rfl, rfl⟩ | ⟨rfl, rfl, rfl, rfl⟩ | ⟨rfl, rfl, rfl, rfl⟩ := hmem
    · exact congrArg Host.Outcome.next (readPage_eq hx 32)
    · exact congrArg Host.Outcome.next (readPage_eq hx 40)
    · exact congrArg Host.Outcome.next (readPage_eq hx 48)
  · intro core k used hl hst
    exact ⟨remapComplete_spare hx hr rfl hl hst, remapComplete_dead hx hr rfl hl hst⟩

end Sys2Proof
end

section
/-! Peer accesses at their bank and global ones at their home slice (O21). -/

namespace Sys2Proof

open Sys2Proof.Machine

/-! ### Values of n bytes (R6, R148, R155, R156) -/

theorem bytesLE_mod (n v : Nat) : bytesLE n (v % 256 ^ n) = bytesLE n v := by
  induction n generalizing v with
  | zero => rfl
  | succ n ih =>
    have hdiv : v % 256 ^ (n + 1) / 256 = v / 256 % 256 ^ n := by
      rw [Nat.pow_succ, Nat.mul_comm, Nat.mod_mul_right_div_self]
    have hlow : BitVec.ofNat 8 (v % 256 ^ (n + 1)) = BitVec.ofNat 8 v := by
      apply BitVec.eq_of_toNat_eq
      rw [BitVec.toNat_ofNat, BitVec.toNat_ofNat, Nat.pow_succ, Nat.mul_comm]
      exact Nat.mod_mul_right_mod ..
    rw [bytesLE, bytesLE, hdiv, ih, hlow]

theorem getD_bytesLE {n i : Nat} (h : i < n) (v : Nat) : (bytesLE n v).getD i 0 = BitVec.ofNat 8 (v / 256 ^ i) := by
  induction n generalizing i v with
  | zero => omega
  | succ n ih =>
    cases i with
    | zero => simp [bytesLE]
    | succ i =>
      rw [bytesLE, List.getD_cons_succ, ih (by omega), Nat.div_div_eq_div_mul, Nat.pow_succ, Nat.mul_comm]

/-- A value written over n bytes, byte by byte. -/
theorem read_writeBytes_bytesLE (m : Memory) (a n : Nat) (v : BitVec (8 * n)) (z : Nat) :
    (m.writeBytes a (bytesLE n v.toNat)).read z = storedByte a n (some v) z (m.read z) := by
  rw [Memory.read_writeBytes, length_bytesLE, storedByte]
  split
  · rename_i h
    rw [getD_bytesLE (by omega)]
    apply BitVec.eq_of_toNat_eq
    rw [BitVec.toNat_ofNat, BitVec.extractLsb'_toNat, Nat.shiftRight_eq_div_pow, Nat.pow_mul]
  · rfl

theorem signedOf_toNat {n : Nat} (h : 0 < n) (v : BitVec n) : signedOf n v.toNat = v.toInt := by
  have hp : 2 ^ n = 2 * 2 ^ (n - 1) := by rw [← Nat.pow_succ', Nat.succ_eq_add_one, Nat.sub_add_cancel h]
  simp only [signedOf, BitVec.toInt_eq_toNat_cond, Nat.mod_eq_of_lt v.isLt]
  split <;> split
  · rfl
  · omega
  · omega
  · push_cast; rfl

/-- The new value of an atomic is the one of R155. -/
theorem ofNat_amoValue {n : Nat} (h : 0 < n) (k : AmoKind) (old x y : BitVec (8 * n)) :
    some (BitVec.ofNat (8 * n) (amoValue k n old.toNat x.toNat y.toNat)) = AccessKind.stores (.amo k) n old x y := by
  have hs (v : BitVec (8 * n)) := signedOf_toNat (show 0 < 8 * n by omega) v
  have hv (v : BitVec (8 * n)) : BitVec.ofNat (8 * n) v.toNat = v := by simp
  cases k <;> simp only [amoValue, AccessKind.stores, hs, Option.some.injEq, BitVec.toNat_inj]
  case add => apply BitVec.eq_of_toNat_eq; simp
  case and => exact hv (old &&& x)
  case or => exact hv (old ||| x)
  case xor => exact hv (old ^^^ x)
  case swap => exact hv x
  all_goals split <;> exact hv _

/-- What an access writes is what R148, R152, R155 and R156 say, modulo its width. -/
theorem ofNat_writes {n : Nat} (hn : n ∈ [1, 2, 4, 8]) (k : AccessKind) (old : BitVec (8 * n)) (x y : Word) :
    (AccessKind.writes k n old.toNat x.toNat y.toNat).map (BitVec.ofNat (8 * n)) =
      k.stores n old (x.setWidth (8 * n)) (y.setWidth (8 * n)) := by
  have hpos : 0 < n := by revert hn; simp; omega
  have hw (v : Word) : v.toNat % 2 ^ (8 * n) = (v.setWidth (8 * n)).toNat := (BitVec.toNat_setWidth ..).symm
  have hv (v : BitVec (8 * n)) : (some v.toNat).map (BitVec.ofNat (8 * n)) = some v := by simp
  have hfmt : Fmt.ofDbl (n == 8) = if n = 8 then Fmt.fp64 else Fmt.fp32 := by simp only [Fmt.ofDbl, beq_iff_eq]
  cases k with
  | amo k => rw [AccessKind.writes, hw, hw]; exact ofNat_amoValue hpos k old _ _
  | famo k =>
    rw [AccessKind.writes, hw]
    cases k <;> simp only [famoValue, hfmt, Option.map_some, AccessKind.stores]
  | store => rw [AccessKind.writes, hw]; exact hv _
  | stfe => rw [AccessKind.writes, hw]; exact hv _
  | stf => rw [AccessKind.writes, hw]; exact hv _
  | _ => rfl

/-- An answer's value is the old one, extended (R148, R155, R156). -/
theorem extend_eq (x : Access) (hn : x.n ∈ [1, 2, 4, 8]) (v : Nat) : x.extend v = x.answers (BitVec.ofNat (8 * x.n) v) := by
  have hpos : 0 < 8 * x.n := by revert hn; simp; omega
  rw [Access.extend, Access.answers, sextW, zextW]
  split
  · have hs : signedOf (8 * x.n) v = signedOf (8 * x.n) (BitVec.ofNat (8 * x.n) v).toNat := by
      simp [signedOf]
    rw [hs, signedOf_toNat hpos]; rfl
  · apply BitVec.eq_of_toNat_eq
    simp

/-! ### What an access does at its bank (R145, R149, R152) -/

theorem leaves_eq_fullAfter (k : AccessKind) (full : Bool) (x : Word) : k.leaves full x = AccessKind.fullAfter k full x := by
  cases k <;> rfl

/-- A list of empty words after a word's bit is set to b. -/
theorem mem_setBit {l : List Nat} {w a : Nat} {b : Bool} :
    (w ∈ if b then l.filter (· != a) else insertNat a l) ↔ if w = a then b = false else w ∈ l := by
  cases b <;> by_cases h : w = a <;> simp [mem_insertNat, h]

/-- The bit that an access leaves, where it is set only if it changes or the access is one that sets it. -/
theorem mem_leaves {l : List Nat} {w a : Nat} {k : AccessKind} {x : Word} {c : Bool}
    (hc : c = false → AccessKind.fullAfter k (!l.contains a) x = !l.contains a) :
    (w ∈ if c then (if AccessKind.fullAfter k (!l.contains a) x then l.filter (· != a) else insertNat a l) else l) ↔
      if w = a then k.leaves (!decide (w ∈ l)) x = false else w ∈ l := by
  rw [leaves_eq_fullAfter]
  cases c with
  | true =>
    rw [if_pos rfl, mem_setBit]
    split
    · rename_i h; subst h; simp
    · rfl
  | false =>
    rw [if_neg (by decide)]
    split
    · rename_i h; subst h
      rw [show (!decide (w ∈ l)) = !l.contains w by simp, hc rfl]
      simp
    · rfl

/-- The bytes that an access writes, over what the bytes held. -/
theorem read_written (m m0 : Memory) {x : Access} (hn : x.n ∈ [1, 2, 4, 8]) (a : Nat) (old : BitVec (8 * x.n)) (z : Nat)
    (hm : AccessKind.writes x.kind x.n old.toNat x.x.toNat x.y.toNat = none → m0.read z = m.read z)
    (hv : ∀ v, AccessKind.writes x.kind x.n old.toNat x.x.toNat x.y.toNat = some v →
      m0.read z = (m.writeBytes a (bytesLE x.n v)).read z) :
    m0.read z = storedByte a x.n (x.kind.stores x.n old (x.x.setWidth _) (x.y.setWidth _)) z (m.read z) := by
  rw [← ofNat_writes hn]
  cases h : AccessKind.writes x.kind x.n old.toNat x.x.toNat x.y.toNat with
  | none => exact hm h
  | some v =>
    rw [hv v h, Option.map_some, ← read_writeBytes_bytesLE, BitVec.toNat_ofNat, Nat.pow_mul, bytesLE_mod]

theorem ownWith_spadEmpty (v : Option Nat) (a n : Nat) (c full : Bool) (k : Core) : (ownWith v a n c full k).spadEmpty =
    if c then (if full then k.spadEmpty.filter (· != a / 8) else insertNat (a / 8) k.spadEmpty) else k.spadEmpty := by
  cases v <;> cases c <;> rfl

/-- The doublewords that a write covers take fresh parity (R149). -/
theorem mem_spadBad_ownWith (v : Option Nat) (a n : Nat) (c full : Bool) (k : Core) (w : Nat) :
    w ∈ (ownWith v a n c full k).spadBad ↔ w ∈ k.spadBad ∧ ¬ (v.isSome = true ∧ a ≤ 8 * w ∧ 8 * w + 8 ≤ a + n) := by
  have hbad : (ownWith v a n c full k).spadBad = match v with
      | none => k.spadBad
      | some _ => k.spadBad.filter (fun w => !(decide (a ≤ 8 * w) && decide (8 * w + 8 ≤ a + n))) := by
    cases v <;> cases c <;> simp [ownWith, Core.spadWrite, Core.setFull]
  rw [hbad]
  cases v with
  | none => simp
  | some v =>
    simp only [List.mem_filter, Bool.not_eq_true', Bool.and_eq_false_iff, decide_eq_false_iff_not, Option.isSome_some, true_and,
      not_and_or]

/-- An access of a bank has the effect that R145, R149 and R152 say. -/
theorem ownEffect_bankServed (x : Access) (hn : x.n ∈ [1, 2, 4, 8]) (k : Core) (a : Nat) :
    BankServed k (ownEffect { x with va := a } k) x a (BitVec.ofNat _ (k.spad.readLE a x.n)) := by
  have hold : (BitVec.ofNat (8 * x.n) (k.spad.readLE a x.n)).toNat = k.spad.readLE a x.n := by
    rw [BitVec.toNat_ofNat, Nat.pow_mul]
    refine Nat.mod_eq_of_lt ?_
    have := ofBytesLE_lt (k.spad.readBytes a x.n)
    rwa [Memory.length_readBytes] at this
  refine ⟨fun z => ?_, fun w => ?_, fun w => ?_, ?_⟩
  · refine read_written _ _ hn a _ z (fun h => ?_) (fun v h => ?_) <;> rw [hold] at h <;>
      simp only [ownEffect, ownWith, h] <;> split <;> rfl
  · rw [ownEffect, ownWith_spadEmpty]
    refine mem_leaves fun h => ?_
    rw [Bool.or_eq_false_iff, bne_eq_false_iff_eq] at h
    exact h.2
  · rw [← ofNat_writes hn, hold, ownEffect, mem_spadBad_ownWith, Option.isSome_map]
  · exact (ownEffect_frame _ k).trans rfl

/-! ### The list of accesses -/

theorem accessAt_modAccess {s : State} {id : Nat} {f : Access → Access} (hf : ∀ y, (f y).id = y.id) (i : Nat) :
    (s.modAccess id f).accessAt i = (s.accessAt i).map (fun y => if y.id == id then f y else y) := by
  have hid : ((fun y : Access => y.id == i) ∘ fun y => if y.id == id then f y else y) = fun y => y.id == i := by
    funext y
    simp only [Function.comp]
    split <;> simp [hf]
  rw [State.accessAt, State.modAccess, List.find?_map, hid, State.accessAt]

theorem accessAt_id {s : State} {i : Nat} {y : Access} (h : s.accessAt i = some y) : y.id = i := by
  simpa using List.find?_some h

theorem accessAt_modAccess_self {s : State} {id : Nat} {f : Access → Access} (hf : ∀ y, (f y).id = y.id) {x : Access}
    (h : s.accessAt id = some x) : (s.modAccess id f).accessAt id = some (f x) := by
  rw [accessAt_modAccess hf, h, Option.map_some, accessAt_id h, beq_self_eq_true, if_pos rfl]

theorem accessAt_modAccess_ne {s : State} {id i : Nat} {f : Access → Access} (hf : ∀ y, (f y).id = y.id) (hi : i ≠ id) :
    (s.modAccess id f).accessAt i = s.accessAt i := by
  rw [accessAt_modAccess hf]
  cases h : s.accessAt i with
  | none => rfl
  | some y => simp [accessAt_id h, hi]

/-- The order of arrival changes; the accesses stay. -/
theorem accessAt_arriveLast (s : State) (id i : Nat) : (s.arriveLast id).accessAt i = s.accessAt i := by
  rw [State.accessAt, State.arriveLast, List.find?_append, List.find?_filter, List.find?_filter, State.accessAt]
  by_cases h : i = id
  · subst h
    have h1 : s.accesses.find? (fun y => decide ((y.id != i) = true ∧ (y.id == i) = true)) = none :=
      List.find?_eq_none.2 fun y _ => by by_cases hy : y.id = i <;> simp [hy]
    rw [h1, Option.none_or]
    simp only [and_self, Bool.decide_eq_true]
  · have h1 : (fun y : Access => decide ((y.id != id) = true ∧ (y.id == i) = true)) = fun y => y.id == i := by
      funext y; by_cases hy : y.id = i <;> simp [hy, h]
    have h2 : s.accesses.find? (fun y => decide ((y.id == id) = true ∧ (y.id == i) = true)) = none :=
      List.find?_eq_none.2 fun y _ => by by_cases hy : y.id = i <;> simp [hy, h]
    rw [h1, h2, Option.or_none]

theorem routersTouched_trans {s t u : State} (h : RoutersTouched s t) (g : RoutersTouched t u) : RoutersTouched s u :=
  fun st => (g st).trans (by rw [h st])

theorem routersTouched_modStation (s : State) (n : Nat) (r : RouterPower) :
    RoutersTouched s (s.modStation n (fun k => { k with router := r })) := by
  intro st
  by_cases h : st = n
  · subst h; rw [State.stationAt_modStation_self]
  · rw [State.stationAt_modStation_ne _ _ h]

theorem routersTouched_congr {s t u : State} (h : RoutersTouched s t) (hu : u.stations = t.stations) : RoutersTouched s u := by
  intro st
  have hst : u.stationAt st = t.stationAt st := by rw [State.stationAt, hu]; rfl
  rw [hst]; exact h st

/-- Packets that move change nothing of a station but its router (R275). -/
theorem routersTouched_touchRoute (s : State) (path : List Nat) : RoutersTouched s (s.touchRoute path) := by
  induction path generalizing s with
  | nil => exact fun _ => rfl
  | cons n r ih => exact routersTouched_trans (routersTouched_modStation s n _) (ih _)

/-! ### At an owner (R145, R146, R153) -/

/-- Nothing is served behind an access at whose word nothing is parked. -/
theorem serveWord_unparked {s : State} {o : Owner} {loc : Nat}
    (h : ∀ y ∈ (s.parkOf o).filterMap s.accessAt, y.loc / 8 ≠ loc / 8) : s.serveWord o loc = s := by
  unfold State.serveWord
  cases (s.parkOf o).length with
  | zero => rfl
  | succ k =>
    have hnone : ((s.parkOf o).filterMap s.accessAt).find? (fun y => y.loc / 8 == loc / 8) = none :=
      List.find?_eq_none.2 fun y hy => by simpa using h y hy
    simp only [State.serve, hnone]

/-- An owner's answer to a thread's access to peer or global space waits for its way back (R79). -/
theorem deliver_away {s : State} {x : Access} {t : ThreadId} (hi : x.issuer = .thread t) (hsp : x.sp ≠ 0) (a : Answer) :
    s.deliver x a = s.modAccess x.id (fun y => { y with stage := .answered a.fault a.sub a.info a.value }) := by
  simp only [State.deliver, hi, hsp, false_and, if_false]

/-- An access is served on arrival where its word's bit is right and no request to the word is parked (R153). -/
theorem servesNow_unparked {s : State} {o : Owner} {x : Access}
    (h : ∀ y ∈ (s.parkOf o).filterMap s.accessAt, y.loc / 8 ≠ x.loc / 8) :
    s.servesNow o x = AccessKind.servable x.kind (s.fullAt o x.loc) := by
  have hany : ((s.parkOf o).filterMap s.accessAt).any (fun y => y.loc / 8 == x.loc / 8) = false :=
    List.any_eq_false.2 fun y hy => by simpa using h y hy
  rw [State.servesNow, hany]
  simp

/-- Which accesses park, by the bit that they wait for (R152, R153). -/
theorem parks_of_waits (k : AccessKind) (full : Bool) : (AccessKind.parks k && !AccessKind.servable k full) =
    decide (k.waitsFor = some (!full)) := by
  cases k <;> cases full <;> rfl

theorem waitsFor_ne {k : AccessKind} {full : Bool} (h : k.waitsFor = none ∨ k.waitsFor = some full) :
    k.waitsFor ≠ some (!full) := by
  rcases h with h | h <;> rw [h] <;> simp

section
variable {s : State} {o : Owner} {x : Access} {t : ThreadId} (hi : x.issuer = .thread t) (hsp : x.sp ≠ 0)
  (hpark : ∀ y ∈ (s.parkOf o).filterMap s.accessAt, y.loc / 8 ≠ x.loc / 8)
include hpark

/-- An access whose bit is right is performed (R145). -/
theorem meetOwner_performs (hw : x.kind.waitsFor ≠ some (!s.fullAt o x.loc)) :
    s.meetOwner o x = ((s.performAt o x).2.deliver x (s.performAt o x).1).serveWord o x.loc := by
  rw [State.meetOwner, servesNow_unparked hpark, parks_of_waits, decide_eq_false hw]
  rfl

include hi hsp

/-- One whose word has the other bit parks, or is refused where the queue is full, or gets the fault that stands in its way. -/
theorem meetOwner_parks (hw : x.kind.waitsFor = some (!s.fullAt o x.loc)) (hl : (s.coreAt t.core).lost = false) :
    (∀ a, s.ownerFault o x = some a →
      s.meetOwner o x = s.modAccess x.id (fun y => { y with stage := .answered a.fault a.sub a.info a.value })) ∧
    (s.ownerFault o x = none → (s.parkOf o).length < o.parkRoom →
      s.meetOwner o x = (s.modAccess x.id (fun y => { y with stage := .parked, loc := x.loc })).setPark o (s.parkOf o ++ [x.id])) ∧
    (s.ownerFault o x = none → o.parkRoom ≤ (s.parkOf o).length →
      s.meetOwner o x = s.modAccess x.id (fun y => { y with stage := .refused, loc := x.loc })) := by
  have hlost : s.issuerLost x = false := by simp only [State.issuerLost, hi, hl]
  simp only [State.meetOwner, servesNow_unparked hpark, parks_of_waits, hw, decide_true, if_true, hlost, Bool.false_eq_true, if_false]
  refine ⟨fun a h => ?_, fun h hr => ?_, fun h hr => ?_⟩
  · rw [h]; exact deliver_away hi hsp a
  · rw [h]; exact if_pos hr
  · rw [h]; exact if_neg (Nat.not_lt.2 hr)

end

/-! ### Peer accesses (R48, R145, R238) -/

/-- The machine when a request has come to its bank's byte n: its routers have carried it, and it is the last to arrive. -/
def peerArrived (s : State) (x : Access) (n : Nat) : State :=
  ((s.touchRoute (s.requestRoute x)).arriveLast x.id).modAccess x.id (fun y => { y with loc := n })

theorem arrival_travels {s : State} {x : Access} (hx : s.accessAt x.id = some x) (hst : x.stage = .travelling)
    (hown : s.behindOwn x = false) (hway : s.behindWay x = false) (hopen : s.routeOpen (s.requestRoute x) = true) :
    exec (.remoteAccessArrival x.id) s = .next
      (let s1 := (s.touchRoute (s.requestRoute x)).arriveLast x.id
       if x.sp = 2 then s1.meetGlobal x (stationOfCore x.reader.core)
       else
        let n := spadNumber x.reader.core x.sp x.va
        (s1.modAccess x.id (fun y => { y with loc := n })).meetOwner (.bank (n / 2 ^ 18)) { x with loc := n }) := by
  rw [Laws.exec_remoteAccessArrival, execRemoteAccessArrival, hx]
  simp only [hst, hown, hway, hopen, reduceCtorEq, if_false, ne_eq, not_true_eq_false, Bool.false_eq_true, Bool.true_eq_false, or_self]
  split <;> rfl

theorem arrival_peer {s : State} {x : Access} {t : ThreadId} (hi : x.issuer = .thread t) (hsp : x.sp = 1)
    (hx : s.accessAt x.id = some x) (hst : x.stage = .travelling) (hown : s.behindOwn x = false) (hway : s.behindWay x = false)
    (hopen : s.routeOpen (s.requestRoute x) = true) {core n : Nat} (hcore : core = t.core / 96 * 96 + x.va / 2 ^ 18)
    (hn : n = core * 2 ^ 18 + x.va % 2 ^ 18) :
    exec (.remoteAccessArrival x.id) s = .next ((peerArrived s x n).meetOwner (.bank core) { x with loc := n }) := by
  have hreader : x.reader = t := by simp only [Access.reader, hi]
  have hnum : spadNumber x.reader.core x.sp x.va = n := by
    rw [hreader, hsp, hn, hcore]; rfl
  have hbank : n / 2 ^ 18 = core := by omega
  rw [arrival_travels hx hst hown hway hopen]
  simp only [hsp, show ¬ (1 = 2) by decide, if_false]
  rw [← hsp, hnum, hbank]
  rfl

/-- A peer request has come to byte n of its bank, and its stage is as given; cores aside, only routers have changed else. -/
def PeerCame (s : State) (x : Access) (n : Nat) (stage : Stage) (u : State) : Prop :=
  u.accessAt x.id = some { x with loc := n, stage := stage } ∧ RoutersTouched s u ∧
    u = { s with accesses := u.accesses, cores := u.cores, stations := u.stations }

theorem peerArrived_accessAt {s : State} {x : Access} (hx : s.accessAt x.id = some x) (n : Nat) :
    (peerArrived s x n).accessAt x.id = some { x with loc := n } := by
  have h : (s.touchRoute (s.requestRoute x)).accessAt x.id = some x := by rw [touchRoute_eq]; exact hx
  rw [← accessAt_arriveLast _ x.id] at h
  exact accessAt_modAccess_self (f := fun y => { y with loc := n }) (fun _ => rfl) h

theorem peerArrived_accessAt_ne (s : State) {x : Access} {i : Nat} (hi : i ≠ x.id) (n : Nat) :
    (peerArrived s x n).accessAt i = s.accessAt i := by
  rw [peerArrived, accessAt_modAccess_ne (f := fun y => { y with loc := n }) (fun _ => rfl) hi, accessAt_arriveLast, touchRoute_eq]
  rfl

theorem peerArrived_coreAt (s : State) (x : Access) (n c : Nat) : (peerArrived s x n).coreAt c = s.coreAt c := by
  rw [peerArrived, touchRoute_eq]; rfl

theorem stations_arriveLast (s : State) (id : Nat) : (s.arriveLast id).stations = s.stations := rfl

theorem peerArrived_stations (s : State) (x : Access) (n : Nat) :
    (peerArrived s x n).stations = (s.touchRoute (s.requestRoute x)).stations := by
  rw [peerArrived, State.modAccess_stations, stations_arriveLast]

/-- The access's stage changes behind its arrival, and cores may. -/
theorem peerCame_modAccess {s u : State} {x : Access} {n : Nat} (hx : u.accessAt x.id = some { x with loc := n })
    (hr : RoutersTouched s u) (hu : u = { s with accesses := u.accesses, stations := u.stations }) (cores : Assoc Core)
    (stage : Stage) {f : Access → Access} (hf : ∀ y, (f y).id = y.id)
    (hfx : f { x with loc := n } = { x with loc := n, stage := stage }) :
    PeerCame s x n stage (State.modAccess { u with cores := cores } x.id f) := by
  refine ⟨?_, routersTouched_congr hr rfl, ?_⟩
  · rw [← hfx]; exact accessAt_modAccess_self (s := { u with cores := cores }) hf hx
  · rw [hu]; rfl

theorem peerArrived_frame (s : State) (x : Access) (n : Nat) : peerArrived s x n =
    { s with accesses := (peerArrived s x n).accesses, stations := (peerArrived s x n).stations } := by
  rw [peerArrived, touchRoute_eq]; rfl

/-- What a bank that is open does with an access whose word has good parity (R145, R149). -/
theorem performAt_bank {s : State} {core a : Nat} {x : Access} (hloc : x.loc % 2 ^ 18 = a) (hc : s.bankClosed core x = none)
    (hp : (s.coreAt core).badParity a x.n = false) : s.performAt (.bank core) x =
      (.ok (x.extend ((s.coreAt core).spad.readLE a x.n)), s.modCore core (ownEffect { x with va := a })) := by
  have hf : s.bankFault core x = none := by
    simp only [State.bankFault, hc, hloc, hp, Bool.false_and, Bool.false_eq_true, if_false]
  simp only [State.performAt, State.bankPerform, hf, hloc, hp, Bool.false_and, Bool.false_eq_true, if_false]
  rfl

/-- What one that is lost or closed does. -/
theorem performAt_closed {s : State} {core : Nat} {x : Access} {a : Answer} (hc : s.bankClosed core x = some a) :
    s.performAt (.bank core) x = (a, s) := by
  have hf : s.bankFault core x = some a := by rw [State.bankFault, hc]
  simp only [State.performAt, State.bankPerform, hf]

/-- A thread's peer request travels, in its turn and by routers that are awake, to byte n of a bank where nothing is parked at its
word. -/
structure PeerArrives (s : State) (x : Access) (t : ThreadId) (core n : Nat) : Prop where
  here : s.accessAt x.id = some x
  issuer : x.issuer = .thread t
  space : x.sp = 1
  travels : x.stage = .travelling
  turn : s.behindOwn x = false
  way : s.behindWay x = false
  awake : s.routeOpen (s.requestRoute x) = true
  alive : (s.coreAt t.core).lost = false
  bank : core = t.core / 96 * 96 + x.va / 2 ^ 18
  byte : n = core * 2 ^ 18 + x.va % 2 ^ 18
  fresh : x.id ∉ (s.coreAt core).park
  unparked : ∀ i ∈ (s.coreAt core).park, ∀ y, s.accessAt i = some y → y.loc / 8 ≠ n / 8

section
variable {s : State} {x : Access} {t : ThreadId} {core n : Nat} (h : PeerArrives s x t core n)
include h

theorem PeerArrives.exec_eq : exec (.remoteAccessArrival x.id) s =
    .next ((peerArrived s x n).meetOwner (.bank core) { x with loc := n }) :=
  arrival_peer h.issuer h.space h.here h.travels h.turn h.way h.awake h.bank h.byte

/-- Nothing that is parked at the bank waits at the request's word. -/
theorem PeerArrives.unparked_at {u : State} (hp : (u.coreAt core).park = (s.coreAt core).park)
    (ha : ∀ i, i ≠ x.id → u.accessAt i = s.accessAt i) :
    ∀ y ∈ (u.parkOf (.bank core)).filterMap u.accessAt, y.loc / 8 ≠ n / 8 := by
  intro y hy
  obtain ⟨i, hi, hiy⟩ := List.mem_filterMap.1 hy
  have hmem : i ∈ (s.coreAt core).park := by rw [← hp]; exact hi
  rw [ha i (fun hx => h.fresh (hx ▸ hmem))] at hiy
  exact h.unparked i hmem y hiy

theorem PeerArrives.unparked_arrived :
    ∀ y ∈ ((peerArrived s x n).parkOf (.bank core)).filterMap (peerArrived s x n).accessAt, y.loc / 8 ≠ n / 8 :=
  h.unparked_at (by rw [peerArrived_coreAt]) fun _ hi => peerArrived_accessAt_ne s hi n

theorem PeerArrives.came (cores : Assoc Core) (stage : Stage) {f : Access → Access} (hf : ∀ y, (f y).id = y.id)
    (hfx : f { x with loc := n } = { x with loc := n, stage := stage }) :
    PeerCame s x n stage (State.modAccess { peerArrived s x n with cores := cores } x.id f) :=
  peerCame_modAccess (peerArrived_accessAt h.here n)
    (routersTouched_congr (routersTouched_touchRoute s (s.requestRoute x)) (peerArrived_stations s x n)) (peerArrived_frame s x n)
    cores stage hf hfx

/-- A request whose word's bit is right is served, over the cores that the service leaves. -/
theorem PeerArrives.served {a : Answer} {cores : Assoc Core}
    (hw : x.kind.waitsFor ≠ some (!(peerArrived s x n).fullAt (.bank core) n))
    (hperf : (peerArrived s x n).performAt (.bank core) { x with loc := n } = (a, { peerArrived s x n with cores := cores }))
    (hpark : (agetD cores core Core.reset).park = (s.coreAt core).park) :
    let u := State.modAccess { peerArrived s x n with cores := cores } x.id
      (fun y => { y with stage := .answered a.fault a.sub a.info a.value })
    exec (.remoteAccessArrival x.id) s = .next u ∧ PeerCame s x n (.answered a.fault a.sub a.info a.value) u := by
  refine ⟨?_, h.came cores _ (fun _ => rfl) rfl⟩
  rw [h.exec_eq, meetOwner_performs h.unparked_arrived hw, hperf]
  rw [deliver_away (x := { x with loc := n }) h.issuer (by rw [h.space]; decide), serveWord_unparked]
  refine h.unparked_at hpark fun i hi => ?_
  exact (accessAt_modAccess_ne (s := { peerArrived s x n with cores := cores })
    (f := fun y => { y with stage := .answered a.fault a.sub a.info a.value }) (fun _ => rfl) hi).trans (peerArrived_accessAt_ne s hi n)

theorem PeerArrives.byte_mod : n % 2 ^ 18 = x.va % 2 ^ 18 := by have := h.byte; omega

theorem PeerArrives.fullAt_eq : (peerArrived s x n).fullAt (.bank core) n =
    !decide (x.va % 2 ^ 18 / 8 ∈ (s.coreAt core).spadEmpty) := by
  rw [State.fullAt, peerArrived_coreAt, h.byte_mod]
  simp [Core.isFull]

/-- At an open bank the request is performed (R145, R149). -/
theorem PeerArrives.performed (hl : (s.coreAt core).lost = false) (ho : (s.coreAt core).peersOpen = true)
    (hp : (s.coreAt core).badParity (x.va % 2 ^ 18) x.n = false) (hn : x.n ∈ [1, 2, 4, 8])
    (hw : x.kind.waitsFor = none ∨ x.kind.waitsFor = some (!decide (x.va % 2 ^ 18 / 8 ∈ (s.coreAt core).spadEmpty))) :
    let old : BitVec (8 * x.n) := BitVec.ofNat _ ((s.coreAt core).spad.readLE (x.va % 2 ^ 18) x.n)
    ∃ u, exec (.remoteAccessArrival x.id) s = .next u ∧ PeerCame s x n (.answered 0 0 0 (x.answers old)) u ∧
      BankServed (s.coreAt core) (u.coreAt core) x (x.va % 2 ^ 18) old ∧ ∀ c, c ≠ core → u.coreAt c = s.coreAt c := by
  have hc : (peerArrived s x n).bankClosed core { x with loc := n } = none := by
    simp [State.bankClosed, peerArrived_coreAt, hl, ho]
  have hperf := performAt_bank (s := peerArrived s x n) (x := { x with loc := n }) h.byte_mod hc (by rw [peerArrived_coreAt]; exact hp)
  rw [peerArrived_coreAt] at hperf
  have hself : ((peerArrived s x n).modCore core (ownEffect { x with va := x.va % 2 ^ 18 })).coreAt core =
      ownEffect { x with va := x.va % 2 ^ 18 } (s.coreAt core) := by
    rw [State.coreAt_modCore_self, peerArrived_coreAt]
  obtain ⟨hexec, hcame⟩ := h.served (by rw [h.fullAt_eq]; exact waitsFor_ne hw) hperf
    ((congrArg Core.park hself).trans (by rw [ownEffect_frame]))
  refine ⟨_, hexec, ?_, ?_, fun c hc => ?_⟩
  · rw [← extend_eq x hn]; exact hcame
  · have hb := ownEffect_bankServed x hn (s.coreAt core) (x.va % 2 ^ 18)
    rw [← hself] at hb
    exact hb
  · exact (State.coreAt_modCore_ne _ _ hc).trans (peerArrived_coreAt s x n c)

/-- At a lost or closed bank it is answered with the bank's fault, parked or not (R48, R238). -/
theorem PeerArrives.closed {a : Answer} (hc : (peerArrived s x n).bankClosed core { x with loc := n } = some a) :
    ∃ u, exec (.remoteAccessArrival x.id) s = .next u ∧ PeerCame s x n (.answered a.fault a.sub a.info a.value) u := by
  by_cases hw : x.kind.waitsFor = some (!(peerArrived s x n).fullAt (.bank core) n)
  · obtain ⟨hfault, -, -⟩ := meetOwner_parks (s := peerArrived s x n) (o := .bank core) (x := { x with loc := n }) h.issuer
      (by rw [h.space]; decide) h.unparked_arrived hw (by rw [peerArrived_coreAt]; exact h.alive)
    refine ⟨_, by rw [h.exec_eq, hfault a hc], ?_⟩
    exact h.came (peerArrived s x n).cores _ (fun _ => rfl) rfl
  · exact ⟨_, h.served hw (performAt_closed hc) (congrArg Core.park (peerArrived_coreAt s x n core))⟩

/-- Where its word has the other bit, it parks, or is refused by a full queue (R146, R153). -/
theorem PeerArrives.parks (hl : (s.coreAt core).lost = false) (ho : (s.coreAt core).peersOpen = true)
    (hw : x.kind.waitsFor = some (!!decide (x.va % 2 ^ 18 / 8 ∈ (s.coreAt core).spadEmpty))) :
    ((s.coreAt core).park.length < 96 → ∃ u, exec (.remoteAccessArrival x.id) s = .next u ∧ PeerCame s x n .parked u ∧
      (u.coreAt core) = { s.coreAt core with park := (s.coreAt core).park ++ [x.id] } ∧ ∀ c, c ≠ core → u.coreAt c = s.coreAt c) ∧
    (96 ≤ (s.coreAt core).park.length → ∃ u, exec (.remoteAccessArrival x.id) s = .next u ∧ PeerCame s x n .refused u ∧
      ∀ c, u.coreAt c = s.coreAt c) := by
  have hc : (peerArrived s x n).bankClosed core { x with loc := n } = none := by
    simp [State.bankClosed, peerArrived_coreAt, hl, ho]
  have hq : (peerArrived s x n).parkOf (.bank core) = (s.coreAt core).park := by rw [State.parkOf, peerArrived_coreAt]
  obtain ⟨-, hpark, hrefuse⟩ := meetOwner_parks (s := peerArrived s x n) (o := .bank core) (x := { x with loc := n }) h.issuer
    (by rw [h.space]; decide) h.unparked_arrived (by rw [h.fullAt_eq]; exact hw) (by rw [peerArrived_coreAt]; exact h.alive)
  rw [hq] at hpark hrefuse
  refine ⟨fun hr => ⟨_, by rw [h.exec_eq, hpark hc hr], ?_, ?_, fun c hne => ?_⟩,
    fun hr => ⟨_, by rw [h.exec_eq, hrefuse hc hr], ?_, fun c => ?_⟩⟩
  · exact h.came _ .parked (f := fun y => { y with stage := .parked, loc := n }) (fun _ => rfl) rfl
  · exact (State.coreAt_modCore_self ..).trans (congrArg (fun k : Core => { k with park := (s.coreAt core).park ++ [x.id] })
      (peerArrived_coreAt s x n core))
  · exact (State.coreAt_modCore_ne _ _ hne).trans (peerArrived_coreAt s x n c)
  · exact h.came (peerArrived s x n).cores .refused (f := fun y => { y with stage := .refused, loc := n }) (fun _ => rfl) rfl
  · exact peerArrived_coreAt s x n c

end

/-! ### Global accesses that their region decides (R22, R225, R288) -/

/-- The machine when a global request has come to its translation station. -/
def globalArrived (s : State) (x : Access) : State := (s.touchRoute (s.requestRoute x)).arriveLast x.id

theorem globalArrived_frame (s : State) (x : Access) : globalArrived s x =
    { s with accesses := (globalArrived s x).accesses, stations := (globalArrived s x).stations } := by
  rw [globalArrived, touchRoute_eq]; rfl

theorem globalArrived_region (s : State) (x : Access) : (globalArrived s x).region x.va = s.region x.va := by
  rw [globalArrived_frame]; rfl

theorem globalArrived_accessAt {s : State} {x : Access} (hx : s.accessAt x.id = some x) :
    (globalArrived s x).accessAt x.id = some x := by
  rw [globalArrived, accessAt_arriveLast, touchRoute_eq]; exact hx

theorem globalArrived_routers (s : State) (x : Access) : RoutersTouched s (globalArrived s x) :=
  routersTouched_congr (routersTouched_touchRoute s (s.requestRoute x)) (stations_arriveLast ..)

/-- A global request has got so far as its stage and port say; hosts aside, only routers have changed else. -/
def GlobalCame (s : State) (x : Access) (stage : Stage) (port : Option Nat) (u : State) : Prop :=
  u.accessAt x.id = some { x with stage := stage, port := port } ∧ RoutersTouched s u ∧
    u = { s with accesses := u.accesses, stations := u.stations, host := u.host }

/-- The access's stage changes behind its arrival, and the host interface may. -/
theorem globalCame_modAccess {s u : State} {x : Access} (hx : u.accessAt x.id = some x) (hr : RoutersTouched s u)
    (hu : u = { s with accesses := u.accesses, stations := u.stations }) (host : HostIf) (stage : Stage) (port : Option Nat)
    {f : Access → Access} (hf : ∀ y, (f y).id = y.id) (hfx : f x = { x with stage := stage, port := port }) :
    GlobalCame s x stage port { State.modAccess u x.id f with host := host } := by
  refine ⟨?_, routersTouched_congr hr rfl, ?_⟩
  · rw [← hfx]; exact accessAt_modAccess_self (s := u) hf hx
  · rw [hu]; rfl

theorem sendPacket_frame (s : State) (port : Option Nat) (p : OutPacket) :
    s.sendPacket port p = { s with host := (s.sendPacket port p).host } := by
  cases port <;> rfl

/-- The offset in the discovery page. -/
theorem discovery_offset {s : State} {va : Nat} (h : s.region va = .discovery) : va - discoveryBase = va % 2 ^ 16 := by
  have hr : discoveryBase ≤ va ∧ va < discoveryBase + 0x10000 := by
    unfold State.region at h
    split at h
    · simpa using ‹(decide (discoveryBase ≤ va) && decide (va < discoveryBase + 0x10000)) = true›
    · split at h
      · cases h
      · split at h
        · cases h
        · split at h
          · cases h
          · split at h <;> cases h
  unfold discoveryBase at *
  omega

/-- A thread's global request travels, in its turn and by routers that are awake. -/
structure GlobalArrives (s : State) (x : Access) (t : ThreadId) : Prop where
  here : s.accessAt x.id = some x
  issuer : x.issuer = .thread t
  space : x.sp = 2
  travels : x.stage = .travelling
  turn : s.behindOwn x = false
  way : s.behindWay x = false
  awake : s.routeOpen (s.requestRoute x) = true

section
variable {s : State} {x : Access} {t : ThreadId} (h : GlobalArrives s x t)
include h

theorem GlobalArrives.exec_eq : exec (.remoteAccessArrival x.id) s =
    .next ((globalArrived s x).meetGlobal x (stationOfCore x.reader.core)) := by
  rw [arrival_travels h.here h.travels h.turn h.way h.awake]
  simp only [h.space, if_true, globalArrived]

theorem GlobalArrives.came (host : HostIf) (stage : Stage) (port : Option Nat) {f : Access → Access} (hf : ∀ y, (f y).id = y.id)
    (hfx : f x = { x with stage := stage, port := port }) :
    GlobalCame s x stage port { State.modAccess (globalArrived s x) x.id f with host := host } :=
  globalCame_modAccess (globalArrived_accessAt h.here) (globalArrived_routers s x) (globalArrived_frame s x) host stage port hf hfx

/-- An answer that the region alone decides comes at once. -/
theorem GlobalArrives.answered {a : Answer}
    (hm : (globalArrived s x).meetGlobal x (stationOfCore x.reader.core) = (globalArrived s x).deliver x a) :
    ∃ u, exec (.remoteAccessArrival x.id) s = .next u ∧ GlobalCame s x (.answered a.fault a.sub a.info a.value) x.port u :=
  ⟨(globalArrived s x).modAccess x.id (fun y => { y with stage := .answered a.fault a.sub a.info a.value }),
    by rw [h.exec_eq, hm, deliver_away h.issuer (by rw [h.space]; decide)],
    h.came (globalArrived s x).host _ x.port (f := fun y => { y with stage := .answered a.fault a.sub a.info a.value })
      (fun _ => rfl) rfl⟩

/-- The discovery page is read; anything else there is PROT sub 6 (R22). -/
theorem GlobalArrives.discovery (hr : s.region x.va = .discovery) :
    (x.kind = .load → x.n ∈ [1, 2, 4, 8] → ∃ u, exec (.remoteAccessArrival x.id) s = .next u ∧ GlobalCame s x
      (.answered 0 0 0 (x.answers (BitVec.ofNat (8 * x.n) (s.discoveryRead t (x.va % 2 ^ 16) x.n)))) x.port u) ∧
    (x.kind ≠ .load → ∃ u, exec (.remoteAccessArrival x.id) s = .next u ∧ GlobalCame s x (.answered 6 6 0 0) x.port u) := by
  refine ⟨fun hk hn => ?_, fun hk => ?_⟩
  · have hread : (globalArrived s x).discoveryRead x.reader (x.va - discoveryBase) x.n = s.discoveryRead t (x.va % 2 ^ 16) x.n := by
      rw [globalArrived_frame, discovery_offset hr, show x.reader = t by simp only [Access.reader, h.issuer]]; rfl
    rw [← extend_eq x hn]
    refine h.answered (a := .ok (x.extend (s.discoveryRead t (x.va % 2 ^ 16) x.n))) ?_
    simp only [State.meetGlobal, globalArrived_region, hr, hk, if_true, hread]
  · refine h.answered (a := .bad 6 6 0) ?_
    simp only [State.meetGlobal, globalArrived_region, hr, hk, if_false]

/-- An address of another device goes to a port that leads there, or is LINK (R288). -/
theorem GlobalArrives.remote {d : Nat} (hr : s.region x.va = .remote d) :
    (s.linked d = true → ∃ u, exec (.remoteAccessArrival x.id) s = .next u ∧ GlobalCame s x .offDevice (s.granulePort d x.va) u) ∧
    (s.linked d = false → ∃ u, exec (.remoteAccessArrival x.id) s = .next u ∧ GlobalCame s x (.answered 17 0 0 0) x.port u) := by
  have hlinked : (globalArrived s x).linked d = s.linked d := by rw [globalArrived_frame]; rfl
  have hport : (globalArrived s x).granulePort d x.va = s.granulePort d x.va := by rw [globalArrived_frame]; rfl
  refine ⟨fun hl => ?_, fun hl => ?_⟩
  · refine ⟨_, h.exec_eq, ?_⟩
    simp only [State.meetGlobal, globalArrived_region, hr, hlinked, hl, if_true, hport, State.sendAccessPacket]
    rw [sendPacket_frame]
    exact h.came _ .offDevice (s.granulePort d x.va) (f := fun y => { y with stage := .offDevice, port := s.granulePort d x.va })
      (fun _ => rfl) rfl
  · refine h.answered (a := .bad 17 0 0) ?_
    simp only [State.meetGlobal, globalArrived_region, hr, hlinked, hl, Bool.false_eq_true, if_false]

/-- An address outside the device is XLATE reason 4 (R225). -/
theorem GlobalArrives.outside (hr : s.region x.va = .outside) :
    ∃ u, exec (.remoteAccessArrival x.id) s = .next u ∧ GlobalCame s x (.answered 5 4 0 0) x.port u := by
  refine h.answered (a := .bad 5 4 0) ?_
  simp only [State.meetGlobal, globalArrived_region, hr]

end

end Sys2Proof
end

section
/-! Accesses performed at their home slice, and the settling of O21. -/

namespace Sys2Proof

open Sys2Proof.Machine

/-! ### One line (R277, R318) -/

/-- An aligned access of at most eight bytes touches one line. -/
theorem linesOf_aligned {a n : Nat} (hn : n ∈ [1, 2, 4, 8]) (ha : a % n = 0) : linesOf a n = [a / 64] := by
  have h : n = 1 ∨ n = 2 ∨ n = 4 ∨ n = 8 := by simpa using hn
  have hone : (a + n - 1) / 64 - a / 64 + 1 = 1 := by
    rcases h with rfl | rfl | rfl | rfl <;> omega
  rw [linesOf, if_neg (by omega), hone]
  rfl

theorem foldRange_none {s : State} (h : s.folds = []) (pa n : Nat) : s.foldRange pa n = s := by
  simp only [State.foldRange, h, List.filter_nil, foldAll]
  rw [← h]

theorem findErrors_none {s : State} {pa n : Nat} (hl : linesOf pa n = [pa / 64]) (h : pa / 64 ∉ s.phys.uncorr) (ctx : Nat)
    (place : BitVec 32) : s.findErrors pa n ctx place = s := by
  rw [State.findErrors, hl, List.filter_cons_of_neg (by simpa using h)]
  rfl

/-- The machine without its stations and what it keeps of lines before they became dirty. -/
def besideSlices (s : State) : State := { s with phys := { s.phys with old := [] }, stations := [] }

theorem besideSlices_sliceDirty (s : State) (pa n : Nat) : besideSlices (s.sliceDirty pa n) = besideSlices s := by
  unfold State.sliceDirty
  refine foldl_keeps besideSlices (fun s l => ?_) _ s
  dsimp only
  split <;> rfl

/-- A slice's line becomes dirty: what it held before is kept, and nothing else changes. -/
theorem sliceDirty_frame (s : State) (pa n : Nat) : s.sliceDirty pa n =
    { s with phys := { s.phys with old := (s.sliceDirty pa n).phys.old }, stations := (s.sliceDirty pa n).stations } := by
  have h := besideSlices_sliceDirty s pa n
  generalize s.sliceDirty pa n = t at h
  exact congrArg (fun u : State => { u with phys := { u.phys with old := t.phys.old }, stations := t.stations }) h

theorem park_sliceDirty (s : State) (pa n st : Nat) : ((s.sliceDirty pa n).stationAt st).park = (s.stationAt st).park := by
  unfold State.sliceDirty
  refine foldl_keeps (fun s => (s.stationAt st).park) (fun s l => ?_) _ s
  dsimp only
  split
  · by_cases h : st = homeStation (l * 64)
    · rw [h, State.stationAt_modStation_self]; rfl
    · rw [State.stationAt_modStation_ne _ _ h]; rfl
  · rfl

/-! ### Bytes by tag (R318) -/

theorem byteFor_eq_seen (p : Phys) (tag z : Nat) : p.byteFor tag z = p.seen tag z := rfl

theorem bytesFor_eq (p : Phys) (tag a n : Nat) : p.bytesFor tag a n = (List.range n).map (fun i => p.seen tag (a + i)) := by
  induction n generalizing a with
  | zero => rfl
  | succ n ih =>
    rw [Phys.bytesFor, ih, List.range_succ_eq_map, List.map_cons, List.map_map]
    simp only [Nat.add_zero, byteFor_eq_seen, List.cons.injEq, true_and]
    refine List.map_congr_left fun i _ => ?_
    simp only [Function.comp, Nat.succ_eq_add_one]
    rw [Nat.add_right_comm, Nat.add_assoc]

theorem read_zero (m : Memory) (a n z : Nat) : (m.zero a n).read z = if a ≤ z ∧ z < a + n then 0 else m.read z := by
  rw [Memory.zero, Memory.read_writeBytes, List.length_replicate]
  split
  · rw [List.getD_replicate]; omega
  · rfl

theorem adopt_untagged {p : Phys} {tag line : Nat} (h : tag ≠ 0 ∧ p.lineTag line = 0) :
    p.adopt tag line = { p with ram := p.ram.zero (line * 64) 64, tags := aset p.tags line tag } := if_pos h

theorem adopt_tagged {p : Phys} {tag line : Nat} (h : ¬ (tag ≠ 0 ∧ p.lineTag line = 0)) : p.adopt tag line = p := if_neg h

/-- A line that takes a tag shows what an access with the tag saw of it. -/
theorem read_adopt (p : Phys) (tag line z : Nat) :
    (p.adopt tag line).ram.read z = if z / 64 = line then p.seen tag z else p.ram.read z := by
  unfold Phys.seen
  by_cases h : tag ≠ 0 ∧ p.lineTag line = 0
  · rw [adopt_untagged h, read_zero]
    by_cases hz : z / 64 = line
    · subst hz; rw [if_pos (by omega), if_pos rfl, if_pos h]
    · rw [if_neg (by omega), if_neg hz]
  · rw [adopt_tagged h]
    split
    · rename_i hz; subst hz; rw [if_neg h]
    · rfl

theorem lineTag_adopt (p : Phys) (tag line l : Nat) :
    (p.adopt tag line).lineTag l = if l = line ∧ p.lineTag l = 0 then tag else p.lineTag l := by
  by_cases h : tag ≠ 0 ∧ p.lineTag line = 0
  · rw [adopt_untagged h]
    by_cases hl : l = line
    · subst hl; rw [if_pos ⟨rfl, h.2⟩]; exact agetD_aset_self ..
    · rw [if_neg (fun h => hl h.1)]; exact agetD_aset_ne _ _ _ hl
  · rw [adopt_tagged h]
    split
    · rename_i hl
      obtain ⟨rfl, h0⟩ := hl
      have ht : tag = 0 := by by_contra ht; exact h ⟨ht, h0⟩
      rw [h0, ht]
    · rfl

theorem adopt_frame (p : Phys) (tag line : Nat) :
    p.adopt tag line = { p with ram := (p.adopt tag line).ram, tags := (p.adopt tag line).tags } := by
  unfold Phys.adopt
  generalize p.ram.zero (line * 64) 64 = m
  split <;> rfl

/-! ### An access performed at its slice (R145, R152, R231, R318) -/

/-- The global memory with the line under the tag of an access that writes it. -/
def sliceTagged (p : Phys) (x : Access) : Phys :=
  if x.kind ∈ [.load, .ldfe, .ldff] then p else p.adopt x.tag (x.loc / 64)

/-- And behind the write of w, or none. -/
def sliceWritten (p : Phys) (x : Access) (w : Option Nat) : Phys :=
  match w with
  | none => sliceTagged p x
  | some v => { sliceTagged p x with ram := (sliceTagged p x).ram.writeBytes x.loc (bytesLE x.n v) }

/-- And behind its word's bit. -/
def sliceBit (p : Phys) (x : Access) (q : Phys) : Phys :=
  if AccessKind.fullAfter x.kind (p.isFull x.loc) x.x != p.isFull x.loc then
    q.setFull x.loc (AccessKind.fullAfter x.kind (p.isFull x.loc) x.x)
  else q

theorem sliceTagged_frame (p : Phys) (x : Access) :
    sliceTagged p x = { p with ram := (sliceTagged p x).ram, tags := (sliceTagged p x).tags } := by
  unfold sliceTagged
  split
  · rfl
  · exact adopt_frame ..

theorem sliceWritten_frame (p : Phys) (x : Access) (w : Option Nat) :
    sliceWritten p x w = { p with ram := (sliceWritten p x w).ram, tags := (sliceTagged p x).tags } := by
  cases w with
  | none => exact sliceTagged_frame p x
  | some v => rw [sliceWritten, sliceTagged_frame]

/-- An access of a slice has the effect that R145, R152 and R318 say. -/
theorem slice_served (p : Phys) (x : Access) (hn : x.n ∈ [1, 2, 4, 8]) (old : BitVec (8 * x.n)) :
    SliceServed p (sliceBit p x (sliceWritten p x (AccessKind.writes x.kind x.n old.toNat x.x.toNat x.y.toNat))) x old := by
  generalize hw : AccessKind.writes x.kind x.n old.toNat x.x.toNat x.y.toNat = w
  have hframe := sliceWritten_frame p x w
  have hbit (q : Phys) : sliceBit p x q = { q with empty := (sliceBit p x q).empty } := by unfold sliceBit; split <;> rfl
  refine ⟨fun z => ?_, fun u => ?_, fun l => ?_, by rw [hbit, hframe]⟩
  · have hbase : (if z / 64 = x.loc / 64 ∧ x.kind ∉ [.load, .ldfe, .ldff] then p.seen x.tag z else p.ram.read z) =
        (sliceTagged p x).ram.read z := by
      unfold sliceTagged
      split
      · rename_i h; rw [if_neg h.2, read_adopt, if_pos h.1]
      · split
        · rfl
        · rename_i h hk; rw [read_adopt, if_neg fun hz => h ⟨hz, hk⟩]
    rw [hbase, hbit]
    refine read_written _ _ hn x.loc old z (fun h => ?_) (fun v h => ?_) <;> rw [hw] at h <;> subst h <;> rfl
  · have hempty : (sliceBit p x (sliceWritten p x w)).empty =
        if AccessKind.fullAfter x.kind (p.isFull x.loc) x.x != p.isFull x.loc then
          (if AccessKind.fullAfter x.kind (p.isFull x.loc) x.x then p.empty.filter (· != x.loc / 8) else insertNat (x.loc / 8) p.empty)
        else p.empty := by
      rw [hframe]; unfold sliceBit; split <;> rfl
    rw [hempty]
    exact mem_leaves fun h => by rwa [bne_eq_false_iff_eq] at h
  · have htags : (sliceBit p x (sliceWritten p x w)).lineTag l = (sliceTagged p x).lineTag l := by
      rw [hbit, hframe]; rfl
    rw [htags]
    unfold sliceTagged
    by_cases hk : x.kind ∈ [.load, .ldfe, .ldff]
    · simp only [hk, not_true_eq_false, false_and, and_false, if_true, if_false]
    · simp only [hk, not_false_eq_true, true_and, if_false, lineTag_adopt]

/-- The line of an access has another tag: KEYTAG (R318). -/
def OtherTag (p : Phys) (x : Access) : Prop := p.lineTag (x.loc / 64) ≠ x.tag ∧ p.lineTag (x.loc / 64) ≠ 0

section
variable {s : State} {x : Access} (hl : linesOf x.loc x.n = [x.loc / 64])
include hl

theorem otherTag_iff : (linesOf x.loc x.n).any (fun l => s.phys.lineTag l != x.tag && s.phys.lineTag l != 0) = true ↔
    OtherTag s.phys x := by
  rw [hl]; simp [OtherTag]

theorem tagRead_other (h : OtherTag s.phys x) : s.tagRead x.tag x.loc x.n = .error 11 := by
  rw [State.tagRead, Phys.readFault, if_pos ((otherTag_iff hl).2 h)]

theorem tagRead_poison (h : ¬ OtherTag s.phys x) (hp : x.loc / 64 ∈ s.phys.poison) : s.tagRead x.tag x.loc x.n = .error 10 := by
  rw [State.tagRead, Phys.readFault, if_neg (mt (otherTag_iff hl).1 h), hl, if_pos (by simpa using hp)]

theorem tagRead_seen (h : ¬ OtherTag s.phys x) (hp : x.loc / 64 ∉ s.phys.poison) (hd : s.sec.tagState x.tag ≠ .dead) :
    s.tagRead x.tag x.loc x.n = .ok ((List.range x.n).map (fun i => s.phys.seen x.tag (x.loc + i))) := by
  rw [State.tagRead, Phys.readFault, if_neg (mt (otherTag_iff hl).1 h), hl, if_neg (by simpa using hp)]
  dsimp only
  rw [State.seenBytes, if_neg hd, bytesFor_eq]

theorem writeRefused_iff : s.writeRefused x.tag x.loc x.n = true ↔ OtherTag s.phys x := otherTag_iff hl

theorem tagWrite_other (h : OtherTag s.phys x) (v ctx : Nat) (place : BitVec 32) :
    s.tagWrite x.tag x.loc (bytesLE x.n v) ctx place = .error 11 := by
  rw [State.tagWrite, length_bytesLE, if_pos ((otherTag_iff hl).2 h)]

theorem writeErrors_none (hn : x.n ≤ 8) (hu : x.loc / 64 ∉ s.phys.uncorr) (ctx : Nat) (place : BitVec 32) :
    s.writeErrors x.loc x.n ctx place = s := by
  have hc : coversLine x.loc x.n (x.loc / 64) = false := by
    simp only [coversLine, Bool.and_eq_false_iff, decide_eq_false_iff_not]; omega
  rw [State.writeErrors, hl]
  simp only [List.foldl_cons, List.foldl_nil, hc, Bool.false_eq_true, if_false, List.contains_iff_mem, hu]

theorem tagWrite_written (hn : x.n ≤ 8) (hk : x.kind ∉ [.load, .ldfe, .ldff]) (h : ¬ OtherTag s.phys x)
    (hu : x.loc / 64 ∉ s.phys.uncorr) (v ctx : Nat) (place : BitVec 32) :
    s.tagWrite x.tag x.loc (bytesLE x.n v) ctx place = .ok { s with phys := sliceWritten s.phys x (some v) } := by
  rw [State.tagWrite, length_bytesLE, if_neg (mt (otherTag_iff hl).1 h), writeErrors_none hl hn hu, hl]
  rw [sliceWritten, sliceTagged, if_neg hk]
  rfl

end

/-- The machine in which a slice performs an access: its line is dirty, unless the access only reads. -/
def sliceStart (s : State) (x : Access) : State :=
  if x.kind == .load || x.kind == .ldff then s else s.sliceDirty x.loc x.n

theorem sliceStart_frame (s : State) (x : Access) : sliceStart s x =
    { s with phys := { s.phys with old := (sliceStart s x).phys.old }, stations := (sliceStart s x).stations } := by
  unfold sliceStart
  split
  · rfl
  · exact sliceDirty_frame ..

theorem park_sliceStart (s : State) (x : Access) (st : Nat) : ((sliceStart s x).stationAt st).park = (s.stationAt st).park := by
  unfold sliceStart
  split
  · rfl
  · exact park_sliceDirty ..

/-- What decides a slice's answer is as it was when the line is dirty. -/
theorem sliceStart_otherTag (s : State) (x : Access) : OtherTag (sliceStart s x).phys x ↔ OtherTag s.phys x := by
  rw [sliceStart_frame]; rfl

theorem mem_poison_sliceStart (s : State) (x : Access) (l : Nat) : l ∈ (sliceStart s x).phys.poison ↔ l ∈ s.phys.poison := by
  rw [sliceStart_frame]

section
variable {s : State} {x : Access} (hf : s.folds = []) (hl : linesOf x.loc x.n = [x.loc / 64]) (hu : x.loc / 64 ∉ s.phys.uncorr)
include hf hl hu

/-- Another tag is KEYTAG (R318). -/
theorem slicePerform_other (h : OtherTag s.phys x) : s.slicePerform x = (.bad 11 0 0, sliceStart s x) := by
  have hT := (sliceStart_otherTag s x).2 h
  simp only [State.slicePerform, foldRange_none hf, findErrors_none hl hu, ite_self]
  rw [← sliceStart]
  generalize sliceStart s x = u at *
  simp only [tagRead_other hl hT, tagWrite_other hl hT, (writeRefused_iff hl).2 hT, Bool.not_true, Bool.and_false, Bool.false_and,
    Bool.false_eq_true, if_false, if_true, ite_self]

/-- A poisoned line is POISON for what reads it, and for an stfe (R231). -/
theorem slicePerform_poison (h : ¬ OtherTag s.phys x) (hp : x.loc / 64 ∈ s.phys.poison)
    (hk : AccessKind.reads x.kind = true ∨ x.kind = .stfe) : s.slicePerform x = (.bad 10 0 0, sliceStart s x) := by
  have hT := mt (sliceStart_otherTag s x).1 h
  have hpT := (mem_poison_sliceStart s x _).2 hp
  simp only [State.slicePerform, foldRange_none hf, findErrors_none hl hu, ite_self]
  rw [← sliceStart]
  generalize sliceStart s x = u at *
  rcases hk with hr | hk
  · simp only [hr, if_true, tagRead_poison hl hT hpT]
  · have hw : u.writeRefused x.tag x.loc x.n = false := by
      rw [Bool.eq_false_iff]; exact mt (writeRefused_iff hl).1 hT
    have hany : (linesOf x.loc x.n).any (fun l => u.phys.poison.contains l) = true := by rw [hl]; simpa using hpT
    simp only [hk, AccessKind.reads, Bool.false_eq_true, if_false, hw, hany, beq_self_eq_true, Bool.not_false, Bool.and_self, if_true]

/-- The old value of an access's bytes, as its tag sees them (R318). -/
def seenValue (p : Phys) (x : Access) : BitVec (8 * x.n) :=
  BitVec.ofNat _ (ofBytesLE ((List.range x.n).map (fun i => p.seen x.tag (x.loc + i))))

omit hf hl hu in
theorem seenValue_toNat (p : Phys) (x : Access) :
    (seenValue p x).toNat = ofBytesLE ((List.range x.n).map (fun i => p.seen x.tag (x.loc + i))) := by
  rw [seenValue, BitVec.toNat_ofNat, Nat.pow_mul]
  refine Nat.mod_eq_of_lt ?_
  have h := ofBytesLE_lt ((List.range x.n).map (fun i => p.seen x.tag (x.loc + i)))
  rwa [List.length_map, List.length_range] at h

omit hf hl hu in
/-- The bit is set behind the write (R152). -/
theorem setBit_eq (u : State) (x : Access) (q : Phys) :
    (if (AccessKind.fullAfter x.kind (u.phys.isFull x.loc) x.x != u.phys.isFull x.loc) = true then
      { u with phys := q.setFull x.loc (AccessKind.fullAfter x.kind (u.phys.isFull x.loc) x.x) } else { u with phys := q }) =
    { u with phys := sliceBit u.phys x q } := by
  unfold sliceBit; split <;> rfl

omit hf hl hu in
theorem reads_writes_none {k : AccessKind} (hr : AccessKind.reads k = true) (n old x y : Nat) :
    AccessKind.writes k n old x y = none ↔ k ∈ [.load, .ldfe, .ldff] := by
  cases k <;> simp_all [AccessKind.reads, AccessKind.writes]

omit hf hl hu in
/-- What does not read, and is no fest, stores its operand. -/
theorem writes_posted {k : AccessKind} (hr : AccessKind.reads k = false) (hk : k ≠ .fest) (n old x y : Nat) :
    AccessKind.writes k n old x y = some (x % 2 ^ (8 * n)) ∧ k ∉ [.load, .ldfe, .ldff] := by
  cases k <;> simp_all [AccessKind.reads, AccessKind.writes]

/-- Else the access is performed (R145, R152, R155, R156). -/
theorem slicePerform_served (hn : x.n ∈ [1, 2, 4, 8]) (hd : s.sec.tagState x.tag ≠ .dead) (h : ¬ OtherTag s.phys x)
    (hp : x.loc / 64 ∉ s.phys.poison) : ∃ v, s.slicePerform x = (.ok v, { sliceStart s x with
        phys := sliceBit (sliceStart s x).phys x (sliceWritten (sliceStart s x).phys x
          (AccessKind.writes x.kind x.n (seenValue s.phys x).toNat x.x.toNat x.y.toNat)) }) ∧
      (AccessKind.reads x.kind = true → v = x.answers (seenValue s.phys x)) := by
  have h8 : x.n ≤ 8 := by revert hn; simp; omega
  have hT := mt (sliceStart_otherTag s x).1 h
  have hpT := mt (mem_poison_sliceStart s x _).1 hp
  have huT : x.loc / 64 ∉ (sliceStart s x).phys.uncorr := by rw [sliceStart_frame]; exact hu
  have hdT : (sliceStart s x).sec.tagState x.tag ≠ .dead := by rw [sliceStart_frame]; exact hd
  have hread := tagRead_seen hl hT hpT hdT
  have hseen (z : Nat) : (sliceStart s x).phys.seen x.tag z = s.phys.seen x.tag z := by rw [sliceStart_frame]; rfl
  simp only [hseen] at hread
  have hw : (sliceStart s x).writeRefused x.tag x.loc x.n = false := by
    rw [Bool.eq_false_iff]; exact mt (writeRefused_iff hl).1 hT
  have hany : (linesOf x.loc x.n).any (fun l => (sliceStart s x).phys.poison.contains l) = false := by
    rw [hl]; simpa using hpT
  simp only [State.slicePerform, foldRange_none hf, findErrors_none hl hu, ite_self]
  rw [← sliceStart]
  generalize sliceStart s x = u at *
  cases hr : AccessKind.reads x.kind with
  | true =>
    simp only [if_true, hread]
    rw [← seenValue_toNat]
    refine ⟨_, ?_, fun _ => extend_eq x hn (seenValue s.phys x).toNat |>.trans (by simp)⟩
    cases hv : AccessKind.writes x.kind x.n (seenValue s.phys x).toNat x.x.toNat x.y.toNat with
    | none =>
      have hk : x.kind ∈ [.load, .ldfe, .ldff] := (reads_writes_none hr ..).1 hv
      rw [sliceWritten, sliceTagged, if_pos hk]
      exact congrArg (Prod.mk _) (setBit_eq u x u.phys)
    | some v =>
      have hk : x.kind ∉ [.load, .ldfe, .ldff] := fun hk => by rw [(reads_writes_none hr ..).2 hk] at hv; cases hv
      simp only [tagWrite_written hl h8 hk hT huT]
      exact congrArg (Prod.mk _) (setBit_eq u x _)
  | false =>
    simp only [Bool.false_eq_true, if_false, hany, Bool.and_false, beq_iff_eq]
    refine ⟨0, ?_, fun h => absurd h (by decide)⟩
    by_cases hk : x.kind = .fest
    · have hs : sliceWritten u.phys x (AccessKind.writes x.kind x.n (seenValue s.phys x).toNat x.x.toNat x.y.toNat) =
          u.phys.adopt x.tag (x.loc / 64) := by
        rw [hk, AccessKind.writes, sliceWritten, sliceTagged, if_neg (by rw [hk]; decide)]
      rw [if_pos hk, if_neg (by rw [hw]; decide), hs]
      exact congrArg (Prod.mk _) (setBit_eq u x _)
    · obtain ⟨hv, hmem⟩ := writes_posted hr hk x.n (seenValue s.phys x).toNat x.x.toNat x.y.toNat
      rw [if_neg hk, hv]
      simp only [tagWrite_written hl h8 hmem hT huT]
      have hs : sliceWritten u.phys x (some x.x.toNat) = sliceWritten u.phys x (some (x.x.toNat % 2 ^ (8 * x.n))) := by
        rw [sliceWritten, sliceWritten, Nat.pow_mul, bytesLE_mod]
      rw [hs]
      exact congrArg (Prod.mk _) (setBit_eq u x _)

end

/-! ### Behind a fill (R25, R145, R279) -/

theorem stations_logError (s : State) (kind sub ctx : Nat) (place : BitVec 32) (addr : Nat) :
    (s.logError kind sub ctx place addr).stations = s.stations := by
  simp only [State.logError]; split <;> simp

theorem stations_findErrors (s : State) (pa n ctx : Nat) (place : BitVec 32) : (s.findErrors pa n ctx place).stations = s.stations :=
  foldl_keeps State.stations (fun s l => stations_logError { s with phys := { s.phys with
    uncorr := s.phys.uncorr.filter (· != l), poison := l :: s.phys.poison } } 10 3 ctx place (l * 64)) _ s

theorem stations_writeErrors (s : State) (pa n ctx : Nat) (place : BitVec 32) :
    (s.writeErrors pa n ctx place).stations = s.stations := by
  refine foldl_keeps State.stations (fun s l => ?_) _ s
  dsimp only
  split
  · rfl
  · split
    · exact stations_logError ..
    · rfl

theorem stations_tagWrite {s t : State} {tag pa ctx : Nat} {bs : List Byte} {place : BitVec 32}
    (h : s.tagWrite tag pa bs ctx place = .ok t) : t.stations = s.stations := by
  unfold State.tagWrite at h
  split at h
  · cases h
  · cases h; exact stations_writeErrors ..

/-- A slice that performs an access changes no station's park queue. -/
theorem park_slicePerform (s : State) (x : Access) (st : Nat) :
    (((s.slicePerform x).2).stationAt st).park = (s.stationAt st).park := by
  have hpark {u v : State} (h : u.stations = v.stations) : (u.stationAt st).park = (v.stationAt st).park := by
    rw [State.stationAt, h]; rfl
  unfold State.slicePerform
  extract_lets f0 s0 s1 full after setBit
  have hbit (u : State) : (setBit u).stations = u.stations := by
    simp only [setBit]; split <;> rfl
  have h0 : s0.stations = s.stations := by
    simp only [s0]; split
    · exact stations_findErrors ..
    · rfl
  have h1 : (s1.stationAt st).park = (s.stationAt st).park := by
    simp only [s1]; split
    · exact hpark h0
    · exact (park_sliceDirty ..).trans (hpark h0)
  rw [← h1]
  clear_value s1
  split
  · split
    · rfl
    · dsimp only
      split
      · exact hpark (hbit _)
      · split
        · rfl
        · exact hpark ((hbit _).trans (stations_tagWrite ‹_›))
  · split
    · rfl
    · split
      · split
        · rfl
        · exact hpark (hbit _)
      · split
        · rfl
        · exact hpark ((hbit _).trans (stations_tagWrite ‹_›))

theorem afterFill_none {line : Nat} {l : List Access} (s : State) (h : ∀ y ∈ l, ¬ (y.stage = .filling ∧ y.loc / 64 = line)) :
    s.afterFill line l = s := by
  induction l with
  | nil => rfl
  | cons y r ih =>
    rw [State.afterFill, if_neg (h y (by simp))]
    exact ih fun z hz => h z (List.mem_cons_of_mem _ hz)

/-- Where one access alone waits for a line, it alone meets the slice when the line returns (R279). -/
theorem afterFill_one {x : Access} {l : List Access} (s : State) (hx : x ∈ l) (hf : x.stage = .filling)
    (hone : ∀ y ∈ l, y.stage = .filling → y.loc / 64 = x.loc / 64 → y = x) (hl : l.Nodup) :
    s.afterFill (x.loc / 64) l = s.meetOwner (.slice (homeStation x.loc)) x := by
  induction l with
  | nil => cases hx
  | cons y r ih =>
    obtain ⟨hy, hr⟩ := List.nodup_cons.1 hl
    rw [State.afterFill]
    by_cases hyx : y = x
    · subst hyx
      rw [if_pos ⟨hf, rfl⟩]
      refine afterFill_none _ fun z hz hw => hy ?_
      rwa [← hone z (List.mem_cons_of_mem _ hz) hw.1 hw.2]
    · rw [if_neg fun hw => hyx (hone y (by simp) hw.1 hw.2)]
      exact ih ((List.mem_cons.1 hx).resolve_left (Ne.symm hyx)) (fun z hz => hone z (List.mem_cons_of_mem _ hz)) hr

/-- A slice whose line has returned. -/
def lineReturned (s : State) (st line : Nat) : State :=
  s.modStation st (fun k => { k with slice := k.slice.map (fun l => if l.line == line then l.filled else l) })

/-- The one access that a returning line was waited for is performed then, where nothing is parked at its slice. -/
theorem sliceFill_performs {s : State} {x : Access} {t : ThreadId} {st : Nat} (hx : s.accessAt x.id = some x) (hi : x.issuer = .thread t)
    (hsp : x.sp = 2) (hst : x.stage = .filling) (hhome : st = homeStation x.loc) (hpark : (s.stationAt st).park = [])
    (hw : x.kind.waitsFor = none ∨ x.kind.waitsFor = some (!decide (x.loc / 8 ∈ s.phys.empty)))
    (hfill : ∃ l ∈ (s.stationAt st).slice, l.line = x.loc / 64 ∧ l.fill = true)
    (hone : ∀ y ∈ s.accesses, y.stage = .filling → y.loc / 64 = x.loc / 64 → y = x) (hids : (s.accesses.map Access.id).Nodup) :
    let r := (lineReturned s st (x.loc / 64)).slicePerform x
    exec (.sliceFill st (x.loc / 64)) s = .next (r.2.modAccess x.id (fun y => { y with
      stage := .answered r.1.fault r.1.sub r.1.info r.1.value })) := by
  have hany : (s.stationAt st).slice.any (fun l => l.line == x.loc / 64 && l.fill) = true := by
    obtain ⟨l, hl, h1, h2⟩ := hfill
    exact List.any_eq_true.2 ⟨l, hl, by simp [h1, h2]⟩
  have hp1 : ((lineReturned s st (x.loc / 64)).stationAt st).park = [] := by
    rw [lineReturned, State.stationAt_modStation_self]; exact hpark
  have hnone (u : State) (hu : (u.stationAt st).park = []) :
      ∀ y ∈ (u.parkOf (.slice st)).filterMap u.accessAt, y.loc / 8 ≠ x.loc / 8 := by
    rw [State.parkOf, hu]; simp
  have hfull : (lineReturned s st (x.loc / 64)).fullAt (.slice st) x.loc = !decide (x.loc / 8 ∈ s.phys.empty) := by
    change (!s.phys.empty.contains (x.loc / 8)) = _
    simp
  rw [Laws.exec_sliceFill, execSliceFill, if_pos hany]
  change Host.Outcome.next ((lineReturned s st (x.loc / 64)).afterFill (x.loc / 64) s.accesses) = _
  rw [afterFill_one _ (List.mem_of_find?_eq_some hx) hst hone (List.Nodup.of_map _ hids), ← hhome,
    meetOwner_performs (hnone _ hp1) (by rw [hfull]; exact waitsFor_ne hw), deliver_away hi (by rw [hsp]; decide),
    serveWord_unparked (hnone _ ?_)]
  · rfl
  · exact (park_slicePerform ..).trans hp1

theorem stationAt_lineReturned (s : State) (st line : Nat) : (lineReturned s st line).stationAt st =
    { s.stationAt st with slice := (s.stationAt st).slice.map (fun l =>
      if l.line = line then { l with valid := 0xFF, fill := false } else l) } := by
  simp only [lineReturned, State.stationAt_modStation_self, beq_iff_eq, SliceLine.filled]

/-! ### What a slice leaves, kind by kind (R145, R231, R318) -/

theorem reads_iff (k : AccessKind) : k ∉ [.store, .stf, .fest, .stfe] ↔ AccessKind.reads k = true := by
  cases k <;> simp [AccessKind.reads]

theorem not_otherTag {p : Phys} {x : Access} (h : p.lineTag (x.loc / 64) = x.tag ∨ p.lineTag (x.loc / 64) = 0) : ¬ OtherTag p x :=
  fun ho => h.elim ho.1 ho.2

/-- A slice that performs nothing leaves the memory, its bits and its tags. -/
theorem sliceStart_untouched (s : State) (x : Access) : (sliceStart s x).phys.ram = s.phys.ram ∧
    (sliceStart s x).phys.empty = s.phys.empty ∧ (sliceStart s x).phys.tags = s.phys.tags := by
  rw [sliceStart_frame]; exact ⟨rfl, rfl, rfl⟩

/-- What a line held before it became dirty does not show in what an access leaves. -/
theorem slice_served_start (s : State) (x : Access) (hn : x.n ∈ [1, 2, 4, 8]) (old : BitVec (8 * x.n)) :
    SliceServed s.phys (sliceBit (sliceStart s x).phys x (sliceWritten (sliceStart s x).phys x
      (AccessKind.writes x.kind x.n old.toNat x.x.toNat x.y.toNat))) x old := by
  have h := slice_served (sliceStart s x).phys x hn old
  have hp : (sliceStart s x).phys = { s.phys with old := (sliceStart s x).phys.old } := by rw [sliceStart_frame]
  generalize sliceBit _ _ _ = q at *
  rw [hp] at h
  exact ⟨h.bytes, h.bits, h.tags, h.host⟩

/-- Settles O21: a peer request at its bank, a global one by its region, an access performed at its slice, and one behind a fill. -/
theorem peerAccessReachesItsBank : Obligations.PeerAccessReachesItsBank := by
  refine ⟨?peer, ?region, ?slice, ?fill⟩
  case peer =>
    intro s x t hx hi hsp hst hown hway hin hopen hlive core a k old full comes hfresh hclear
    have h : PeerArrives s x t core (core * 2 ^ 18 + a) := ⟨hx, hi, hsp, hst, hown, hway, hopen, hlive, rfl, rfl, hfresh, hclear⟩
    refine ⟨fun hl ho => ⟨fun hp _ hn hw => ?_, fun hw hr => ?_, fun hw hr => ?_⟩, fun hl ho => ?_, fun hl => ?_⟩
    · obtain ⟨u, hexec, hcame, hserved⟩ := h.performed hl ho hp hn hw
      exact ⟨u, ⟨hexec, hcame⟩, hserved⟩
    · obtain ⟨u, hexec, hcame, hcores⟩ := (h.parks hl ho hw).1 hr
      exact ⟨u, ⟨hexec, hcame⟩, hcores⟩
    · obtain ⟨u, hexec, hcame, hcores⟩ := (h.parks hl ho hw).2 hr
      exact ⟨u, ⟨hexec, hcame⟩, hcores⟩
    · exact h.closed (a := .bad 9 1 0) (by
        rw [State.bankClosed, peerArrived_coreAt, if_neg (fun hc => Bool.false_ne_true (hl.symm.trans hc.2)), if_pos ⟨hsp, ho⟩])
    · exact h.closed (a := .bad 9 2 0) (by rw [State.bankClosed, peerArrived_coreAt, if_pos ⟨hsp, hl⟩])
  case region =>
    intro s x t hx hi hsp hst hown hway hopen leaves comes
    have h : GlobalArrives s x t := ⟨hx, hi, hsp, hst, hown, hway, hopen⟩
    exact ⟨h.discovery, fun d => h.remote, h.outside⟩
  case slice =>
    intro s x hn ha hf hu hd line own old untouched reads
    have hl := linesOf_aligned hn ha
    refine ⟨fun ht hp => ?_, fun ht h0 _ => ?_, fun ht hp hk => ?_⟩
    · obtain ⟨v, hv, hread⟩ := slicePerform_served hf hl hu hn hd (not_otherTag ht) hp
      refine ⟨_, v, hv, fun hr => hread ((reads_iff x.kind).1 hr), slice_served_start s x hn _, ?_, ?_⟩ <;>
        · rw [sliceStart_frame]
    · exact ⟨_, slicePerform_other hf hl hu ⟨ht, h0⟩, sliceStart_untouched s x⟩
    · exact ⟨_, slicePerform_poison hf hl hu (not_otherTag ht) hp (hk.imp_left (reads_iff x.kind).1), sliceStart_untouched s x⟩
  case fill =>
    intro s x t st hx hi hsp hst hhome hpark hw hfill hone hids
    exact ⟨lineReturned s st (x.loc / 64), fun c hc => State.stationAt_modStation_ne _ _ hc, rfl, stationAt_lineReturned s st _,
      sliceFill_performs hx hi hsp hst hhome hpark hw hfill hone hids⟩

end Sys2Proof
end

section
/-! Register windows lent and held (O8), and the register checks of every instruction word (O11). -/

namespace Sys2Proof

open Sys2Proof.Machine

/-! ### The registers that a check names (R67, log entry 6) -/

theorem anyOf_mem {α : Type} (s : State) {l : List α} (h : l ≠ []) : ∃ x ∈ l, s.anyOf l = some x := by
  match l with
  | [] => exact absurd rfl h
  | [x] => exact ⟨x, by simp, rfl⟩
  | x :: y :: r =>
    have hlt : (s.undefined (2 ^ 62)).toNat % (r.length + 2) < (x :: y :: r).length := Nat.mod_lt _ (by simp)
    exact ⟨_, List.getElem_mem hlt, List.getElem?_eq_getElem hlt⟩

/-- Of several registers outside the window one is named, before the parity of any (R67). -/
theorem regFault_outside {s : State} {t : ThreadId} {th : Thread} {uses : List Reg} (h : ∃ r ∈ uses, 8 * th.win.wsize ≤ r.toNat)
    (reads : List Reg) : ∃ r ∈ uses, 8 * th.win.wsize ≤ r.toNat ∧
      s.regFault t th uses reads = some (precise 3 (BitVec.ofNat 64 r.toNat) 0 0) := by
  obtain ⟨q, hq, hout⟩ := h
  obtain ⟨r, hr, hany⟩ := anyOf_mem s (l := uses.filter (fun r => decide (8 * th.win.wsize ≤ r.toNat)))
    (List.ne_nil_of_mem (List.mem_filter.2 ⟨hq, by simpa using hout⟩))
  obtain ⟨hmem, hr⟩ := List.mem_filter.1 hr
  exact ⟨r, hmem, by simpa using hr, by simp only [State.regFault, hany]⟩

/-- Of several sources with bad parity one is named, where every register lies in the window (R67, R233). -/
theorem regFault_bad {s : State} {t : ThreadId} {th : Thread} {uses reads : List Reg} (hw : ∀ r ∈ uses, r.toNat < 8 * th.win.wsize)
    (h : ∃ r ∈ reads, r ≠ 0 ∧ th.rfEntry r.toNat ∈ (s.coreAt t.core).rfBad) :
    ∃ r ∈ reads, (r ≠ 0 ∧ th.rfEntry r.toNat ∈ (s.coreAt t.core).rfBad) ∧
      s.regFault t th uses reads = some (precise 20 (BitVec.ofNat 64 r.toNat) 2 0) := by
  obtain ⟨q, hq, h0, hbad⟩ := h
  have hin : uses.filter (fun r => decide (8 * th.win.wsize ≤ r.toNat)) = [] := by
    rw [List.filter_eq_nil_iff]; intro r hr; simpa using hw r hr
  obtain ⟨r, hr, hany⟩ := anyOf_mem s
    (l := reads.filter (fun r => r != 0 && (s.coreAt t.core).rfBad.contains (th.rfEntry r.toNat)))
    (List.ne_nil_of_mem (List.mem_filter.2 ⟨hq, by simpa using ⟨h0, hbad⟩⟩))
  obtain ⟨hmem, hr⟩ := List.mem_filter.1 hr
  refine ⟨r, hmem, by simpa using hr, ?_⟩
  simp only [State.regFault, hin, hany]
  rfl

/-! ### The held window (R35, R129 to R131) -/

/-- The lender of the window that a thread of a core holds. -/
def lenderOf (s : State) (th : Thread) : ThreadId := ⟨s.cur.core, th.win.bslot⟩

theorem heldFault_none {s : State} {th lt : Thread} {j : Reg} (hh : th.win.held = true) (hl : s.threadAt (lenderOf s th) = some lt)
    (hj : j.toNat < 8 * lt.win.wsize) : s.heldFault s.cur th j = none := by
  rw [lenderOf] at hl
  simp only [State.heldFault, hh, hl, if_neg (Nat.not_le.2 hj)]
  rfl

theorem heldFault_outside {s : State} {th lt : Thread} {j : Reg}
    (h : th.win.held = false ∨ (s.threadAt (lenderOf s th) = some lt ∧ 8 * lt.win.wsize ≤ j.toNat)) :
    s.heldFault s.cur th j = some (precise 3 (BitVec.ofNat 64 j.toNat) 0 0) := by
  cases hh : th.win.held with
  | false => simp only [State.heldFault, hh]; rfl
  | true =>
    obtain ⟨hl, hj⟩ := h.resolve_left (by simp [hh])
    rw [lenderOf] at hl
    simp only [State.heldFault, hh, hl, if_pos hj]
    rfl

theorem xborrow_eq {s : State} {th : Thread} {r : R2} (h : Executes s th [r.d, r.a] [r.a]) :
    exec (.xborrow r) s = .next
      (if 63 < (s.g r.a).toNat ∨ (s.g r.a).toNat = s.cur.slot ∨ th.win.held = true ∨ s.idle ⟨s.cur.core, (s.g r.a).toNat⟩ = false then
        s.finishWith 4 r.d 0
      else
        ((s.modThread ⟨s.cur.core, (s.g r.a).toNat⟩ (fun l => { l with win := { l.win with lent := true } })).setThread s.cur
          { th with win := { th.win with held := true, bslot := (s.g r.a).toNat } }).finishWith 4 r.d 1) := by
  rw [Laws.exec_xborrow, execXborrow, h.onThread, h.gate]

theorem xreturn_eq {s : State} {th : Thread} (h : s.threadAt s.cur = some th) :
    exec .xreturn s = .next ((s.returnWindow s.cur th).finish s.cur 4) := by
  rw [Laws.exec_xreturn, execXreturn, onThread_eq h]

/-- xget behind the checks of its own registers (R131). -/
theorem xget_eq {s : State} {th : Thread} {r : R2} (h : Executes s th [r.d] []) :
    exec (.xget r) s = .next (s.orTrap (s.heldFault s.cur th r.a)
      (s.orTrap (((s.threadAt (lenderOf s th)).map (fun l => s.regFault (lenderOf s th) l [] [r.a])).getD none)
        (s.finishWith 4 r.d (s.reg (lenderOf s th) r.a)))) := by
  rw [Laws.exec_xget, execXget, h.onThread, h.gate]
  rfl

/-- xput: the window checks of its own register and of the held one, then the parity of its source (R67, R131). -/
theorem xput_eq {s : State} {th : Thread} (h : s.threadAt s.cur = some th) (j a : Reg) :
    exec (.xput j a) s = .next (s.gate th [a] [] (s.orTrap (s.heldFault s.cur th j)
      (s.gate th [a] [a] ((s.setReg (lenderOf s th) j (s.g a)).finish s.cur 4)))) := by
  rw [Laws.exec_xput, execXput, onThread_eq h]
  rfl

theorem threadAt_setReg_ne {s : State} {t u : ThreadId} (r : Reg) (v : Word) (h : u ≠ t) :
    (s.setReg t r v).threadAt u = s.threadAt u := by
  unfold State.setReg
  split
  · rfl
  · split
    · rfl
    · rw [State.threadAt_setThread_ne _ _ h]; exact State.threadAt_modCore s _ (fun k => k.setEntry _ v) (fun _ => rfl) _

/-- A reticle's core cycles, by a core of it (R8). -/
theorem cyclesAt_stationOfCore (s : State) (core : Nat) :
    s.cyclesAt (stationOfCore core) = agetD s.cycles (core / 192) 0 / 1900 := by
  rw [State.cyclesAt, stationOfCore, Nat.div_div_eq_div_mul]

/-- A lender whose window comes back: it counts as idle from the next core cycle of its reticle on (R35, R130). -/
def lenderAgain (s : State) (l : Thread) : Thread :=
  { l with win := { l.win with lent := false }, idleFrom := agetD s.cycles (s.cur.core / 192) 0 / 1900 + 1 }

theorem returnWindow_held {s : State} {th : Thread} (h : th.win.held = true) :
    s.returnWindow s.cur th = (s.modThread (lenderOf s th) (lenderAgain s)).setThread s.cur
      { th with win := { th.win with held := false, bslot := 0 } } := by
  rw [State.returnWindow, if_pos h, cyclesAt_stationOfCore]
  rfl

theorem returnWindow_none {s : State} {th : Thread} (h : th.win.held = false) (t : ThreadId) : s.returnWindow t th = s :=
  if_neg (by simp [h])

/-- Settles O8: each instruction is its checks and then one of two ends, by its equation. -/
theorem windowsLentAndHeld : Obligations.WindowsLentAndHeld := by
  refine ⟨⟨?borrow, ?giveBack⟩, ?held⟩
  case borrow =>
    intro s th r h n lender
    refine ⟨fun h63 hne hh hidle => ?_, fun hno => ⟨_, (xborrow_eq h).trans (congrArg _ (if_pos hno)), h.finishWith 4 r.d 0⟩⟩
    have hyes : ¬ (63 < n ∨ n = s.cur.slot ∨ th.win.held = true ∨ s.idle lender = false) := by
      simp [hne, hh, hidle, Nat.not_lt.2 h63]
    exact .of_finishWith h ((xborrow_eq h).trans (congrArg _ (if_neg hyes))) (State.modThread_cur ..)
      (State.threadAt_setThread_self _ _ _) rfl rfl rfl rfl
  case giveBack =>
    intro s th h lender
    refine ⟨fun hh => ?_, fun hh => ?_⟩
    · exact ⟨_, (xreturn_eq h.created).trans (by rw [returnWindow_none hh]), finish_ran h.created h.single h.stepped 4 0⟩
    · exact .of_finish h ((xreturn_eq h.created).trans (by rw [returnWindow_held hh]; rfl)) (State.modThread_cur ..)
        (State.threadAt_setThread_self _ _ _) rfl rfl rfl
  case held =>
    intro s th lt lender
    refine ⟨fun r h hh hl hj hp => ?reads, fun j a h hh hl hne hj => ?writes, fun r h hh hl hj h0 hbad => ?bad,
      fun r h hout => ?outside, fun j a h hout => ?outsidePut⟩
    case reads =>
      have hreg : s.regFault lender lt [] [r.a] = none :=
        regFault_none (fun _ hq => absurd hq List.not_mem_nil) (fun q hq => by rw [List.mem_singleton.1 hq]; exact hp)
      refine ⟨_, (xget_eq h).trans ?_, h.finishWith 4 r.d _⟩
      rw [heldFault_none hh hl hj, orTrap_none, show s.threadAt (lenderOf s th) = some lt from hl]
      exact congrArg (fun c => Host.Outcome.next (s.orTrap c _)) hreg
    case writes =>
      have hin : Executes s th [a] [] := h.mono (fun _ => id) (by simp)
      refine .of_finish h ((xput_eq h.created j a).trans ?_) (State.setReg_cur ..)
        ((threadAt_setReg_ne j _ hne.symm).trans h.created) rfl rfl rfl
      rw [hin.gate, heldFault_none hh hl hj, orTrap_none, h.gate]
      rfl
    case bad =>
      obtain ⟨q, hq, _, hreg⟩ := regFault_bad (s := s) (t := lender) (th := lt) (uses := []) (reads := [r.a]) (by simp)
        ⟨r.a, by simp, h0, hbad⟩
      rw [List.mem_singleton.1 hq] at hreg
      refine (xget_eq h).trans ?_
      rw [heldFault_none hh hl hj, orTrap_none, show s.threadAt (lenderOf s th) = some lt from hl]
      exact congrArg (fun c => Host.Outcome.next (s.orTrap c _)) hreg
    case outside => exact (xget_eq h).trans (by rw [heldFault_outside hout]; rfl)
    case outsidePut => exact (xput_eq h.created j a).trans (by rw [h.gate, heldFault_outside hout]; rfl)

/-! ### What every instruction word checks first (R67) -/

/-- A floating-point instruction looks at its window, then at its rounding code, then at the parity of its sources (R67). -/
theorem fpGate_eq (s : State) (th : Thread) (i : Instr) (uses reads : List Reg) (rm : Option (BitVec 3)) (rest : State) :
    s.fpGate th i uses reads rm rest = s.gate th uses [] (if (rm.map (roundingBad th.fcsr)).getD false then
      s.trapNow (precise 1 (BitVec.ofNat 64 ((encode i).headD 0)) 0 0) else s.gate th uses reads rest) := by
  unfold State.fpGate
  cases h : uses.find? (fun r => decide (8 * th.win.wsize ≤ r.toNat)) with
  | some q =>
    obtain ⟨r, _, _, hf⟩ := regFault_outside (s := s) (t := s.cur) (th := th)
      ⟨q, List.mem_of_find?_eq_some h, by simpa using List.find?_some h⟩ []
    simp only [State.gate, hf]
  | none =>
    have hin : s.regFault s.cur th uses [] = none :=
      regFault_none (fun r hr => by simpa using List.find?_eq_none.1 h r hr) (fun _ hr => absurd hr List.not_mem_nil)
    simp only [State.gate, hin]

theorem roundingBad_of_admits {f : Fcsr} {rm : BitVec 3} (h : rm = 7 → f.rm.toNat < 5) : roundingBad f rm = false := by
  simpa [roundingBad] using h

theorem privGate_refused {s : State} {ok : Bool} (h : ok = false) (i : Instr) (rest : State) :
    s.privGate ok i rest = s.takeTrap s.cur (precise 2 (BitVec.ofNat 64 ((encode i).headD 0)) 0 0) := if_neg (by simp [h])

/-- The control registers that a mode may read (R138). -/
theorem readable_iff (n : BitVec 4) (m : Mode) :
    (ControlReg.ofNumber n).readable m = true ↔ m ≠ .user ∨ n ∉ [6, 8, 9, 10, 11, 12, 15] := by
  cases m <;> revert n <;> decide

/-- The control registers that a mode may write (R138). -/
theorem writable_iff (n : BitVec 4) (m : Mode) : (ControlReg.ofNumber n).writable m = true ↔
    n ∈ [7] ∨ (m ≠ .user ∧ n ∈ [2, 6, 8, 9, 10, 11, 12, 14, 15]) ∨ (m = .machine ∧ n ∈ [4, 13]) := by
  cases m <;> revert n <;> decide

/-- An instruction's meaning in a state begins with register checks over uses and reads: at once, or behind those of the window. -/
def ChecksFirst (i : Instr) (s : State) (th : Thread) : Prop :=
  ∃ reads rest, exec i s = .next (s.gate th (wordRegs i).1 reads rest) ∧
    (RoundingAdmits i th → (∀ j a, i ≠ .xput j a) →
      reads = (wordRegs i).2 ∨ reads = [] ∧ ∃ rest', rest = s.gate th (wordRegs i).1 (wordRegs i).2 rest')

section
variable {s : State} {th : Thread} (h : s.threadAt s.cur = some th)
include h

/-- A meaning that is its register checks and the rest. -/
theorem ChecksFirst.of_gate {i : Instr} {rest : Thread → State}
    (hx : exec i s = s.onThread fun th => s.gate th (wordRegs i).1 (wordRegs i).2 (rest th)) : ChecksFirst i s th :=
  ⟨_, _, hx.trans (onThread_eq h _), fun _ _ => .inl rfl⟩

/-- A meaning of a floating-point instruction with a rounding code. -/
theorem ChecksFirst.of_fpGate {i : Instr} {rest : Thread → State} {rm : Option (BitVec 3)}
    (hx : exec i s = s.onThread fun th => s.fpGate th i (wordRegs i).1 (wordRegs i).2 rm (rest th))
    (hr : RoundingAdmits i th → (rm.map (roundingBad th.fcsr)).getD false = false) : ChecksFirst i s th :=
  ⟨[], _, (hx.trans (onThread_eq h _)).trans (congrArg _ (fpGate_eq ..)), fun ha _ => .inr ⟨rfl, _, if_neg (by simp [hr ha])⟩⟩

/-- A meaning behind its mode check (R68), where the mode admits it. -/
theorem ChecksFirst.of_privGate {i : Instr} {rest : Thread → State} {ok : Thread → Bool}
    (hx : exec i s = s.onThread fun th => s.privGate (ok th) i (s.gate th (wordRegs i).1 (wordRegs i).2 (rest th)))
    (hok : ok th = true) : ChecksFirst i s th :=
  ⟨_, _, (hx.trans (onThread_eq h _)).trans (congrArg _ (if_pos hok)), fun _ _ => .inl rfl⟩

/-- Steps 5 to 7 of R67, instruction by instruction: one whose word names a register begins with the checks of its registers. -/
theorem checksFirst (i : Instr) (hm : ModeAdmits i th) (hregs : wordRegs i ≠ ([], [])) : ChecksFirst i s th := by
  cases i with
  | add | sub | mul | mulh | mulhu | mulhsu | madd | div | divu | rem | remu | and | or | xor | andn | orn | shl | shr | sar | rotl
  | min | max | minu | maxu | slt | sltu | sel | clz | ctz | popc | bswap | sextB | sextH | sextW | zextB | zextH | zextW | hashm
  | addi | andi | ori | xori | slti | sltiu | addiLong | andiLong | oriLong | xoriLong | sltiLong | sltiuLong | luiH
  | shli | shri | sari | rotli | lui | addpc | bfx | bfxu | bfi | fclass
  | bl | jr | jlr | beq | bne | blt | bge | bltu | bgeu | trapc | xborrow | xget
  | ldB | ldH | ldW | ldD | ldBu | ldHu | ldWu | stB | stH | stW | stD | ldfe | ldff | stfe | stf | fest
  | amoAdd | amoAnd | amoOr | amoXor | amoMin | amoMax | amoMinu | amoMaxu | amoSwap | cas | famoFadd | famoFmin | famoFmax
  | scope | rdtime | attime | post | evwait | evpoll | evclr | popr | peekr | send | recv | tbldef | tblinv | shardof | iinv
  | gather | scatter | scadd | dedup | segred | isect | gatherLong | scatterLong | scaddLong | dedupLong | segredLong | isectLong
  | rowget | rowput | rowadd | rowaxpy | rowscale | rowdot | rowcvt | rowzero | rowcopy | rowtopk
  | rowgetLong | rowputLong | rowaddLong | rowaxpyLong | rowscaleLong | rowdotLong | rowcvtLong | rowzeroLong | rowcopyLong
  | rowtopkLong | mload | msplit | mmul | mslice | mcomb | mdrain | mloadLong | msplitLong | mcombLong | mdrainLong
  | mrdacc | mwracc | mstat => exact .of_gate h rfl
  | fadd | fsub | fmul | fma | fdiv | fsqrt | fround | fcvt => exact .of_fpGate h rfl roundingBad_of_admits
  | fmin | fmax | fsgn | fcmp => exact .of_fpGate h rfl (fun _ => rfl)
  | rdc => exact .of_privGate h rfl ((readable_iff _ _).2 hm)
  | wrc => exact .of_privGate h rfl ((writable_iff _ _).2 hm)
  | xinv => exact .of_privGate h rfl (by simpa [ModeAdmits] using hm)
  | xput => exact ⟨_, _, onThread_eq h _, fun _ hne => absurd rfl (hne _ _)⟩
  | _ => exact absurd rfl hregs

end

theorem gate_traps {s : State} {th : Thread} {uses reads : List Reg} {c : TrapCause} (h : s.regFault s.cur th uses reads = some c)
    (rest : State) : s.gate th uses reads rest = s.takeTrap s.cur c := by
  simp only [State.gate, h, State.trapNow]

section
variable {s : State} {th : Thread} (h : s.threadAt s.cur = some th)
include h

/-- An instruction whose mode check fails raises PRIV with its first word (R68). -/
theorem traps_priv {i : Instr} {ok : Thread → Bool} {rest : Thread → State}
    (hx : exec i s = s.onThread fun th => s.privGate (ok th) i (rest th)) (hok : ok th = false) :
    Traps i s (precise 2 (BitVec.ofNat 64 ((encode i).headD 0)) 0 0) :=
  (hx.trans (onThread_eq h _)).trans (congrArg _ (privGate_refused hok i _))

theorem rdc_traps_priv (d : Reg) {n : BitVec 4} (hn : ¬ (th.status.mode ≠ .user ∨ n ∉ [6, 8, 9, 10, 11, 12, 15])) :
    Traps (.rdc d n) s (precise 2 (BitVec.ofNat 64 ((encode (.rdc d n)).headD 0)) 0 0) :=
  traps_priv h (Laws.exec_rdc d n s) (Bool.eq_false_iff.2 fun hr => hn ((readable_iff n _).1 hr))

theorem wrc_traps_priv (a : Reg) {n : BitVec 4} (hn : ¬ (n ∈ [7] ∨ (th.status.mode ≠ .user ∧ n ∈ [2, 6, 8, 9, 10, 11, 12, 14, 15]) ∨
    (th.status.mode = .machine ∧ n ∈ [4, 13]))) :
    Traps (.wrc a n) s (precise 2 (BitVec.ofNat 64 ((encode (.wrc a n)).headD 0)) 0 0) :=
  traps_priv h (Laws.exec_wrc a n s) (Bool.eq_false_iff.2 fun hw => hn ((writable_iff n _).1 hw))

end

/-- Settles O11: the mode checks refuse, and every word that names registers begins with their checks. -/
theorem privilegeAndRegisterFaults : Obligations.PrivilegeAndRegisterFaults := by
  refine ⟨?priv, ?regs, ?xput⟩
  case priv =>
    intro s th h priv
    refine ⟨fun hu => ⟨?_, fun a b => ?_⟩, fun hm => ⟨?_, fun a => ?_, fun a => ?_⟩, fun hu n hn => ⟨fun d => ?_, fun a => ?_⟩,
      fun hu a => ⟨?_, ?_⟩, fun n hn a => ?_⟩
    · exact traps_priv h (Laws.exec_eret s) (by simp [hu])
    · exact traps_priv h (Laws.exec_xinv a b s) (by simp [hu])
    · exact traps_priv h (Laws.exec_wfi s) (by simpa using hm)
    · exact wrc_traps_priv h a (by simp [hm])
    · exact wrc_traps_priv h a (by simp [hm])
    · exact rdc_traps_priv h d (fun hno => hno.elim (· hu) (· hn))
    · exact wrc_traps_priv h a (by simp [hu]; rintro rfl; revert hn; decide)
    · exact wrc_traps_priv h a (by simp [hu])
    · exact wrc_traps_priv h a (by simp [hu])
    · obtain ⟨h7, hs, hm⟩ : n ∉ [7] ∧ n ∉ [2, 6, 8, 9, 10, 11, 12, 14, 15] ∧ n ∉ [4, 13] := by revert n; decide
      exact wrc_traps_priv h a (fun hw => hw.elim h7 (·.elim (hs ·.2) (hm ·.2)))
  case regs =>
    intro s th i h hm regs outside bad
    refine ⟨fun ⟨q, hq, hout⟩ => ?_, fun hin hround hne ⟨q, hq, hbad⟩ => ?_⟩
    · obtain ⟨reads, rest, hx, _⟩ := checksFirst h i hm (fun e => by simp [regs, e] at hq)
      obtain ⟨r, hr, ho, hf⟩ := regFault_outside (s := s) (t := s.cur) ⟨q, hq, hout⟩ reads
      exact ⟨r, hr, ho, hx.trans (congrArg _ (gate_traps hf rest))⟩
    · obtain ⟨reads, rest, hx, hreads⟩ := checksFirst h i hm (fun e => by simp [regs, e] at hq)
      obtain ⟨r, hr, hb, hf⟩ := regFault_bad (s := s) (t := s.cur) (fun r hr => Nat.not_le.1 (hin r hr)) ⟨q, hq, hbad⟩
      refine ⟨r, hr, hb, hx.trans (congrArg _ ?_)⟩
      obtain rfl | ⟨rfl, rest', rfl⟩ := hreads hround hne
      · exact gate_traps hf rest
      · rw [State.gate, regFault_none (fun r hr => Nat.not_le.1 (hin r hr)) (fun _ hr => absurd hr List.not_mem_nil)]
        exact gate_traps hf rest'
  case xput =>
    intro s th lt j a h hin h0 hbad hh hl hj
    have hw : ∀ r ∈ [a], r.toNat < 8 * th.win.wsize := fun r hr => by rw [List.mem_singleton.1 hr]; exact hin
    obtain ⟨q, hq, _, hf⟩ := regFault_bad (s := s) (t := s.cur) hw ⟨a, List.mem_singleton_self a, h0, hbad⟩
    rw [List.mem_singleton.1 hq] at hf
    refine (xput_eq h j a).trans (congrArg _ ?_)
    rw [State.gate, regFault_none hw (fun _ hr => absurd hr List.not_mem_nil), heldFault_none hh hl hj]
    exact gate_traps hf _

end Sys2Proof
end
section
/-! Steps within the drift bound (O27). -/

namespace Sys2Proof

open Sys2Proof.Machine

/-! ### step (R49, R50) -/

/-- A neighbour that is placed, not done, and behind by more than the node's drift holds a step back (R49). -/
def HoldsBack (h : HeldPlace) (p : Placed) : Prop :=
  p.finished = false ∧ (p.inst + 1 = h.placed.inst ∨ p.inst = h.placed.inst + 1) ∧ p.steps + h.node.image.k < h.placed.steps + 1

theorem mayStep_iff (n : NodeState) (inst count : Nat) : n.mayStep inst count = true ↔ n.image.k = 0 ∨
    ∀ p ∈ n.placed, p.finished = true ∨ (p.inst + 1 ≠ inst ∧ p.inst ≠ inst + 1) ∨ count ≤ p.steps + n.image.k := by
  simp [NodeState.mayStep, or_assoc]

section
variable {s : State} {th : Thread} (h : s.threadAt s.cur = some th)
include h

theorem step_idle (hv : th.task.valid = false) : exec .step s = .next (s.finish s.cur 4) := by
  rw [Laws.exec_step, execStep, onThread_eq h, if_pos hv]

theorem step_unplaced (hv : th.task.valid = true) (hp : s.heldPlace th = none) :
    exec .step s = .next (if th.held.steps = 2 ^ 32 - 1 then s.trapNow (precise 19 (BitVec.ofNat 64 th.held.steps) 0 0)
      else (s.setThread s.cur { th with held := { th.held with steps := th.held.steps + 1 } }).finish s.cur 4) := by
  rw [Laws.exec_step, execStep, onThread_eq h, if_neg (by simp [hv]), hp]

theorem step_placed (hv : th.task.valid = true) {p : HeldPlace} (hp : s.heldPlace th = some p) :
    exec .step s = .next (if p.placed.steps = 2 ^ 32 - 1 then s.trapNow (precise 19 (BitVec.ofNat 64 p.placed.steps) 0 0)
      else if p.node.mayStep p.placed.inst (p.placed.steps + 1) then
        (s.modNode th.ctxId.toNat p.graph.id th.task.node.toNat (fun n =>
          n.modPlaced p.placed.inst (fun q => { q with steps := q.steps + 1 }))).finish s.cur 4
      else match th.wait with
        | some (.step since skipped known) => s.waitFor s.cur (.step since skipped known)
        | _ => s.waitFor s.cur (.step s.time.toNat 0 s.time.toNat)) := by
  rw [Laws.exec_step, execStep, onThread_eq h, if_neg (by simp [hv]), hp] <;> rfl

end

/-- The threads whose halt keeps a running thread's held STEP from counting: the halted neighbours that hold it back (R50). -/
theorem haltedBlocks_eq {s : State} {w : Thread} {h : HeldPlace} (hh : w.halted = false) (hp : s.heldPlace w = some h) :
    s.haltedBlocks w = h.node.placed.filterMap (fun p =>
      if !p.finished && (p.inst + 1 == h.placed.inst || p.inst == h.placed.inst + 1) &&
          decide (p.steps + h.node.image.k < h.placed.steps + 1) then
        (s.threadAt p.thread).bind (fun o => if o.halted then some o.haltedAt else none)
      else none) := by
  simp [State.haltedBlocks, hh, hp]


theorem haltedBlocks_nil {s : State} {w : Thread} {h : HeldPlace} (hh : w.halted = false) (hp : s.heldPlace w = some h)
    (hlive : ∀ p ∈ h.node.placed, HoldsBack h p → ∀ o, s.threadAt p.thread = some o → o.halted = false) :
    s.haltedBlocks w = [] := by
  rw [haltedBlocks_eq hh hp, List.filterMap_eq_nil_iff]
  intro p hmem
  split
  case isTrue hb =>
    have hold : HoldsBack h p := by simpa [HoldsBack, and_assoc] using hb
    cases ho : s.threadAt p.thread with
    | none => rfl
    | some o => simp [hlive p hmem hold o ho]
  case isFalse => rfl

/-- The one element of a list without repetitions that a partial function maps is the one image. -/
theorem filterMap_eq_singleton {α β : Type} {f : α → Option β} {l : List α} {a : α} {b : β} (hn : l.Nodup) (ha : a ∈ l)
    (hb : f a = some b) (hone : ∀ x ∈ l, x ≠ a → f x = none) : l.filterMap f = [b] := by
  induction l with
  | nil => exact absurd ha List.not_mem_nil
  | cons y ys ih =>
    obtain ⟨hy, hys⟩ := List.nodup_cons.1 hn
    by_cases hya : y = a
    · subst hya
      have hrest : ys.filterMap f = [] := List.filterMap_eq_nil_iff.2 fun x hx =>
        hone x (List.mem_cons_of_mem y hx) (fun e => hy (e ▸ hx))
      rw [List.filterMap_cons_some hb, hrest]
    · rw [List.filterMap_cons_none (hone y List.mem_cons_self hya)]
      exact ih hys (List.mem_of_ne_of_mem (Ne.symm hya) ha) (fun x hx => hone x (List.mem_cons_of_mem y hx))

theorem haltedBlocks_one {s : State} {w o : Thread} {h : HeldPlace} {p : Placed} (hh : w.halted = false)
    (hp : s.heldPlace w = some h) (hmem : p ∈ h.node.placed) (hold : HoldsBack h p)
    (hone : ∀ q ∈ h.node.placed, HoldsBack h q → q = p) (hn : h.node.placed.Nodup) (ho : s.threadAt p.thread = some o)
    (hhalt : o.halted = true) : s.haltedBlocks w = [o.haltedAt] := by
  rw [haltedBlocks_eq hh hp]
  refine filterMap_eq_singleton hn hmem ?_ fun q hq hne => ?_
  · rw [if_pos (by simpa [HoldsBack, and_assoc] using hold), ho]
    simp [hhalt]
  · exact if_neg fun hb => hne (hone q hq (by simpa [HoldsBack, and_assoc] using hb))

theorem runningNow_of_no_peal {s : State} {w : Thread} (hx : ∀ x, s.ctxAt w.ctxId.toNat = some x → x.peal = none) :
    s.runningNow w = s.time.toNat := by
  unfold State.runningNow
  cases hc : s.ctxAt w.ctxId.toNat with
  | none => rfl
  | some x => simp [hx x hc]

theorem skippedTicks_of_nil {s : State} {w : Thread} (hb : s.haltedBlocks w = []) (skipped known : Nat) :
    s.skippedTicks w skipped known = skipped := by
  rw [State.skippedTicks, hb]

theorem skippedTicks_of_one {s : State} {w : Thread} {a : Nat} (hb : s.haltedBlocks w = [a]) (skipped known : Nat) :
    s.skippedTicks w skipped known = skipped + (s.runningNow w - max a known) := by
  rw [State.skippedTicks, hb]
  rfl

/-- The timeout of a running thread's held STEP compares the ticks that count with the limit (R50). -/
theorem stepTimeout_eq {s : State} {t : ThreadId} {w : Thread} {since skipped known : Nat} {h : HeldPlace}
    (hw : s.threadAt t = some w) (hwait : w.wait = some (.step since skipped known)) (hh : w.halted = false)
    (hr : s.threadRuns t = true) (hp : s.heldPlace w = some h) :
    exec (.stepTimeout t) s = .next (if s.time.toNat - since - s.skippedTicks w skipped known ≤ 2 ^ 24 then s
      else s.takeTrap t (precise 19 (BitVec.ofNat 64 h.placed.steps) 0 0)) := by
  rw [Laws.exec_stepTimeout, execStepTimeout, hw]
  simp only [hwait, hh, hr, hp]
  split <;> simp_all

/-- Settles O27: the equations of step, per case of its task, and the ticks that the timeout counts. -/
theorem stepCountsWithinDrift : Obligations.StepCountsWithinDrift := by
  intro s th he
  have hth := he.created
  refine ⟨?idle, ?unplaced, ?placed, ?timeout⟩
  case idle =>
    intro hv
    exact CompletesIn.of_finish he (step_idle hth hv) rfl hth rfl rfl rfl
  case unplaced =>
    intro hv hp th'
    refine ⟨fun hc => ?_, fun hc => ?_⟩
    · exact CompletesIn.of_finish he (by rw [step_unplaced hth hv hp, if_neg hc]) rfl (State.threadAt_setThread_self ..)
        rfl rfl rfl
    · rw [Traps, step_unplaced hth hv hp, if_pos hc, hc]
      rfl
  case placed =>
    intro h hv hp free
    have hfree : h.node.mayStep h.placed.inst (h.placed.steps + 1) = true ↔ free := mayStep_iff ..
    have hx := step_placed hth hv hp
    refine ⟨fun hc => ?_, fun hc hf => ?_, fun hc hf => ⟨fun hw => ?_, fun a b c hw => ?_⟩⟩
    · rw [Traps, hx, if_pos hc, hc]
      rfl
    · rw [if_neg hc, if_pos (hfree.2 hf)] at hx
      exact CompletesIn.of_finish he hx (by simp [State.modNode]) (by simpa [State.modNode] using hth) rfl rfl rfl
    · rw [hx, if_neg hc, if_neg (mt hfree.1 hf)]
      split
      · rename_i a b c heq
        exact absurd heq (hw a b c)
      · rfl
    · rw [hx, if_neg hc, if_neg (mt hfree.1 hf), hw]
  case timeout =>
    intro t w since skipped known h hw hwait hh hr hp holds
    have hx := stepTimeout_eq hw hwait hh hr hp
    refine ⟨fun hlive => ?_, fun p o hmem hold hone hn ho hhalt hpeal => ?_⟩
    · rw [skippedTicks_of_nil (haltedBlocks_nil hh hp hlive)] at hx
      refine ⟨fun _ hlong => ?_, fun hshort => ?_⟩
      · rw [hx, if_neg (by omega)]
      · rw [hx, if_pos (by omega)]
    · rw [skippedTicks_of_one (haltedBlocks_one hh hp hmem hold hone hn ho hhalt), runningNow_of_no_peal hpeal] at hx
      refine ⟨fun hlong => ?_, fun hshort => ?_⟩
      · rw [hx, if_neg (Nat.not_le.2 hlong)]
      · rw [hx, if_pos hshort]

end Sys2Proof
end
section
/-! Tasks that end, contribute and are posted (O30). -/

namespace Sys2Proof

open Sys2Proof.Machine

/-! ### Entries of a table that are set twice -/

@[simp] theorem aset_aset {α : Type} (t : Assoc α) (k : Nat) (v w : α) : aset (aset t k v) k w = aset t k w := by
  induction t with
  | nil => simp [aset]
  | cons p r ih =>
    obtain ⟨j, x⟩ := p
    by_cases hlt : k < j
    · simp [aset, hlt]
    · by_cases hj : j = k
      · simp [aset, hj]
      · simp [aset, hlt, hj, ih]

theorem aset_comm {α : Type} (t : Assoc α) {j k : Nat} (v w : α) (h : j ≠ k) :
    aset (aset t k v) j w = aset (aset t j w) k v := by
  induction t with
  | nil => grind [aset]
  | cons p r ih => grind [aset]

theorem mem_of_aget {α : Type} {t : Assoc α} {k : Nat} {v : α} (h : aget t k = some v) : (k, v) ∈ t := by
  induction t with
  | nil => simp at h
  | cons p r ih =>
    rw [aget_cons] at h
    split at h
    · cases h; subst k; exact List.mem_cons_self
    · exact List.mem_cons_of_mem p (ih h)

/-- Setting an entry keeps whether some entry meets a predicate that the old and the new value of the key agree on. -/
theorem any_aset {α : Type} {p : Nat × α → Bool} {t : Assoc α} {k : Nat} {v : α}
    (hsome : ∀ w, aget t k = some w → p (k, w) = p (k, v)) (hnone : aget t k = none → p (k, v) = false) :
    (aset t k v).any p = t.any p := by
  induction t with
  | nil => simpa [aset] using hnone rfl
  | cons q r ih =>
    obtain ⟨j, x⟩ := q
    rw [aget_cons] at hsome hnone
    by_cases hj : j = k
    · subst hj
      simp [aset, hsome x (by simp)]
    · rw [if_neg hj] at hsome hnone
      by_cases hlt : k < j
      · have hold : p (k, v) = true → r.any p = true := fun hv => by
          cases hr : aget r k with
          | none => simp [hnone hr] at hv
          | some w => exact List.any_eq_true.2 ⟨(k, w), mem_of_aget hr, (hsome w hr).trans hv⟩
        simp only [aset, hlt, if_true, List.any_cons]
        cases hv : p (k, v) with
        | false => rfl
        | true => simp [hold hv]
      · simp [aset, hlt, hj, ih hsome hnone]

/-! ### A thread that waits for work (R35, R47, R130) -/

/-- The thread behind waitw: no task, no held window, and the wait for a placement. -/
def withoutWork (th : Thread) : Thread :=
  { th with
    task := { th.task with valid := false }, held := .none, wait := some .work
    win := if th.win.held then { th.win with held := false, bslot := 0 } else th.win }

/-- The state behind the return of the executing thread's held window, if it holds one (R130). -/
def withoutLoan (s : State) (th : Thread) (u : State) : State :=
  if th.win.held then u.modThread (lenderOf s th) (lenderAgain s) else u

/-- The state in which the executing thread waits for work. -/
def awaiting (s : State) (th : Thread) (u : State) : State := (withoutLoan s th u).setThread s.cur (withoutWork th)

/-- Another thread of the executing thread's core holds a task. -/
def OthersWork (s : State) : Prop := ∃ p ∈ (s.coreAt s.cur.core).threads, p.1 ≠ s.cur.slot ∧ p.2.task.valid = true

theorem setThread_setThread (s : State) (t : ThreadId) (a b : Thread) : (s.setThread t a).setThread t b = s.setThread t b := by
  simp [State.setThread, State.modCore, State.setCore, State.coreAt]

theorem setThread_comm (s : State) {t u : ThreadId} (a b : Thread) (h : t ≠ u) :
    (s.setThread t a).setThread u b = (s.setThread u b).setThread t a := by
  obtain ⟨c, p⟩ := t; obtain ⟨d, q⟩ := u
  by_cases hc : c = d
  · subst hc
    have hp : q ≠ p := fun e => h (by rw [e])
    simp [State.setThread, State.modCore, State.setCore, State.coreAt, aset_comm _ _ _ hp]
  · simp [State.setThread, State.modCore, State.setCore, State.coreAt, agetD_aset_ne _ _ _ hc, agetD_aset_ne _ _ _ (Ne.symm hc),
      aset_comm _ _ _ hc]

/-- A value of a thread that is set before another value of it does not matter, nor for a change of a thread in between. -/
theorem setThread_modThread_setThread (s : State) (t u : ThreadId) (a b : Thread) (f : Thread → Thread)
    (h : (s.threadAt t).isSome) :
    ((s.setThread t a).modThread u f).setThread t b = (s.modThread u f).setThread t b := by
  by_cases hu : u = t
  · subst hu
    obtain ⟨w, hw⟩ := Option.isSome_iff_exists.1 h
    simp [State.modThread, hw, setThread_setThread]
  · rw [State.modThread, State.threadAt_setThread_ne _ _ hu, State.modThread]
    split
    · exact setThread_setThread ..
    · rw [setThread_comm _ _ _ (Ne.symm hu), setThread_setThread]

theorem returnWindow_of_held {u : State} {t : ThreadId} {th : Thread} (h : th.win.held = true) :
    u.returnWindow t th = (u.modThread ⟨t.core, th.win.bslot⟩ (fun l => { l with win := { l.win with lent := false }, idleFrom := u.cyclesAt (stationOfCore t.core) + 1 })).setThread t
      { th with win := { th.win with held := false, bslot := 0 } } := if_pos h

/-- awaitWork of the executing thread, in a state that differs from s elsewhere than in the cycles. -/
theorem awaitWork_eq {s u : State} {th : Thread} (hc : u.cycles = s.cycles) (h : u.threadAt s.cur = some th) :
    u.awaitWork s.cur = awaiting s th u := by
  rw [State.awaitWork, h, awaiting, withoutLoan]
  cases hh : th.win.held with
  | false =>
    simp [returnWindow_none hh, State.modThread, h, withoutWork, hh]
  | true =>
    have hcyc : u.cyclesAt (stationOfCore s.cur.core) = agetD s.cycles (s.cur.core / 192) 0 / 1900 := by
      rw [cyclesAt_stationOfCore, hc]
    simp only [returnWindow_of_held hh, hcyc]
    simp [State.modThread, setThread_setThread, withoutWork, hh, lenderOf, lenderAgain]

theorem othersHold_setThread_self (u : State) (t : ThreadId) (a : Thread) :
    ((u.setThread t a).coreAt t.core).othersHold t.slot = (u.coreAt t.core).othersHold t.slot := by
  simp only [Core.othersHold, State.setThread, State.coreAt_modCore_self]
  exact any_aset (fun w _ => by simp) (fun _ => by simp)

theorem othersHold_modThread (u : State) (t v : ThreadId) {f : Thread → Thread} (h : ∀ w, (f w).task = w.task) :
    ((u.modThread v f).coreAt t.core).othersHold t.slot = (u.coreAt t.core).othersHold t.slot := by
  rw [State.modThread]
  split
  case h_1 => rfl
  case h_2 w hw =>
    by_cases hc : t.core = v.core
    · rw [hc]
      simp only [Core.othersHold, State.setThread, State.coreAt_modCore_self]
      refine any_aset (fun x hx => ?_) fun hn => ?_
      · obtain rfl : x = w := Option.some.inj (hx.symm.trans hw)
        simp [h]
      · exact absurd (hn.symm.trans hw) (by simp)
    · simp [State.setThread, State.coreAt_modCore_ne _ _ hc]

theorem othersHold_awaiting (s u : State) (th : Thread) :
    ((awaiting s th u).coreAt s.cur.core).othersHold s.cur.slot = (u.coreAt s.cur.core).othersHold s.cur.slot := by
  rw [awaiting, othersHold_setThread_self, withoutLoan]
  split
  · exact othersHold_modThread u s.cur _ (fun _ => rfl)
  · rfl

theorem othersHold_iff (s : State) : (s.coreAt s.cur.core).othersHold s.cur.slot = true ↔ OthersWork s := by
  simp [Core.othersHold, OthersWork]

/-- The state in which the executing thread's task has ended: its core's scratchpad is left open or closed unless another thread
of the core holds a task (R48). -/
def taskEnded (s : State) (th : Thread) (u : State) (keep : Bool) : State :=
  if (s.coreAt s.cur.core).othersHold s.cur.slot then awaiting s th u
  else (awaiting s th u).modCore s.cur.core (fun k => { k with peersOpen := keep })

theorem stopHolding_awaiting {s u : State} (th : Thread) (keep : Bool)
    (h : (u.coreAt s.cur.core).othersHold s.cur.slot = (s.coreAt s.cur.core).othersHold s.cur.slot) :
    (awaiting s th u).stopHolding s.cur keep = taskEnded s th u keep := by
  rw [State.stopHolding, othersHold_awaiting, h, taskEnded]

theorem threadAt_taskEnded (s u : State) (th : Thread) (keep : Bool) :
    (taskEnded s th u keep).threadAt s.cur = some (withoutWork th) := by
  have h : (awaiting s th u).threadAt s.cur = some (withoutWork th) := State.threadAt_setThread_self ..
  rw [taskEnded]
  split
  · exact h
  · exact (State.threadAt_modCore _ _ (fun k => { k with peersOpen := keep }) (fun _ => rfl) _).trans h

/-! ### The equations of waitw, done, trig and post -/

section
variable {s : State} {th : Thread} (h : s.threadAt s.cur = some th)
include h

theorem waitw_idle (hv : th.task.valid = false) : exec .waitw s = .next (awaiting s th s) := by
  rw [Laws.exec_waitw, execWaitw, onThread_eq h, if_neg (by simp [hv]), awaitWork_eq rfl h]

theorem waitw_working (hv : th.task.valid = true) : exec .waitw s = .next (taskEnded s th (s.abandon th) false) := by
  have hab : s.abandon th = { s with ctxs := (s.abandon th).ctxs } := by
    unfold State.abandon State.modNode State.modCtx
    split
    · rfl
    · split <;> rfl
  have hat : (s.abandon th).threadAt s.cur = some th := by rw [hab]; exact h
  rw [Laws.exec_waitw, execWaitw, onThread_eq h, if_pos hv, awaitWork_eq (by rw [hab]) hat,
    stopHolding_awaiting th false (by rw [hab]; rfl)]

theorem done_idle (hf : ReleaseFree s th 5) (hv : th.task.valid = false) : exec .done s = .next (awaiting s th s) := by
  rw [Laws.exec_done, execDone, onThread_eq h, releaseStop_none hf, orElse_none, if_neg (by simp [hv]), awaitWork_eq rfl h]

theorem done_working (hf : ReleaseFree s th 5) (hv : th.task.valid = true) :
    exec .done s = .next ((s.contribute s.cur th).retireTask s.cur th) := by
  rw [Laws.exec_done, execDone, onThread_eq h, releaseStop_none hf, orElse_none, if_pos hv]

theorem trig_eq (hf : ReleaseFree s th 5) : exec .trig s = .next ((s.contribute s.cur th).finish s.cur 4) := by
  rw [Laws.exec_trig, execTrig, onThread_eq h, releaseStop_none hf, orElse_none]

end

/-! ### Graphs of a context -/

theorem modGraph_eq {s : State} {c g : Nat} {x : Context} (f : Graph → Graph) (hx : s.ctxAt c = some x) :
    s.modGraph c g f = s.setCtx c { x with graphs := x.graphs.map (fun k => if k.id == g then f k else k) } := by
  rw [State.modGraph, State.modCtx, hx]

theorem modGraph_modGraph {s : State} {c g : Nat} {f f' : Graph → Graph} (hf : ∀ k, (f k).id = k.id) :
    (s.modGraph c g f).modGraph c g f' = s.modGraph c g (f' ∘ f) := by
  cases hx : s.ctxAt c with
  | none => simp [State.modGraph, State.modCtx, hx]
  | some x =>
    have hmap : ((fun k => if k.id = g then f' k else k) ∘ fun k => if k.id = g then f k else k) =
        fun k => if k.id = g then (f' ∘ f) k else k := by
      funext k
      by_cases hk : k.id = g <;> simp [hk, hf]
    rw [modGraph_eq f hx, modGraph_eq f' (State.ctxAt_setCtx_self ..), modGraph_eq _ hx]
    simp [State.setCtx, hmap]

theorem setThread_modGraph (s : State) (t : ThreadId) (a : Thread) (c g : Nat) (f : Graph → Graph) :
    (s.setThread t a).modGraph c g f = (s.modGraph c g f).setThread t a := by
  unfold State.modGraph State.modCtx
  cases hx : s.ctxAt c with
  | none => rw [show (s.setThread t a).ctxAt c = none from hx]
  | some x => rw [show (s.setThread t a).ctxAt c = some x from hx]; rfl

theorem modGraph_frame (s : State) (c g : Nat) (f : Graph → Graph) :
    s.modGraph c g f = { s with ctxs := (s.modGraph c g f).ctxs } := by
  unfold State.modGraph State.modCtx
  split <;> rfl

theorem graph_eq_of_find? {l : List Graph} {g : Nat} {h k : Graph} (hn : (l.map Graph.id).Nodup)
    (hf : l.find? (fun h => h.id == g) = some h) (hk : k ∈ l) (hid : k.id = g) : k = h := by
  have hh : h.id = g := by simpa using List.find?_some hf
  exact List.inj_on_of_nodup_map hn hk (List.mem_of_find?_eq_some hf) (hid.trans hh.symm)

theorem map_graph_eq {l : List Graph} {g : Nat} {h : Graph} (f : Graph → Graph) (hn : (l.map Graph.id).Nodup)
    (hf : l.find? (fun h => h.id == g) = some h) :
    l.map (fun k => if k.id == g then f k else k) = l.map (fun k => if k.id = g then f h else k) := by
  refine List.map_congr_left fun k hk => ?_
  by_cases hid : k.id = g
  · simp [graph_eq_of_find? hn hf hk hid]
  · simp [hid]

theorem find?_map_graph {l : List Graph} {g : Nat} {h h' : Graph} (hf : l.find? (fun h => h.id == g) = some h)
    (hid : h'.id = g) : (l.map (fun k => if k.id = g then h' else k)).find? (fun k => k.id == g) = some h' := by
  induction l with
  | nil => simp at hf
  | cons k r ih =>
    by_cases hk : k.id = g
    · simp [hk, hid]
    · simp only [List.find?_cons, beq_eq_false_iff_ne.2 hk] at hf
      simp [hk, ← ih hf]

theorem filter_map_graph (l : List Graph) {g : Nat} {h' : Graph} (hid : h'.id = g) :
    (l.map (fun k => if k.id = g then h' else k)).filter (fun k => k.id != g) = l.filter (fun k => k.id != g) := by
  induction l with
  | nil => rfl
  | cons k r ih => by_cases hk : k.id = g <;> simp [hk, hid, ih]

@[simp] theorem dropEdge_id (g : Graph) (tick node : Nat) : (g.dropEdge tick node).id = g.id := by
  unfold Graph.dropEdge; split <;> rfl

theorem foldl_dropEdge_id (l : List Nat) (tick : Nat) (g : Graph) : (l.foldl (fun g e => g.dropEdge tick e) g).id = g.id :=
  foldl_keeps Graph.id (fun g e => dropEdge_id g tick e) l g

@[simp] theorem contribute_id (g : Graph) (tick node inst : Nat) : (g.contribute tick node inst).id = g.id := by
  unfold Graph.contribute
  split
  · rfl
  · dsimp only
    split
    · exact foldl_dropEdge_id ..
    · rfl

/-! ### The end of a graph's task (R40, R48) -/

/-- What a DONE makes of its task's graph: the contribution, unless it has been made, and the retirement. -/
def doneGraph (contributed : Bool) (tick node inst : Nat) (h : Graph) : Graph :=
  (if contributed then h else h.contribute tick node inst).retire node inst

theorem retire_id (h : Graph) (node inst : Nat) : (h.retire node inst).id = h.id := by
  unfold Graph.retire; split <;> rfl

theorem doneGraph_id (c : Bool) (tick node inst : Nat) (h : Graph) : (doneGraph c tick node inst h).id = h.id := by
  rw [doneGraph, retire_id]
  split <;> simp

theorem retire_eq {h : Graph} {node : Nat} {n : NodeState} (hn : h.nodes[node]? = some n) (inst : Nat) :
    h.retire node inst = { h with nodes := setAt h.nodes node { n with
      dones := n.dones + 1
      placed := n.placed.map (fun p => if p.inst = inst ∧ p.abandoned = false then { p with finished := true } else p) } } := by
  simp [Graph.retire, hn]

theorem complete_iff (h : Graph) : h.complete = true ↔ ∀ m ∈ h.nodes, m.triggered = true ∧ m.dones = m.image.count := by
  simp [Graph.complete]

theorem contribute_none {s : State} {th : Thread} (h : th.held.graph = none ∨ th.held.contributed = true ∨
    th.task.valid = false ∨ th.task.dyn = true) (t : ThreadId) : s.contribute t th = s := by
  rw [State.contribute]
  cases hg : th.held.graph with
  | none => rfl
  | some g =>
    have hno : (th.task.valid && !th.task.dyn && !th.held.contributed) = false := by
      rcases h with h | h | h | h <;> simp [h] at hg ⊢
    simp only [hno, Bool.false_eq_true, if_false]

theorem contribute_graph {s : State} {th : Thread} {g : Nat} (hg : th.held.graph = some g) (hv : th.task.valid = true)
    (hd : th.task.dyn = false) (hc : th.held.contributed = false) (t : ThreadId) :
    s.contribute t th = (s.setThread t { th with held := { th.held with contributed := true } }).modGraph th.ctxId.toNat g
      (fun h => h.contribute s.time.toNat th.task.node.toNat th.task.inst.toNat) := by
  simp [State.contribute, hg, hv, hd, hc]

theorem finishLaunch_plain (s : State) (q ctx code node graph : Nat) :
    s.finishLaunch q ctx 0 code node graph false =
      s.setQueue q { s.queueAt q with openGraphs := (s.queueAt q).openGraphs.filter (· != graph) } := by
  simp [State.finishLaunch, State.launchStatus, State.writeStatus, State.packetIrq]

theorem settleGraph_open {s : State} {ctx g : Nat} {x : Context} {h : Graph} (hx : s.ctxAt ctx = some x)
    (hf : x.graphs.find? (fun k => k.id == g) = some h) (hc : h.complete = false) : s.settleGraph ctx g = s := by
  simp [State.settleGraph, hx, hf, hc]

theorem settleGraph_complete {s : State} {ctx g : Nat} {x : Context} {h : Graph} (hx : s.ctxAt ctx = some x)
    (hf : x.graphs.find? (fun k => k.id == g) = some h) (hc : h.complete = true) :
    s.settleGraph ctx g = (s.setCtx ctx { x with graphs := x.graphs.filter (fun k => k.id != g) }).finishLaunch
      h.queue ctx h.status 0 0 g h.irq := by
  simp [State.settleGraph, State.modCtx, hx, hf, hc]

theorem awaiting_setThread {s u : State} (th a : Thread) (h : (u.threadAt s.cur).isSome) :
    awaiting s th (u.setThread s.cur a) = awaiting s th u := by
  rw [awaiting, awaiting, withoutLoan, withoutLoan]
  split
  · exact setThread_modThread_setThread _ _ _ _ _ _ h
  · exact setThread_setThread ..

theorem threadAt_modGraph (s : State) (c g : Nat) (f : Graph → Graph) (t : ThreadId) :
    (s.modGraph c g f).threadAt t = s.threadAt t := State.threadAt_modCtx ..

/-- Behind its contribution and its retirement, the graph's thread waits for work. -/
theorem awaitWork_doneGraph {s : State} {th : Thread} {g : Nat} (h : s.threadAt s.cur = some th) (hg : th.held.graph = some g)
    (hv : th.task.valid = true) (hd : th.task.dyn = false) :
    ((s.contribute s.cur th).modGraph th.ctxId.toNat g
      (fun k => k.retire th.task.node.toNat th.task.inst.toNat)).awaitWork s.cur =
      awaiting s th (s.modGraph th.ctxId.toNat g
        (doneGraph th.held.contributed s.time.toNat th.task.node.toNat th.task.inst.toNat)) := by
  cases hc : th.held.contributed with
  | true =>
    rw [contribute_none (by simp [hc])]
    exact awaitWork_eq (by rw [modGraph_frame]) ((threadAt_modGraph ..).trans h)
  | false =>
    rw [contribute_graph hg hv hd hc, setThread_modGraph, setThread_modGraph, modGraph_modGraph (fun k => contribute_id ..)]
    exact (awaitWork_eq (s := s) (by rw [modGraph_frame]; rfl) (State.threadAt_setThread_self ..)).trans
      (awaiting_setThread th _ (by rw [threadAt_modGraph, h]; rfl))

theorem retireTask_graph {s : State} {th : Thread} {g : Nat} (h : s.threadAt s.cur = some th) (hg : th.held.graph = some g)
    (hv : th.task.valid = true) (hd : th.task.dyn = false) (htr : th.dbg.tr = false) :
    (s.contribute s.cur th).retireTask s.cur th =
      (taskEnded s th (s.modGraph th.ctxId.toNat g
        (doneGraph th.held.contributed s.time.toNat th.task.node.toNat th.task.inst.toNat)) th.held.keep).settleGraph
        th.ctxId.toNat g := by
  rw [State.retireTask]
  simp only [hg, hd, Bool.false_eq_true, if_false, awaitWork_doneGraph h hg hv hd, Bool.not_false, Bool.and_true]
  rw [stopHolding_awaiting th _ (by rw [modGraph_frame]; rfl), traceEvent_off (threadAt_taskEnded ..) htr]

theorem retireTask_dyn {s : State} {th : Thread} (h : s.threadAt s.cur = some th) (hg : th.held.graph = none)
    (hd : th.task.dyn = true) (htr : th.dbg.tr = false) :
    (s.contribute s.cur th).retireTask s.cur th = taskEnded s th s false := by
  rw [contribute_none (Or.inl hg), State.retireTask]
  simp only [hg, hd, awaitWork_eq rfl h, Bool.not_true, Bool.and_false]
  rw [stopHolding_awaiting th _ rfl, traceEvent_off (threadAt_taskEnded ..) htr]

theorem ctxs_taskEnded (s u : State) (th : Thread) (keep : Bool) : (taskEnded s th u keep).ctxs = u.ctxs := by
  rw [taskEnded, awaiting, withoutLoan]
  split <;> split <;> simp

theorem host_taskEnded (s u : State) (th : Thread) (keep : Bool) : (taskEnded s th u keep).host = u.host := by
  rw [taskEnded, awaiting, withoutLoan]
  split <;> split <;> simp

/-! ### post (R163) -/

theorem postBad_iff (w : Word) : postBad w = true ↔
    2 ^ 63 ≤ w.toNat ∨ w.toNat / 2 ^ 56 % 2 ^ 5 = 0 ∨ 16 < w.toNat / 2 ^ 56 % 2 ^ 5 ∨ w.toNat % 4 ≠ 0 := by
  have htop : w.getLsbD 63 = decide (2 ^ 63 ≤ w.toNat) := by
    rw [← BitVec.msb_eq_getLsbD_last (x := w), BitVec.msb_eq_decide]
  simp only [postBad, htop, Bool.or_eq_true, decide_eq_true_eq, or_assoc]
  simp [wfld, fld]

theorem post_eq {s : State} {th : Thread} {a b : Reg} (h : Executes s th [a, b] [a, b]) :
    exec (.post a b) s = .next (if postBad (s.g a) then s.trapNow (precise 16 (s.g a) 0x25 0) else
      State.orElse (s.releaseStop s.cur th 3)
        (if 64 ≤ (s.stationAt (s.cur.core / 8)).dyn.length then s.waitFor s.cur .postRoom
        else (State.modStation { s with nextId := s.nextId + 1 } (s.cur.core / 8) (fun k =>
          { k with dyn := k.dyn ++ [postInst (s.place s.cur) (s.g a) (s.g b) s.time.toNat s.nextId] })).finish s.cur 4)) := by
  rw [Laws.exec_post, execPost, h.onThread, h.gate]
  rfl

theorem abandon_graph {s : State} {th : Thread} {g : Nat} (hg : th.held.graph = some g) :
    s.abandon th = s.modNode th.ctxId.toNat g th.task.node.toNat (fun n => { n with
      placed := n.placed.map (fun p =>
        if p.inst = th.task.inst.toNat ∧ p.finished = false then { p with abandoned := true } else p) }) := by
  have hf : ∀ p : Placed, (if p.inst == th.task.inst.toNat then if p.finished then p else { p with abandoned := true } else p) =
      if p.inst = th.task.inst.toNat ∧ p.finished = false then { p with abandoned := true } else p := fun p => by
    by_cases hi : p.inst = th.task.inst.toNat <;> cases hp : p.finished <;> simp [hi]
  rw [State.abandon, hg]
  simp only [NodeState.modPlaced, hf]

/-- Settles O30: the equations of waitw, done, trig and post, and what a DONE makes of its graph. -/
theorem tasksEndAndContribute : Obligations.TasksEndAndContribute := by
  intro s th he ctx node inst idle lent waits ends
  have hth := he.created
  have hends : ∀ u keep, taskEnded s th u keep = ends u keep := fun u keep =>
    if_congr (othersHold_iff s) rfl rfl
  refine ⟨waitw_idle hth, fun hv hg => ?dropped, fun g hv hg => ?abandoned, fun hf => ⟨done_idle hth hf, fun hv htr => ?done⟩,
    fun hf => ⟨fun hno => ?quiet, fun g hg hv hd hc => ?trig⟩, fun a b hp => ?post⟩
  case dropped => rw [waitw_working hth hv, hends, show s.abandon th = s by rw [State.abandon, hg]]
  case abandoned =>
    rw [waitw_working hth hv, hends, abandon_graph hg]
  case done =>
    refine ⟨fun hg hd => by rw [done_working hth hf hv, retireTask_dyn hth hg hd htr, hends], ?_⟩
    intro g x h n hg hd hx hfind h1 hn h2 hnd complete u
    have hdone : doneGraph th.held.contributed s.time.toNat node inst h = h2 := retire_eq hn inst
    have hid : h2.id = g := by
      rw [← hdone, doneGraph_id]
      simpa using List.find?_some hfind
    have hexec : exec .done s = .next (u.settleGraph ctx g) := by
      rw [done_working hth hf hv, retireTask_graph hth hg hv hd htr, modGraph_eq _ hx, map_graph_eq _ hnd hfind, hdone, hends]
    have hu : u.ctxs = (s.setCtx ctx { x with graphs := x.graphs.map (fun k => if k.id = g then h2 else k) }).ctxs := by
      rw [show u = taskEnded s th _ _ from (hends _ _).symm, ctxs_taskEnded]
    have hux : u.ctxAt ctx = some { x with graphs := x.graphs.map (fun k => if k.id = g then h2 else k) } := by
      rw [State.ctxAt, hu]
      exact State.ctxAt_setCtx_self ..
    have huf := find?_map_graph hfind hid
    refine ⟨fun hno => ?_, fun hall hst hirq => ?_⟩
    · rw [hexec, settleGraph_open hux huf (Bool.eq_false_iff.2 (mt (complete_iff h2).1 hno))]
    · have hq : u.host = s.host := by
        rw [show u = taskEnded s th _ _ from (hends _ _).symm, host_taskEnded]
        rfl
      rw [hexec, settleGraph_complete hux huf ((complete_iff h2).2 hall), hst, hirq, finishLaunch_plain]
      simp only [filter_map_graph _ hid]
      rw [show (u.setCtx ctx _).queueAt h2.queue = s.queueAt h2.queue by rw [State.queueAt, State.setCtx, hq]; rfl]
  case quiet =>
    rw [Completes, trig_eq hth hf, contribute_none hno]
    exact ⟨_, rfl, finish_ran hth he.single he.stepped 4 0⟩
  case trig =>
    intro th'
    refine CompletesIn.of_finish he (by rw [trig_eq hth hf, contribute_graph hg hv hd hc]) ?_ ?_ rfl rfl rfl
    · rw [modGraph_frame]; rfl
    · exact (threadAt_modGraph ..).trans (State.threadAt_setThread_self ..)
  case post =>
    intro w bad st
    have hbad : postBad (s.g a) = true ↔ bad := postBad_iff _
    refine ⟨fun h => by rw [Traps, post_eq hp, if_pos (hbad.2 h)]; rfl, fun h hfree => ⟨fun hfull => ?_, fun hroom => ?_⟩⟩
    · rw [post_eq hp, if_neg (mt hbad.1 h), releaseStop_none hfree, orElse_none, if_pos hfull]
    · refine ⟨postInst (s.place s.cur) (s.g a) (s.g b) s.time.toNat s.nextId, rfl, rfl, ?_, rfl, rfl, rfl, rfl, ?_⟩
      · simp [postInst, wfld, fld, w]
      · exact CompletesIn.of_finish hp (by
          rw [post_eq hp, if_neg (mt hbad.1 h), releaseStop_none hfree, orElse_none, if_neg (Nat.not_le.2 hroom)]) rfl hth rfl rfl rfl

end Sys2Proof
end
section
/-! Graphs and the placement of tasks (O31). -/

namespace Sys2Proof

open Sys2Proof.Machine

/-! ### Contributions to a graph (R39, R40) -/

theorem setAt_eq_set {α : Type} (l : List α) (i : Nat) (v : α) : setAt l i v = l.set i v := by
  induction l generalizing i with
  | nil => simp [setAt]
  | cons x r ih => cases i <;> simp [setAt, ih]

theorem getElem?_setAt_self {α : Type} {l : List α} {i : Nat} {x : α} (h : l[i]? = some x) (v : α) :
    (setAt l i v)[i]? = some v := by
  obtain ⟨hi, -⟩ := List.getElem?_eq_some_iff.1 h
  simp [setAt_eq_set, hi]

theorem getElem?_setAt_ne {α : Type} (l : List α) {i j : Nat} (v : α) (h : j ≠ i) : (setAt l i v)[j]? = l[j]? := by
  rw [setAt_eq_set, List.getElem?_set_ne (Ne.symm h)]

/-- A node of a graph behind one edge less, released where that was the last one (R39). -/
def lessEdge (tick launch id node : Nat) (m : NodeState) : NodeState :=
  ({ m with depsLeft := m.depsLeft - 1 } : NodeState).release tick launch id node

theorem release_depsLeft (n : NodeState) (tick launch id node : Nat) : (n.release tick launch id node).depsLeft = n.depsLeft := by
  unfold NodeState.release; split <;> rfl

theorem release_released (n : NodeState) (tick launch id node : Nat) :
    (n.release tick launch id node).released = (n.released || decide (n.depsLeft = 0)) := by
  unfold NodeState.release
  split
  · simp_all
  · cases hr : n.released <;> simp_all

theorem nodes_dropEdge (g : Graph) (tick node e : Nat) : (g.dropEdge tick node).nodes[e]? =
    if e = node then (g.nodes[e]?).map (lessEdge tick g.launch g.id e) else g.nodes[e]? := by
  rw [Graph.dropEdge]
  by_cases he : e = node
  · subst he
    rw [if_pos rfl]
    cases hn : g.nodes[e]? with
    | none => exact hn
    | some n => exact getElem?_setAt_self hn _
  · rw [if_neg he]
    cases hn : g.nodes[node]? with
    | none => rfl
    | some n => exact getElem?_setAt_ne _ _ he

theorem dropEdge_launch (g : Graph) (tick node : Nat) : (g.dropEdge tick node).launch = g.launch := by
  unfold Graph.dropEdge; split <;> rfl

theorem nodes_foldl_dropEdge {l : List Nat} (hl : l.Nodup) (tick : Nat) (g : Graph) (e : Nat) :
    (l.foldl (fun g e => g.dropEdge tick e) g).nodes[e]? =
      if e ∈ l then (g.nodes[e]?).map (lessEdge tick g.launch g.id e) else g.nodes[e]? := by
  induction l generalizing g with
  | nil => simp
  | cons a r ih =>
    obtain ⟨ha, hr⟩ := List.nodup_cons.1 hl
    rw [List.foldl_cons, ih hr, nodes_dropEdge, dropEdge_launch, dropEdge_id]
    by_cases he : e = a
    · subst he; simp [ha]
    · simp [he]

/-- A node behind one contribution of one of its instances. -/
def contributed (n : NodeState) (inst : Nat) : NodeState :=
  { n with
    contributions := n.contributions + 1
    placed := n.placed.map (fun p => if p.inst == inst then { p with contributed := true } else p) }

section
variable {g : Graph} {node : Nat} {n : NodeState} (hn : g.nodes[node]? = some n) (tick inst : Nat)
include hn

theorem contribute_more (h : n.contributions + 1 ≠ n.image.count) :
    g.contribute tick node inst = { g with nodes := setAt g.nodes node (contributed n inst) } := by
  rw [Graph.contribute, hn]
  exact if_neg h

theorem contribute_last (h : n.contributions + 1 = n.image.count) :
    g.contribute tick node inst = n.image.succ.foldl (fun g e => g.dropEdge tick e)
      { g with nodes := setAt g.nodes node { contributed n inst with triggered := true } } := by
  rw [Graph.contribute, hn]
  exact if_pos h

theorem nodes_contribute_last (h : n.contributions + 1 = n.image.count) (hs : n.image.succ.Nodup) (hself : node ∉ n.image.succ)
    (e : Nat) : (g.contribute tick node inst).nodes[e]? =
      if e = node then some { contributed n inst with triggered := true }
      else if e ∈ n.image.succ then (g.nodes[e]?).map (lessEdge tick g.launch g.id e) else g.nodes[e]? := by
  rw [contribute_last hn tick inst h, nodes_foldl_dropEdge hs]
  by_cases he : e = node
  · subst he
    simp [hself, getElem?_setAt_self hn]
  · simp [he, getElem?_setAt_ne _ _ he]

end

theorem graphsProgress (g : Graph) (tick node inst : Nat) (n : NodeState) (hn : g.nodes[node]? = some n) :
    (n.contributions + 1 ≠ n.image.count →
      ∃ n', (g.contribute tick node inst).nodes[node]? = some n' ∧ n'.contributions = n.contributions + 1 ∧
        n'.triggered = n.triggered ∧ ∀ e, e ≠ node → (g.contribute tick node inst).nodes[e]? = g.nodes[e]?) ∧
    (n.contributions + 1 = n.image.count → n.image.succ.Nodup → node ∉ n.image.succ →
      let nodes := (g.contribute tick node inst).nodes
      (∃ n', nodes[node]? = some n' ∧ n'.triggered = true ∧ n'.contributions = n.image.count) ∧
      (∀ e m, e ∈ n.image.succ → g.nodes[e]? = some m → ∃ m', nodes[e]? = some m' ∧ m'.depsLeft = m.depsLeft - 1 ∧
        (m.depsLeft ≤ 1 → m'.released = true) ∧ (1 < m.depsLeft → m'.released = m.released)) ∧
      (∀ e, e ∉ n.image.succ → e ≠ node → nodes[e]? = g.nodes[e]?)) ∧
    ((g.complete = true) ↔ ∀ m ∈ g.nodes, m.triggered = true ∧ m.dones = m.image.count) := by
  refine ⟨fun hmore => ?_, fun hlast hs hself => ?_, complete_iff g⟩
  · rw [contribute_more hn tick inst hmore]
    exact ⟨_, getElem?_setAt_self hn _, rfl, rfl, fun e he => getElem?_setAt_ne _ _ he⟩
  · have hnodes := nodes_contribute_last hn tick inst hlast hs hself
    refine ⟨⟨_, (hnodes node).trans (if_pos rfl), rfl, hlast⟩, fun e m he hm => ?_, fun e he hne => ?_⟩
    · have hne : e ≠ node := fun h => hself (h ▸ he)
      refine ⟨lessEdge tick g.launch g.id e m, by rw [hnodes, if_neg hne, if_pos he, hm]; rfl, release_depsLeft .., ?_, ?_⟩
      · intro hd; simp [lessEdge, release_released, Nat.sub_eq_zero_of_le hd]
      · intro hd; simp [lessEdge, release_released, Nat.sub_ne_zero_of_lt hd]
    · rw [hnodes, if_neg hne, if_neg he]

end Sys2Proof
end
section
/-! What a dispenser chooses (O31). -/

namespace Sys2Proof

open Sys2Proof.Machine

/-! ### Least members -/

theorem leastBy_some {α : Type} {f : α → Nat} {l : List α} {x : α} (h : leastBy f l = some x) :
    x ∈ l ∧ ∀ y ∈ l, f x ≤ f y := by
  induction l generalizing x with
  | nil => simp [leastBy] at h
  | cons a r ih =>
    rw [leastBy] at h
    cases hr : leastBy f r with
    | none =>
      obtain rfl : a = x := by simpa [hr] using h
      have hnil : r = [] := by
        cases r with
        | nil => rfl
        | cons b r =>
          rw [leastBy] at hr
          split at hr
          · simp at hr
          · split at hr <;> simp at hr
      simp [hnil]
    | some y =>
      obtain ⟨hy, hle⟩ := ih hr
      rw [hr] at h
      dsimp only at h
      split at h <;> obtain rfl := Option.some.inj h
      · exact ⟨List.mem_cons_of_mem a hy, fun z hz => by
          rcases List.mem_cons.1 hz with rfl | hz
          · omega
          · exact hle z hz⟩
      · exact ⟨List.mem_cons_self, fun z hz => by
          rcases List.mem_cons.1 hz with rfl | hz
          · exact Nat.le_refl _
          · have := hle z hz; omega⟩

theorem leastBy_eq_none {α : Type} {f : α → Nat} {l : List α} : leastBy f l = none ↔ l = [] := by
  cases l with
  | nil => simp [leastBy]
  | cons a r => rw [leastBy]; split <;> simp; split <;> simp

theorem le_foldl_max {l : List Candidate} (m : Nat) : m ≤ l.foldl (fun m c => max m c.prio) m ∧
    ∀ c ∈ l, c.prio ≤ l.foldl (fun m c => max m c.prio) m := by
  induction l generalizing m with
  | nil => simp
  | cons a r ih =>
    obtain ⟨h1, h2⟩ := ih (max m a.prio)
    refine ⟨by rw [List.foldl_cons]; omega, fun c hc => ?_⟩
    rw [List.foldl_cons]
    rcases List.mem_cons.1 hc with rfl | hc
    · omega
    · exact h2 c hc

theorem foldl_max_mem (l : List Candidate) (m : Nat) : l.foldl (fun m c => max m c.prio) m = m ∨
    ∃ c ∈ l, c.prio = l.foldl (fun m c => max m c.prio) m := by
  induction l generalizing m with
  | nil => exact Or.inl rfl
  | cons a r ih =>
    rw [List.foldl_cons]
    rcases ih (max m a.prio) with h | ⟨c, hc, hp⟩
    · rw [h]
      rcases Nat.le_total a.prio m with hle | hle
      · exact Or.inl (Nat.max_eq_left hle)
      · exact Or.inr ⟨a, List.mem_cons_self, (Nat.max_eq_right hle).symm⟩
    · exact Or.inr ⟨c, List.mem_cons_of_mem a hc, hp⟩

/-! ### The turns of R43 -/

/-- Of two candidates of one priority, the one whose turn comes first behind the one served last. -/
def FirstTurn (served : Option Nat) (c d : Candidate) : Prop :=
  match served with
  | none => c.key ≤ d.key
  | some k => (k < c.key ∧ (d.key ≤ k ∨ c.key ≤ d.key)) ∨ (c.key ≤ k ∧ d.key ≤ k ∧ c.key ≤ d.key)

/-- The candidates of the highest priority. -/
def topCandidates (l : List Candidate) : List Candidate :=
  l.filter (fun c => c.prio == l.foldl (fun m c => max m c.prio) 0)

theorem mem_topCandidates {l : List Candidate} {c : Candidate} :
    c ∈ topCandidates l ↔ c ∈ l ∧ ∀ d ∈ l, d.prio ≤ c.prio := by
  rw [topCandidates, List.mem_filter, beq_iff_eq]
  refine and_congr_right fun hc => ⟨fun h d hd => h ▸ (le_foldl_max 0).2 d hd, fun h => ?_⟩
  refine Nat.le_antisymm ((le_foldl_max 0).2 c hc) ?_
  rcases foldl_max_mem l 0 with h0 | ⟨d, hd, hp⟩
  · rw [h0]; exact Nat.zero_le _
  · exact hp ▸ h d hd

theorem topCandidates_eq_nil {l : List Candidate} : topCandidates l = [] ↔ l = [] := by
  refine ⟨fun h => ?_, fun h => by rw [h]; rfl⟩
  by_contra hl
  obtain ⟨a, ha⟩ := List.exists_mem_of_ne_nil l hl
  have hne : ∀ c ∈ l, c.prio ≠ l.foldl (fun m c => max m c.prio) 0 := fun c hc he => by
    have hmem : c ∈ topCandidates l := List.mem_filter.2 ⟨hc, beq_iff_eq.2 he⟩
    rw [h] at hmem
    exact List.not_mem_nil hmem
  rcases foldl_max_mem l 0 with h0 | ⟨d, hd, hp⟩
  · exact hne a ha (Nat.le_antisymm ((le_foldl_max 0).2 a ha) (h0.trans_le (Nat.zero_le _)))
  · exact hne d hd hp

theorem chooseCandidate_first (l : List Candidate) :
    chooseCandidate none l = leastBy Candidate.key (topCandidates l) := rfl

theorem chooseCandidate_next (k : Nat) (l : List Candidate) : chooseCandidate (some k) l =
    (leastBy Candidate.key ((topCandidates l).filter (fun c => decide (k < c.key)))).or
      (leastBy Candidate.key (topCandidates l)) := by
  change (match leastBy Candidate.key ((topCandidates l).filter (fun c => decide (k < c.key))) with
    | some c => some c
    | none => leastBy Candidate.key (topCandidates l)) = _
  cases leastBy Candidate.key ((topCandidates l).filter (fun c => decide (k < c.key))) <;> rfl

theorem chooseCandidate_first_turn {served : Option Nat} {l : List Candidate} {c : Candidate}
    (h : chooseCandidate served l = some c) :
    c ∈ topCandidates l ∧ ∀ d ∈ topCandidates l, FirstTurn served c d := by
  cases served with
  | none => exact leastBy_some h
  | some k =>
    rw [chooseCandidate_next] at h
    cases hb : leastBy Candidate.key ((topCandidates l).filter (fun c => decide (k < c.key))) with
    | some b =>
      obtain rfl : b = c := by simpa [hb] using h
      obtain ⟨hmem, hle⟩ := leastBy_some hb
      obtain ⟨htop, hk⟩ := List.mem_filter.1 hmem
      refine ⟨htop, fun d hd => Or.inl ⟨of_decide_eq_true hk, ?_⟩⟩
      rcases Nat.lt_or_ge k d.key with hlt | hge
      · exact Or.inr (hle d (List.mem_filter.2 ⟨hd, decide_eq_true hlt⟩))
      · exact Or.inl hge
    | none =>
      rw [hb] at h
      obtain ⟨hmem, hle⟩ := leastBy_some h
      have hbelow : ∀ d ∈ topCandidates l, d.key ≤ k := fun d hd => by
        have := List.filter_eq_nil_iff.1 (leastBy_eq_none.1 hb) d hd
        simpa using this
      exact ⟨hmem, fun d hd => Or.inr ⟨hbelow c hmem, hbelow d hd, hle d hd⟩⟩

/-- The candidate that the dispenser takes is of the highest priority, and of those the first in the turns (R43). -/
theorem chooseCandidate_some {served : Option Nat} {l : List Candidate} {c : Candidate}
    (h : chooseCandidate served l = some c) :
    c ∈ l ∧ ∀ d ∈ l, d.prio < c.prio ∨ (d.prio = c.prio ∧ FirstTurn served c d) := by
  obtain ⟨htop, hturn⟩ := chooseCandidate_first_turn h
  obtain ⟨hc, hmax⟩ := mem_topCandidates.1 htop
  refine ⟨hc, fun d hd => ?_⟩
  rcases Nat.lt_or_ge d.prio c.prio with hlt | hge
  · exact Or.inl hlt
  · have heq : d.prio = c.prio := Nat.le_antisymm (hmax d hd) hge
    exact Or.inr ⟨heq, hturn d (mem_topCandidates.2 ⟨hd, fun e he => heq ▸ hmax e he⟩)⟩

theorem chooseCandidate_eq_none {served : Option Nat} {l : List Candidate} : chooseCandidate served l = none ↔ l = [] := by
  cases served with
  | none => exact leastBy_eq_none.trans topCandidates_eq_nil
  | some k =>
    rw [chooseCandidate_next]
    cases hb : leastBy Candidate.key ((topCandidates l).filter (fun c => decide (k < c.key))) with
    | none => exact leastBy_eq_none.trans topCandidates_eq_nil
    | some b =>
      have hmem : b ∈ l := (mem_topCandidates.1 (List.mem_filter.1 (leastBy_some hb).1).1).1
      exact ⟨fun h => by simp at h, fun h => by simp [h] at hmem⟩

/-! ### The threads that may take instances (R35, R43, R45) -/

theorem mem_threadsOf {st : Nat} {t : ThreadId} : t ∈ threadsOf st ↔ t.core / 8 = st ∧ t.slot < 64 := by
  obtain ⟨c, p⟩ := t
  simp only [threadsOf, List.mem_flatMap, List.mem_map, List.mem_range, ThreadId.mk.injEq]
  constructor
  · rintro ⟨i, hi, q, hq, hc, hp⟩
    omega
  · rintro ⟨hc, hp⟩
    exact ⟨c % 8, by omega, p, hp, by omega, rfl⟩

theorem idle_iff (s : State) (t : ThreadId) : s.idle t = true ↔ s.inRotation t = true ∧ s.isSupervisor t = false ∧
    ∃ th, s.threadAt t = some th ∧ th.wait = some .work ∧ th.halted = false ∧ th.win.lent = false ∧ th.win.held = false := by
  rw [State.idle]
  cases h : s.threadAt t with
  | none => simp
  | some th => simp; tauto

theorem mem_eligibleAt {s : State} {st wsize : Nat} {t : ThreadId} : t ∈ s.eligibleAt st wsize ↔ s.MayTake st wsize t := by
  rw [State.eligibleAt, List.mem_filter, mem_threadsOf, State.eligible, State.MayTake]
  cases h : s.threadAt t with
  | none => simp
  | some th =>
    simp only [Bool.and_eq_true, idle_iff, h, Option.map_some, Option.getD_some, decide_eq_true_eq, stationOfCore,
      Option.some.injEq, exists_eq_left']
    constructor
    · rintro ⟨⟨rfl, hslot⟩, ⟨⟨hrot, hsup, hw, hh, hl, hb⟩, hlost⟩, hsize, hidle⟩
      exact ⟨rfl, hslot, by simpa using hlost, hrot, hsup, hw, hh, hl, hb, hsize, of_decide_eq_true hidle⟩
    · rintro ⟨rfl, hslot, hlost, hrot, hsup, hw, hh, hl, hb, hsize, hidle⟩
      exact ⟨⟨rfl, hslot⟩, ⟨⟨hrot, hsup, hw, hh, hl, hb⟩, by simp [hlost]⟩, hsize, decide_eq_true hidle⟩

theorem eligibleAt_isEmpty {s : State} {st wsize : Nat} :
    (s.eligibleAt st wsize).isEmpty = true ↔ ∀ t, ¬ s.MayTake st wsize t := by
  rw [List.isEmpty_iff, List.eq_nil_iff_forall_not_mem]
  exact forall_congr' fun t => not_congr mem_eligibleAt

theorem chooseThread_some {s : State} {st wsize : Nat} {t : ThreadId} (h : s.chooseThread st wsize = some t) :
    s.Taker st wsize t := by
  obtain ⟨hmem, hle⟩ := leastBy_some h
  have ht := mem_eligibleAt.1 hmem
  refine ⟨ht, fun u hu => ?_⟩
  have hready : ∀ c, s.readyCount c = s.readyOn c := fun _ => rfl
  have hkey := hle u (mem_eligibleAt.2 hu)
  obtain ⟨ht8, htslot, -⟩ := ht
  obtain ⟨hu8, huslot, -⟩ := hu
  rw [hready, hready] at hkey
  omega

theorem chooseThread_of_mayTake {s : State} {st wsize : Nat} {t : ThreadId} (h : s.MayTake st wsize t) :
    ∃ u, s.chooseThread st wsize = some u := by
  cases hc : s.chooseThread st wsize with
  | some u => exact ⟨u, rfl⟩
  | none =>
    have hmem := mem_eligibleAt.2 h
    rw [leastBy_eq_none.1 hc] at hmem
    exact absurd hmem List.not_mem_nil

/-! ### The pending instances of a node (R43 rules 1 and 3) -/

/-- The pending instances of a node, each with whether it is pending again, and its priority. -/
def pendings (n : NodeState) (now : Nat) : List (Nat × Bool × Nat) :=
  n.again.map (fun a => (a.inst, true, effPrio a.prio a.since now)) ++
    if n.released && decide (n.next < n.image.count) then [(n.next, false, effPrio n.prio n.since now)] else []

theorem mem_pendings {n : NodeState} {now inst prio : Nat} {again : Bool} :
    (inst, again, prio) ∈ pendings n now ↔ n.Pends now inst again prio := by
  simp only [pendings, List.mem_append, List.mem_map, Prod.mk.injEq, NodeState.Pends, effPrio]
  split <;> rename_i hr <;> simp at hr ⊢ <;> grind

/-- The better of two pending instances: of the higher priority, or of the lower index. -/
def betterOf (best : Option (Nat × Bool × Nat)) (c : Nat × Bool × Nat) : Option (Nat × Bool × Nat) :=
  match best with
  | none => some c
  | some b => if b.2.2 < c.2.2 ∨ (b.2.2 = c.2.2 ∧ c.1 < b.1) then some c else some b

theorem pendingInst_eq (n : NodeState) (now : Nat) : n.pendingInst now = (pendings n now).foldl betterOf none := rfl

theorem foldl_betterOf (l : List (Nat × Bool × Nat)) (b : Nat × Bool × Nat) :
    ∃ r ∈ b :: l, l.foldl betterOf (some b) = some r ∧
      ∀ c ∈ b :: l, c.2.2 < r.2.2 ∨ (c.2.2 = r.2.2 ∧ r.1 ≤ c.1) := by
  induction l generalizing b with
  | nil => exact ⟨b, List.mem_cons_self, rfl, fun c hc => by simp at hc; subst hc; exact Or.inr ⟨rfl, Nat.le_refl _⟩⟩
  | cons a r ih =>
    rw [List.foldl_cons, betterOf]
    split
    · next hb =>
      obtain ⟨x, hx, hfold, hle⟩ := ih a
      refine ⟨x, List.mem_cons_of_mem b hx, hfold, fun c hc => ?_⟩
      rcases List.mem_cons.1 hc with rfl | hc
      · have := hle a List.mem_cons_self
        omega
      · exact hle c hc
    · next hb =>
      obtain ⟨x, hx, hfold, hle⟩ := ih b
      have hxb := hle b List.mem_cons_self
      refine ⟨x, ?_, hfold, fun c hc => ?_⟩
      · rcases List.mem_cons.1 hx with rfl | hx
        · exact List.mem_cons_self
        · exact List.mem_cons_of_mem b (List.mem_cons_of_mem a hx)
      · rcases List.mem_cons.1 hc with rfl | hc
        · exact hxb
        · rcases List.mem_cons.1 hc with rfl | hc
          · omega
          · exact hle c (List.mem_cons_of_mem b hc)

theorem pendingInst_some {n : NodeState} {now inst prio : Nat} {again : Bool}
    (h : n.pendingInst now = some (inst, again, prio)) : n.Pends now inst again prio ∧
      ∀ j again' p, n.Pends now j again' p → p < prio ∨ (p = prio ∧ inst ≤ j) := by
  rw [pendingInst_eq] at h
  cases hl : pendings n now with
  | nil => simp [hl] at h
  | cons b r =>
    obtain ⟨x, hx, hfold, hle⟩ := foldl_betterOf r b
    rw [hl, List.foldl_cons, betterOf, hfold] at h
    obtain rfl := Option.some.inj h
    rw [← hl] at hx hle
    exact ⟨mem_pendings.1 hx, fun j again' p hp => hle (j, again', p) (mem_pendings.2 hp)⟩

theorem pendingInst_of_pends {n : NodeState} {now inst prio : Nat} {again : Bool} (h : n.Pends now inst again prio) :
    ∃ c, n.pendingInst now = some c := by
  have hmem := mem_pendings.2 h
  rw [pendingInst_eq]
  cases hl : pendings n now with
  | nil => simp [hl] at hmem
  | cons b r =>
    obtain ⟨x, -, hfold, -⟩ := foldl_betterOf r b
    exact ⟨x, hfold⟩

/-! ### The candidates (R43) -/

theorem affinityAllows_iff {s : State} {x : Context} {n : NodeImage} {st : Nat} : s.affinityAllows x n st = true ↔
    ∀ a, n.affStation = some a → a = st ∨ a ∉ x.stations ∨ ∀ t, ¬ s.MayTake a n.wsize t := by
  rw [State.affinityAllows]
  cases n.affStation with
  | none => simp
  | some a => simp only [Bool.or_eq_true, eligibleAt_isEmpty]; simp [or_assoc]

/-- The candidate that a node gives, if it gives one. -/
def nodeCandidate (s : State) (x : Context) (st gid node : Nat) (n : NodeState) : Option Candidate :=
  match n.pendingInst s.time.toNat with
  | none => none
  | some (inst, again, prio) =>
    if (s.eligibleAt st n.image.wsize).isEmpty || !s.affinityAllows x n.image st then none
    else some { offer := .node gid node inst again, prio := prio, key := n.key, wsize := n.image.wsize }

/-- The candidate that dynamic instances give, if they give one. -/
def dynCandidate (s : State) (st i : Nat) (d : DynInst) : Option Candidate :=
  if (s.eligibleAt st d.wsize).isEmpty then none
  else some { offer := .dyn i, prio := effPrio d.prio d.since s.time.toNat, key := d.key, wsize := d.wsize }

theorem candidates_eq (s : State) (x : Context) (st : Nat) : s.candidates x st =
    x.graphs.flatMap (fun g => g.nodes.zipIdx.filterMap (fun p => nodeCandidate s x st g.id p.2 p.1)) ++
      (s.stationAt st).dyn.zipIdx.filterMap (fun p => dynCandidate s st p.2 p.1) := rfl

theorem mem_candidates {s : State} {x : Context} {st : Nat} {c : Candidate} : c ∈ s.candidates x st ↔
    (∃ g ∈ x.graphs, ∃ node n, g.nodes[node]? = some n ∧ nodeCandidate s x st g.id node n = some c) ∨
      ∃ i d, (s.stationAt st).dyn[i]? = some d ∧ dynCandidate s st i d = some c := by
  simp only [candidates_eq, List.mem_append, List.mem_flatMap, List.mem_filterMap, Prod.exists, List.mk_mem_zipIdx_iff_getElem?]
  refine or_congr (exists_congr fun g => and_congr_right fun _ => ?_) ?_ <;> exact exists_comm

/-- Of each node's best instances, which the spec offers all, the model offers one; it has their priority, place and window. -/
theorem nodeCandidate_offered {s : State} {x : Context} {st node : Nat} {g : Graph} {n : NodeState} {c : Candidate}
    (hg : g ∈ x.graphs) (hn : g.nodes[node]? = some n) (h : nodeCandidate s x st g.id node n = some c) : s.Offered x st c := by
  rw [nodeCandidate] at h
  split at h
  case h_1 => cases h
  case h_2 inst again prio hp =>
    split at h
    case isTrue => cases h
    case isFalse hno =>
      obtain rfl := Option.some.inj h
      rw [Bool.not_eq_true, Bool.or_eq_false_iff, Bool.not_eq_false'] at hno
      obtain ⟨helig, haff⟩ := hno
      obtain ⟨hpend, hbest⟩ := pendingInst_some hp
      refine ⟨?_, Or.inl ⟨g, hg, node, n, inst, again, prio, hn, rfl, hpend, hbest, affinityAllows_iff.1 haff⟩⟩
      by_contra hnone
      rw [eligibleAt_isEmpty.2 (not_exists.1 hnone)] at helig
      cases helig

theorem dynCandidate_offered {s : State} {x : Context} {st i : Nat} {d : DynInst} {c : Candidate}
    (hd : (s.stationAt st).dyn[i]? = some d) (h : dynCandidate s st i d = some c) : s.Offered x st c := by
  rw [dynCandidate] at h
  split at h
  case isTrue => cases h
  case isFalse hno =>
    obtain rfl := Option.some.inj h
    refine ⟨?_, Or.inr ⟨i, d, hd, rfl⟩⟩
    by_contra hnone
    exact hno (eligibleAt_isEmpty.2 (not_exists.1 hnone))

theorem offered_of_mem {s : State} {x : Context} {st : Nat} {c : Candidate} (h : c ∈ s.candidates x st) : s.Offered x st c := by
  rcases mem_candidates.1 h with ⟨g, hg, node, n, hn, hc⟩ | ⟨i, d, hd, hc⟩
  · exact nodeCandidate_offered hg hn hc
  · exact dynCandidate_offered hd hc

theorem mem_of_offered {s : State} {x : Context} {st : Nat} {c : Candidate} (h : s.Offered x st c) :
    ∃ d ∈ s.candidates x st, d.prio = c.prio ∧ d.key = c.key := by
  obtain ⟨⟨t, ht⟩, ⟨g, hg, node, n, inst, again, prio, hn, rfl, hpend, hbest, haff⟩ | ⟨i, d, hd, rfl⟩⟩ := h
  · obtain ⟨⟨inst', again', prio'⟩, hp⟩ := pendingInst_of_pends hpend
    obtain ⟨hpend', hbest'⟩ := pendingInst_some hp
    have hprio : prio' = prio := by
      have h1 := hbest _ _ _ hpend'
      have h2 := hbest' _ _ _ hpend
      omega
    have helig : (s.eligibleAt st n.image.wsize).isEmpty = false :=
      Bool.eq_false_iff.2 fun he => eligibleAt_isEmpty.1 he t ht
    refine ⟨⟨.node g.id node inst' again', prio', n.key, n.image.wsize⟩,
      mem_candidates.2 (Or.inl ⟨g, hg, node, n, hn, ?_⟩), hprio, rfl⟩
    simp [nodeCandidate, hp, helig, affinityAllows_iff.2 haff]
  · have helig : ¬ (s.eligibleAt st d.wsize).isEmpty = true := fun he => eligibleAt_isEmpty.1 he t ht
    exact ⟨⟨.dyn i, effPrio d.prio d.since s.time.toNat, d.key, d.wsize⟩,
      mem_candidates.2 (Or.inr ⟨i, d, hd, if_neg helig⟩), rfl, rfl⟩

theorem chosen_of_chooseCandidate {s : State} {x : Context} {st : Nat} {c : Candidate}
    (h : chooseCandidate x.served (s.candidates x st) = some c) : s.Chosen x st c := by
  obtain ⟨hc, hbest⟩ := chooseCandidate_some h
  refine ⟨offered_of_mem hc, fun d hd => ?_⟩
  obtain ⟨e, he, hprio, hkey⟩ := mem_of_offered hd
  have hcmp := hbest e he
  unfold FirstTurn at hcmp
  rwa [hprio, hkey] at hcmp

/-- The dispenser of a running partition's station, where nothing is offered and where something is. -/
theorem taskPlacement_none {s : State} {st ctx : Nat} {x : Context} (hst : s.ctxOfStation st = some ctx)
    (hx : s.ctxAt ctx = some x) (h : ∀ c, ¬ s.Offered x st c) : exec (.taskPlacement st) s = .next s := by
  have hnone : chooseCandidate x.served (s.candidates x st) = none :=
    chooseCandidate_eq_none.2 (List.eq_nil_iff_forall_not_mem.2 fun c hc => h c (offered_of_mem hc))
  simp [execTaskPlacement, hst, hx, hnone]

theorem taskPlacement_some {s : State} {st ctx : Nat} {x : Context} (hst : s.ctxOfStation st = some ctx)
    (hx : s.ctxAt ctx = some x) (h : ∃ c, s.Offered x st c) : ∃ c t, s.Chosen x st c ∧ s.Taker st c.wsize t ∧
      exec (.taskPlacement st) s = .next (s.placeCandidate ctx st x c t) := by
  obtain ⟨e, he⟩ := h
  cases hc : chooseCandidate x.served (s.candidates x st) with
  | none =>
    obtain ⟨d, hd, -⟩ := mem_of_offered he
    rw [chooseCandidate_eq_none.1 hc] at hd
    exact absurd hd List.not_mem_nil
  | some c =>
    have hchosen := chosen_of_chooseCandidate hc
    obtain ⟨⟨⟨u, hu⟩, -⟩, -⟩ := hchosen
    obtain ⟨t, ht⟩ := chooseThread_of_mayTake hu
    exact ⟨c, t, chosen_of_chooseCandidate hc, chooseThread_some ht, by simp [execTaskPlacement, hst, hx, hc, ht]⟩

end Sys2Proof
end
section
/-! What a placement leaves (O31). -/

namespace Sys2Proof

open Sys2Proof.Machine

/-! ### Arguments (R45) -/

theorem wrote_of_owed_nil {th : Thread} (h : th.owed = []) (r : Reg) : Thread.wrote th r = th := by
  unfold Thread.wrote Thread.spoil
  split
  · rfl
  · rw [h, List.map_nil, ← h]

theorem giveArgs_stations (s : State) (t : ThreadId) (l : List Word) (i : Nat) : (s.giveArgs t l i).stations = s.stations := by
  induction l generalizing s i with
  | nil => rfl
  | cons w r ih => rw [State.giveArgs, ih, State.setReg_stations]

theorem giveArgs_ctxs (s : State) (t : ThreadId) (l : List Word) (i : Nat) : (s.giveArgs t l i).ctxs = s.ctxs := by
  induction l generalizing s i with
  | nil => rfl
  | cons w r ih => rw [State.giveArgs, ih, State.setReg_ctxs]

theorem giveArgs_threadAt {s : State} {t : ThreadId} {th : Thread} (h : s.threadAt t = some th) (ho : th.owed = [])
    (l : List Word) (i : Nat) : (s.giveArgs t l i).threadAt t = some th := by
  induction l generalizing s i with
  | nil => exact h
  | cons w r ih => exact ih ((threadAt_setReg h).trans (by rw [wrote_of_owed_nil ho])) (i + 1)

theorem setReg_rf {s : State} {t : ThreadId} {th : Thread} (h : s.threadAt t = some th) {i : Nat} (hi : 3 + i < 128) (w : Word) :
    ((s.setReg t (BitVec.ofNat 7 (3 + i)) w).coreAt t.core).rf =
      aset (s.coreAt t.core).rf (8 * th.win.wbase + 3 + i) w := by
  have hnat : (BitVec.ofNat 7 (3 + i)).toNat = 3 + i := by simp; omega
  have hne : BitVec.ofNat 7 (3 + i) ≠ 0#7 := fun he => by
    have := congrArg BitVec.toNat he
    rw [hnat] at this
    simp at this
  rw [setReg_eq h hne, hnat]
  simp [State.setThread, Core.setEntry, Thread.rfEntry, Nat.add_assoc]

theorem giveArgs_rf_below {s : State} {t : ThreadId} {th : Thread} (h : s.threadAt t = some th) (ho : th.owed = [])
    {l : List Word} {i e : Nat} (hi : 3 + i + l.length ≤ 128) (he : e < 8 * th.win.wbase + 3 + i) :
    aget ((s.giveArgs t l i).coreAt t.core).rf e = aget (s.coreAt t.core).rf e := by
  induction l generalizing s i with
  | nil => rfl
  | cons w r ih =>
    rw [List.length_cons] at hi
    rw [State.giveArgs, ih ((threadAt_setReg h).trans (by rw [wrote_of_owed_nil ho])) (by omega) (by omega),
      setReg_rf h (by omega), aget_aset_ne _ _ (by omega)]

theorem giveArgs_rf {s : State} {t : ThreadId} {th : Thread} (h : s.threadAt t = some th) (ho : th.owed = [])
    {l : List Word} {i j : Nat} {w : Word} (hi : 3 + i + l.length ≤ 128) (hw : l[j]? = some w) :
    aget ((s.giveArgs t l i).coreAt t.core).rf (8 * th.win.wbase + 3 + i + j) = some w := by
  induction l generalizing s i j with
  | nil => simp at hw
  | cons v r ih =>
    rw [List.length_cons] at hi
    have hset : (s.setReg t (BitVec.ofNat 7 (3 + i)) v).threadAt t = some th :=
      (threadAt_setReg h).trans (by rw [wrote_of_owed_nil ho])
    cases j with
    | zero =>
      obtain rfl : v = w := by simpa using hw
      rw [State.giveArgs, giveArgs_rf_below hset ho (by omega) (by omega), setReg_rf h (by omega)]
      exact aget_aset_self ..
    | succ j =>
      rw [State.giveArgs, show 8 * th.win.wbase + 3 + i + (j + 1) = 8 * th.win.wbase + 3 + (i + 1) + j by omega]
      exact ih hset (by omega) (by simpa using hw)

/-! ### The thread that takes a task (R45, R46, R48) -/

/-- The thread th with a task that it starts in user mode, interrupts on (R45, R46). -/
def started (th : Thread) (entry : Word) (task : TaskReg) (held : HeldTask) : Thread :=
  { th with
    task := task, held := held, pc := entry, wait := none
    status := { th.status with mode := .user, pmode := .user, pie := false, ie := true } }

section
variable {s : State} {t : ThreadId} {th thA : Thread} {args : List Word} (h : s.threadAt t = some th)
  (htr : th.dbg.tr = false) (hss : th.dbg.ss = false) (hst : th.stepsLeft = none)
  (hA : (s.giveArgs t args 0).threadAt t = some thA) (hdbg : thA.dbg = th.dbg) (hleft : thA.stepsLeft = th.stepsLeft)
include h htr hss hst hA hdbg hleft

theorem placeTask_eq (entry : Word) (task : TaskReg) (held : HeldTask) : s.placeTask t entry args task held =
    ((s.giveArgs t args 0).setThread t (started thA entry task held)).modCore t.core (fun k => { k with peersOpen := true }) := by
  have hat : (((s.giveArgs t args 0).setThread t (started thA entry task held)).modCore t.core
      (fun k => { k with peersOpen := true })).threadAt t = some (started thA entry task held) :=
    (State.threadAt_modCore _ _ (fun k => { k with peersOpen := true }) (fun _ => rfl) _).trans
      (State.threadAt_setThread_self ..)
  rw [State.placeTask, h]
  simp only [State.modThread, hA]
  change (State.traceEvent (((s.giveArgs t args 0).setThread t (started thA entry task held)).modCore t.core
    (fun k => { k with peersOpen := true })) t 2 0 entry).afterInstr t th.status.mode th.pc = _
  have hdbg' : (started thA entry task held).dbg = th.dbg := hdbg
  have hleft' : (started thA entry task held).stepsLeft = th.stepsLeft := hleft
  rw [traceEvent_off hat (by rw [hdbg', htr]), afterInstr_eq hat (Or.inl (by rw [hdbg', hss])) (by rw [hleft', hst])]

variable (entry : Word) (task : TaskReg) (held : HeldTask)

theorem placeTask_threadAt : (s.placeTask t entry args task held).threadAt t = some (started thA entry task held) := by
  rw [placeTask_eq h htr hss hst hA hdbg hleft]
  exact (State.threadAt_modCore _ _ (fun k => { k with peersOpen := true }) (fun _ => rfl) _).trans
    (State.threadAt_setThread_self ..)

theorem placeTask_peersOpen : ((s.placeTask t entry args task held).coreAt t.core).peersOpen = true := by
  rw [placeTask_eq h htr hss hst hA hdbg hleft, State.coreAt_modCore_self]

theorem placeTask_rf : ((s.placeTask t entry args task held).coreAt t.core).rf = ((s.giveArgs t args 0).coreAt t.core).rf := by
  rw [placeTask_eq h htr hss hst hA hdbg hleft, State.coreAt_modCore_self]
  simp [State.setThread]

theorem placeTask_stations : (s.placeTask t entry args task held).stations = s.stations := by
  rw [placeTask_eq h htr hss hst hA hdbg hleft]
  simp [giveArgs_stations]

theorem placeTask_ctxs : (s.placeTask t entry args task held).ctxs = s.ctxs := by
  rw [placeTask_eq h htr hss hst hA hdbg hleft]
  simp [giveArgs_ctxs]

end

/-! ### The chosen candidate on the chosen thread -/

/-- The task register of dynamic instances (R46). -/
def dynTask (d : DynInst) (prio : Nat) : TaskReg :=
  { inst := d.inst, node := d.node, launch := 0, eprio := BitVec.ofNat 2 prio, dyn := true, valid := true }

/-- What threads of dynamic instances hold. -/
def dynHeld : HeldTask := { graph := none, contributed := false, keep := false, steps := 0, begun := false }

theorem placeCandidate_dyn {s : State} {ctx st i : Nat} {x : Context} {c : Candidate} {d : DynInst} (hc : c.offer = .dyn i)
    (hd : (s.stationAt st).dyn[i]? = some d) (t : ThreadId) : s.placeCandidate ctx st x c t =
      ((s.setCtx ctx { x with served := some c.key }).modStation st (fun k => { k with dyn := k.dyn.eraseIdx i })).placeTask
        t d.entry [d.g3] (dynTask d c.prio) dynHeld := by
  rw [State.placeCandidate]
  simp only [hc, hd]
  rfl

/-- What is placed has contributed before a remap made it pending again (R52). -/
def hasContributed (n : NodeState) (inst : Nat) (again : Bool) : Bool :=
  again && n.again.any (fun a => a.inst == inst && a.contributed)

/-- A node, one of whose instances is placed on a thread. -/
def withPlaced (inst : Nat) (again : Bool) (p : Placed) (n : NodeState) : NodeState :=
  { n with
    next := if again then n.next else n.next + 1
    again := if again then n.again.filter (fun a => a.inst != inst) else n.again
    placed := n.placed.filter (fun q => q.inst != inst) ++ [p] }

/-- The task register of a graph's instances (R46). -/
def nodeTask (g : Graph) (node inst prio : Nat) : TaskReg :=
  { inst := BitVec.ofNat 24 inst, node := BitVec.ofNat 16 node, launch := BitVec.ofNat 8 g.launch
    eprio := BitVec.ofNat 2 prio, dyn := false, valid := true }

/-- What threads of a graph's instances hold. -/
def nodeHeld (gid : Nat) (n : NodeState) (inst : Nat) (again : Bool) : HeldTask :=
  { graph := some gid, contributed := hasContributed n inst again, keep := n.image.keep, steps := 0, begun := false }

theorem placeCandidate_node {s : State} {ctx st gid node inst : Nat} {again : Bool} {x : Context} {c : Candidate} {g : Graph}
    {n : NodeState} (hc : c.offer = .node gid node inst again) (hg : x.graphs.find? (fun h => h.id == gid) = some g)
    (hn : g.nodes[node]? = some n) (t : ThreadId) : s.placeCandidate ctx st x c t =
      ((s.setCtx ctx { x with served := some c.key }).modNode ctx gid node
        (withPlaced inst again ⟨inst, t, 0, false, false, hasContributed n inst again⟩)).placeTask
        t n.image.entry n.image.args (nodeTask g node inst c.prio) (nodeHeld gid n inst again) := by
  rw [State.placeCandidate]
  simp only [hc, hg, hn]
  rfl

theorem withPlaced_placed (inst : Nat) (again : Bool) (p : Placed) (n : NodeState) :
    (∀ q ∈ (withPlaced inst again p n).placed, q.inst = inst → q = p) ∧ p ∈ (withPlaced inst again p n).placed := by
  refine ⟨fun q hq hi => ?_, List.mem_append_right _ (List.mem_singleton.2 rfl)⟩
  rcases List.mem_append.1 hq with hq | hq
  · exact absurd hi (by simpa using (List.mem_filter.1 hq).2)
  · exact List.mem_singleton.1 hq

theorem withPlaced_again (inst : Nat) (p : Placed) (n : NodeState) : ∀ a ∈ (withPlaced inst true p n).again, a.inst ≠ inst :=
  fun _ ha => by simpa using (List.mem_filter.1 ha).2

/-- A graph one of whose nodes is changed. -/
def withNode (node : Nat) (f : NodeState → NodeState) (g : Graph) : Graph :=
  match g.nodes[node]? with
  | none => g
  | some n => { g with nodes := setAt g.nodes node (f n) }

theorem modNode_eq (s : State) (c gid node : Nat) (f : NodeState → NodeState) :
    s.modNode c gid node f = s.modGraph c gid (withNode node f) := rfl

theorem withNode_id (node : Nat) (f : NodeState → NodeState) (g : Graph) : (withNode node f g).id = g.id := by
  unfold withNode; split <;> rfl

theorem getElem?_withNode {g : Graph} {node : Nat} {n : NodeState} (h : g.nodes[node]? = some n)
    (f : NodeState → NodeState) : (withNode node f g).nodes[node]? = some (f n) := by
  rw [withNode, h]
  exact getElem?_setAt_self h _

theorem find?_map_graph_of_id {l : List Graph} {gid : Nat} {g : Graph} {f : Graph → Graph} (hf : ∀ k, (f k).id = k.id)
    (h : l.find? (fun k => k.id == gid) = some g) :
    (l.map (fun k => if k.id == gid then f k else k)).find? (fun k => k.id == gid) = some (f g) := by
  induction l with
  | nil => simp at h
  | cons k r ih =>
    by_cases hk : k.id = gid
    · obtain rfl : k = g := by simpa [hk] using h
      simp [hk, hf]
    · simp only [List.find?_cons, beq_eq_false_iff_ne.2 hk] at h
      simpa [hk] using ih h

end Sys2Proof
end
section
/-! The placement of tasks, ageing and the rotation, settled (O31). -/

namespace Sys2Proof

open Sys2Proof.Machine

/-! ### Ageing (R44) -/

theorem stationAt_foldl_modStation {l : List Nat} (hl : l.Nodup) (f : Station → Station) (s : State) (st : Nat) :
    (l.foldl (fun s st => s.modStation st f) s).stationAt st = if st ∈ l then f (s.stationAt st) else s.stationAt st := by
  induction l generalizing s with
  | nil => simp
  | cons a r ih =>
    obtain ⟨ha, hr⟩ := List.nodup_cons.1 hl
    rw [List.foldl_cons, ih hr]
    by_cases he : st = a
    · subst he; simp [ha]
    · rw [State.stationAt_modStation_ne _ _ he]
      simp [he]

theorem dynAge_eq (d : DynInst) (now : Nat) : ((d.age now).prio, (d.age now).since, (d.age now).key) =
    (min 3 (d.prio + (now - d.since) / 2 ^ 20), d.since + (now - d.since) / 2 ^ 20 * 2 ^ 20, d.key) := rfl

theorem priorityAging_eq {s : State} {ctx : Nat} {x : Context} (hx : s.ctxAt ctx = some x) (ha : x.active s.time = true) :
    exec (.priorityAging ctx) s = .next (x.stations.foldl
      (fun u st => u.modStation st (fun k => { k with dyn := k.dyn.map (fun d => d.age s.time.toNat) }))
      (s.setCtx ctx { x with graphs := x.graphs.map (fun g => { g with
        nodes := g.nodes.map (fun n => n.age s.time.toNat) }) })) := by
  simp [execPriorityAging, hx, ha]

theorem rotLengthChange_eq {s : State} {core : Nat} {n : BitVec 2} (h : (s.coreAt core).rotNext = some n) :
    exec (.rotLengthChange core) s = .next (if (s.coreAt core).position < 8 * 2 ^ (s.coreAt core).rotLen.toNat then s
      else s.modCore core (fun k => { k with rotLen := n, rotNext := none, position := 0 })) := by
  rw [Laws.exec_rotLengthChange, execRotLengthChange]
  simp only [h, rotLength]
  exact (apply_ite Host.Outcome.next _ _ _).symm

theorem threadAt_giveArgs_one {s : State} {t : ThreadId} {th : Thread} (h : s.threadAt t = some th) (w : Word) :
    (s.giveArgs t [w] 0).threadAt t = some (Thread.wrote th 3) :=
  threadAt_setReg h

/-- Settles O31: a graph's nodes by the equations of a contribution, a dispenser's choice by its candidates, a placement by what it
writes, and ageing and rotation by their equations. -/
theorem graphsAndPlacement : Obligations.GraphsAndPlacement := by
  refine ⟨?graphs, ⟨?placement, ?ageing, ?rotation⟩⟩
  case graphs =>
    intro g tick node inst n hn
    refine ⟨fun hmore => ?_, fun hlast hs hself => ?_, complete_iff g⟩
    · rw [contribute_more hn tick inst hmore]
      exact ⟨_, getElem?_setAt_self hn _, rfl, rfl, fun e he => getElem?_setAt_ne _ _ he⟩
    · have hnodes := nodes_contribute_last hn tick inst hlast hs hself
      refine ⟨⟨_, (hnodes node).trans (if_pos rfl), rfl, hlast⟩, fun e m he hm => ?_, fun e he hne => ?_⟩
      · have hne : e ≠ node := fun h => hself (h ▸ he)
        refine ⟨lessEdge tick g.launch g.id e m, by rw [hnodes, if_neg hne, if_pos he, hm]; rfl, release_depsLeft .., ?_, ?_⟩
        · intro hd; simp [lessEdge, release_released, Nat.sub_eq_zero_of_le hd]
        · intro hd; simp [lessEdge, release_released, Nat.sub_ne_zero_of_lt hd]
      · rw [hnodes, if_neg hne, if_neg he]
  case placement =>
    intro s st ctx x hst hx
    refine ⟨taskPlacement_none hst hx, fun hoff => ?_⟩
    obtain ⟨c, t, hchosen, htaker, hexec⟩ := taskPlacement_some hst hx hoff
    obtain ⟨⟨-, -, -, -, -, th, hth, -⟩, -⟩ := id htaker
    refine ⟨c, t, th, _, hchosen, htaker, hth, hexec, ?_⟩
    intro htr hss hsl status
    refine ⟨fun i d hc hd => ?_, ?_⟩
    · rw [placeCandidate_dyn hc hd]
      have h : ((s.setCtx ctx { x with served := some c.key }).modStation st
          (fun k => { k with dyn := k.dyn.eraseIdx i })).threadAt t = some th := hth
      have hA := threadAt_giveArgs_one h d.g3
      have hdbg := wrote_dbg th 3
      have hleft := wrote_stepsLeft th 3
      refine ⟨?_, placeTask_peersOpen h htr hss hsl hA hdbg hleft .., ?_, placeTask_threadAt h htr hss hsl hA hdbg hleft ..⟩
      · rw [State.stationAt, placeTask_stations h htr hss hsl hA hdbg hleft]
        exact congrArg Station.dyn (State.stationAt_modStation_self ..)
      · rw [placeTask_rf h htr hss hsl hA hdbg hleft]
        have hrf := setReg_rf h (i := 0) (by omega) d.g3
        exact (congrArg (fun rf => aget rf (8 * th.win.wbase + 3)) hrf).trans (aget_aset_self ..)
    · intro gid node inst again g n hc hg hn ho hargs given
      rw [placeCandidate_node hc hg hn]
      have hx1 : (s.setCtx ctx { x with served := some c.key }).ctxAt ctx = some { x with served := some c.key } :=
        State.ctxAt_setCtx_self ..
      rw [modNode_eq, modGraph_eq _ hx1]
      have h : (State.setCtx (s.setCtx ctx { x with served := some c.key }) ctx { x with
          served := some c.key, graphs := x.graphs.map (fun k => if k.id == gid then
            withNode node (withPlaced inst again ⟨inst, t, 0, false, false, hasContributed n inst again⟩) k else k) }).threadAt
          t = some th := hth
      have hA := giveArgs_threadAt h ho n.image.args 0
      have hfind := find?_map_graph_of_id (withNode_id node (withPlaced inst again ⟨inst, t, 0, false, false, given⟩)) hg
      have hctxs := placeTask_ctxs h htr hss hsl hA rfl rfl n.image.entry (nodeTask g node inst c.prio) (nodeHeld gid n inst again)
      obtain ⟨honly, hmem⟩ := withPlaced_placed inst again ⟨inst, t, 0, false, false, given⟩ n
      refine ⟨placeTask_peersOpen h htr hss hsl hA rfl rfl .., fun i w hw => ?_, placeTask_threadAt h htr hss hsl hA rfl rfl ..,
        _, _, _, (congrArg (aget · ctx) hctxs).trans (State.ctxAt_setCtx_self ..), rfl, hfind, getElem?_withNode hn _, rfl,
        honly, hmem, fun a ha hag => by subst hag; exact withPlaced_again inst _ n a ha⟩
      rw [placeTask_rf h htr hss hsl hA rfl rfl]
      exact giveArgs_rf h ho (by omega) hw
  case ageing =>
    intro s ctx x hx ha hnodup
    refine ⟨_, priorityAging_eq hx ha, fun st hst => ?_, fun st hst => ?_, ?_⟩
    · rw [stationAt_foldl_modStation hnodup, if_pos hst]
      simp only [List.map_map]
      exact List.map_congr_left fun d _ => dynAge_eq d _
    · rw [stationAt_foldl_modStation hnodup, if_neg hst]
      rfl
    · exact (foldl_keeps State.cores (fun u st => State.modStation_cores u st _) _ _).trans (State.setCtx_cores ..)
  case rotation =>
    intro s core n hn k
    rw [rotLengthChange_eq hn]
    exact ⟨fun h => by rw [if_neg (Nat.not_lt.2 h)], fun h => by rw [if_pos h]⟩

end Sys2Proof
end
section
/-! A failed status write in the line of a packet's access (O51, O52). -/

namespace Sys2Proof

open Sys2Proof.Machine

/-! ### A launch's status write that fails while a later packet's access is performed

A status write that waited for its page (R229) and then for the fill of its line is performed when another access of the device
settles the fill. Its failure sets err 4 of its queue (R298), in the middle of the packet that stands at the head. -/

/-- A status write of queue 0 to the doubleword 0x10008 whose line is being filled, under the key tag 2. -/
def failingStatus : Access :=
  { frontAccess .store 1 0x10008 0 with issuer := .front 0 0, loc := 0x10008, tag := 2, stage := .filling }

/-- Queue 0 of context 1, with a packet at its head that has been read. -/
def queueWith (p : List Word) : CmdQueue := { CmdQueue.reset with ctx := 1, lsize := 6, en := true, tail := 1, packet := some p }

/-- The running context 1 on station 0, whose page 0x10000 its translation station maps to itself, with the line of that
doubleword under the context's tag 1, and the failing status write under way. -/
def statusFails (p : List Word) : State :=
  { State.reset with
    ctxs := [(1, Context.bare [0] 1)]
    xlats := [(0, { XlatStation.reset with tlb := [⟨1, 1, 4, 0x1003F⟩] })]
    sec := { Security.reset with memStacks := 0xFFF }
    phys := { Phys.reset with tags := [(0x400, 1)] }
    host := { State.reset.host with queues := [(0, queueWith p)] }
    accesses := [failingStatus] }

/-- The error of queue 0 behind an instruction. -/
def errorAfter (r : Res) : Nat :=
  match r with
  | .next t => (t.queueAt 0).err
  | _ => 0

theorem passed_err {p : List Word} (h : packetWord p 0 / 2 ^ 40 % 2 ≠ 1) (u : State) (q : Nat) (k : CmdQueue) :
    ((u.passed q k p).queueAt q).err = k.err := by
  rw [State.passed, if_neg h, State.queueAt_setQueue_self]

theorem statusFails_atHead (p : List Word) {type : Nat} (h : packetType p = type) :
    AtHead (statusFails p) 0 (queueWith p) (Context.bare [0] 1) p type :=
  ⟨rfl, rfl, rfl, rfl, ⟨by show 6 ≤ 6; omega, by show 6 ≤ 16; omega⟩, by show ((1 : BitVec 32) - 0).toNat ≤ 2 ^ 6; decide, rfl, h⟩

/-! ### WAIT (O51) -/

/-- A WAIT until the doubleword at 0x10008 is 0. -/
def waitForZero : List Word := [0x0300000000000000, 0x10008, 0, 0, 0, 0, 0, 0]

theorem waitForZero_reads : ∃ u, ((statusFails waitForZero).setQueue 0 (queueWith waitForZero)).frontLoad (.packet 0) 1
    (packetAddr waitForZero 1) = (.ok 0, u) := ⟨_, rfl⟩

theorem waitForZero_stops : errorAfter (exec (.wait 0) (statusFails waitForZero)) = 4 := by decide

/-- Refutes O51: a WAIT whose word compares leaves its queue as it was before the read, but for its end, where the model's read
settles the fill of the word's line, so that a failing status write of the queue's launches is performed and sets err 4 (R298). Its
clauses on LAUNCH have the same gap. A hypothesis that no access of the state is filling would keep them from this case, as the
clause on a SIGNAL to a poisoned line has it. -/
theorem not_packetsLaunchSignalAndWait : ¬ Obligations.PacketsLaunchSignalAndWait := by
  unfold Obligations.PacketsLaunchSignalAndWait
  intro ⟨_, _, _, _, wait⟩
  obtain ⟨u, hread⟩ := waitForZero_reads
  obtain ⟨hwait, -⟩ := wait _ 0 _ _ waitForZero 0 u (statusFails_atHead waitForZero (by decide)) hread
  have claimed := (hwait rfl).1 (Or.inl ⟨by decide, rfl⟩)
  have goesOn : errorAfter (exec (.wait 0) (statusFails waitForZero)) = 0 := by
    rw [claimed]
    exact passed_err (by decide) u 0 _
  rw [waitForZero_stops] at goesOn
  exact absurd goesOn (by decide)

/-! ### SETBP (O52) -/

/-- A SETBP for a thread of another device, with its status doubleword at 0x10008. -/
def setbpElsewhere : List Word := [0x0400000000000000, 0x0800000000040000, 0, 0, 0, 0x10008, 0, 0]

theorem exists_ok_of_toOption {α β : Type} {x : Except α β} (h : x.toOption.isSome = true) : ∃ v, x = .ok v := by
  cases x with
  | error e => cases h
  | ok v => exact ⟨v, rfl⟩

theorem setbpElsewhere_stores : ∃ v, (((statusFails setbpElsewhere).setQueue 0 (queueWith setbpElsewhere)).frontStore
    (.access 0) 1 (packetAddr setbpElsewhere 5) (BitVec.ofNat 64 (1 * 2 ^ 56 + 0 % 2 ^ 56)) false).1 = .ok v :=
  exists_ok_of_toOption (by decide)

theorem setbpElsewhere_stops : errorAfter (exec (.setbp 0) (statusFails setbpElsewhere)) = 4 := by decide

/-- Refutes O52: a debug request leaves its queue as it was before its status write, but for its end (`Reports`), where the model's
write settles the fill of the doubleword's line, so that a failing status write of the queue's launches is performed and sets err 4
(R298). A hypothesis that no access of the state is filling would keep the statement from this case. -/
theorem not_debugHaltsResumesStepsAndArms : ¬ Obligations.DebugHaltsResumesStepsAndArms := by
  unfold Obligations.DebugHaltsResumesStepsAndArms
  intro ⟨_, _, units⟩
  obtain ⟨-, -, refused, -⟩ := units (statusFails setbpElsewhere) 0 _ _ setbpElsewhere ⟨0, 0⟩
  obtain ⟨-, reports⟩ := refused (statusFails_atHead setbpElsewhere (by decide)) (by decide) (by decide) (Or.inl (by decide))
  obtain ⟨v, hstore⟩ := setbpElsewhere_stores
  have claimed := reports (by decide) v hstore
  have goesOn : errorAfter (exec (.setbp 0) (statusFails setbpElsewhere)) = 0 := by
    rw [claimed]
    exact passed_err (by decide) v 0 _
  rw [setbpElsewhere_stops] at goesOn
  exact absurd goesOn (by decide)

end Sys2Proof
end
section
/-! Requests to the partition manager (O54). -/

namespace Sys2Proof

open Sys2Proof.Machine

/-! ### How a request ends (R300) -/

/-- The state in which a request of the management block has ended. -/
def pmEnded (s : State) (status cause : Nat) : State :=
  { s with host := { s.host with pm := { s.host.pm with go := false, status := status, cause := cause } } }

theorem pmAct_eq {s : State} {kind : Nat} (act : PmBlock → State) (hgo : s.host.pm.go = true) (hk : s.host.pm.kind = kind) :
    s.pmAct kind act = .next (act s.host.pm) := by
  rw [State.pmAct, if_pos (by simp [hgo, hk])]

theorem outctx_eq (p : PmBlock) : p.outctx = p.ctx.toNat % 2 ^ 6 := by
  simp [PmBlock.outctx, wfld, fld]

/-! ### The causes of a request about contexts (R235, R299) -/

/-- A context runs, or does not, on the stations of a request. -/
def onStations (p : PmBlock) (running : Bool) (x : Context) : Bool := x.running == running && sortedSet x.stations == p.stations

theorem onStations_iff {p : PmBlock} {running : Bool} {x : Context} :
    onStations p running x = true ↔ x.running = running ∧ sortedSet x.stations = p.stations := by
  simp [onStations]

section
variable {s : State} {p : PmBlock} {o i : Nat} {x y : Context}

theorem pmFault_absent_out (h : s.ctxAt o = none) (inc : Option Nat) : s.pmFault p (some o) inc = 4 := by
  simp [State.pmFault, State.loaded, h]

theorem pmFault_absent_in (h : s.ctxAt i = none) (out : Option Nat) : s.pmFault p out (some i) = 4 := by
  simp [State.pmFault, State.loaded, h]

theorem pmFault_out (h : s.ctxAt o = some x) (hp : x.peal = none) : s.pmFault p (some o) none =
    if onStations p true x then (if s.stationTaken p.stations [o] then 3 else 0) else 1 := by
  cases hx : onStations p true x <;> simp_all [State.pmFault, State.loaded, onStations]

theorem pmFault_in (h : s.ctxAt i = some x) (hp : x.peal = none) : s.pmFault p none (some i) =
    if onStations p false x then (if s.stationTaken p.stations [i] then 3 else 0) else 1 := by
  cases hx : onStations p false x
  · simp_all [State.pmFault, State.loaded, onStations]
  · simp_all [State.pmFault, State.loaded, onStations] <;> rfl

theorem pmFault_both (h : s.ctxAt o = some x) (hp : x.peal = none) (h' : s.ctxAt i = some y) (hp' : y.peal = none) :
    s.pmFault p (some o) (some i) =
      if onStations p true x && onStations p false y then (if s.stationTaken p.stations [o, i] then 3 else 0) else 1 := by
  cases hx : onStations p true x
  · simp_all [State.pmFault, State.loaded, onStations]
  · cases hy : onStations p false y
    · simp_all [State.pmFault, State.loaded, onStations]
    · simp_all [State.pmFault, State.loaded, onStations] <;> rfl

end

/-! ### Switch, unload and unpause (R235, R299) -/

/-- The context that a switch names in its field, if it names one. -/
def namedOut (p : PmBlock) : Option Nat := if p.onone then none else some p.outctx
def namedIn (p : PmBlock) : Option Nat := if p.inone then none else some p.inctx

/-- A context with the Peal of a switch. -/
def switchPeal (s : State) (incoming : Option Nat) (x : Context) : Context :=
  { x with peal := some { tick := max s.host.pm.tick.toNat (s.time.toNat + 4096), incoming := incoming, unload := false } }

section
variable {s : State} (hgo : s.host.pm.go = true)
include hgo

theorem switch_eq (hk : s.host.pm.kind = 2) (hn : ∀ c ∈ s.ctxs, c.2.peal = none) :
    exec .partitionSwitch s = .next (s.switch s.host.pm) ∧ s.ctxs.any (fun c => c.2.peal.isSome) = false := by
  refine ⟨by rw [Laws.exec_partitionSwitch, execPartitionSwitch, pmAct_eq _ hgo hk], List.any_eq_false.2 fun c hc => ?_⟩
  simp [hn c hc]

theorem switch_refused (hk : s.host.pm.kind = 2) (hn : ∀ c ∈ s.ctxs, c.2.peal = none) {cause : Nat} (hc : cause ≠ 0)
    (hf : s.pmFault s.host.pm (namedOut s.host.pm) (namedIn s.host.pm) = cause) :
    exec .partitionSwitch s = .next (pmEnded s 2 cause) := by
  subst hf
  obtain ⟨hx, hany⟩ := switch_eq hgo hk hn
  rw [hx, State.switch, if_neg (by simp [hany])]
  exact congrArg _ (if_pos hc)

theorem switch_schedules (hk : s.host.pm.kind = 2) (hn : ∀ c ∈ s.ctxs, c.2.peal = none) {c : Nat} {x : Context}
    (hf : s.pmFault s.host.pm (namedOut s.host.pm) (namedIn s.host.pm) = 0)
    (hc : (namedOut s.host.pm).or (namedIn s.host.pm) = some c) (h : s.ctxAt c = some x) :
    exec .partitionSwitch s = .next (s.setCtx c (switchPeal s (namedIn s.host.pm) x)) := by
  obtain ⟨hx, hany⟩ := switch_eq hgo hk hn
  rw [hx, State.switch, if_neg (by simp [hany])]
  refine congrArg _ ((if_neg (not_not.2 hf)).trans ?_)
  have hmod : s.modCtx c (switchPeal s (namedIn s.host.pm)) = s.setCtx c (switchPeal s (namedIn s.host.pm) x) := by
    rw [State.modCtx, h]
  rw [← hmod]
  unfold namedOut namedIn at *
  cases ho : s.host.pm.onone <;> simp only [ho, if_true, if_false, Bool.false_eq_true, Option.or] at hc ⊢
  · cases hc; rfl
  · cases hi : s.host.pm.inone <;> simp only [hi, if_true, if_false, Bool.false_eq_true] at hc ⊢
    · cases hc; rfl
    · cases hc

theorem unload_absent (hk : s.host.pm.kind = 3) (h : s.ctxAt s.host.pm.outctx = none) :
    exec .partitionUnload s = .next (pmEnded s 2 4) := by
  rw [Laws.exec_partitionUnload, execPartitionUnload, pmAct_eq _ hgo hk, State.unload, h]
  rfl

theorem unload_resident {x : Context} (hk : s.host.pm.kind = 3) (h : s.ctxAt s.host.pm.outctx = some x)
    (hs : sortedSet x.stations = s.host.pm.stations) (hp : x.peal = none) :
    exec .partitionUnload s = .next (if x.running then
        s.setCtx s.host.pm.outctx { x with peal := some { tick := s.time.toNat, incoming := none, unload := true } }
      else pmEnded { s with ctxs := aerase s.ctxs s.host.pm.outctx } 0 0) := by
  rw [Laws.exec_partitionUnload, execPartitionUnload, pmAct_eq _ hgo hk, State.unload, h]
  simp only [hs, hp, bne_self_eq_false, Bool.false_eq_true, if_false, Option.isSome_none, State.schedulePeal, State.modCtx, h]
  rfl

theorem unpause_eq (hk : s.host.pm.kind = 4) : exec .partitionUnpause s =
    .next (if s.pmFault s.host.pm none (some s.host.pm.inctx) ≠ 0 then
        pmEnded s 2 (s.pmFault s.host.pm none (some s.host.pm.inctx))
      else s.comeIn (some s.host.pm.inctx)) := by
  rw [Laws.exec_partitionUnpause, execPartitionUnpause, pmAct_eq _ hgo hk, State.unpause]
  rfl

end

end Sys2Proof
end

section
/-! What reads of memory by the device's own parts leave at the home slices (O54). -/

namespace Sys2Proof

open Sys2Proof.Machine

/-! ### What the home slices and their DRAM controllers do (R279 to R281) -/

/-- A view g of the machine that sees neither stations nor DRAM controllers, and, where Q holds of it, no line's write-back. -/
structure Unmoved {β : Type} (g : State → β) (Q : β → Prop) : Prop where
  station : ∀ s n f, g (State.modStation s n f) = g s
  dram : ∀ (s : State) d, g { s with dram := d } = g s
  writeBack : ∀ s x, Q (g s) → g (State.writeBack s x) = g s

/-- A fold of steps that each leave the view as it is. -/
theorem view_foldl {α β γ : Type} {g : State → β} {Q : β → Prop} {f : γ → α → γ} (st : γ → State) (hf : ∀ b a, Q (g (st b)) → g (st (f b a)) = g (st b))
    (l : List α) (b : γ) (hq : Q (g (st b))) : g (st (l.foldl f b)) = g (st b) := by
  induction l generalizing b with
  | nil => rfl
  | cons a r ih =>
    have hstep := hf b a hq
    rw [List.foldl_cons, ih _ (hstep ▸ hq), hstep]

section
variable {β : Type} {g : State → β} {Q : β → Prop} (h : Unmoved g Q)
include h

theorem Unmoved.useLine {s : State} (hq : Q (g s)) (line : Nat) (valid : BitVec 8) (pin fill : Bool) :
    g (s.useLine line valid pin fill).1 = g s := by
  unfold State.useLine
  dsimp only
  split
  · dsimp only
    exact h.station ..
  · split
    · dsimp only
      exact (h.station ..).trans (h.writeBack _ _ hq)
    · dsimp only
      exact h.station ..

theorem Unmoved.captureRow {s : State} (hq : Q (g s)) (pa : Nat) : g (s.captureRow pa).1 = g s := by
  unfold State.captureRow
  split
  · exact h.dram ..
  · exact view_foldl (f := fun r line => ((State.captureLine r.1 line).1, r.2 ++ (State.captureLine r.1 line).2))
      (fun b : State × List DramReq => b.1) (fun b a hb => h.useLine hb ..) _ (s, []) hq

theorem Unmoved.dramRun {s : State} (hq : Q (g s)) (fuel : Nat) (l : List DramReq) : g (s.dramRun fuel l) = g s := by
  induction fuel generalizing s l with
  | zero => rfl
  | succ fuel ih =>
    cases l with
    | nil => rfl
    | cons r l =>
      have hopen : g (s.dramOpen r).2 = g s := h.dram ..
      have hqo : Q (g (s.dramOpen r).2) := hopen ▸ hq
      rw [State.dramRun]
      split
      case h_1 u hu =>
        rw [hu] at hopen hqo
        exact (ih hqo l).trans hopen
      case h_2 u hu =>
        rw [hu] at hopen hqo
        have hcap := h.captureRow hqo r.1
        exact (ih (hcap ▸ hqo) _).trans (hcap.trans hopen)

theorem Unmoved.touchLine {s : State} (hq : Q (g s)) (pa n : Nat) (store lu : Bool) (line : Nat) :
    g (s.touchLine pa n store lu line) = g s := by
  unfold State.touchLine State.dramRequest
  have huse := h.useLine hq line (if store then wordMask line pa n else 0xFF) false
    (store && ((s.stationAt (homeStation (line * 64))).slice.find? (fun x => x.line == line)).isNone)
  exact (h.dramRun (huse ▸ hq) _ _).trans huse

theorem Unmoved.sliceTouch {s : State} (hq : Q (g s)) (pa n : Nat) (lu : Bool) : g (s.sliceTouch pa n false lu) = g s :=
  view_foldl id (fun _ a hb => h.touchLine hb pa n false lu a) _ _ hq

end

/-! ### The machine beside its home slices, and beside its memory -/

/-- The machine without its stations, its DRAM controllers and what it keeps of lines before they became dirty. -/
def besideHome (s : State) : State :=
  { s with phys := { s.phys with old := [] }, stations := [], dram := { openRow := [], activations := [], windowStart := 0 } }

theorem eq_of_besideHome {s t : State} (h : besideHome t = besideHome s) :
    t = { s with phys := { s.phys with old := t.phys.old }, stations := t.stations, dram := t.dram } :=
  congrArg (fun u : State => { u with phys := { u.phys with old := t.phys.old }, stations := t.stations, dram := t.dram }) h

theorem folds_of_besideHome {s t : State} (h : besideHome t = besideHome s) : t.folds = s.folds :=
  show (besideHome t).folds = (besideHome s).folds by rw [h]

theorem unmoved_besideHome : Unmoved besideHome (fun u => u.folds = []) where
  station _ _ _ := rfl
  dram _ _ := rfl
  writeBack s x hf := by
    rw [State.writeBack]
    split
    · rw [foldRange_none (s := s) hf]; rfl
    · rfl

theorem besideHome_sliceTouch {s : State} (hf : s.folds = []) (pa n : Nat) (lu : Bool) :
    besideHome (s.sliceTouch pa n false lu) = besideHome s := unmoved_besideHome.sliceTouch hf pa n lu

/-- The contexts and the accesses, which no read of memory by firmware changes where no access waits for a fill. -/
def besideMemory (s : State) : Assoc Context × List Access := (s.ctxs, s.accesses)

theorem ctxs_of_besideMemory {s t : State} (h : besideMemory t = besideMemory s) : t.ctxs = s.ctxs := congrArg Prod.fst h

theorem accesses_of_besideMemory {s t : State} (h : besideMemory t = besideMemory s) : t.accesses = s.accesses :=
  congrArg Prod.snd h

theorem unmoved_besideMemory : Unmoved besideMemory (fun _ => True) where
  station _ _ _ := rfl
  dram _ _ := rfl
  writeBack s x _ := by
    rw [State.writeBack]
    split <;> rfl

theorem besideMemory_findErrors (s : State) (pa n ctx : Nat) (place : BitVec 32) :
    besideMemory (s.findErrors pa n ctx place) = besideMemory s := by
  unfold State.findErrors
  refine foldl_keeps besideMemory (fun s l => ?_) _ s
  unfold State.logError State.msix
  dsimp only
  split
  · rfl
  · split <;> rfl

theorem findErrors_clean {s : State} (h : s.phys.uncorr = []) (pa n ctx : Nat) (place : BitVec 32) :
    s.findErrors pa n ctx place = s := by
  have hnone : (linesOf pa n).filter (fun l => s.phys.uncorr.contains l) = [] := by simp [h]
  rw [State.findErrors, hnone]
  rfl

theorem settleFills_none {s : State} (h : ∀ y ∈ s.accesses, y.stage ≠ .filling) (pa n : Nat) : s.settleFills pa n = s := by
  have hstep : ∀ line, s.accesses.any (fun x => x.stage == .filling && x.loc / 64 == line) = false := fun line => by
    rw [List.any_eq_false]
    intro y hy
    simp [h y hy]
  rw [State.settleFills]
  induction linesOf pa n with
  | nil => rfl
  | cons a r ih => rw [List.foldl_cons, hstep, if_neg (by simp), ih]

theorem besideHome_bareTouch {s : State} (hf : s.folds = []) (hu : s.phys.uncorr = []) (pa n ctx : Nat) :
    besideHome (s.bareTouch pa n ctx) = besideHome s := by
  rw [State.bareTouch]
  split
  · rfl
  · rw [foldRange_none hf, findErrors_clean hu]
    exact besideHome_sliceTouch hf pa n false

/-- Firmware's reads leave the contexts and the accesses as they are where no access waits for a fill. -/
theorem besideMemory_firmTouch {s : State} (h : ∀ y ∈ s.accesses, y.stage ≠ .filling) (ctx : Nat) (ranges : List (Nat × Nat)) :
    besideMemory (s.firmTouch ctx ranges) = besideMemory s := by
  rw [State.firmTouch]
  induction ranges generalizing s with
  | nil => rfl
  | cons r l ih =>
    rw [List.foldl_cons]
    split
    · exact ih h
    · rw [settleFills_none h]
      have htouch : besideMemory (((s.foldRange r.1 r.2).findErrors r.1 r.2 ctx 0xFFFFFFFF#32).sliceTouch r.1 r.2 false false) =
          besideMemory s :=
        (unmoved_besideMemory.sliceTouch trivial ..).trans (besideMemory_findErrors ..)
      have haccesses := accesses_of_besideMemory htouch
      exact (ih (fun y hy => h y (haccesses ▸ hy))).trans htouch

/-- Nothing is pending, no line has an uncorrectable error and no access waits for a fill. -/
def Settled (s : State) : Prop := s.folds = [] ∧ s.phys.uncorr = [] ∧ ∀ y ∈ s.accesses, y.stage ≠ .filling

theorem settled_of_besideHome {s t : State} (h : besideHome t = besideHome s) (hs : Settled s) : Settled t := by
  obtain ⟨hf, hu, ha⟩ := hs
  have huncorr : t.phys.uncorr = s.phys.uncorr := show (besideHome t).phys.uncorr = (besideHome s).phys.uncorr by rw [h]
  have haccesses : t.accesses = s.accesses := show (besideHome t).accesses = (besideHome s).accesses by rw [h]
  exact ⟨(folds_of_besideHome h).trans hf, huncorr.trans hu, haccesses ▸ ha⟩

theorem besideHome_firmTouch {s : State} (hs : Settled s) (ctx : Nat) (ranges : List (Nat × Nat)) :
    besideHome (s.firmTouch ctx ranges) = besideHome s := by
  rw [State.firmTouch]
  induction ranges generalizing s with
  | nil => rfl
  | cons r l ih =>
    rw [List.foldl_cons]
    split
    · exact ih hs
    · obtain ⟨hf, hu, ha⟩ := id hs
      rw [settleFills_none ha, foldRange_none hf, findErrors_clean hu]
      have htouch := besideHome_sliceTouch hf r.1 r.2 false
      exact (ih (settled_of_besideHome htouch hs)).trans htouch

theorem besideHome_loadTouch {s : State} (hs : Settled s) (ctx tag root image n : Nat) :
    besideHome (s.loadTouch ctx tag root image n) = besideHome s := by
  have h1 := besideHome_firmTouch hs ctx [(image, 64 + 4096 * n)]
  have hs1 := settled_of_besideHome h1 hs
  have h2 := besideHome_firmTouch hs1 ctx ((s.firmTouch ctx [(image, 64 + 4096 * n)]).spadRanges tag image n)
  have h3 := besideHome_firmTouch (settled_of_besideHome h2 hs1) ctx
    (State.execPages (((s.firmTouch ctx [(image, 64 + 4096 * n)]).firmTouch ctx
      ((s.firmTouch ctx [(image, 64 + 4096 * n)]).spadRanges tag image n))) 4 (root * 8192) 1)
  exact h3.trans (h2.trans h1)

/-! ### What firmware reads (R301, R318) -/

theorem firmRead_besideHome (s : State) (tag pa n : Nat) : (besideHome s).firmRead tag pa n = s.firmRead tag pa n := by
  have hbytes : (besideHome s).phys.bytesFor tag pa n = s.phys.bytesFor tag pa n := by
    rw [bytesFor_eq, bytesFor_eq]; rfl
  simp only [State.firmRead, State.tagRead, State.seenBytes, hbytes]
  rfl

theorem imageRead_besideHome (s : State) (tag pa n : Nat) : (besideHome s).imageRead tag pa n = s.imageRead tag pa n := by
  simp only [State.imageRead, firmRead_besideHome]

theorem spadImage_besideHome (s : State) (tag : Nat) (w : List Word) : (besideHome s).spadImage tag w = s.spadImage tag w := by
  rw [State.spadImage, State.spadImage, firmRead_besideHome]

theorem readBlock_besideHome (s : State) (tag image i : Nat) : (besideHome s).readBlock tag image i = s.readBlock tag image i := by
  unfold State.readBlock
  rw [imageRead_besideHome]
  cases s.imageRead tag (image + 64 + 4096 * i) 4096 with
  | none => rfl
  | some bs =>
    dsimp only
    split
    · rfl
    · rw [spadImage_besideHome]

/-- Firmware reads the parts of a load image alike where the machine beside the home slices is alike. -/
theorem imageRead_of_besideHome {s t : State} (h : besideHome t = besideHome s) (tag pa n : Nat) :
    t.imageRead tag pa n = s.imageRead tag pa n := by
  rw [← imageRead_besideHome t, h, imageRead_besideHome]

theorem readBlocks_of_besideHome {s t : State} (h : besideHome t = besideHome s) (tag image : Nat) (blocks : List Nat) :
    t.readBlocks tag image blocks = s.readBlocks tag image blocks := by
  have hblock : ∀ i, t.readBlock tag image i = s.readBlock tag image i := fun i => by
    rw [← readBlock_besideHome t, h, readBlock_besideHome]
  rw [State.readBlocks, State.readBlocks, funext hblock]

end Sys2Proof
end

section
/-! The load of a partition (O54). -/

namespace Sys2Proof

open Sys2Proof.Machine

/-! ### Cores that are set in turn -/

theorem coreAt_setCore_self (s : State) (c : Nat) (k : Core) : (s.setCore c k).coreAt c = k := by
  simp [State.coreAt, State.setCore]

theorem coreAt_setCore_ne (s : State) {c d : Nat} (k : Core) (h : d ≠ c) : (s.setCore c k).coreAt d = s.coreAt d := by
  simp [State.coreAt, State.setCore, agetD_aset_ne _ _ _ h]

section
variable {β : Type} (key : β → Nat) (val : β → Core) {l : List β}

theorem coreAt_foldl_setCore_other {c : Nat} (h : c ∉ l.map key) (s : State) :
    (l.foldl (fun t b => t.setCore (key b) (val b)) s).coreAt c = s.coreAt c := by
  induction l generalizing s with
  | nil => rfl
  | cons a r ih =>
    rw [List.map_cons, List.mem_cons, not_or] at h
    rw [List.foldl_cons, ih h.2, coreAt_setCore_ne _ _ h.1]

theorem coreAt_foldl_setCore {b : β} (hn : (l.map key).Nodup) (hb : b ∈ l) (s : State) :
    (l.foldl (fun t b => t.setCore (key b) (val b)) s).coreAt (key b) = val b := by
  induction l generalizing s with
  | nil => exact absurd hb List.not_mem_nil
  | cons a r ih =>
    obtain ⟨ha, hr⟩ := List.nodup_cons.1 hn
    rw [List.foldl_cons]
    rcases List.mem_cons.1 hb with rfl | hb
    · rw [coreAt_foldl_setCore_other key val ha, coreAt_setCore_self]
    · exact ih hr hb _

end

theorem nodup_coresOf {stations : List Nat} (h : stations.Nodup) : (coresOf stations).Nodup := by
  refine List.nodup_flatMap.2 ⟨fun st _ => ?_, h.imp fun {a b} hne => ?_⟩
  · exact List.nodup_range.map fun c d hcd => by simpa using hcd
  · intro c ha hb
    simp only [List.mem_map, List.mem_range] at ha hb
    omega

theorem nodup_map_fst_zip {α β : Type} {l : List α} (h : l.Nodup) (m : List β) : ((l.zip m).map Prod.fst).Nodup := by
  induction l generalizing m with
  | nil => simp
  | cons a r ih =>
    obtain ⟨ha, hr⟩ := List.nodup_cons.1 h
    cases m with
    | nil => simp
    | cons b m =>
      rw [List.zip_cons_cons, List.map_cons, List.nodup_cons]
      refine ⟨fun hmem => ?_, ih hr m⟩
      obtain ⟨⟨x, y⟩, hxy, rfl⟩ := List.mem_map.1 hmem
      exact ha (List.of_mem_zip hxy).1

theorem nodup_pmStations (p : PmBlock) : p.stations.Nodup := List.nodup_range.filter _

/-! ### What a load makes of a place (R27, R301) -/

theorem aget_map_mk {α : Type} (f : Nat → α) (l : List Nat) (k : Nat) :
    aget (l.map (fun p => (p, f p))) k = if k ∈ l then some (f k) else none := by
  induction l with
  | nil => simp
  | cons a r ih =>
    rw [List.map_cons, aget_cons, ih]
    by_cases h : a = k
    · subst h; simp
    · simp [h, Ne.symm h]

theorem mem_createdSlots {w : List Word} {slot : Nat} :
    slot ∈ createdSlots w ↔ slot < 64 ∧ ((threadRecord w slot).getD 0 0).getLsbD 63 = true := by
  rw [createdSlots, List.mem_filter, List.mem_range, recCreated]

/-- The core that a core block describes (R301). -/
theorem loadedCore_threads (s : State) (core : Nat) (tag : BitVec 8) (ctx : BitVec 6) (w : List Word) (sp : List Byte)
    {slot : Nat} (h : slot < 64) : aget (s.loadedCore core tag ctx w sp).threads slot =
      if ((threadRecord w slot).getD 0 0).getLsbD 63 then some (recThread (threadRecord w slot) tag ctx) else none := by
  rw [State.loadedCore, aget_map_mk]
  simp [mem_createdSlots, h]

theorem loadedCore_spad (s : State) (core : Nat) (tag : BitVec 8) (ctx : BitVec 6) (w : List Word) {sp : List Byte}
    (h : sp.length = 294912) {a : Nat} (ha : a < 262144) :
    (s.loadedCore core tag ctx w sp).spad.read a = sp.getD a 0 := by
  have hlen : (sp.take 262144).length = 262144 := by rw [List.length_take, h]; rfl
  rw [State.loadedCore, Memory.read_writeBytes, hlen, if_pos (by omega), Nat.sub_zero]
  simp [List.getD_eq_getElem?_getD, ha]

/-- A core of a partition that is loaded, by its block. -/
theorem coreAt_loadContext {s : State} {p : PmBlock} {rcd header : List Word} {bytes : List Byte}
    {blocks : List (List Word × List Byte × List Byte)} {j core : Nat} {w : List Word} {bs sp : List Byte}
    (hb : blocks[j]? = some (w, bs, sp)) (hc : (coresOf p.stations)[j]? = some core) :
    (s.loadContext p rcd header bytes blocks).coreAt core = s.loadedCore core (BitVec.ofNat 8 (wfld (rcd.getD 4 0) 7 0))
      (BitVec.ofNat 6 p.inctx) w sp := by
  have hmem : (core, (w, bs, sp)) ∈ (coresOf p.stations).zip blocks :=
    List.mem_iff_getElem?.2 ⟨j, List.getElem?_zip_eq_some.2 ⟨hc, hb⟩⟩
  have hn : (((coresOf p.stations).zip blocks).map Prod.fst).Nodup :=
    nodup_map_fst_zip (nodup_coresOf (nodup_pmStations p)) blocks
  have hset := coreAt_foldl_setCore (fun b : Nat × List Word × List Byte × List Byte => b.1)
    (fun b => s.loadedCore b.1 (BitVec.ofNat 8 (wfld (rcd.getD 4 0) 7 0)) (BitVec.ofNat 6 p.inctx) b.2.1 b.2.2.2) hn hmem s
  have hstations : ∀ u : State, (p.stations.foldl (fun t st => t.modStation st Station.loaded) u).cores = u.cores :=
    fun u => foldl_keeps State.cores (fun t st => State.modStation_cores t st _) _ u
  refine Eq.trans ?_ hset
  rw [State.coreAt, State.coreAt]
  exact congrArg (fun cs => agetD cs core Core.reset) (hstations _)

theorem loadContext_keeps (s : State) (p : PmBlock) (rcd header : List Word) (bytes : List Byte)
    (blocks : List (List Word × List Byte × List Byte)) :
    (s.loadContext p rcd header bytes blocks).host = s.host ∧ (s.loadContext p rcd header bytes blocks).phys = s.phys := by
  have h : ∀ (l : List (Nat × List Word × List Byte × List Byte)) (f : Nat × List Word × List Byte × List Byte → Core) (u : State),
      (l.foldl (fun t b => t.setCore b.1 (f b)) u).host = u.host ∧ (l.foldl (fun t b => t.setCore b.1 (f b)) u).phys = u.phys :=
    fun l f u => ⟨foldl_keeps State.host (fun t b => State.setCore_host ..) l u,
      foldl_keeps State.phys (fun t b => State.setCore_phys ..) l u⟩
  have hst : ∀ u : State, (p.stations.foldl (fun t st => t.modStation st Station.loaded) u).host = u.host ∧
      (p.stations.foldl (fun t st => t.modStation st Station.loaded) u).phys = u.phys :=
    fun u => ⟨foldl_keeps State.host (fun t st => State.modStation_host ..) _ u,
      foldl_keeps State.phys (fun t st => State.modStation_phys ..) _ u⟩
  exact ⟨(hst _).1.trans (h _ _ _).1, (hst _).2.trans (h _ _ _).2⟩

/-! ### The checks of a load (R299, R301) -/

section
variable {s : State} (hgo : s.host.pm.go = true) (hk : s.host.pm.kind = 1)
include hgo hk

theorem partitionLoad_eq : exec .partitionLoad s = .next (s.load s.host.pm) := by
  rw [Laws.exec_partitionLoad, execPartitionLoad, pmAct_eq _ hgo hk]

theorem load_resident (h : (s.ctxAt s.host.pm.inctx).isSome = true) : exec .partitionLoad s = .next (pmEnded s 2 5) := by
  rw [partitionLoad_eq hgo hk, State.load, if_pos (show s.loaded s.host.pm.inctx = true from h)]
  rfl

section
variable (habsent : (s.ctxAt s.host.pm.inctx).isSome = false) (hroom : s.ctxs.length < 64)
include habsent hroom

theorem load_taken (h : s.stationTaken s.host.pm.stations [] = true) : exec .partitionLoad s = .next (pmEnded s 2 3) := by
  rw [partitionLoad_eq hgo hk, State.load, if_neg (by simpa [State.loaded] using habsent), if_neg (Nat.not_le.2 hroom), if_pos h]
  rfl

theorem load_misaligned (h : s.stationTaken s.host.pm.stations [] = false) (hi : wfld s.host.pm.img 5 0 ≠ 0) :
    exec .partitionLoad s = .next (pmEnded s 2 2) := by
  rw [partitionLoad_eq hgo hk, State.load, if_neg (by simpa [State.loaded] using habsent), if_neg (Nat.not_le.2 hroom),
    if_neg (by simp [h]), if_pos hi]
  rfl

/-- A load whose checks pass: what its reads have touched, and then the context. -/
theorem load_passes (h : s.stationTaken s.host.pm.stations [] = false) (hi : wfld s.host.pm.img 5 0 = 0) (hs : Settled s)
    {rb hb : List Byte} {blocks : List (List Word × List Byte × List Byte)}
    (hrb : s.bareRead (s.host.ctxtab + 64 * s.host.pm.inctx) 64 = .ok rb) (hrec : recordOk (dwords rb) = true)
    (hhb : s.imageRead (wfld ((dwords rb).getD 4 0) 7 0) (wfld s.host.pm.img 41 0) 64 = some hb)
    (hhead : headerOk (dwords hb) s.host.pm = true)
    (hblocks : s.readBlocks (wfld ((dwords rb).getD 4 0) 7 0) (wfld s.host.pm.img 41 0)
      (List.range (8 * s.host.pm.stations.length)) = some blocks) :
    ∃ u, besideHome u = besideHome s ∧
      exec .partitionLoad s = .next (pmEnded (u.loadContext s.host.pm (dwords rb) (dwords hb) hb blocks) 0 0) := by
  obtain ⟨hf, hu, -⟩ := id hs
  have h1 := besideHome_bareTouch hf hu (s.host.ctxtab + 64 * s.host.pm.inctx) 64 s.host.pm.inctx
  have h2 := (besideHome_loadTouch (settled_of_besideHome h1 hs) s.host.pm.inctx (wfld ((dwords rb).getD 4 0) 7 0)
    (wfld ((dwords rb).getD 0 0) 41 13) (wfld s.host.pm.img 41 0) (8 * s.host.pm.stations.length)).trans h1
  refine ⟨_, h2, ?_⟩
  rw [partitionLoad_eq hgo hk, State.load, if_neg (by simpa [State.loaded] using habsent), if_neg (Nat.not_le.2 hroom),
    if_neg (by simp [h]), if_neg (not_not.2 hi), hrb]
  simp only [hrec, Bool.not_true, Bool.false_eq_true, if_false]
  rw [State.loadImage]
  simp only [imageRead_of_besideHome h2, hhb, hhead, Bool.not_true, Bool.false_eq_true, if_false,
    readBlocks_of_besideHome h2, hblocks]
  rfl

end

end

end Sys2Proof
end

section
/-! What the return of a context leaves as it is (O54). -/

namespace Sys2Proof

open Sys2Proof.Machine

/-! ### Threads and contexts that keep all but their mail (R169, R235 to R237) -/

/-- Every thread of s is there in t, with all but its inbox and its send queue as it was; every context, with all but its control
page and its fall-out region. -/
structure MailOnly (s t : State) : Prop where
  thread : ∀ u th, s.threadAt u = some th → ∃ b q, t.threadAt u = some { th with inbox := b, sendq := q }
  ctx : ∀ c x, s.ctxAt c = some x → ∃ g r, t.ctxAt c = some { x with page := g, falloutRegion := r }

theorem MailOnly.of_eq {s t : State} (hc : t.cores = s.cores) (hx : t.ctxs = s.ctxs) : MailOnly s t where
  thread u th h := ⟨th.inbox, th.sendq, by rw [State.threadAt, State.coreAt, hc]; exact h⟩
  ctx c x h := ⟨x.page, x.falloutRegion, by rw [State.ctxAt, hx]; exact h⟩

theorem MailOnly.refl (s : State) : MailOnly s s := .of_eq rfl rfl

theorem MailOnly.trans {s t u : State} (h : MailOnly s t) (g : MailOnly t u) : MailOnly s u where
  thread v th hv := by
    obtain ⟨b, q, hb⟩ := h.thread v th hv
    obtain ⟨b', q', hb'⟩ := g.thread v _ hb
    exact ⟨b', q', hb'⟩
  ctx c x hc := by
    obtain ⟨p, r, hp⟩ := h.ctx c x hc
    obtain ⟨p', r', hp'⟩ := g.ctx c _ hp
    exact ⟨p', r', hp'⟩

theorem MailOnly.foldl {α : Type} {f : State → α → State} (h : ∀ s a, MailOnly s (f s a)) (l : List α) (s : State) :
    MailOnly s (l.foldl f s) := by
  induction l generalizing s with
  | nil => exact .refl s
  | cons a r ih => exact (h s a).trans (ih _)

theorem MailOnly.setThread {s : State} {t : ThreadId} {th : Thread} (h : s.threadAt t = some th) (b : Inbox) (q : List Nat) :
    MailOnly s (s.setThread t { th with inbox := b, sendq := q }) where
  thread u v hv := by
    by_cases hu : u = t
    · subst hu
      obtain rfl : th = v := Option.some.inj (h.symm.trans hv)
      exact ⟨b, q, State.threadAt_setThread_self ..⟩
    · exact ⟨v.inbox, v.sendq, (State.threadAt_setThread_ne _ _ hu).trans hv⟩
  ctx c x hx := ⟨x.page, x.falloutRegion, hx⟩

theorem MailOnly.modThread (s : State) (t : ThreadId) {f : Thread → Thread}
    (hf : ∀ th, ∃ b q, f th = { th with inbox := b, sendq := q }) : MailOnly s (s.modThread t f) := by
  unfold State.modThread
  split
  case h_1 => exact .refl s
  case h_2 th h =>
    obtain ⟨b, q, hb⟩ := hf th
    rw [hb]
    exact .setThread h b q

theorem MailOnly.setCtx {s : State} {c : Nat} {x : Context} (h : s.ctxAt c = some x) (g : ControlPage) (r : List Message) :
    MailOnly s (s.setCtx c { x with page := g, falloutRegion := r }) where
  thread u th hu := ⟨th.inbox, th.sendq, hu⟩
  ctx d y hy := by
    by_cases hd : d = c
    · subst hd
      obtain rfl : x = y := Option.some.inj (h.symm.trans hy)
      exact ⟨g, r, State.ctxAt_setCtx_self ..⟩
    · exact ⟨y.page, y.falloutRegion, (State.ctxAt_setCtx_ne _ _ hd).trans hy⟩

/-! ### Messages on their way (R169, R235) -/

theorem MailOnly.leaveSendQueue (s : State) (f : Flight) : MailOnly s (s.leaveSendQueue f) := by
  have h : MailOnly s { s with flights := s.flights.filter (fun g => g.id != f.id) } := .of_eq rfl rfl
  unfold State.leaveSendQueue
  split
  · exact h
  · exact h.trans (.modThread _ _ fun th => ⟨th.inbox, _, rfl⟩)

theorem MailOnly.sendPacket (s : State) (port : Option Nat) (p : OutPacket) : MailOnly s (s.sendPacket port p) := by
  rw [sendPacket_frame]
  exact .of_eq rfl rfl

theorem MailOnly.modFlight (s : State) (id : Nat) (f : Flight → Flight) : MailOnly s (s.modFlight id f) := .of_eq rfl rfl

theorem MailOnly.sendBack (s : State) (f : Flight) : MailOnly s (s.sendBack f) := by
  unfold State.sendBack
  refine .trans (.leaveSendQueue s f) ?_
  split
  · split
    · exact .refl _
    · exact .sendPacket _ _ _
  · exact .of_eq rfl rfl

theorem MailOnly.put (s : State) (f : Flight) (st : Nat) (r : List Message) :
    MailOnly s ((s.modStation st (fun k => { k with fallout := r ++ [f.msg] })).leaveSendQueue f) := by
  refine .trans ?_ (.leaveSendQueue _ f)
  exact .of_eq rfl rfl

theorem MailOnly.putFallout (s : State) (x : Context) : MailOnly s (s.putFallout x) := by
  unfold State.putFallout
  split
  · exact .of_eq rfl rfl
  · exact .refl s

theorem MailOnly.fallOut (s : State) (f : Flight) : MailOnly s (s.fallOut f) := by
  unfold State.fallOut
  dsimp only
  split
  · exact .put s f _ _
  · split
    case h_1 => exact .refl s
    case h_2 m r _ =>
      split
      case h_1 => exact .put s f _ _
      case h_2 x hx =>
        split
        · exact ((MailOnly.setCtx hx x.page _).trans (.putFallout _ _)).trans (.put _ f _ _)
        · exact .modFlight _ _ _

theorem MailOnly.land {s : State} {t : ThreadId} {th : Thread} (h : s.threadAt t = some th) (f : Flight) :
    MailOnly s (s.land f t th) := by
  unfold State.land
  split
  · exact (MailOnly.leaveSendQueue s f).trans (.modThread _ _ fun v => ⟨_, v.sendq, rfl⟩)
  · split
    · exact (MailOnly.leaveSendQueue s f).trans (.of_eq rfl rfl)
    · split
      · exact (MailOnly.setThread h _ th.sendq).trans (.modFlight _ _ _)
      · exact .modFlight _ _ _

theorem MailOnly.deliverMessage (s : State) (f : Flight) : MailOnly s (s.deliverMessage f) := by
  unfold State.deliverMessage
  dsimp only
  split
  · split
    · exact (MailOnly.modFlight _ _ _).trans (.sendPacket _ _ _)
    · exact .sendBack s f
  · split
    case h_1 =>
      split
      · exact .leaveSendQueue s f
      · exact .sendBack s f
    case h_2 =>
      split
      · exact .fallOut s f
      · split
        · split
          · exact .leaveSendQueue s f
          · exact .sendBack s f
        · split
          case h_1 =>
            split
            · exact .leaveSendQueue s f
            · exact .sendBack s f
          case h_2 th hth => exact .land hth f

theorem MailOnly.reinject (s : State) (ms : List Message) : MailOnly s (s.reinject ms) := by
  unfold State.reinject
  refine .trans ?_ (.foldl MailOnly.deliverMessage _ _)
  exact .of_eq rfl rfl

/-! ### Knells (R236, R237) -/

theorem MailOnly.knellTo (s : State) (c : Nat) (w : Word) : MailOnly s (s.knellTo c w) := by
  unfold State.knellTo State.modCtx
  split
  case h_1 => exact .refl s
  case h_2 x hx => exact .setCtx hx _ x.falloutRegion

theorem MailOnly.knellToHost (s : State) (w : Word) : MailOnly s (s.knellToHost w) :=
  .of_eq (by simp [State.knellToHost]) (by simp [State.knellToHost])

theorem MailOnly.knell (s : State) (core : Nat) : MailOnly s (s.knell core) := by
  rw [State.knell]
  generalize knellEntry _ _ = w
  split
  · exact .knellToHost _ _
  · split
    · exact .knellToHost _ _
    · split
      · exact .knellToHost _ _
      · exact .knellTo _ _ _

/-! ### A context that comes back (R235 steps 7 and 8) -/

/-- The state in which a context that comes back has its cores, its stations and itself, before its mail. -/
def comingBack (s0 : State) (ctx : Nat) (x : Context) (v : Saved) : State :=
  let s := (s0.firmTouch ctx [(x.save, x.saveSize)]).markHeader ctx x v.tick 3
  let order (c : Nat) : Nat := (x.stations.filter (fun n => decide (n < c / 8))).length
  let s1 := v.cores.foldl (fun t c => t.setCore c.1 (s.restoredCore x (order c.1) c.1 c.2)) s
  let s2 := v.stations.foldl (fun t k => t.setStation k.1 (s.restoredStation x ctx k.1 k.2)) s1
  s2.setCtx ctx { x with
    running := true, saved := none, peal := none, falloutRegion := []
    graphs := x.graphs.map (fun g => { g with
      nodes := g.nodes.map (fun n => n.shift x.stoppedAt s.time.toNat) }) }

theorem mailOnly_restore (s0 : State) (ctx : Nat) (x : Context) (v : Saved) :
    MailOnly (comingBack s0 ctx x v) (s0.restore ctx x v) :=
  .trans (.reinject _ _) (.foldl (fun t (c : Nat × Core) => MailOnly.knell t c.1) _ _)

theorem ctxAt_comingBack (s0 : State) (ctx : Nat) (x : Context) (v : Saved) : ∃ graphs,
    (comingBack s0 ctx x v).ctxAt ctx = some { x with
      running := true, saved := none, peal := none, falloutRegion := [], graphs := graphs } :=
  ⟨_, State.ctxAt_setCtx_self ..⟩

theorem ctxAt_comingBack_ne (s0 : State) {ctx d : Nat} (x : Context) (v : Saved) (h : d ≠ ctx) :
    (comingBack s0 ctx x v).ctxAt d = (s0.firmTouch ctx [(x.save, x.saveSize)]).ctxAt d := by
  refine (State.ctxAt_setCtx_ne _ _ h).trans (congrArg (aget · d) ?_)
  exact (foldl_keeps State.ctxs (fun t k => State.setStation_ctxs ..) v.stations _).trans
    (foldl_keeps State.ctxs (fun t c => State.setCore_ctxs ..) v.cores _)

/-- A saved thread as it comes back (R235). -/
def returned (s : State) (x : Context) (th : Thread) : Thread :=
  { th.shift x.stoppedAt s.time.toNat with
    inbox := th.inbox.clean (fun id => s.flights.any (fun f => f.id == id))
    sendq := th.sendq.filter (fun id => s.flights.any (fun f => f.id == id)) }

theorem aget_restoredCore (s : State) (x : Context) (i core : Nat) (k : Core) (slot : Nat) :
    aget (s.restoredCore x i core k).threads slot = (aget k.threads slot).map (returned s x) :=
  aget_map_entries (g := fun p => (p.1, returned s x p.2)) (fun _ => rfl) k.threads slot

/-- A saved thread as it comes back keeps all but its waits' ticks and its mail. -/
theorem threads_comingBack (s0 : State) (ctx : Nat) {x : Context} {v : Saved} (hn : (v.cores.map Prod.fst).Nodup) {c : Nat}
    {k : Core} {slot : Nat} {th : Thread} (hk : (c, k) ∈ v.cores) (hth : aget k.threads slot = some th) :
    ∃ at_ w b q, (comingBack s0 ctx x v).threadAt ⟨c, slot⟩ =
      some { th with haltedAt := at_, wait := w, inbox := b, sendq := q } := by
  have hset := coreAt_foldl_setCore (fun b : Nat × Core => b.1) (fun b =>
    State.restoredCore ((s0.firmTouch ctx [(x.save, x.saveSize)]).markHeader ctx x v.tick 3) x
      ((x.stations.filter (fun n => decide (n < b.1 / 8))).length) b.1 b.2) hn hk
    ((s0.firmTouch ctx [(x.save, x.saveSize)]).markHeader ctx x v.tick 3)
  have hcores : (comingBack s0 ctx x v).coreAt c = State.restoredCore
      ((s0.firmTouch ctx [(x.save, x.saveSize)]).markHeader ctx x v.tick 3) x
      ((x.stations.filter (fun n => decide (n < c / 8))).length) c k := by
    refine Eq.trans (congrArg (fun cs => agetD cs c Core.reset) ?_) hset
    exact foldl_keeps State.cores (fun t k => State.setStation_cores ..) v.stations _
  rw [State.threadAt, hcores, aget_restoredCore, hth]
  exact ⟨_, _, _, _, rfl⟩

end Sys2Proof
end

section
/-! The Peal, and the requests to the partition manager settled (O54). -/

namespace Sys2Proof

open Sys2Proof.Machine

/-! ### The save at a Peal (R235 steps 5 and 6) -/

/-- What is saved of a context whose save finds no access waiting for a fill. -/
def savedOf (s : State) (y : Context) (tick : Nat) : Saved :=
  { tick := tick, cores := (coresOf y.stations).map (fun c => (c, s.coreAt c))
    stations := y.stations.map (fun st => (st, s.stationAt st)) }

/-- A context that has been saved. -/
def savedContext (s : State) (y : Context) (tick : Nat) : Context :=
  { y with running := false, stoppedAt := tick, peal := none, saved := some (savedOf s y tick) }

section
variable {s : State} (h : ∀ z ∈ s.accesses, z.stage ≠ .filling) (c : Nat) (y : Context) (tick : Nat)
include h

theorem ctxs_saveOut : (s.saveOut c y tick).ctxs = aset s.ctxs c (savedContext s y tick) := by
  rw [State.saveOut, settleFills_none h]
  rfl

theorem accesses_saveOut : (s.saveOut c y tick).accesses = s.accesses := by
  rw [State.saveOut, settleFills_none h]
  rfl

end

theorem ctxs_vacate (s : State) (stations : List Nat) : (s.vacate stations).ctxs = s.ctxs :=
  (foldl_keeps State.ctxs (fun t st => State.modStation_ctxs t st _) stations _).trans
    (foldl_keeps State.ctxs (fun t c => State.modCore_ctxs t c _) (coresOf stations) s)

theorem accesses_vacate (s : State) (stations : List Nat) : (s.vacate stations).accesses = s.accesses :=
  (foldl_keeps State.accesses (fun t st => State.modStation_accesses t st _) stations _).trans
    (foldl_keeps State.accesses (fun t c => State.modCore_accesses t c _) (coresOf stations) s)

/-- Cores that are changed in turn have no threads once each has had none, or has been changed. -/
theorem threads_foldl_modCore {f : Core → Core} (hf : ∀ k, (f k).threads = []) {l : List Nat} {core : Nat} (s : State)
    (h : core ∈ l ∨ (s.coreAt core).threads = []) : ((l.foldl (fun t c => t.modCore c f) s).coreAt core).threads = [] := by
  induction l generalizing s with
  | nil => exact h.resolve_left List.not_mem_nil
  | cons a r ih =>
    refine ih _ ?_
    by_cases ha : core = a
    · subst ha
      exact Or.inr (by rw [State.coreAt_modCore_self, hf])
    · rw [State.coreAt_modCore_ne _ _ ha]
      exact h.imp (fun hm => (List.mem_cons.1 hm).resolve_left ha) id

theorem threads_vacate (s : State) {stations : List Nat} {core : Nat} (h : core ∈ coresOf stations) :
    ((s.vacate stations).coreAt core).threads = [] := by
  have hcores := foldl_keeps State.cores (fun t st => State.modStation_cores t st Station.loaded) stations
    ((coresOf stations).foldl (fun t c => t.modCore c (fun k =>
      { Core.reset with lastBeat := k.lastBeat, stopped := k.stopped, lost := k.lost, spare := k.spare })) s)
  refine Eq.trans (congrArg (fun cs => (agetD cs core Core.reset).threads) hcores) ?_
  exact threads_foldl_modCore (fun _ => rfl) s (Or.inl h)

/-! ### Peals (R235) -/

/-- The state in which a Peal's save begins and its partition drains. -/
def drained (s : State) (c : Nat) (x : Context) (p : Peal) : State := (s.markHeader c x p.tick 1).drain c p.tick x.stations

section
variable {s : State} {c : Nat} {x : Context} {p : Peal} (hx : s.ctxAt c = some x) (hp : x.peal = some p)
include hx hp

theorem peal_early (ht : s.time.toNat < p.tick) : exec (.peal c) s = .next s := by
  simp [execPeal, hx, hp, ht]

theorem peal_busy (ht : p.tick ≤ s.time.toNat) (hr : x.running = true) (hb : (drained s c x p).busy c x.stations = true) :
    exec (.peal c) s = .next (drained s c x p) := by
  rw [Laws.exec_peal, execPeal, hx]
  simp only [hp, Nat.not_lt.2 ht, hr, Bool.not_true, Bool.false_eq_true, if_false]
  exact if_pos hb

theorem peal_saves {y : Context} (ht : p.tick ≤ s.time.toNat) (hr : x.running = true)
    (hb : (drained s c x p).busy c x.stations = false) (hy : (drained s c x p).ctxAt c = some y) :
    exec (.peal c) s = .next (State.comeIn (if p.unload then
        { ((drained s c x p).saveOut c y p.tick).vacate y.stations with
          ctxs := aerase (((drained s c x p).saveOut c y p.tick).vacate y.stations).ctxs c }
      else ((drained s c x p).saveOut c y p.tick).vacate y.stations) p.incoming) := by
  rw [Laws.exec_peal, execPeal, hx]
  simp only [hp, Nat.not_lt.2 ht, hr, Bool.not_true, Bool.false_eq_true, if_false]
  refine (if_neg (by rw [drained] at hb; simp [hb])).trans ?_
  rw [drained] at hy
  rw [hy]
  rfl

end

theorem comeIn_none (s : State) : s.comeIn none = pmEnded s 0 0 := rfl

theorem comeIn_saved {s : State} {i : Nat} {w : Context} {v : Saved} (hw : s.ctxAt i = some w) (hv : w.saved = some v) :
    s.comeIn (some i) = pmEnded (s.restore i w v) 0 0 := by
  rw [State.comeIn]
  simp only [hw, hv]
  rfl

/-- A context that comes in runs again, with all but its graphs, its control page and its fall-out region as they were. -/
theorem ctxAt_restore (s : State) (i : Nat) (w : Context) (v : Saved) : ∃ graphs g r, (s.restore i w v).ctxAt i = some { w with
    running := true, saved := none, peal := none, graphs := graphs, page := g, falloutRegion := r } := by
  obtain ⟨graphs, hback⟩ := ctxAt_comingBack s i w v
  obtain ⟨g, r, hctx⟩ := (mailOnly_restore s i w v).ctx i _ hback
  exact ⟨graphs, g, r, hctx⟩

/-- The other contexts are there behind the return of one. -/
theorem ctxAt_restore_ne {s : State} (h : ∀ z ∈ s.accesses, z.stage ≠ .filling) {i c : Nat} (hc : c ≠ i) {x : Context}
    (hx : s.ctxAt c = some x) (w : Context) (v : Saved) :
    ∃ g r, (s.restore i w v).ctxAt c = some { x with page := g, falloutRegion := r } := by
  have hback : (comingBack s i w v).ctxAt c = some x := by
    rw [ctxAt_comingBack_ne s w v hc, State.ctxAt, ctxs_of_besideMemory (besideMemory_firmTouch h _ _)]
    exact hx
  exact (mailOnly_restore s i w v).ctx c x hback

/-- A saved thread is back behind the return of its context. -/
theorem threadAt_restore (s : State) (i : Nat) {x : Context} {v : Saved} (hn : (v.cores.map Prod.fst).Nodup) {c : Nat}
    {k : Core} {slot : Nat} {th : Thread} (hk : (c, k) ∈ v.cores) (hth : aget k.threads slot = some th) :
    ∃ at_ w b q, (s.restore i x v).threadAt ⟨c, slot⟩ = some { th with haltedAt := at_, wait := w, inbox := b, sendq := q } := by
  obtain ⟨at_, w, b, q, hback⟩ := threads_comingBack s i hn hk hth
  obtain ⟨b', q', h⟩ := (mailOnly_restore s i x v).thread _ _ hback
  exact ⟨at_, w, b', q', h⟩

theorem wfld_low (w : Word) (hi : Nat) : wfld w hi 0 = w.toNat % 2 ^ (hi + 1) := by
  simp [wfld, fld]

/-! ### The parts of the obligation (R299 to R301) -/

theorem ofCode_eq (n : Nat) : Mode.ofCode n = (match n with | 0 => .user | 1 => .supervisor | _ => .machine) := by
  rcases n with _ | _ | n <;> rfl

theorem inctx_lt (p : PmBlock) : p.inctx < 2 ^ 6 := Nat.mod_lt _ (by decide)

/-- The request that a load ends, behind reads that change only the home slices. -/
theorem pmEnded_loadContext {s u : State} (h : besideHome u = besideHome s) (rcd header : List Word) (bytes : List Byte)
    (blocks : List (List Word × List Byte × List Byte)) :
    (pmEnded (u.loadContext s.host.pm rcd header bytes blocks) 0 0).host = (pmEnded s 0 0).host ∧
      (pmEnded (u.loadContext s.host.pm rcd header bytes blocks) 0 0).phys =
        { s.phys with old := (pmEnded (u.loadContext s.host.pm rcd header bytes blocks) 0 0).phys.old } := by
  obtain ⟨hhost, hphys⟩ := loadContext_keeps u s.host.pm rcd header bytes blocks
  have hu := eq_of_besideHome h
  constructor
  · simp only [pmEnded, hhost]
    rw [hu]
  · simp only [pmEnded, hphys]
    rw [hu]

/-- A context that a request names and that has no Peal. -/
theorem peal_none {s : State} (hn : ∀ c ∈ s.ctxs, c.2.peal = none) {c : Nat} {x : Context} (h : s.ctxAt c = some x) :
    x.peal = none := hn _ (mem_of_aget h)

section
variable {s : State} {x : Context} (hgo : s.host.pm.go = true) (hk : s.host.pm.kind = 2) (hn : ∀ c ∈ s.ctxs, c.2.peal = none)
include hgo hk hn

/-- A switch that names only the context that leaves. -/
theorem switch_out (ho : namedOut s.host.pm = some s.host.pm.outctx) (hi : namedIn s.host.pm = none) :
    (s.ctxAt s.host.pm.outctx = none → exec .partitionSwitch s = .next (pmEnded s 2 4)) ∧
    (s.ctxAt s.host.pm.outctx = some x → ¬ onStations s.host.pm true x = true →
      exec .partitionSwitch s = .next (pmEnded s 2 1)) ∧
    (s.ctxAt s.host.pm.outctx = some x → onStations s.host.pm true x = true →
      s.stationTaken s.host.pm.stations [s.host.pm.outctx] = true → exec .partitionSwitch s = .next (pmEnded s 2 3)) ∧
    (s.ctxAt s.host.pm.outctx = some x → onStations s.host.pm true x = true →
      s.stationTaken s.host.pm.stations [s.host.pm.outctx] = false →
      exec .partitionSwitch s = .next (s.setCtx s.host.pm.outctx (switchPeal s none x))) := by
  refine ⟨fun h => ?_, fun h hx => ?_, fun h hx ht => ?_, fun h hx ht => ?_⟩
  · exact switch_refused hgo hk hn (by decide) (by rw [ho, pmFault_absent_out h])
  · exact switch_refused hgo hk hn (by decide) (by rw [ho, hi, pmFault_out h (peal_none hn h), if_neg hx])
  · exact switch_refused hgo hk hn (by decide) (by rw [ho, hi, pmFault_out h (peal_none hn h), if_pos hx, if_pos ht])
  · have hs := switch_schedules hgo hk hn (by rw [ho, hi, pmFault_out h (peal_none hn h), if_pos hx, if_neg (by simp [ht])])
      (by rw [ho]; rfl) h
    rwa [hi] at hs

/-- A switch that names only the context that comes in. -/
theorem switch_in (ho : namedOut s.host.pm = none) (hi : namedIn s.host.pm = some s.host.pm.inctx) :
    (s.ctxAt s.host.pm.inctx = none → exec .partitionSwitch s = .next (pmEnded s 2 4)) ∧
    (s.ctxAt s.host.pm.inctx = some x → ¬ onStations s.host.pm false x = true →
      exec .partitionSwitch s = .next (pmEnded s 2 1)) ∧
    (s.ctxAt s.host.pm.inctx = some x → onStations s.host.pm false x = true →
      s.stationTaken s.host.pm.stations [s.host.pm.inctx] = false →
      exec .partitionSwitch s = .next (s.setCtx s.host.pm.inctx (switchPeal s (some s.host.pm.inctx) x))) := by
  refine ⟨fun h => ?_, fun h hx => ?_, fun h hx ht => ?_⟩
  · exact switch_refused hgo hk hn (by decide) (by rw [hi, pmFault_absent_in h])
  · exact switch_refused hgo hk hn (by decide) (by rw [ho, hi, pmFault_in h (peal_none hn h), if_neg hx])
  · have hs := switch_schedules hgo hk hn (by rw [ho, hi, pmFault_in h (peal_none hn h), if_pos hx, if_neg (by simp [ht])])
      (by rw [ho, hi]; rfl) h
    rwa [hi] at hs

/-- A switch that names both. -/
theorem switch_both (ho : namedOut s.host.pm = some s.host.pm.outctx) (hi : namedIn s.host.pm = some s.host.pm.inctx)
    {y : Context} (hx : s.ctxAt s.host.pm.outctx = some x) (hy : s.ctxAt s.host.pm.inctx = some y) :
    (¬ (onStations s.host.pm true x = true ∧ onStations s.host.pm false y = true) →
      exec .partitionSwitch s = .next (pmEnded s 2 1)) ∧
    (onStations s.host.pm true x = true → onStations s.host.pm false y = true →
      s.stationTaken s.host.pm.stations [s.host.pm.outctx, s.host.pm.inctx] = false →
      exec .partitionSwitch s = .next (s.setCtx s.host.pm.outctx (switchPeal s (some s.host.pm.inctx) x))) := by
  have hfault := pmFault_both (p := s.host.pm) hx (peal_none hn hx) hy (peal_none hn hy)
  refine ⟨fun h => ?_, fun h1 h2 ht => ?_⟩
  · exact switch_refused hgo hk hn (by decide) (by rw [ho, hi, hfault, if_neg (by simpa using h)])
  · have hs := switch_schedules hgo hk hn (by rw [ho, hi, hfault, if_pos (by simp [h1, h2]), if_neg (by simp [ht])])
      (by rw [ho]; rfl) hx
    rwa [hi] at hs

end

/-- An unpause whose checks pass. -/
theorem unpause_restores {s : State} {x : Context} {v : Saved} (hgo : s.host.pm.go = true) (hk : s.host.pm.kind = 4)
    (h : s.ctxAt s.host.pm.inctx = some x) (hp : x.peal = none) (hx : onStations s.host.pm false x = true)
    (ht : s.stationTaken s.host.pm.stations [s.host.pm.inctx] = false) (hv : x.saved = some v) :
    exec .partitionUnpause s = .next (pmEnded (s.restore s.host.pm.inctx x v) 0 0) := by
  have hfault : s.pmFault s.host.pm none (some s.host.pm.inctx) = 0 := by
    rw [pmFault_in h hp, if_pos hx, if_neg (by simp [ht])]
  rw [unpause_eq hgo hk, if_neg (by simp [hfault]), comeIn_saved h hv]

section
variable {u : State} (hfill : ∀ z ∈ u.accesses, z.stage ≠ .filling) (c : Nat) (y : Context) (tick : Nat)
include hfill

/-- A context that has been saved, and whose partition has been left. -/
theorem ctxAt_saved : ((u.saveOut c y tick).vacate y.stations).ctxAt c =
    some (savedContext (u.foldRange y.save y.saveSize) y tick) := by
  rw [State.ctxAt, ctxs_vacate, ctxs_saveOut hfill, aget_aset_self]
  rfl

theorem ctxAt_saved_ne {i : Nat} (h : i ≠ c) : ((u.saveOut c y tick).vacate y.stations).ctxAt i = u.ctxAt i := by
  rw [State.ctxAt, ctxs_vacate, ctxs_saveOut hfill, aget_aset_ne _ _ h]
  rfl

theorem settled_saved : ∀ z ∈ ((u.saveOut c y tick).vacate y.stations).accesses, z.stage ≠ .filling := by
  rw [accesses_vacate, accesses_saveOut hfill]
  exact hfill

end

theorem mem_savedOf (s : State) (y : Context) (tick : Nat) {core : Nat} (h : core ∈ coresOf y.stations) :
    (core, s.coreAt core) ∈ (savedOf s y tick).cores := List.mem_map.2 ⟨core, h, rfl⟩

/-- Settles O54: each request by its equations, a load and a return by what they set, the Peal by its save. -/
theorem partitionsLoadSwitchUnloadAndResume : Obligations.PartitionsLoadSwitchUnloadAndResume := by
  refine ⟨?load, ?requests, ?peal⟩
  case load =>
    intro s p c tag ends hgo hk
    refine ⟨load_resident hgo hk, fun habsent hroom => ⟨load_taken hgo hk habsent hroom, fun hfree himg => ?_, ?_⟩⟩
    · exact load_misaligned hgo hk habsent hroom hfree (by rw [wfld_low]; exact himg)
    · intro rb hb blocks hfree himg hf hu ha hrb hrec hhb hhead hblocks
      have htag : wfld ((dwords rb).getD 4 0) 7 0 = tag (dwords rb) := wfld_low _ 7
      have himage : wfld s.host.pm.img 41 0 = p.img.toNat % 2 ^ 42 := wfld_low _ 41
      obtain ⟨u, hbeside, hexec⟩ := load_passes hgo hk habsent hroom hfree (by rw [wfld_low]; exact himg) ⟨hf, hu, ha⟩ hrb hrec
        (by rw [htag, himage]; exact hhb) hhead (by rw [htag, himage]; exact hblocks)
      obtain ⟨hhost, hphys⟩ := pmEnded_loadContext hbeside (dwords rb) (dwords hb) hb blocks
      refine ⟨_, _, hexec, hhost, hphys, State.ctxAt_setCtx_self .., rfl, rfl, htag, rfl, rfl, rfl, ?_⟩
      intro j w bs sp core hblock hcore k
      have hcoreAt : k = u.loadedCore core (BitVec.ofNat 8 (wfld ((dwords rb).getD 4 0) 7 0)) (BitVec.ofNat 6 p.inctx) w sp :=
        coreAt_loadContext (s := u) (rcd := dwords rb) (header := dwords hb) (bytes := hb) hblock hcore
      rw [hcoreAt]
      refine ⟨rfl, rfl, fun hlen a ha => loadedCore_spad u core _ _ w hlen ha, fun hnil => by subst hnil; rfl, fun slot hslot => ?_⟩
      intro r
      rw [loadedCore_threads _ _ _ _ _ _ hslot]
      refine ⟨fun h => if_neg (ne_true_of_eq_false h), fun h => ⟨_, if_pos h, rfl, rfl, wfld_low _ 7, rfl, ?_, ?_, rfl, rfl, rfl, rfl, ?_⟩⟩
      · exact (BitVec.toNat_ofNat ..).trans (Nat.mod_eq_of_lt (inctx_lt p))
      · rw [htag]
        exact (BitVec.toNat_ofNat ..).trans (Nat.mod_mod _ _)
      · exact ofCode_eq _
  case requests =>
    intro s x p o i ends pealed leaves enters hgo
    have hout : p.outctx = o := outctx_eq p
    refine ⟨fun hk hn => ⟨fun h8 h24 => ?_, fun h8 h24 => ?_, fun h8 h24 y hx hy => ?_⟩, fun hk => ⟨fun h => ?_, fun h hs hp => ?_⟩,
      fun hk => ⟨fun h => ?_, fun v h hr hp hs ht hv hd => ?_⟩⟩
    · have ho : namedOut p = some p.outctx := if_neg (ne_true_of_eq_false h8)
      have hi : namedIn p = none := if_pos h24
      have hsw := switch_out (x := x) hgo hk hn ho hi
      rw [onStations_iff, hout] at hsw
      exact hsw
    · have ho : namedOut p = none := if_pos h8
      have hi : namedIn p = some p.inctx := if_neg (ne_true_of_eq_false h24)
      have hsw := switch_in (x := x) hgo hk hn ho hi
      rw [onStations_iff] at hsw
      exact hsw
    · have ho : namedOut p = some p.outctx := if_neg (ne_true_of_eq_false h8)
      have hi : namedIn p = some p.inctx := if_neg (ne_true_of_eq_false h24)
      have hsw := switch_both hgo hk hn ho hi (by rw [hout]; exact hx) hy
      rw [onStations_iff, onStations_iff, hout] at hsw
      exact ⟨fun h => hsw.1 (not_and_or.2 h), hsw.2⟩
    · exact unload_absent hgo hk (by rw [hout]; exact h)
    · have hun := unload_resident hgo hk (by rw [hout]; exact h) hs hp
      rw [hout] at hun
      exact ⟨fun hr => by rw [hun, hr]; rfl, fun hr => by rw [hun, hr]; rfl⟩
    · rw [unpause_eq hgo hk, pmFault_absent_in (i := s.host.pm.inctx) h]
      rfl
    · have hres := unpause_restores hgo hk h hp (onStations_iff.2 ⟨hr, hs⟩) ht hv
      obtain ⟨graphs, g, r, hctx⟩ := ctxAt_restore s i x v
      refine ⟨_, _, hres, rfl, rfl, hctx, rfl, rfl, rfl, rfl, fun c k slot th hcore hth => ?_⟩
      obtain ⟨at_, w, b, q, hback⟩ := threadAt_restore s i (x := x) hd hcore hth
      exact ⟨_, hback, rfl, rfl, rfl, rfl, rfl, rfl, rfl, rfl, rfl⟩
  case peal =>
    intro s c x y p hx hp
    refine ⟨peal_early hx hp, ?_⟩
    intro u
    refine ⟨peal_busy hx hp, fun ht hr hb hy hfill => ⟨fun hin => ?_, fun i w v hin hic hun hw hv => ?_⟩⟩
    · rw [peal_saves hx hp ht hr hb hy, hin, comeIn_none]
      have hthreads : ∀ core ∈ coresOf y.stations, (((u.saveOut c y p.tick).vacate y.stations).coreAt core).threads = [] :=
        fun core h => threads_vacate _ h
      have hsaved := ctxAt_saved hfill c y p.tick
      cases hun : p.unload
      · exact ⟨_, rfl, rfl, hthreads, fun h => absurd h (by decide), fun _ =>
          ⟨_, _, hsaved, rfl, rfl, rfl, rfl, fun core h => mem_savedOf _ y p.tick h⟩⟩
      · exact ⟨_, rfl, rfl, hthreads, fun _ => aget_aerase _ _, fun h => absurd h (by decide)⟩
    · rw [peal_saves hx hp ht hr hb hy, hin, hun]
      have hin' := (ctxAt_saved_ne hfill c y p.tick hic).trans hw
      obtain ⟨graphs, g, r, hctx⟩ := ctxAt_restore ((u.saveOut c y p.tick).vacate y.stations) i w v
      obtain ⟨g', r', hleft⟩ := ctxAt_restore_ne (settled_saved hfill c y p.tick) hic.symm (ctxAt_saved hfill c y p.tick) w v
      exact ⟨_, _, _, congrArg Host.Outcome.next (comeIn_saved hin' hv), rfl, hleft, rfl, rfl, hctx, rfl, rfl, rfl⟩

end Sys2Proof
end

section
/-! Messages that are sent and received (O32). -/

namespace Sys2Proof

open Sys2Proof.Machine

/-! ### Checks in order -/

/-- What follows from the next of some checks: where p holds it decides the outcome f, and where it does not the rest does. -/
theorem check_split {α : Type} {p q A B : Prop} [Decidable p] {f c rest : α} (hf : f = if p then c else rest) (hyes : f = c → A)
    (hq : q → ¬ p) (hno : q → f = rest → B) : (p → A) ∧ (q → B) :=
  ⟨fun hp => hyes (hf.trans (if_pos hp)), fun h => hno h (hf.trans (if_neg (hq h)))⟩

/-! ### Runs of doublewords of the own scratchpad (R149, R173) -/

theorem spadNumber_own (core a : Nat) : spadNumber core 0 a = core * 2 ^ 18 + a := rfl

/-- An aligned doubleword meets an aligned run of them exactly where it is one of them. -/
theorem overlaps_doublewords_iff {a : Nat} (ha : a % 8 = 0) (w n : Nat) :
    overlaps (8 * w) 8 a (8 * n) = true ↔ ∃ i < n, w = a / 8 + i := by
  rw [overlaps_iff]
  constructor
  · rintro ⟨h1, h2, -, -⟩
    exact ⟨w - a / 8, by omega, by omega⟩
  · rintro ⟨i, hi, rfl⟩
    omega

/-- A run that holds a doubleword with bad parity faults with the address of one (R149, log entry 6). -/
theorem parityFault_bad {s : State} {core a n : Nat} (ha : a % 8 = 0) (h : ∃ i < n, a / 8 + i ∈ (s.coreAt core).spadBad) :
    ∃ i < n, a / 8 + i ∈ (s.coreAt core).spadBad ∧
      s.parityFault core a (8 * n) = some (precise 20 (BitVec.ofNat 64 (a + 8 * i)) 1 0) := by
  obtain ⟨j, hj, hbad⟩ := h
  obtain ⟨w, hw, hany⟩ := anyOf_mem s (l := (s.coreAt core).spadBad.filter (fun w => overlaps (8 * w) 8 a (8 * n)))
    (List.ne_nil_of_mem (List.mem_filter.2 ⟨hbad, (overlaps_doublewords_iff ha _ n).2 ⟨j, hj, rfl⟩⟩))
  obtain ⟨hmem, hover⟩ := List.mem_filter.1 hw
  obtain ⟨i, hi, rfl⟩ := (overlaps_doublewords_iff ha w n).1 hover
  refine ⟨i, hi, hmem, ?_⟩
  rw [State.parityFault, hany, show a + 8 * i = 8 * (a / 8 + i) by omega]
  rfl

theorem parityFault_good {s : State} {core a n : Nat} (ha : a % 8 = 0) (h : ∀ i < n, a / 8 + i ∉ (s.coreAt core).spadBad) :
    s.parityFault core a (8 * n) = none := by
  have hnil : (s.coreAt core).spadBad.filter (fun w => overlaps (8 * w) 8 a (8 * n)) = [] := by
    rw [List.filter_eq_nil_iff]
    intro w hw hover
    obtain ⟨i, hi, rfl⟩ := (overlaps_doublewords_iff ha w n).1 hover
    exact h i hi hw
  rw [State.parityFault, hnil]
  rfl

/-- The number of doubleword i of an aligned run of a core's scratchpad. -/
def runWord (core a i : Nat) : Nat := core * 2 ^ 15 + a / 8 + i

theorem postedOwn_eq (s : State) (t : ThreadId) {a : Nat} (ha : a % 8 = 0) (n : Nat) : s.postedOwn t a (8 * n) =
    ((List.range n).find? (fun i => s.posting t (0, runWord t.core a i))).map (runWord t.core a) := by
  have hword (i : Nat) : spadNumber t.core 0 (a + 8 * i) / 8 = runWord t.core a i := by
    rw [spadNumber_own, runWord]; omega
  simp only [State.postedOwn, Nat.mul_div_cancel_left n (show 0 < 8 by decide), hword, List.find?_map]
  rfl

/-- The first doubleword of a run to which a posted store of the thread is under way. -/
theorem postedOwn_first {s : State} {t : ThreadId} {a n i : Nat} (ha : a % 8 = 0) (hi : i < n)
    (hp : s.posting t (0, runWord t.core a i) = true) (hfirst : ∀ j < i, ¬ s.posting t (0, runWord t.core a j) = true) :
    s.postedOwn t a (8 * n) = some (runWord t.core a i) := by
  have hfind : (List.range n).find? (fun i => s.posting t (0, runWord t.core a i)) = some i :=
    List.find?_range_eq_some.2 ⟨hp, List.mem_range.2 hi, fun j hj => by simpa using hfirst j hj⟩
  rw [postedOwn_eq s t ha, hfind]
  rfl

theorem postedOwn_none {s : State} {t : ThreadId} {a n : Nat} (ha : a % 8 = 0)
    (h : ∀ i < n, ¬ s.posting t (0, runWord t.core a i) = true) : s.postedOwn t a (8 * n) = none := by
  have hfind : (List.range n).find? (fun i => s.posting t (0, runWord t.core a i)) = none :=
    List.find?_eq_none.2 fun i hi => h i (List.mem_range.1 hi)
  rw [postedOwn_eq s t ha, hfind]
  rfl

/-! ### What stops a send (R168) -/

/-- The checks of R168 in their order, on a destination, a source address and a number of words. -/
theorem sendFault_eq (s : State) (t : ThreadId) (th : Thread) (a b : Word) {dst src words : Nat}
    (hdst : dst = a.toNat % 2 ^ 32) (hsrc : src = b.toNat % 2 ^ 18) (hwords : words = b.toNat / 2 ^ 32 % 2 ^ 5 + 1) :
    s.sendFault t th a b =
      if b.toNat / 2 ^ 37 % 2 ^ 11 ≠ 0 ∨ b.toNat / 2 ^ 18 % 2 ^ 14 ≠ 0 then
        some (precise 6 (BitVec.ofNat 64 b.toNat) 5 0)
      else if dst / 2 ^ 6 % 4 ≠ 0 ∨ 6 ≤ dst / 2 ^ 11 % 8 then some (precise 6 (BitVec.ofNat 64 a.toNat) 5 0)
      else if src % 8 ≠ 0 then some (precise 4 (BitVec.ofNat 64 src) 0 0)
      else if 0x40000 < src + 8 * words then some (precise 6 (BitVec.ofNat 64 src) 5 0)
      else if dst / 2 ^ 18 = s.pkg.device.toNat ∧ dst / 2 ^ 16 % 4 * 24 + dst / 2 ^ 15 % 2 * 12 + dst / 2 ^ 14 % 2 * 6 +
          dst / 2 ^ 11 % 8 ∉ ((s.ctxAt th.ctxId.toNat).map Context.stations).getD [] then
        some (precise 6 (BitVec.ofNat 64 dst) 5 0)
      else if dst / 2 ^ 18 ≠ 0 ∧ s.pkg.inPod = false then some (precise 6 (BitVec.ofNat 64 dst) 5 0)
      else if (s.coreAt t.core).locked s.time.toNat (t.core * 2 ^ 18 + src) (8 * words) = true then
        some (precise 7 (BitVec.ofNat 64 src) 0 0)
      else none := by
  have hd : wfld a 31 0 = dst := by rw [wfld_low, hdst]
  have hs : sendSource b = src := by rw [sendSource, wfld_low, hsrc]
  have hw : sendWords b = words := by rw [hwords]; rfl
  have hdevice : fld dst 31 18 = dst / 2 ^ 18 := by rw [fld, hdst]; omega
  have hbad : placeBad dst = true ↔ dst / 2 ^ 6 % 4 ≠ 0 ∨ 6 ≤ dst / 2 ^ 11 % 8 := by
    rw [placeBad, Bool.or_eq_true, bne_iff_ne, decide_eq_true_eq]
    rfl
  have hst : stationOfPlace dst = dst / 2 ^ 16 % 4 * 24 + dst / 2 ^ 15 % 2 * 12 + dst / 2 ^ 14 % 2 * 6 + dst / 2 ^ 11 % 8 := rfl
  simp only [State.sendFault, hd, hs, hw, hdevice, hbad, hst, BitVec.ofNat_toNat, BitVec.setWidth_eq, spadNumber_own,
    List.contains_eq_mem, decide_eq_false_iff_not]
  rfl

section
variable {s : State} {th : Thread} {a b : Reg} (h : Executes s th [a, b] [a, b]) (w : BitVec 3)
include h

theorem send_traps {c : TrapCause} (hf : s.sendFault s.cur th (s.g a) (s.g b) = some c) : Traps (.send a b w) s c := by
  rw [Traps, Laws.exec_send, execSend, h.onThread, h.gate, hf]
  rfl

variable (hf : s.sendFault s.cur th (s.g a) (s.g b) = none)
include hf

theorem send_traps_parity {c : TrapCause}
    (hp : s.parityFault s.cur.core (sendSource (s.g b)) (8 * sendWords (s.g b)) = some c) : Traps (.send a b w) s c := by
  rw [Traps, Laws.exec_send, execSend, h.onThread, h.gate, hf, orTrap_none, hp]
  rfl

variable (hp : s.parityFault s.cur.core (sendSource (s.g b)) (8 * sendWords (s.g b)) = none)
include hp

/-- A full send queue holds the send back (R168). -/
theorem send_full (hq : 2 ≤ th.sendq.length) : exec (.send a b w) s = .next (s.waitFor s.cur .sendRoom) := by
  rw [Laws.exec_send, execSend, h.onThread, h.gate, hf, orTrap_none, hp, orTrap_none, if_pos hq]

variable (hq : th.sendq.length < 2) (hfree : ReleaseFree s th (scopeOf (s.place s.cur) (wfld (s.g a) 31 0)))
include hq hfree

/-- A posted store of the thread to the payload holds it back (R173). -/
theorem send_behind {x : Nat} (hx : s.postedOwn s.cur (sendSource (s.g b)) (8 * sendWords (s.g b)) = some x) :
    exec (.send a b w) s = .next (s.waitFor s.cur (.behind 0 x)) := by
  rw [Laws.exec_send, execSend, h.onThread, h.gate, hf, orTrap_none, hp, orTrap_none, if_neg (Nat.not_le.2 hq),
    releaseStop_none hfree, orElse_none, hx]

/-- Else its message leaves (R168). -/
theorem send_leaves (hx : s.postedOwn s.cur (sendSource (s.g b)) (8 * sendWords (s.g b)) = none) :
    CompletesIn (State.setThread { s with
        flights := s.flights ++ [{ id := s.nextId, sender := some s.cur, msg := s.makeMessage s.cur th (s.g a) (s.g b) w
                                   stage := .travelling, port := none, sent := s.nextId }]
        nextId := s.nextId + 1 } s.cur { th with sendq := th.sendq ++ [s.nextId] })
      { th with sendq := th.sendq ++ [s.nextId] } (.send a b w) s 4 0 0 := by
  refine .of_finish h ?_ rfl (State.threadAt_setThread_self _ _ _) rfl rfl rfl
  rw [Laws.exec_send, execSend, h.onThread, h.gate, hf, orTrap_none, hp, orTrap_none, if_neg (Nat.not_le.2 hq),
    releaseStop_none hfree, orElse_none, hx]

end

/-! ### What a send takes its snapshot of (R100, R168) -/

section
variable (s : State) (t : ThreadId) (th : Thread) (a b : Word) (w : BitVec 3)

theorem makeMessage_dst : (s.makeMessage t th a b w).dst = a.setWidth 32 :=
  BitVec.eq_of_toNat_eq (by simp [State.makeMessage, wfld_low])

theorem makeMessage_tag : (s.makeMessage t th a b w).tag = b.extractLsb' 48 16 :=
  BitVec.eq_of_toNat_eq (by simp [State.makeMessage, wfld, fld, Nat.shiftRight_eq_div_pow])

theorem makeMessage_length : (s.makeMessage t th a b w).payload.length = b.toNat / 2 ^ 32 % 2 ^ 5 + 1 := by
  simp [State.makeMessage, sendWords, wfld, fld]

/-- A message without a wire format carries the doublewords of its source. -/
theorem makeMessage_payload : (s.makeMessage t th a b 0).payload =
    (List.range (sendWords b)).map (fun i => (s.coreAt t.core).spad.readWord (sendSource b + 8 * i)) := rfl

end

/-! ### recv (R170) -/

theorem messageHeader_eq (m : Message) : messageHeader m = BitVec.ofNat 64 (m.tag.toNat * 2 ^ 48 +
    (if m.returned then 2 ^ 40 else 0) + m.w.toNat * 2 ^ 37 + (m.payload.length - 1) % 32 * 2 ^ 32 + m.src.toNat) := by
  rw [messageHeader, b2n, ite_mul, one_mul, zero_mul]

/-- A freed entry changes nothing of its thread but the inbox (R169). -/
theorem freedEntry_threadAt {s : State} {t : ThreadId} {th : Thread} (h : s.threadAt t = some th) :
    ∃ b : Inbox, (s.freedEntry t).threadAt t = some { th with inbox := b } := by
  simp only [State.freedEntry, h]
  split
  · exact ⟨_, State.threadAt_setThread_self _ _ _⟩
  · split
    · exact ⟨_, h⟩
    · rename_i m _ _
      refine ⟨{ th.inbox with msgs := th.inbox.msgs ++ [m] }, ?_⟩
      rw [State.threadAt_modThread_self, State.threadAt_modStation, h]
      rfl

theorem freedEntry_cur (s : State) (t : ThreadId) : (s.freedEntry t).cur = s.cur := by
  unfold State.freedEntry
  split
  · rfl
  · split
    · rfl
    · split
      · rfl
      · exact State.modThread_cur ..

/-- The machine in which the executing thread has taken a message from its inbox to an address of its scratchpad. -/
def received (s : State) (th : Thread) (dest : Nat) (m : Message) (rest : List Message) : State :=
  ((s.modCore s.cur.core (fun k => k.spadWrite dest (messageBytes m))).setThread s.cur
    { th with inbox := { th.inbox with msgs := rest } }).freedEntry s.cur

section
variable {s : State} {th : Thread} {r : R2} (h : Executes s th [r.d, r.a] [r.a])
include h

theorem recv_empty (hm : th.inbox.msgs = []) : exec (.recv r) s = .next (s.waitFor s.cur .recv) := by
  rw [Laws.exec_recv, execRecv, h.onThread, h.gate, hm]

variable {m : Message} {rest : List Message} (hm : th.inbox.msgs = m :: rest)
include hm

theorem recv_traps {c : TrapCause} (hf : s.recvFault s.cur (s.g r.a) m.payload.length = some c) : Traps (.recv r) s c := by
  rw [Traps, Laws.exec_recv, execRecv, h.onThread, h.gate, hm]
  simp only [hf]
  rfl

variable (hf : s.recvFault s.cur (s.g r.a) m.payload.length = none)
include hf

/-- A posted store of the thread to the doublewords that it writes holds a recv back (R173). -/
theorem recv_behind {x : Nat} (hx : s.postedOwn s.cur (s.g r.a).toNat (8 * m.payload.length) = some x) :
    exec (.recv r) s = .next (s.waitFor s.cur (.behind 0 x)) := by
  rw [Laws.exec_recv, execRecv, h.onThread, h.gate, hm]
  simp only [hf, orTrap_none, hx]

/-- Else the payload goes to the scratchpad and the header to its register (R170). -/
theorem recv_takes (hx : s.postedOwn s.cur (s.g r.a).toNat (8 * m.payload.length) = none) :
    ∃ thb, (received s th (s.g r.a).toNat m rest).threadAt s.cur = some thb ∧ thb.pc = th.pc ∧
      CompletesIn (received s th (s.g r.a).toNat m rest) thb (.recv r) s 4 r.d (messageHeader m) := by
  have hth : (s.modCore s.cur.core (fun k => k.spadWrite (s.g r.a).toNat (messageBytes m))).threadAt s.cur = some th :=
    (State.threadAt_modCore s _ (fun k => k.spadWrite _ _) (fun _ => rfl) _).trans h.created
  obtain ⟨b, hb⟩ := freedEntry_threadAt (State.threadAt_setThread_self
    (s.modCore s.cur.core (fun k => k.spadWrite (s.g r.a).toNat (messageBytes m))) s.cur
    { th with inbox := { th.inbox with msgs := rest } })
  refine ⟨_, hb, rfl, .of_finishWith h ?_ (freedEntry_cur _ _) hb rfl rfl rfl rfl⟩
  rw [Laws.exec_recv, execRecv, h.onThread, h.gate, hm]
  simp only [hf, orTrap_none, hx, modThread_eq hth]
  rfl

end

end Sys2Proof
end

section
/-! Messages on their way, and the settling of O32. -/

namespace Sys2Proof

open Sys2Proof.Machine

/-! ### A message at its receiver (R169) -/

theorem room_iff (b : Inbox) (id : Nat) :
    b.room id = true ↔ id ∈ b.reserved ∨ b.msgs.length + b.reserved.length < 4 := by
  simp [Inbox.room]

/-- The machine without a message under way. -/
def withoutFlight (s : State) (f : Flight) : State := { s with flights := s.flights.filter (fun g => g.id != f.id) }

theorem withoutFlight_touchRoute (s : State) (path : List Nat) (f : Flight) : withoutFlight (s.touchRoute path) f =
    { s.touchRoute path with flights := s.flights.filter (fun g => g.id != f.id) } := by
  rw [withoutFlight, show (s.touchRoute path).flights = s.flights by rw [touchRoute_eq]]

/-- The inbox in which a message has landed. -/
def landedIn (b : Inbox) (f : Flight) : Inbox :=
  { b with msgs := b.msgs ++ [f.msg], reserved := b.reserved.filter (· != f.id) }

/-- A thread whose send queue a message has left. -/
def withoutSend (th : Thread) (f : Flight) : Thread := { th with sendq := th.sendq.filter (· != f.id) }

theorem leaveSendQueue_returned {s : State} {f : Flight} (h : f.sender = none) : s.leaveSendQueue f = withoutFlight s f := by
  simp only [State.leaveSendQueue, h]
  rfl

theorem leaveSendQueue_sent {s : State} {f : Flight} {u : ThreadId} {sender : Thread} (h : f.sender = some u)
    (hu : s.threadAt u = some sender) :
    s.leaveSendQueue f = (withoutFlight s f).setThread u (withoutSend sender f) := by
  simp only [State.leaveSendQueue, h]
  exact modThread_eq (s := withoutFlight s f) hu _

section
variable {s : State} {f : Flight} {t : ThreadId} {th : Thread}

/-- With room, a message leaves the send queue and lands. -/
theorem land_room (hroom : f.id ∈ th.inbox.reserved ∨ th.inbox.msgs.length + th.inbox.reserved.length < 4) :
    s.land f t th = (s.leaveSendQueue f).modThread t (fun th => { th with inbox := landedIn th.inbox f }) :=
  if_pos ((room_iff _ _).2 hroom)

theorem land_returned (ht : s.threadAt t = some th) (hs : f.sender = none)
    (hroom : f.id ∈ th.inbox.reserved ∨ th.inbox.msgs.length + th.inbox.reserved.length < 4) :
    s.land f t th = (withoutFlight s f).setThread t { th with inbox := landedIn th.inbox f } := by
  rw [land_room hroom, leaveSendQueue_returned hs]
  exact modThread_eq (s := withoutFlight s f) ht _

/-- The sender may be the receiver itself. -/
theorem land_sent {u : ThreadId} {sender : Thread} (ht : s.threadAt t = some th) (hs : f.sender = some u)
    (hu : s.threadAt u = some sender)
    (hroom : f.id ∈ th.inbox.reserved ∨ th.inbox.msgs.length + th.inbox.reserved.length < 4) :
    s.land f t th = ((withoutFlight s f).setThread u (withoutSend sender f)).setThread t
      { (if u = t then withoutSend th f else th) with inbox := landedIn th.inbox f } := by
  rw [land_room hroom, leaveSendQueue_sent hs hu]
  by_cases hut : u = t
  · subst hut
    obtain rfl : th = sender := Option.some.inj (ht.symm.trans hu)
    rw [if_pos rfl]
    exact modThread_eq (State.threadAt_setThread_self _ _ _) _
  · rw [if_neg hut]
    exact modThread_eq ((State.threadAt_setThread_ne (withoutFlight s f) _ (Ne.symm hut)).trans ht) _

/-- Without room it is refused and recorded (R169). -/
theorem land_refused (hroom : ¬ (f.id ∈ th.inbox.reserved ∨ th.inbox.msgs.length + th.inbox.reserved.length < 4))
    (hret : f.msg.returned = false) (hrec : th.inbox.refused.length < 64) :
    s.land f t th = (s.setThread t { th with inbox := { th.inbox with refused := th.inbox.refused ++ [f.id] } }).modFlight f.id
      (fun g => { g with stage := .recorded }) := by
  rw [State.land, if_neg (mt (room_iff _ _).1 hroom), if_neg (by simp [hret]), if_pos hrec]

/-- At a live thread of a running partition, a message that has come along a path lands or is refused (R169, R235, R238). -/
theorem deliverMessage_lands {x : Context} (path : List Nat) (hdev : f.msg.dst.toNat / 2 ^ 18 % 2 ^ 14 = s.pkg.device.toNat)
    (hx : s.ctxAt f.msg.ctx = some x) (hrun : x.active s.time = true) (ht : s.threadAt (threadOfPlace f.msg.dst.toNat) = some th)
    (hlost : (s.coreAt (threadOfPlace f.msg.dst.toNat).core).lost = false)
    (hdead : (threadOfPlace f.msg.dst.toNat).core ∉ s.pkg.deadPlaces)
    (hst : (threadOfPlace f.msg.dst.toNat).core / 8 ∈ x.stations) :
    (s.touchRoute path).deliverMessage f = (s.touchRoute path).land f (threadOfPlace f.msg.dst.toNat) th := by
  obtain ⟨l, hl⟩ : ∃ l, s.touchRoute path = { s with stations := l } := ⟨_, touchRoute_eq s path⟩
  have hgone : ((s.coreAt (threadOfPlace f.msg.dst.toNat).core).lost ||
      s.pkg.deadPlaces.contains (threadOfPlace f.msg.dst.toNat).core ||
      !x.stations.contains (stationOfCore (threadOfPlace f.msg.dst.toNat).core)) = false := by
    simpa [hlost, stationOfCore] using ⟨hdead, hst⟩
  have hx' : State.ctxAt { s with stations := l } f.msg.ctx = some x := hx
  have ht' : State.threadAt { s with stations := l } (threadOfPlace f.msg.dst.toNat) = some th := ht
  rw [hl, State.deliverMessage]
  refine (if_neg (not_not.2 hdev)).trans ?_
  simp only [hx', ht', hrun]
  exact if_neg (ne_true_of_eq_false hgone)

end

/-! ### A message on its way (R169, R270, R271) -/

section
variable {s : State} {f : Flight} (hf : s.flights.find? (fun g => g.id == f.id) = some f)
include hf

/-- In its turn a travelling message goes on where every router of its way is awake. -/
theorem messageArrival_travels (hst : f.stage = .travelling) (hb : s.behindMessage f = false)
    (hp : s.inside f.msg = true → s.behindPacket f = false) : exec (.messageArrival f.id) s =
      if s.routeOpen (s.messageRoute f.msg) then .next ((s.touchRoute (s.messageRoute f.msg)).deliverMessage f) else .next s := by
  have hturn : (s.inside f.msg && s.behindPacket f) = false := by
    cases hi : s.inside f.msg with
    | false => rfl
    | true => exact hp hi
  rw [Laws.exec_messageArrival, execMessageArrival]
  simp only [hf, hst, hb, hturn, Bool.false_eq_true, if_false, Bool.not_false, Bool.and_true]

theorem messageNotice_resends (hst : f.stage = .noticed) : exec (.messageNotice f.id) s = .next (s.resend f.id) := by
  rw [Laws.exec_messageNotice, execMessageNotice, hf]
  exact if_pos hst

theorem messageRetry_resends {since : Nat} (hst : f.stage = .unrecorded since) (h : since + 1024 ≤ s.time.toNat) :
    exec (.messageRetry f.id) s = .next (s.resend f.id) := by
  rw [Laws.exec_messageRetry, execMessageRetry, hf]
  simp only [hst]
  exact if_neg (Nat.not_lt.2 h)

end

/-- Settles O32: send and recv are their checks in order and then one of their ends; an arrival is its way and then `State.land`. -/
theorem messagesSentReceivedAndRefused : Obligations.MessagesSentReceivedAndRefused := by
  refine ⟨⟨?send, ?recv⟩, ?way⟩
  case send =>
    intro s th a b w h dst v src words k device station reserved nowhere foreign noPod locked traps
    have hdst : wfld (s.g a) 31 0 = dst := wfld_low _ 31
    have hsrc : sendSource (s.g b) = src := wfld_low _ 17
    have hf := sendFault_eq s s.cur th (s.g a) (s.g b) (dst := dst) (src := src) (words := words) rfl rfl rfl
    refine check_split hf (send_traps h w) id fun _ hf => check_split hf (send_traps h w) id fun _ hf =>
      check_split hf (send_traps h w) not_not.2 fun hal hf => check_split hf (send_traps h w) Nat.not_lt.2 fun _ hf =>
      check_split hf (send_traps h w) id fun _ hf => check_split hf (send_traps h w) id fun _ hf =>
      check_split hf (send_traps h w) id fun _ hf => ⟨fun hbad => ?parity, fun hgood => ?room⟩
    case parity =>
      obtain ⟨i, hi, hmem, hp⟩ := parityFault_bad hal hbad
      exact ⟨i, hi, hmem, send_traps_parity h w hf (by rw [hsrc]; exact hp)⟩
    have hp : s.parityFault s.cur.core (sendSource (s.g b)) (8 * sendWords (s.g b)) = none := by
      rw [hsrc]; exact parityFault_good hal hgood
    refine ⟨send_full h w hf hp, fun hq hfree => ?_⟩
    rw [← hdst] at hfree
    refine ⟨fun i hi hpost hfirst => ?behind, fun hnone => ?leaves⟩
    case behind => exact send_behind h w hf hp hq hfree (by rw [hsrc]; exact postedOwn_first hal hi hpost hfirst)
    case leaves =>
      refine ⟨s.makeMessage s.cur th (s.g a) (s.g b) w, rfl, makeMessage_dst .., makeMessage_tag .., rfl, rfl, rfl,
        makeMessage_length .., ?_, send_leaves h w hf hp hq hfree (by rw [hsrc]; exact postedOwn_none hal hnone)⟩
      rintro rfl
      rw [makeMessage_payload, hsrc]
      rfl
  case recv =>
    intro s th r h
    refine ⟨recv_empty h, fun m rest hm => ?_⟩
    refine check_split (f := s.recvFault s.cur (s.g r.a) m.payload.length) rfl (recv_traps h hm) not_not.2 fun hal hf =>
      check_split hf (recv_traps h hm) Nat.not_lt.2 fun _ hf => check_split hf (recv_traps h hm) id fun _ hf =>
      ⟨fun i hi hpost hfirst => recv_behind h hm hf (postedOwn_first hal hi hpost hfirst),
        fun hnone => messageHeader_eq m ▸ recv_takes h hm hf (postedOwn_none hal hnone)⟩
  case way =>
    intro s f hf becomes resent
    refine ⟨fun x th hst hb hp hdev hx hrun => ?_, messageNotice_resends hf, fun since => messageRetry_resends hf⟩
    have hgo := messageArrival_travels hf hst hb hp
    refine ⟨routersTouched_touchRoute s _, touchRoute_eq s _, fun hshut => ?shut, fun hopen ht hlost hdead hpart => ?lands⟩
    case shut => rw [hgo, if_neg (by simp [hshut])]
    case lands =>
      rw [if_pos hopen, deliverMessage_lands _ hdev hx hrun ht hlost hdead hpart] at hgo
      have ht1 := (touchRoute_threadAt s (s.messageRoute f.msg) _).trans ht
      refine ⟨fun hroom hs => ?_, fun u sender hroom hs hu => ?_, fun hroom hret hrec => ?_⟩
      · rw [hgo, land_returned ht1 hs hroom, withoutFlight_touchRoute]
        rfl
      · rw [hgo, land_sent ht1 hs ((touchRoute_threadAt ..).trans hu) hroom, withoutFlight_touchRoute]
        rfl
      · rw [hgo, land_refused hroom hret hrec]
        rfl

end Sys2Proof
end

section
/-! What the operand words of an array command say (O40). -/

namespace Sys2Proof

open Sys2Proof.Machine

/-! ### Rows and spans (R250, R257) -/

theorem bitAt_toNat (w : Word) (n : Nat) : bitAt w.toNat n = w.getLsbD n := by
  rw [BitVec.getLsbD, Nat.testBit_eq_decide_div_mod_eq, bitAt, beq_eq_decide]

theorem splitFmt_width (f : Nat) : (splitFmt f).width = [32, 64, 16, 16, 8, 8, 6, 4, 8, 8].getD f 8 := by
  match f with
  | 0 | 1 | 2 | 3 | 4 | 5 | 6 | 7 | 8 | 9 => rfl
  | n + 10 => rfl

/-- The bytes of a row of mload or msplit. -/
def rowBytes (k : ArrKind) (a w : Word) : Nat :=
  let len := if w.getLsbD 27 then wfld a 59 54 + 1 else 128
  if k = .mload then 2 * len else len * [32, 64, 16, 16, 8, 8, 6, 4, 8, 8].getD (wfld w 18 15) 8 / 8

theorem loadRowBytes_eq (k : ArrKind) (a w : Word) : loadRowBytes k w.toNat a = rowBytes k a w := by
  simp only [loadRowBytes, rowElems, arrSparse, bitAt_toNat, splitFmt_width]
  rfl

/-- The bytes of an element of a recombination. -/
def combBytes (w : Word) : Nat := [8, 4, 2].getD (wfld w 21 20) 2

theorem cmbFmt_width (w : Word) : (cmbFmt w.toNat).width = 8 * combBytes w := by
  have h : ∀ n, (match n with | 0 => Fmt.fp64 | 1 => Fmt.fp32 | _ => Fmt.bf16).width = 8 * [8, 4, 2].getD n 2
    | 0 | 1 | 2 => rfl
    | n + 3 => rfl
  exact h (wfld w 21 20)

theorem combRow_eq (w : Word) : combRow w.toNat = 64 * combBytes w := by
  rw [combRow, cmbFmt_width]; omega

/-- What 64 rows of some bytes span under the pitch of a control word. -/
def rowsSpan (w : Word) (row : Nat) : Nat := 63 * (8 * (if wfld w 14 0 = 0 then (row + 7) / 8 else wfld w 14 0)) + row

theorem combSpan_eq (w : Word) : combSpan w.toNat = rowsSpan w (64 * combBytes w) := by
  rw [combSpan, combRow_eq]
  rfl

/-- A kind of elements with a scale to each block. -/
def Scaled (k : ArrKind) (w : Word) : Prop := k = .msplit ∧ 4 ≤ wfld w 18 15 ∧ wfld w 18 15 ≤ 7

theorem mxFmt_iff (f : Nat) : mxFmt f = true ↔ 4 ≤ f ∧ f ≤ 7 := by
  rw [mxFmt, Bool.and_eq_true, decide_eq_true_eq, decide_eq_true_eq]

/-! ### Malformed words (R248 step 1, R250, R253, R255, R257, R259, log entry 31) -/

/-- The control word of mload or msplit is malformed. -/
def BadLoad (k : ArrKind) (a w : Word) : Prop :=
  let S := wfld w 31 29
  let first := wfld w 24 19
  2 ^ 32 ≤ w.toNat ∨ (w.getLsbD 27 = true ∧ w.getLsbD 28 = true) ∨
  (wfld w 14 0 ≠ 0 ∧ wfld w 14 0 < (rowBytes k a w + 7) / 8) ∨
  (k = .mload ∧ (wfld w 26 25 ≠ 0 ∨ w.getLsbD 15 = true ∨ S = 0 ∨ wfld w 18 16 = 0 ∨ S < wfld w 18 16 ∨ 63 < first + S - 1)) ∨
  (k = .msplit ∧ (wfld w 26 25 = 3 ∨ 9 < wfld w 18 15 ∨ (w.getLsbD 27 = true ∧ Scaled k w) ∨
    (wfld w 26 25 = 2 ∧ (S ≠ 0 ∨ first ≠ 0)) ∨ (wfld w 26 25 ≠ 2 ∧ (S = 0 ∨ 63 < first + S - 1))))

/-- The address word of mload or msplit is malformed. -/
def BadAddress (k : ArrKind) (a w : Word) : Prop :=
  a.getLsbD 63 = true ∨ (¬ w.getLsbD 27 = true ∧ wfld a 59 54 ≠ 0) ∨ (¬ w.getLsbD 27 = true ∧ ¬ Scaled k w ∧ wfld a 35 18 ≠ 0)

/-- The control word of mmul is malformed. -/
def BadMul (w : Word) : Prop := 2 ^ 31 ≤ w.toNat ∨ wfld w 27 14 ≠ 0 ∨ wfld w 3 1 ≠ 0 ∨ 12 < wfld w 7 4

/-- The control word of mslice is malformed. -/
def BadSlice (tile slot : Nat) (w : Word) : Prop :=
  let n := wfld w 2 0
  2 ^ 31 ≤ w.toNat ∨ wfld w 27 14 ≠ 0 ∨ wfld w 7 5 ≠ 0 ∨ n = 0 ∨ 63 < wfld w 13 8 + n - 1 ∨ 63 < slot + n - 1 ∨
    (w.getLsbD 4 = true ∧ 14 < tile)

/-- The control word of mcomb or mdrain is malformed, under a rounding mode of fcsr. -/
def BadComb (rm : Nat) (w : Word) : Prop :=
  2 ^ 31 ≤ w.toNat ∨ wfld w 16 15 ≠ 0 ∨ (w.getLsbD 22 = true ∧ wfld w 27 24 = 15) ∨ wfld w 21 20 = 3 ∨ wfld w 19 17 = 5 ∨
    wfld w 19 17 = 6 ∨ (wfld w 19 17 = 7 ∧ 5 ≤ rm) ∨ (wfld w 14 0 ≠ 0 ∧ wfld w 14 0 < 8 * combBytes w)

/-- The Gong word of mdrain is malformed. -/
def BadGong (rc : Word) : Prop :=
  rc ≠ 0 ∧ (rc.getLsbD 63 = true ∨ wfld rc 60 56 = 0 ∨ 16 < wfld rc 60 56 ∨ wfld rc 1 0 ≠ 0)

section
variable (a w : Word)

theorem pitchBad_iff (row : Nat) :
    pitchBad (arrPitch w.toNat) row = true ↔ wfld w 14 0 ≠ 0 ∧ wfld w 14 0 < (row + 7) / 8 := by
  rw [pitchBad, Bool.and_eq_true, bne_iff_ne, decide_eq_true_eq]
  rfl

theorem or_pitch_iff (p q kind pitch : Prop) : ((p ∨ q) ∨ kind) ∨ pitch ↔ p ∨ q ∨ pitch ∨ kind := by tauto

theorem loadCtlBad_iff {k : ArrKind} (hk : k = .mload ∨ k = .msplit) : loadCtlBad k w.toNat a = true ↔ BadLoad k a w := by
  simp only [loadCtlBad, loadRowBytes_eq, pitchBad_iff, Bool.or_eq_true, Bool.and_eq_true, decide_eq_true_eq]
  rw [or_pitch_iff]
  refine or_congr Iff.rfl (or_congr (by simp only [arrSparse, arrSideB, bitAt_toNat]) (or_congr Iff.rfl ?_))
  obtain rfl | rfl := hk
  · simp only [if_true, reduceCtorEq, true_and, false_and, or_false, Bool.or_eq_true, decide_eq_true_eq, bne_iff_ne, beq_iff_eq,
      bitAt_toNat, or_assoc]
    rfl
  · simp only [if_false, reduceCtorEq, true_and, false_and, false_or, Bool.or_eq_true, Bool.and_eq_true, decide_eq_true_eq,
      bne_iff_ne, beq_iff_eq, Bool.ite_eq_true_distrib, ite_prop_iff_or, mxFmt_iff, arrSparse, bitAt_toNat, Scaled, or_assoc]
    rfl

theorem loadAdrBad_iff {k : ArrKind} : loadAdrBad k w.toNat a = true ↔ BadAddress k a w := by
  have haux : usesAuxRange k w.toNat = false ↔ ¬ w.getLsbD 27 = true ∧ ¬ Scaled k w := by
    rw [← Bool.not_eq_true, usesAuxRange, Bool.or_eq_true, Bool.and_eq_true, mxFmt_iff, beq_iff_eq, arrSparse, bitAt_toNat, not_or]
    rfl
  simp only [loadAdrBad, Bool.or_eq_true, Bool.and_eq_true, Bool.not_eq_true', haux, bne_iff_ne, arrSparse, bitAt_toNat,
    ← Bool.not_eq_true, and_assoc, or_assoc]
  rfl

theorem mulCtlBad_mmul (tile slot : Nat) : mulCtlBad .mmul tile slot w.toNat = true ↔ BadMul w := by
  simp only [mulCtlBad, if_true, Bool.or_eq_true, decide_eq_true_eq, bne_iff_ne, or_assoc]
  rfl

theorem mulCtlBad_mslice (tile slot : Nat) : mulCtlBad .mslice tile slot w.toNat = true ↔ BadSlice tile slot w := by
  simp only [mulCtlBad, reduceCtorEq, if_false, slcFull, bitAt_toNat, Bool.or_eq_true, Bool.and_eq_true, decide_eq_true_eq,
    bne_iff_ne, beq_iff_eq, or_assoc]
  rfl

theorem combCtlBad_iff (f : Fcsr) : combCtlBad w.toNat f = true ↔ BadComb f.rm.toNat w := by
  have hrow : (64 * combBytes w + 7) / 8 = 8 * combBytes w := by omega
  simp only [combCtlBad, pitchBad_iff, combRow_eq, hrow, cmbPair, bitAt_toNat, Bool.or_eq_true, Bool.and_eq_true,
    decide_eq_true_eq, bne_iff_ne, beq_iff_eq, or_assoc]
  rfl

theorem gongBad_iff (rc : Word) : (rc ≠ 0 ∧ postBad rc = true) ↔ BadGong rc := by
  simp only [BadGong, postBad, Bool.or_eq_true, decide_eq_true_eq, or_assoc]

end

/-- The word of a command that is malformed. -/
def Malformed (k : ArrKind) (rc a w : Word) (tile slot rm : Nat) (x : Word) : Prop :=
  ((k = .mload ∨ k = .msplit) ∧ ((BadLoad k a w ∧ x = w) ∨ (¬ BadLoad k a w ∧ BadAddress k a w ∧ x = a))) ∨
  (k = .mmul ∧ BadMul w ∧ x = w) ∨ (k = .mslice ∧ BadSlice tile slot w ∧ x = w) ∨
  ((k = .mcomb ∨ k = .mdrain) ∧
    let badDest := (k = .mcomb ∧ wfld a 63 18 ≠ 0) ∨ (k = .mdrain ∧ wfld a 63 50 ≠ 0)
    ((BadComb rm w ∧ x = w) ∨ (¬ BadComb rm w ∧ badDest ∧ x = a) ∨ (¬ BadComb rm w ∧ ¬ badDest ∧ (k = .mdrain ∧ BadGong rc) ∧
      x = rc)))

theorem ite_some_eq_some {α : Type} {p : Prop} [Decidable p] {a x : α} {o : Option α} :
    (if p then some a else o) = some x ↔ (p ∧ x = a) ∨ (¬ p ∧ o = some x) := by
  by_cases h : p <;> simp [h, eq_comm]

theorem arrWordBad_iff (k : ArrKind) (rc a w : Word) (tile slot : Nat) (f : Fcsr) (x : Word) :
    arrWordBad k rc a w tile slot f = some x ↔ Malformed k rc a w tile slot f.rm.toNat x := by
  unfold Malformed
  cases k with
  | mload | msplit =>
    simp only [arrWordBad, ite_some_eq_some, loadCtlBad_iff, loadAdrBad_iff, reduceCtorEq, or_true, true_and, false_and, and_false,
      or_self, or_false]
  | mzero => simp only [arrWordBad, reduceCtorEq, false_and, or_self]
  | mmul | mslice | mcomb | mdrain =>
    simp only [arrWordBad, ite_some_eq_some, mulCtlBad_mmul, mulCtlBad_mslice, combCtlBad_iff, gongBad_iff, and_or_left,
      reduceCtorEq, or_true, true_and, false_and, and_false, or_self, or_false, false_or]

end Sys2Proof
end

section
/-! The checks of an array command, its acceptance, and the settling of O40. -/

namespace Sys2Proof

open Sys2Proof.Machine

/-! ### First members and ranges in order (R198, R248) -/

theorem FirstOf.find?_eq {α : Type} {l : List α} {p : α → Prop} {r : α} (h : FirstOf l p r) {q : α → Bool}
    (hq : ∀ x, q x = true ↔ p x) : l.find? q = some r := by
  obtain ⟨a, b, rfl, hr, ha⟩ := h
  exact List.find?_eq_some_iff_append.2 ⟨(hq r).2 hr, a, b, rfl, fun x hx => by simpa using mt (hq x).1 (ha x hx)⟩

theorem find?_eq_none_of {α : Type} {l : List α} {p : α → Prop} (h : ∀ x ∈ l, ¬ p x) {q : α → Bool} (hq : ∀ x, q x = true ↔ p x) :
    l.find? q = none :=
  List.find?_eq_none.2 fun x hx => mt (hq x).1 (h x hx)

theorem outside_iff (r : SpadRange) : r.outside = true ↔
    0x40000 < (if r.sp = 0 then r.addr else r.addr % 2 ^ 18) + r.len ∨ (r.sp ≠ 0 ∧ 95 < r.addr / 2 ^ 18) := by
  by_cases h : r.sp = 0 <;> simp [SpadRange.outside, h]

/-- The checks of a command's ranges are those of R198 steps 5 to 7. -/
theorem rangesChecked_rangeFault (s : State) (core : Nat) (rs : List SpadRange) :
    RangesChecked s core rs (s.rangeFault core rs) := by
  have hodd (r : SpadRange) : (r.addr % r.align != 0) = true ↔ r.addr % r.align ≠ 0 := bne_iff_ne
  refine ⟨fun r h => ?_, fun h1 => ⟨fun r h => ?_, fun h2 => ⟨fun r h => ?_, fun h => ?_⟩⟩⟩
  · simp only [State.rangeFault, h.find?_eq hodd]
  · simp only [State.rangeFault, find?_eq_none_of h1 hodd, h.find?_eq outside_iff]
  · simp only [State.rangeFault, find?_eq_none_of h1 hodd, find?_eq_none_of h2 outside_iff, h.find?_eq fun _ => Iff.rfl]
  · simp only [State.rangeFault, find?_eq_none_of h1 hodd, find?_eq_none_of h2 outside_iff, find?_eq_none_of h fun _ => Iff.rfl]

/-! ### The ranges of an array command (R250, R257, R259) -/

/-- The scratchpad ranges of a command of a core. -/
def rangesOf (issuer : Nat) (k : ArrKind) (a w : Word) : List SpadRange :=
  let own (x len : Nat) : SpadRange := ⟨0, x, len, 8⟩
  let core := (threadOfPlace (wfld a 31 0)).core
  match k with
  | .mload => [own (wfld a 17 0) (rowsSpan w (rowBytes k a w)), own (wfld a 53 36) 128] ++
      if w.getLsbD 27 = true then [own (wfld a 35 18) 4096] else []
  | .msplit => [own (wfld a 17 0) (rowsSpan w (rowBytes k a w)), own (wfld a 53 36) 128] ++
      if w.getLsbD 27 = true then [own (wfld a 35 18) 4096]
      else if k = .msplit ∧ 4 ≤ wfld w 18 15 ∧ wfld w 18 15 ≤ 7 then [own (wfld a 35 18) 256] else []
  | .mcomb => [own (wfld a 17 0) (rowsSpan w (64 * combBytes w))]
  | .mdrain =>
    if core / 96 = issuer / 96 then [⟨1, core % 96 * 2 ^ 18 + wfld a 49 32, rowsSpan w (64 * combBytes w), 8⟩] else []
  | _ => []

theorem arrRanges_eq (issuer : Nat) (k : ArrKind) (a w : Word) : arrRanges issuer k a w.toNat = rangesOf issuer k a w := by
  cases k with
  | mload =>
    simp only [arrRanges, loadRowBytes_eq, arrSparse, bitAt_toNat]
    rfl
  | msplit =>
    simp only [arrRanges, loadRowBytes_eq, arrSparse, bitAt_toNat, mxFmt_iff, rangesOf, true_and]
    rfl
  | mcomb | mdrain =>
    simp only [arrRanges, combSpan_eq]
    rfl
  | mmul | mslice | mzero => rfl

theorem align_of_mem_arrRanges {issuer : Nat} {k : ArrKind} {a : Word} {c : Nat} {r : SpadRange} (h : r ∈ arrRanges issuer k a c) :
    r.align = 8 := by
  cases k <;> grind [arrRanges]

/-! ### The checks in their order (R248) -/

section
variable {s : State} {t : ThreadId} {th : Thread} {k : ArrKind} {rc a w : Word} {tile slot : Nat}

theorem arrayFault_word {x : Word} (h : arrWordBad k rc a w tile slot th.fcsr = some x) :
    s.arrayFault t th k rc a w tile slot = some (precise 16 x 0x30 0) := by
  simp only [State.arrayFault, h]

variable (hword : arrWordBad k rc a w tile slot th.fcsr = none)
include hword

theorem arrayFault_slot {n : Nat} (h : (ArrCmd.slotsOf k slot w.toNat).find? (fun n => !s.claims t n) = some n) :
    s.arrayFault t th k rc a w tile slot = some (precise 18 (BitVec.ofNat 64 n) 1 0) := by
  simp only [State.arrayFault, hword, h]

variable (hslots : (ArrCmd.slotsOf k slot w.toNat).find? (fun n => !s.claims t n) = none)
include hslots

theorem arrayFault_scale (h : scaleBad k rc = true) :
    s.arrayFault t th k rc a w tile slot = some (precise 16 rc 0x31 0) := by
  simp only [State.arrayFault, hword, hslots, h, if_true]

variable (hscale : scaleBad k rc = false)
include hscale

/-- Of a command other than mdrain, the ranges that it locks are checked. -/
theorem arrayFault_ranges (hk : k ≠ .mdrain) :
    s.arrayFault t th k rc a w tile slot = s.rangeFault t.core (arrRanges t.core k a w.toNat) := by
  have hodd : (arrRanges t.core k a w.toNat).find? (fun r => r.addr % 8 != 0) =
      (arrRanges t.core k a w.toNat).find? (fun r => r.addr % r.align != 0) :=
    List.find?_congr fun r hr => by rw [align_of_mem_arrRanges hr]
  simp only [State.arrayFault, State.rangeFault, checkRanges, hword, hslots, hscale, hk, hodd, Bool.false_eq_true,
    if_false, false_and]

end

/-- mdrain's destination is no core of its thread's partition on this device. -/
def Stray (s : State) (th : Thread) (a : Word) : Prop :=
  placeBad (wfld a 31 0) = true ∨ wfld a 31 18 ≠ s.pkg.device.toNat ∨
    ∀ x, s.ctxAt th.ctxId.toNat = some x → (threadOfPlace (wfld a 31 0)).core / 8 ∉ x.stations

theorem drainBad_iff (s : State) (th : Thread) (a : Word) : s.drainBad th a = true ↔ Stray s th a := by
  have hdev : fld (wfld a 31 0) 31 18 = wfld a 31 18 := by simp only [wfld, fld]; omega
  have hcore : (threadOfPlace (wfld a 31 0)).core / 8 = stationOfPlace (wfld a 31 0) := by
    simp only [threadOfPlace, fld]; omega
  rw [State.drainBad, Stray, Bool.or_eq_true, Bool.or_eq_true, bne_iff_ne, hdev, hcore, or_assoc]
  cases s.ctxAt th.ctxId.toNat <;> simp

theorem arrayFault_drain_eq {s : State} {t : ThreadId} {th : Thread} {rc a w : Word} {tile slot : Nat}
    (hword : arrWordBad .mdrain rc a w tile slot th.fcsr = none) :
    s.arrayFault t th .mdrain rc a w tile slot =
      if wfld a 49 32 % 8 ≠ 0 then some (precise 4 (BitVec.ofNat 64 (wfld a 49 32)) 0 0)
      else if 0x40000 < wfld a 49 32 + rowsSpan w (64 * combBytes w) then
        some (precise 6 (BitVec.ofNat 64 (wfld a 49 32)) 5 0)
      else if s.drainBad th a = true then some (precise 6 a 5 0)
      else if (rangesOf t.core .mdrain a w).any (fun r =>
          (s.coreAt t.core).locked s.time.toNat (spadNumber t.core r.sp r.addr) r.len) = true then
        some (precise 7 (BitVec.ofNat 64 (wfld a 49 32)) 0 0)
      else none := by
  have hscale : scaleBad .mdrain rc = false := rfl
  have haddr : drainAddr a = wfld a 49 32 := rfl
  simp only [State.arrayFault, hword, hscale, checkRanges, arrRanges_eq, combSpan_eq, haddr, ArrCmd.slotsOf, List.find?_nil,
    if_true, Bool.false_eq_true, if_false, true_and, List.find?_singleton]
  rw [← List.isSome_find?]
  generalize (rangesOf t.core .mdrain a w).find? _ = found
  by_cases hodd : wfld a 49 32 % 8 = 0
  · by_cases hpast : 0x40000 < wfld a 49 32 + rowsSpan w (64 * combBytes w)
    · simp [hodd, hpast, SpadRange.outside]
    · cases found <;> simp [hodd, hpast, SpadRange.outside]
  · simp [hodd]

/-- The destination of mdrain: aligned, inside its scratchpad, a core of the partition, under no lock (R248, R259). -/
theorem drainChecks {s : State} {t : ThreadId} {th : Thread} {rc a w : Word} {tile slot : Nat}
    (hword : arrWordBad .mdrain rc a w tile slot th.fcsr = none) :
    let f := s.arrayFault t th .mdrain rc a w tile slot
    let addr := wfld a 49 32
    let odd := addr % 8 ≠ 0
    let past := 0x40000 < addr + rowsSpan w (64 * combBytes w)
    let held := ∃ r ∈ rangesOf t.core .mdrain a w,
      (s.coreAt t.core).locked s.time.toNat (spadNumber t.core r.sp r.addr) r.len = true
    (odd → f = some (precise 4 (BitVec.ofNat 64 addr) 0 0)) ∧ (¬ odd → past → f = some (precise 6 (BitVec.ofNat 64 addr) 5 0)) ∧
    (¬ odd → ¬ past → Stray s th a → f = some (precise 6 a 5 0)) ∧
    (¬ odd → ¬ past → ¬ Stray s th a → held → f = some (precise 7 (BitVec.ofNat 64 addr) 0 0)) ∧
    (¬ odd → ¬ past → ¬ Stray s th a → ¬ held → f = none) := by
  simp only [arrayFault_drain_eq hword, List.any_eq_true, ← drainBad_iff]
  refine ⟨fun ho => if_pos ho, fun ho hp => ?_, fun ho hp hs => ?_, fun ho hp hs hh => ?_, fun ho hp hs hh => ?_⟩
  all_goals rw [if_neg ho]
  · rw [if_pos hp]
  all_goals rw [if_neg hp]
  · rw [if_pos hs]
  all_goals rw [if_neg hs]
  · rw [if_pos hh]
  · rw [if_neg hh]

/-! ### Acceptance (R244, R245, R248) -/

/-- The range-lock entries that a command takes: one to a range, or one empty entry. -/
def arrayLocks (s : State) (rs : List SpadRange) : List RangeLock :=
  if rs = [] then [⟨s.nextId, spadNumber s.cur.core 0 0, 0, none⟩]
  else rs.map (fun r => ⟨s.nextId, spadNumber s.cur.core r.sp r.addr, r.len, none⟩)

/-- The ranges of those entries. -/
def lockedRanges (rs : List SpadRange) : List SpadRange := if rs.isEmpty then [⟨0, 0, 0, 8⟩] else rs

theorem lockedRanges_map (s : State) (rs : List SpadRange) :
    (lockedRanges rs).map (fun r => (⟨s.nextId, spadNumber s.cur.core r.sp r.addr, r.len, none⟩ : RangeLock)) =
      arrayLocks s rs := by
  cases rs <;> rfl

theorem length_lockedRanges (s : State) (rs : List SpadRange) : (lockedRanges rs).length = (arrayLocks s rs).length := by
  rw [← lockedRanges_map, List.length_map]

/-- The command that the array accepts from the executing thread. -/
def acceptedCmd (s : State) (th : Thread) (k : ArrKind) (rc a w : Word) (tile slot ev : Nat) : ArrCmd :=
  { id := s.nextId, thread := s.cur, kind := k, tile := tile, slot := slot, rc := rc, addrs := a, ctl := w.toNat, ev := ev
    rm := if wfld w 19 17 = 7 then th.fcsr.rm.toNat else wfld w 19 17, issued := s.time.toNat, started := false, pair := 0
    ready := false, seen := [], out := [], ending := none, closed := false }

/-- The machine in which the array has accepted it. -/
def accepted (s : State) (locks : List RangeLock) (c : ArrCmd) : State :=
  State.modStation (State.modCore { s with nextId := s.nextId + 1 } s.cur.core
    (fun core => { core with locks := core.locks ++ locks })) (s.cur.core / 8) (fun x => { x with array := x.array ++ [c] })

theorem accepted_threadAt (s : State) (locks : List RangeLock) (c : ArrCmd) (t : ThreadId) :
    (accepted s locks c).threadAt t = s.threadAt t := by
  rw [accepted, State.threadAt_modStation]
  exact State.threadAt_modCore _ _ (fun core => { core with locks := core.locks ++ locks }) (fun _ => rfl) _

/-- What follows a command's checks: it is accepted, or waits for range-lock entries. -/
def issued (s : State) (th : Thread) (k : ArrKind) (rc a w : Word) (tile slot ev n : Nat) : State :=
  let locks := arrayLocks s (arrRanges s.cur.core k a w.toNat)
  if locks.length ≤ 16 - (s.coreAt s.cur.core).locksHeld then
    (accepted s locks (acceptedCmd s th k rc a w tile slot ev)).finish s.cur n
  else s.waitFor s.cur (.arrayRoom locks.length)

/-- An array command is its checks, and then its acceptance or its wait. -/
theorem issueArray_eq {s : State} {th : Thread} {k : ArrKind} {rc ra rb : Option Reg} {imm : Word}
    {tile slot n : Nat} {ev : BitVec 4}
    (h : Executes s th (rc.toList ++ ra.toList ++ rb.toList) (rc.toList ++ ra.toList ++ rb.toList)) {c a w : Word}
    (hc : (rc.map s.g).getD 0 = c) (ha : (ra.map s.g).getD 0 = a) (hw : (rb.map s.g).getD imm = w) :
    issueArray s k rc ra rb imm tile slot ev n =
      .next (s.orTrap (s.arrayFault s.cur th k c a w tile slot) (issued s th k c a w tile slot ev.toNat n)) := by
  rw [issueArray, h.onThread, h.gate, hc, ha, hw]
  refine congrArg (fun u => Host.Outcome.next (s.orTrap _ u)) ?_
  rw [issued, ← length_lockedRanges, ← lockedRanges_map]
  by_cases hroom : (lockedRanges (arrRanges s.cur.core k a w.toNat)).length ≤ 16 - (s.coreAt s.cur.core).locksHeld
  · exact (if_neg (Nat.not_lt.2 hroom)).trans (if_pos hroom).symm
  · exact (if_pos (Nat.not_le.1 hroom)).trans (if_neg hroom).symm

/-- Settles O40: the checks of R248 one by one, and behind them the acceptance of the one form that every array command has. -/
theorem arrayCommandsAreAccepted : Obligations.ArrayCommandsAreAccepted := by
  refine ⟨?checks, ?issue⟩
  case checks =>
    intro s t th k rc a w tile slot f bit loads combs S first fmt emode pitch len mx row badLoad badAddress badMul n second badSlice
      size badComb badDest badGong malformed named claimed unscaled span at_ core near rs addr odd past stray held
    have hmal (x : Word) : arrWordBad k rc a w tile slot th.fcsr = some x ↔ malformed x := arrWordBad_iff ..
    have hranges : arrRanges t.core k a w.toNat = rs := (arrRanges_eq ..).trans (by cases k <;> rfl)
    have hnamed : ArrCmd.slotsOf k slot w.toNat = named := by cases k <;> rfl
    have hclaims (x : Nat) : (!s.claims t x) = true ↔ ¬ claimed x := by
      rw [Bool.not_eq_true', ← Bool.not_eq_true, State.claims, Bool.and_eq_true, beq_iff_eq, bne_iff_ne]
      rfl
    have hscale : scaleBad k rc = true ↔ unscaled := by
      rw [scaleBad, ArrKind.load, Bool.and_eq_true, Bool.or_eq_true, beq_iff_eq, beq_iff_eq, bne_iff_ne]
    refine ⟨fun x hx => arrayFault_word ((hmal x).2 hx), fun hm => ?_⟩
    have hword := Option.eq_none_iff_forall_ne_some.2 fun x hx => hm x ((hmal x).1 hx)
    refine ⟨hranges, fun x hx => arrayFault_slot hword (by rw [hnamed]; exact hx.find?_eq hclaims), fun hall => ?claimed⟩
    case claimed =>
      have hslots : (ArrCmd.slotsOf k slot w.toNat).find? (fun n => !s.claims t n) = none := by
        rw [hnamed]
        exact find?_eq_none_of (fun x hx => not_not.2 (hall x hx)) hclaims
      refine ⟨fun hu => arrayFault_scale hword hslots (hscale.2 hu), fun hu hk => ?_, fun hk => ?_⟩
      · rw [← hranges, show f = s.rangeFault t.core (arrRanges t.core k a w.toNat) from
          arrayFault_ranges hword hslots (by simpa using mt hscale.1 hu) hk]
        exact rangesChecked_rangeFault ..
      · subst hk
        exact drainChecks hword
  case issue =>
    intro s th k rc ra rb imm tile slot ev n i h hforms operand addr ctl
    have hi : exec i s = issueArray s k rc ra rb imm tile slot ev n := by
      rcases hforms with ⟨c, a, b, rfl, rfl, rfl, hform⟩ | ⟨c, a, v, rfl, rfl, rfl, hform⟩ |
        ⟨c, rfl, rfl, rfl, rfl, rfl, rfl, rfl, rfl, rfl, rfl⟩
      case inr.inr => rfl
      all_goals
        simp only [List.mem_cons, Prod.mk.injEq, List.not_mem_nil, or_false] at hform
        obtain ⟨rfl, rfl, rfl, rfl, ⟨rfl, rfl⟩ | ⟨rfl, rfl⟩ | ⟨rfl, rfl⟩⟩ | ⟨rfl, rfl, rfl, rfl, ⟨rfl, rfl⟩ | ⟨rfl, rfl⟩⟩ |
          ⟨rfl, rfl, rfl, rfl, rfl, rfl⟩ := hform
        all_goals rfl
    have hx := hi.trans (issueArray_eq h (c := operand) (a := addr) (w := ctl) rfl rfl rfl)
    refine ⟨fun f hf => by rw [Traps, hx, hf]; rfl, fun hf => ?_⟩
    rw [hf, orTrap_none] at hx
    refine ⟨fun hroom => hx.trans (congrArg _ (if_neg hroom)), fun hroom => ⟨acceptedCmd s th k operand addr ctl tile slot ev.toNat,
      rfl, rfl, rfl, rfl, rfl, rfl, rfl, rfl, rfl, rfl, rfl, rfl, rfl, rfl, rfl, rfl, rfl, rfl, ?_⟩⟩
    exact .of_finish h (hx.trans (congrArg _ (if_pos hroom))) rfl ((accepted_threadAt ..).trans h.created) rfl rfl rfl

end Sys2Proof
end

section
/-! Integer arithmetic, logic, shifts, comparisons and counts (O1, O2, O3). -/

namespace Sys2Proof

open Sys2Proof.Machine

/-! ### Integer results as numbers (R103 to R105) -/

theorem sub_eq_ofInt (a b : Word) : a - b = BitVec.ofInt 64 (a.toNat - b.toNat) := by
  rw [Int.sub_eq_add_neg, BitVec.ofInt_add, BitVec.ofInt_neg, BitVec.ofInt_natCast, BitVec.ofInt_natCast, BitVec.ofNat_toNat,
    BitVec.ofNat_toNat, BitVec.setWidth_eq, BitVec.setWidth_eq, BitVec.sub_eq_add_neg]

/-- The remainder of R105 beside its quotient. -/
theorem ofNat_mod_eq_ofInt (x y : Nat) : BitVec.ofNat 64 (x % y) = BitVec.ofInt 64 (x - y * (x / y : Nat)) := by
  rw [← BitVec.ofInt_natCast, Int.natCast_mod, Int.emod_def, Int.natCast_ediv]

section
variable {a b : Word}

theorem divS_of_ne (h : b ≠ 0) (hov : ¬ (a = 0x8000000000000000#64 ∧ b = 0xFFFFFFFFFFFFFFFF#64)) :
    divS a b = BitVec.ofInt 64 (a.toInt.tdiv b.toInt) := (if_neg h).trans (if_neg hov)

theorem remS_of_ne (h : b ≠ 0) (hov : ¬ (a = 0x8000000000000000#64 ∧ b = 0xFFFFFFFFFFFFFFFF#64)) :
    remS a b = BitVec.ofInt 64 (a.toInt - b.toInt * a.toInt.tdiv b.toInt) :=
  ((if_neg h).trans (if_neg hov)).trans (congrArg _ (Int.tmod_def ..))

theorem divU_of_ne (h : b ≠ 0) : divU a b = BitVec.ofNat 64 (a.toNat / b.toNat) := if_neg h

theorem remU_of_ne (h : b ≠ 0) : remU a b = BitVec.ofInt 64 (a.toNat - b.toNat * (a.toNat / b.toNat : Nat)) :=
  (if_neg h).trans (ofNat_mod_eq_ofInt ..)

/-- The one quotient of R105 that overflows, and its remainder. -/
theorem divS_overflow : divS 0x8000000000000000#64 0xFFFFFFFFFFFFFFFF#64 = 0x8000000000000000#64 ∧
    remS 0x8000000000000000#64 0xFFFFFFFFFFFFFFFF#64 = 0 := by decide

end

/-- An instruction that reads its destination too, and completes. -/
theorem Completes.of_alu3c {i : Instr} {s : State} {th : Thread} {r : R3} {f : Word → Word → Word → Word} {w : Word}
    (h : Executes s th [r.d, r.a, r.b] [r.d, r.a, r.b]) (hx : exec i s = alu3c s r f) (hv : f (s.g r.a) (s.g r.b) (s.g r.d) = w) :
    Completes i s th 4 r.d w := .of_gate h hx hv

/-- Settles O1: the sums and products by the ring of words, the quotients and remainders by the equations of their cases. -/
theorem integerArithmetic : Obligations.IntegerArithmetic := by
  refine ⟨fun s th r => ⟨fun h => ?sums, fun h => ?madd⟩, ?quotients⟩
  case sums =>
    refine ⟨.of_alu3 h (Laws.exec_add ..) ?_, .of_alu3 h (Laws.exec_sub ..) (sub_eq_ofInt ..), .of_alu3 h (Laws.exec_mul ..) ?_,
      .of_alu3 h (Laws.exec_mulh ..) rfl, .of_alu3 h (Laws.exec_mulhu ..) rfl, .of_alu3 h (Laws.exec_mulhsu ..) rfl⟩
    · rw [BitVec.ofNat_add, BitVec.ofNat_toNat, BitVec.ofNat_toNat, BitVec.setWidth_eq, BitVec.setWidth_eq]
    · rw [BitVec.ofNat_mul, BitVec.ofNat_toNat, BitVec.ofNat_toNat, BitVec.setWidth_eq, BitVec.setWidth_eq]
  case madd =>
    refine .of_alu3c h (Laws.exec_madd ..) ?_
    simp only [BitVec.ofNat_add, BitVec.ofNat_mul, BitVec.ofNat_toNat, BitVec.setWidth_eq]
  case quotients =>
    intro s th r h a b
    refine ⟨fun h0 => ?zero, fun ha hb => ?overflow, fun h0 hov => ?signed, fun h0 => ?unsigned⟩
    case zero =>
      exact ⟨.of_alu3 h (Laws.exec_div ..) (if_pos h0), .of_alu3 h (Laws.exec_rem ..) (if_pos h0),
        .of_alu3 h (Laws.exec_divu ..) (if_pos h0), .of_alu3 h (Laws.exec_remu ..) (if_pos h0)⟩
    case overflow =>
      exact ⟨.of_alu3 h (Laws.exec_div ..) ((congrArg₂ divS ha hb).trans divS_overflow.1),
        .of_alu3 h (Laws.exec_rem ..) ((congrArg₂ remS ha hb).trans divS_overflow.2)⟩
    case signed =>
      exact ⟨.of_alu3 h (Laws.exec_div ..) (divS_of_ne h0 hov), .of_alu3 h (Laws.exec_rem ..) (remS_of_ne h0 hov)⟩
    case unsigned =>
      exact ⟨.of_alu3 h (Laws.exec_divu ..) (divU_of_ne h0), .of_alu3 h (Laws.exec_remu ..) (remU_of_ne h0)⟩

/-! ### Bits of logical results and shifts (R106, R107) -/

section
variable (a : Word) {n i : Nat}

theorem getLsbD_shiftLeft_word (hi : i < 64) : (a <<< n).getLsbD i = (decide (n ≤ i) && a.getLsbD (i - n)) := by
  rw [BitVec.getLsbD_shiftLeft, ← decide_not, decide_eq_true hi, Bool.true_and]
  simp only [Nat.not_lt]

theorem getLsbD_ushiftRight_word : (a >>> n).getLsbD i = (decide (i + n < 64) && a.getLsbD (i + n)) := by
  rw [BitVec.getLsbD_ushiftRight, Nat.add_comm n i]
  by_cases h : i + n < 64
  · simp [h]
  · simp [h, BitVec.getLsbD_of_ge a (i + n) (Nat.not_lt.1 h)]

theorem getLsbD_sshiftRight_word (hi : i < 64) :
    (a.sshiftRight n).getLsbD i = if i + n < 64 then a.getLsbD (i + n) else a.getLsbD 63 := by
  rw [BitVec.getLsbD_sshiftRight, Nat.add_comm n i, BitVec.msb_eq_getLsbD_last]
  simp [Nat.not_le.2 hi]

/-- A bit rotated by less than a word's width: it stays in the word, or comes in at the low end. -/
theorem getLsbD_rotateLeft_word (hn : n < 64) (hi : i < 64) : (a.rotateLeft n).getLsbD ((i + n) % 64) = a.getLsbD i := by
  rw [BitVec.getLsbD_rotateLeft_of_le hn]
  by_cases h : i + n < 64
  · rw [Nat.mod_eq_of_lt h, decide_eq_false (by omega)]
    simp [h]
  · have hm : (i + n) % 64 = i + n - 64 := by omega
    rw [hm, decide_eq_true (by omega), show 64 - n + (i + n - 64) = i by omega, cond_true]

end

theorem shiftAmount_eq (b : Word) : shiftAmount b = b.toNat % 64 := wfld_low b 5

/-- The four shifts of a word by an amount, with their bits. -/
theorem exists_shifts {s : State} {th : Thread} {a : Word} {d : Reg} {n : Nat} (hn : n < 64) {left right arith rot : Instr}
    (hl : Completes left s th 4 d (a <<< n)) (hr : Completes right s th 4 d (a >>> n))
    (ha : Completes arith s th 4 d (a.sshiftRight n)) (ht : Completes rot s th 4 d (a.rotateLeft n)) :
    ∃ vl vr va vt : Word,
      Completes left s th 4 d vl ∧ Completes right s th 4 d vr ∧ Completes arith s th 4 d va ∧ Completes rot s th 4 d vt ∧
      ∀ i < 64,
        vl.getLsbD i = (decide (n ≤ i) && a.getLsbD (i - n)) ∧
        vr.getLsbD i = (decide (i + n < 64) && a.getLsbD (i + n)) ∧
        va.getLsbD i = (if i + n < 64 then a.getLsbD (i + n) else a.getLsbD 63) ∧
        vt.getLsbD ((i + n) % 64) = a.getLsbD i :=
  ⟨_, _, _, _, hl, hr, ha, ht, fun _ hi => ⟨getLsbD_shiftLeft_word a hi, getLsbD_ushiftRight_word a,
    getLsbD_sshiftRight_word a hi, getLsbD_rotateLeft_word a hn hi⟩⟩

/-- A shift by an immediate amount that completes. -/
theorem Completes.of_aluS {i : Instr} {s : State} {th : Thread} {r : RS} {f : Word → Nat → Word} {w : Word}
    (h : Executes s th [r.d, r.a] [r.a]) (hx : exec i s = aluS s r f) (hv : f (s.g r.a) r.n.toNat = w) :
    Completes i s th 4 r.d w := .of_gate h hx hv

/-- Settles O2: the logical results bit by bit, and both forms of the shifts by the bits of a shifted word. -/
theorem logicalAndShiftBits : Obligations.LogicalAndShiftBits := by
  refine ⟨fun s th r h => ?logical, fun s th a d n left right arith rot => ?shifts⟩
  case logical =>
    refine ⟨_, _, _, _, _, .of_alu3 h (Laws.exec_and ..) rfl, .of_alu3 h (Laws.exec_or ..) rfl, .of_alu3 h (Laws.exec_xor ..) rfl,
      .of_alu3 h (Laws.exec_andn ..) rfl, .of_alu3 h (Laws.exec_orn ..) rfl, fun i hi => ?_⟩
    simp [hi]
  case shifts =>
    rintro (⟨r, h, rfl, rfl, rfl, rfl, rfl, rfl, rfl⟩ | ⟨r, h, rfl, rfl, rfl, rfl, rfl, rfl, rfl⟩)
    · have hn := shiftAmount_eq (s.g r.b)
      exact exists_shifts (Nat.mod_lt _ (by decide))
        (.of_alu3 h (Laws.exec_shl ..) (congrArg _ hn)) (.of_alu3 h (Laws.exec_shr ..) (congrArg _ hn))
        (.of_alu3 h (Laws.exec_sar ..) (congrArg _ hn)) (.of_alu3 h (Laws.exec_rotl ..) (congrArg _ hn))
    · exact exists_shifts r.n.isLt (.of_aluS h (Laws.exec_shli ..) rfl) (.of_aluS h (Laws.exec_shri ..) rfl)
        (.of_aluS h (Laws.exec_sari ..) rfl) (.of_aluS h (Laws.exec_rotli ..) rfl)

/-! ### Counts, byte order, extensions and hashm (R109, R110) -/

/-- The zero bits above the highest 1 bit. -/
theorem clz_bits (a : Word) : ∃ n ≤ 64, clzW a = BitVec.ofNat 64 n ∧ (∀ i < n, a.getLsbD (63 - i) = false) ∧
    (n < 64 → a.getLsbD (63 - n) = true) := by
  refine ⟨64 - bitLength a.toNat, Nat.sub_le .., rfl, ?_⟩
  by_cases h0 : a.toNat = 0
  · obtain rfl : a = 0#64 := BitVec.eq_of_toNat_eq h0
    simp [bitLength]
  · have hlog : Nat.log2 a.toNat < 64 := (Nat.log2_lt h0).2 a.isLt
    have hlen : bitLength a.toNat = Nat.log2 a.toNat + 1 := if_neg h0
    refine ⟨fun i hi => ?_, fun _ => ?_⟩
    · exact Nat.testBit_lt_two_pow ((Nat.log2_lt h0).1 (by omega))
    · rw [show 63 - (64 - bitLength a.toNat) = Nat.log2 a.toNat by omega]
      exact Nat.testBit_log2 h0

/-- The search for a 1 bit from bit n on, over k bits. -/
theorem ctzFrom_spec (a k n : Nat) : n ≤ ctzFrom a k n ∧ ctzFrom a k n ≤ n + k ∧
    (∀ i, n ≤ i → i < ctzFrom a k n → bitAt a i = false) ∧ (ctzFrom a k n < n + k → bitAt a (ctzFrom a k n) = true) := by
  induction k generalizing n with
  | zero => exact ⟨Nat.le_refl _, Nat.le_refl _, fun i h1 h2 => absurd h2 (Nat.not_lt.2 h1), fun h => absurd h (Nat.lt_irrefl _)⟩
  | succ k ih =>
    obtain ⟨hlo, hhi, hzero, hone⟩ := ih (n + 1)
    rw [ctzFrom]
    split
    case isTrue hb => exact ⟨Nat.le_refl _, Nat.le_add_right .., fun i h1 h2 => absurd h2 (Nat.not_lt.2 h1), fun _ => hb⟩
    case isFalse hb =>
      refine ⟨by omega, by omega, fun i h1 h2 => ?_, fun h => hone (by omega)⟩
      rcases Nat.eq_or_lt_of_le h1 with rfl | h1
      · exact Bool.not_eq_true _ ▸ hb
      · exact hzero i h1 h2

/-- The zero bits below the lowest 1 bit. -/
theorem ctz_bits (a : Word) : ∃ n ≤ 64, ctzW a = BitVec.ofNat 64 n ∧ (∀ i < n, a.getLsbD i = false) ∧
    (n < 64 → a.getLsbD n = true) := by
  obtain ⟨-, hhi, hzero, hone⟩ := ctzFrom_spec a.toNat 64 0
  refine ⟨_, (by simpa using hhi), rfl, fun i hi => ?_, fun h => ?_⟩
  · rw [← bitAt_toNat]; exact hzero i (Nat.zero_le _) hi
  · rw [← bitAt_toNat]; exact hone (by simpa using h)

theorem testBit_ofBytesLE (bs : List Byte) {i : Nat} (hi : i < 8) (j : Nat) :
    (ofBytesLE bs).testBit (8 * j + i) = (bs.getD j 0).getLsbD i := by
  induction bs generalizing j with
  | nil => simp [ofBytesLE]
  | cons b r ih =>
    have hb : b.toNat < 2 ^ 8 := b.isLt
    rw [ofBytesLE, Nat.add_comm, Nat.testBit_two_pow_mul_add _ hb]
    cases j with
    | zero => simp [hi]; rfl
    | succ j => 
      rw [if_neg (by omega), show 8 * (j + 1) + i - 8 = 8 * j + i by omega, ih]; rfl

/-- The byte j of the reversed word is the byte 7 − j of the word. -/
theorem bswap_bits (a : Word) {j i : Nat} (hj : j < 8) (hi : i < 8) :
    (bswapW a).getLsbD (8 * j + i) = a.getLsbD (8 * (7 - j) + i) := by
  have hrev : (bytesLE 8 a.toNat).reverse.getD j 0 = (bytesLE 8 a.toNat).getD (7 - j) 0 := by
    rw [List.getD_eq_getElem?_getD, List.getElem?_reverse (by simpa using hj), length_bytesLE, List.getD_eq_getElem?_getD]
  rw [bswapW, BitVec.getLsbD_ofNat, testBit_ofBytesLE _ hi, hrev, getD_bytesLE (by omega), BitVec.getLsbD_ofNat,
    show 256 = 2 ^ 8 from rfl, ← Nat.pow_mul, Nat.testBit_div_two_pow, decide_eq_true hi, decide_eq_true (by omega),
    Bool.true_and, Bool.true_and, Nat.add_comm]
  rfl

theorem sextW_toNat {n : Nat} (hn : 0 < n) (a : Word) : sextW n a.toNat = (a.setWidth n).signExtend 64 := by
  rw [BitVec.signExtend, ← signedOf_toNat hn, BitVec.toNat_setWidth, sextW, signedOf, signedOf, Nat.mod_mod]

theorem zextW_toNat (n : Nat) (a : Word) : zextW n a.toNat = (a.setWidth n).zeroExtend 64 := by
  apply BitVec.eq_of_toNat_eq
  simp [zextW, BitVec.toNat_setWidth]

theorem fold_halves (p : BitVec 128) :
    BitVec.ofNat 64 (p.toNat / 2 ^ 64) ^^^ BitVec.ofNat 64 p.toNat = p.extractLsb' 64 64 ^^^ p.setWidth 64 := by
  congr 1
  apply BitVec.eq_of_toNat_eq
  rw [BitVec.extractLsb'_toNat, BitVec.toNat_ofNat, Nat.shiftRight_eq_div_pow]

/-- A product of hashm fits in its 128 bits. -/
theorem toNat_hashProduct (x : Word) :
    (x.zeroExtend 128 * 0xD6E8FEB86659FD93#128).toNat = x.toNat * 0xD6E8FEB86659FD93 := by
  have := x.isLt
  rw [BitVec.toNat_mul, BitVec.toNat_setWidth, BitVec.toNat_ofNat]
  omega

theorem hashmW_eq (a key : Word) :
    let k : BitVec 128 := 0xD6E8FEB86659FD93#128
    let p1 : BitVec 128 := (a ^^^ key).zeroExtend 128 * k
    let x : Word := p1.extractLsb' 64 64 ^^^ p1.setWidth 64
    let p2 : BitVec 128 := (x ^^^ key.rotateLeft 32).zeroExtend 128 * k
    hashmW a key = p2.extractLsb' 64 64 ^^^ p2.setWidth 64 := by
  intro k p1 x p2
  have hx : x = BitVec.ofNat 64 ((a ^^^ key).toNat * 0xD6E8FEB86659FD93 / 2 ^ 64) ^^^
      BitVec.ofNat 64 ((a ^^^ key).toNat * 0xD6E8FEB86659FD93) := by rw [← toNat_hashProduct]; exact (fold_halves p1).symm
  rw [← fold_halves, toNat_hashProduct, hx]
  rfl

theorem flagWord_decide (p : Prop) [Decidable p] : flagWord (decide p) = if p then 1 else 0 := by
  simp only [flagWord, decide_eq_true_eq]

/-- Settles O3: comparisons and extensions by their equations, counts and byte order bit by bit, hashm by its two products. -/
theorem compareSelectCountHash : Obligations.CompareSelectCountHash := by
  refine ⟨?compare, ?count, fun s th r h => .of_alu3 h (Laws.exec_hashm ..) (hashmW_eq ..), fun r => rfl⟩
  case compare =>
    intro s th r a b
    refine ⟨fun h => ⟨.of_alu3 h (Laws.exec_min ..) rfl, .of_alu3 h (Laws.exec_max ..) rfl, .of_alu3 h (Laws.exec_minu ..) rfl,
      .of_alu3 h (Laws.exec_maxu ..) rfl, .of_alu3 h (Laws.exec_slt ..) (flagWord_decide _),
      .of_alu3 h (Laws.exec_sltu ..) (flagWord_decide _)⟩, fun h => .of_alu3c h (Laws.exec_sel ..) rfl⟩
  case count =>
    intro s th r h a
    obtain ⟨nz, hz, hclz, hzeros⟩ := clz_bits a
    obtain ⟨nt, ht, hctz, hzeros'⟩ := ctz_bits a
    refine ⟨⟨nz, hz, .of_alu2 h (Laws.exec_clz ..) hclz, hzeros⟩, ⟨nt, ht, .of_alu2 h (Laws.exec_ctz ..) hctz, hzeros'⟩,
      .of_alu2 h (Laws.exec_popc ..) (congrArg _ (List.countP_eq_length_filter ..)),
      ⟨_, .of_alu2 h (Laws.exec_bswap ..) rfl, fun j hj i hi => bswap_bits a hj hi⟩,
      .of_alu2 h (Laws.exec_sextB ..) (sextW_toNat (by decide) a), .of_alu2 h (Laws.exec_sextH ..) (sextW_toNat (by decide) a),
      .of_alu2 h (Laws.exec_sextW ..) (sextW_toNat (by decide) a), .of_alu2 h (Laws.exec_zextB ..) (zextW_toNat 8 a),
      .of_alu2 h (Laws.exec_zextH ..) (zextW_toNat 16 a), .of_alu2 h (Laws.exec_zextW ..) (zextW_toNat 32 a)⟩

end Sys2Proof
end

section
/-! Branches, links and jumps (O7). -/

namespace Sys2Proof

open Sys2Proof.Machine

/-- A target a signed number of words away (R124, R126). -/
theorem add_words_eq (pc : Word) {n : Nat} (off : BitVec n) :
    pc + 4 * off.signExtend 64 = BitVec.ofInt 64 (pc.toNat + 4 * off.toInt) := by
  rw [BitVec.ofInt_add, BitVec.ofInt_mul, BitVec.ofInt_natCast, BitVec.ofNat_toNat, BitVec.setWidth_eq]
  rfl

section
variable {i : Instr} {s : State} {th : Thread} {uses reads : List Reg} {pc : Word}

/-- An instruction that links and goes on elsewhere. -/
theorem JumpsTo.of_link {d : Reg} {v : Word} (h : Executes s th uses reads)
    (hx : exec i s = .next ((s.setReg s.cur d v).complete s.cur pc)) : JumpsTo i s th pc d v :=
  ⟨_, hx, setRegComplete_ran h.created h.single h.stepped pc d v⟩

theorem JumpsTo.of_complete (h : Executes s th uses reads) (hx : exec i s = .next (s.complete s.cur pc)) :
    JumpsTo i s th pc 0 0 :=
  ⟨_, hx, complete_ran h.created h.single h.stepped pc 0⟩

/-- A branch goes to its label exactly where its condition holds (R126). -/
theorem branch_goes {r : RB} {cond : Word → Word → Bool} {c : Prop} (h : Executes s th [r.a, r.b] [r.a, r.b])
    (hx : exec i s = branch s r cond) (hc : cond (s.g r.a) (s.g r.b) = true ↔ c) :
    (c → JumpsTo i s th (BitVec.ofInt 64 (th.pc.toNat + 4 * r.off.toInt)) 0 0) ∧ (¬ c → JumpsTo i s th (th.pc + 4) 0 0) := by
  rw [branch, h.onThread, h.gate] at hx
  refine ⟨fun hp => .of_complete h ?_, fun hn => .of_complete h ?_⟩
  · rw [hx, if_pos (hc.2 hp), add_words_eq]
  · rw [hx, if_neg (mt hc.1 hn)]

end

theorem targetFault_none {a : Word} (h : a.toNat % 4 = 0) : targetFault a = none := if_pos h

theorem targetFault_some {a : Word} (h : a.toNat % 4 ≠ 0) : targetFault a = some (precise 4 a 0 0) := if_neg h

/-- Settles O7: the branches by their conditions, the jumps by the check of their target. -/
theorem branchesAndJumps : Obligations.BranchesAndJumps := by
  refine ⟨⟨fun s th r h => ?link, ?branches⟩, fun s th a h => ⟨fun h4 => ?jump, fun h4 => ?jumpFault⟩,
    fun s th r h => ⟨fun h4 => ?jumpLink, fun h4 => ?jumpLinkFault⟩⟩
  case link => exact .of_link h (by rw [Laws.exec_bl, execBl, h.onThread, h.gate, imm18, add_words_eq])
  case branches =>
    intro s th r h a b goes
    exact ⟨branch_goes h (Laws.exec_beq ..) beq_iff_eq, branch_goes h (Laws.exec_bne ..) bne_iff_ne,
      branch_goes h (Laws.exec_blt ..) decide_eq_true_iff, branch_goes h (Laws.exec_bge ..) decide_eq_true_iff,
      branch_goes h (Laws.exec_bltu ..) decide_eq_true_iff, branch_goes h (Laws.exec_bgeu ..) decide_eq_true_iff⟩
  case jump =>
    exact .of_complete h (by rw [Laws.exec_jr, execJr, h.onThread, h.gate, targetFault_none h4, orTrap_none])
  case jumpFault => rw [Traps, Laws.exec_jr, execJr, h.onThread, h.gate, targetFault_some h4]; rfl
  case jumpLink =>
    exact .of_link h (by rw [Laws.exec_jlr, execJlr, h.onThread, h.gate, targetFault_none h4, orTrap_none])
  case jumpLinkFault => rw [Traps, Laws.exec_jlr, execJlr, h.onThread, h.gate, targetFault_some h4]; rfl

end Sys2Proof
end

section
/-! Time that is read and awaited (O28). -/

namespace Sys2Proof

open Sys2Proof.Machine

section
variable {s : State} {t : ThreadId} {w : Thread} {v : Word}

theorem attimeReached_eq (h : s.threadAt t = some w) (hw : w.wait = some (.attime v)) : exec (.attimeReached t) s =
    if v.toNat ≤ s.time.toNat ∧ s.threadRuns t ∧ w.halted = false then .next (s.finish t 4) else .next s := by
  simp only [Laws.exec_attimeReached, execAttimeReached, h, hw]

theorem timerExpiry_eq {ctx : Nat} {x : Context} (hx : s.ctxAt ctx = some x) (h : s.threadAt x.supervisor = some w) :
    exec (.timerExpiry ctx) s =
      if x.active s.time && x.page.timerPending s.time && w.wait == some .interrupt && !w.halted then .next (s.finish x.supervisor 4)
      else .next s := by
  simp only [Laws.exec_timerExpiry, execTimerExpiry, hx, h]

/-- A waiting thread that is not stepped completes its instruction of four bytes. -/
theorem finish_unstepped (h : s.threadAt t = some w) (hs : w.dbg.ss = false) (hl : w.stepsLeft = none) :
    s.finish t 4 = s.setThread t { w with pc := w.pc + 4, wait := none } := finish_eq h (.inl hs) hl

end

/-- Settles O28: rdtime and attime by their meanings, the waits by the conditions that end them. -/
theorem timeIsReadAndAwaited : Obligations.TimeIsReadAndAwaited := by
  intro s th
  refine ⟨fun d h => .of_gate h (Laws.exec_rdtime ..) rfl, fun a h => ?attime, fun t w v ht hw => ?waiting, fun ctx x w hx ht hw ha h0 hr => ?timer⟩
  case attime =>
    have hx : exec (.attime a) s =
        .next (if (s.g a).toNat ≤ s.time.toNat then s.finish s.cur 4 else s.waitFor s.cur (.attime (s.g a))) := by
      rw [Laws.exec_attime, execAttime, h.onThread, h.gate]
    refine ⟨fun hle => ⟨_, hx.trans (congrArg _ (if_pos hle)), finish_ran h.created h.single h.stepped 4 0⟩, fun hlt => ?_⟩
    exact hx.trans (congrArg _ (if_neg (Nat.not_le.2 hlt)))
  case waiting =>
    rw [attimeReached_eq ht hw]
    refine ⟨fun hs hl hh hv hrun => ?_, fun hor => if_neg fun ⟨hle, _, hh⟩ => ?_⟩
    · rw [if_pos ⟨hv, hrun, hh⟩, finish_unstepped ht hs hl]
    · rcases hor with hhalt | hlt
      · rw [hhalt] at hh; cases hh
      · exact Nat.not_lt.2 hle hlt
  case timer =>
    have hp : x.page.timerPending s.time = true := by
      rw [ControlPage.timerPending, Bool.and_eq_true, bne_iff_ne, decide_eq_true_iff]; exact ⟨h0, hr⟩
    rw [timerExpiry_eq hx ht]
    refine ⟨fun hs hl hh => ?_, fun hh => if_neg (by simp [hh])⟩
    rw [if_pos (by simp [ha, hp, hw, hh]), finish_unstepped ht hs hl]

end Sys2Proof
end

section
/-! What rdc reads and wrc writes (O12). -/

namespace Sys2Proof

open Sys2Proof.Machine

/-! ### Bits and fields of a control register -/

theorem bit_eq_b2n (b : Bool) (n : Nat) : (if b then 2 ^ n else 0) = b2n b * 2 ^ n := by
  cases b <;> simp [b2n]

/-- A field of a word, at the width of its destination. -/
theorem ofNat_wfld (w : Word) {hi lo n : Nat} (h : hi - lo + 1 = n) : BitVec.ofNat n (wfld w hi lo) = w.extractLsb' lo n := by
  subst h
  apply BitVec.eq_of_toNat_eq
  rw [BitVec.toNat_ofNat, BitVec.extractLsb'_toNat, Nat.shiftRight_eq_div_pow, wfld, fld, Nat.mod_mod]

theorem ofBits_low (w : Word) : FpFlags.ofBits (wfld w 4 0) =
    { nv := w.getLsbD 0, dz := w.getLsbD 1, ovf := w.getLsbD 2, uf := w.getLsbD 3, nx := w.getLsbD 4 } := by
  have low (i : Nat) (hi : i < 5) : bitAt (wfld w 4 0) i = w.getLsbD i := by
    rw [wfld_low, bitAt, beq_eq_decide, ← Nat.testBit_eq_decide_div_mod_eq, Nat.testBit_mod_two_pow, decide_eq_true hi]
    rfl
  simp only [FpFlags.ofBits, low 0 (by decide), low 1 (by decide), low 2 (by decide), low 3 (by decide), low 4 (by decide)]

theorem fcsr_word_eq (f : Fcsr) : f.word = BitVec.ofNat 64 (f.rm.toNat * 2 ^ 8 + b2n f.flags.nx * 2 ^ 4 + b2n f.flags.uf * 2 ^ 3 +
    b2n f.flags.ovf * 2 ^ 2 + b2n f.flags.dz * 2 ^ 1 + b2n f.flags.nv * 2 ^ 0) := by
  rw [Fcsr.word, FpFlags.bits]
  refine congrArg (BitVec.ofNat 64) ?_
  omega

theorem task_word_eq (k : TaskReg) : k.word = BitVec.ofNat 64 (k.inst.toNat * 2 ^ 32 + k.node.toNat * 2 ^ 16 +
    k.launch.toNat * 2 ^ 4 + k.eprio.toNat * 2 ^ 2 + b2n k.dyn * 2 ^ 1 + b2n k.valid * 2 ^ 0) := by
  rw [Nat.pow_zero, Nat.mul_one]
  rfl

/-- The pmode that a write of status leaves: 0, 1 and, in machine mode, 2 are taken (R216). -/
theorem status_write_pmode (st : Status) (w : Word) (h : st.mode ≠ .user) : (st.write st.mode w).pmode =
    if w.extractLsb' 2 2 = 0 then .user else if w.extractLsb' 2 2 = 1 then .supervisor
      else if w.extractLsb' 2 2 = 2 ∧ st.mode = .machine then .machine else st.pmode := by
  have hf : wfld w 3 2 = (w.extractLsb' 2 2).toNat := by
    rw [BitVec.extractLsb'_toNat, Nat.shiftRight_eq_div_pow]; rfl
  rw [Status.write, hf]
  generalize w.extractLsb' 2 2 = p
  have hp : p = 0 ∨ p = 1 ∨ p = 2 ∨ p = 3 := by revert p; decide
  obtain ⟨mode, pmode, pie, ie, ien⟩ := st
  cases mode
  case user => exact absurd rfl h
  all_goals rcases hp with rfl | rfl | rfl | rfl <;> rfl

theorem status_write_eq (st : Status) (w : Word) (h : st.mode ≠ .user) : st.write st.mode w =
    { st with
      ien := w.extractLsb' 24 5, pie := w.getLsbD 7, ie := w.getLsbD 6
      pmode := if w.extractLsb' 2 2 = 0 then .user else if w.extractLsb' 2 2 = 1 then .supervisor
        else if w.extractLsb' 2 2 = 2 ∧ st.mode = .machine then .machine else st.pmode } := by
  rw [← status_write_pmode st w h, Status.write, ofNat_wfld w (by rfl), bitAt_toNat, bitAt_toNat]

theorem dbgCtl_write_eq (d : DbgCtl) (w : Word) : d.write w =
    { d with skip := w.getLsbD 9, dbg := w.getLsbD 8, ss := w.getLsbD 7, tr := w.getLsbD 6
             wen := w.extractLsb' 4 2, ben := w.extractLsb' 0 4 } := by
  rw [DbgCtl.write, ofNat_wfld w (by rfl), ofNat_wfld w (by rfl), bitAt_toNat, bitAt_toNat, bitAt_toNat, bitAt_toNat]

theorem fcsr_ofWord_eq (w : Word) : Fcsr.ofWord w =
    { rm := w.extractLsb' 8 3
      flags := { nv := w.getLsbD 0, dz := w.getLsbD 1, ovf := w.getLsbD 2, uf := w.getLsbD 3, nx := w.getLsbD 4 } } := by
  rw [Fcsr.ofWord, ofNat_wfld w (by rfl), ofBits_low]

theorem requestAbort_eq (m : Mcur) (w : Word) : m.requestAbort w = { m with abort := m.abort || (w.getLsbD 63 && m.busy) } := by
  obtain ⟨abort, busy, _⟩ := m
  rw [Mcur.requestAbort, bitAt_toNat]
  cases w.getLsbD 63
  · simp
  · cases busy <;> simp

/-! ### rdc and wrc -/

section
variable {s : State} {th : Thread}

theorem rdc_eq {d : Reg} {n : BitVec 4} (h : Executes s th [d] [])
    (hr : (ControlReg.ofNumber n).readable th.status.mode = true) :
    exec (.rdc d n) s = .next ((s.viewMcur n).finishWith 4 d (s.readControl s.cur th (ControlReg.ofNumber n))) := by
  rw [Laws.exec_rdc, execRdc, h.onThread, State.privGate, if_pos hr, h.gate]

/-- A register whose look leaves no mark. -/
theorem rdc_completes {d : Reg} {n : BitVec 4} {v : Word} (h : Executes s th [d] [])
    (hr : (ControlReg.ofNumber n).readable th.status.mode = true) (hn : ControlReg.ofNumber n ≠ .mcur)
    (hv : s.readControl s.cur th (ControlReg.ofNumber n) = v) : Completes (.rdc d n) s th 4 d v := by
  refine ⟨s.finishWith 4 d v, ?_, h.finishWith 4 d v⟩
  rw [rdc_eq h hr, State.viewMcur, if_neg hn, hv]

/-- A wrc whose machine is b, and whose thread is thb, behind its write. -/
theorem wrc_completes {a : Reg} {n : BitVec 4} {b : State} {thb : Thread} (h : Executes s th [a] [a])
    (hw : (ControlReg.ofNumber n).writable th.status.mode = true)
    (hb : s.writeControl s.cur th.status.mode (ControlReg.ofNumber n) (s.g a) = b) (hc : b.cur = s.cur)
    (ht : b.threadAt s.cur = some thb) (hs : thb.dbg.ss = false ∨ thb.status.mode ≠ .user) (hst : thb.stepsLeft = th.stepsLeft) :
    CompletesIn b thb (.wrc a n) s 4 0 0 := by
  refine ⟨b.finish b.cur 4, ?_, finish_ran (by rw [hc]; exact ht) hs (hst.trans h.stepped) 4 0⟩
  rw [Laws.exec_wrc, execWrc, h.onThread, State.privGate, if_pos hw, h.gate, hb, hc]

/-- A register of the thread itself. -/
theorem wrc_sets {a : Reg} {n : BitVec 4} {th' : Thread} (h : Executes s th [a] [a])
    (hw : (ControlReg.ofNumber n).writable th.status.mode = true)
    (hb : s.writeControl s.cur th.status.mode (ControlReg.ofNumber n) (s.g a) =
      s.modThread s.cur (fun u => u.writeControl th.status.mode (ControlReg.ofNumber n) (s.g a)))
    (hth : th.writeControl th.status.mode (ControlReg.ofNumber n) (s.g a) = th')
    (hs : th'.dbg.ss = false ∨ th'.status.mode ≠ .user) (hst : th'.stepsLeft = th.stepsLeft) :
    CompletesIn (s.setThread s.cur th') th' (.wrc a n) s 4 0 0 :=
  wrc_completes h hw (by rw [hb, modThread_eq h.created, hth]) rfl (State.threadAt_setThread_self ..) hs hst

end

/-- Settles O12: each register's word by its fields, each write by what its register makes of the word. -/
theorem controlRegisters : Obligations.ControlRegisters := by
  refine ⟨?reads, ?writes⟩
  case reads =>
    intro s th d h bit mode gives
    have hmode (m : Mode) : mode m = m.code := by cases m <;> rfl
    have hbit (b : Bool) (n : Nat) : bit b n = b2n b * 2 ^ n := bit_eq_b2n b n
    have priv (n : BitVec 4) (v : Nat) (hr : (ControlReg.ofNumber n).readable th.status.mode = true)
        (hn : ControlReg.ofNumber n ≠ .mcur) (hv : s.readControl s.cur th (ControlReg.ofNumber n) = BitVec.ofNat 64 v) : gives n v :=
      rdc_completes h hr hn hv
    have word (w : Word) : w = BitVec.ofNat 64 w.toNat := by simp
    simp only [hbit, hmode]
    refine ⟨priv 0 _ rfl (by decide) rfl, priv 1 _ rfl (by decide) rfl, priv 2 _ rfl (by decide) rfl, priv 3 _ rfl (by decide) (task_word_eq _),
      priv 4 _ rfl (by decide) rfl, priv 5 _ rfl (by decide) (word _), priv 7 _ rfl (by decide) (fcsr_word_eq _),
      priv 13 _ rfl (by decide) rfl, ?mcur, fun hm => ?privileged⟩
    case mcur =>
      exact .of_finishWith (b := s.viewMcur 14) h (rdc_eq h rfl) rfl h.created rfl rfl rfl rfl
    case privileged =>
      have hr : (th.status.mode != .user) = true := bne_iff_ne.2 hm
      exact ⟨priv 6 _ hr (by decide) rfl, priv 8 _ hr (by decide) (word _), priv 9 _ hr (by decide) (word _),
        priv 10 _ hr (by decide) (word _), priv 11 _ hr (by decide) (word _), priv 12 _ hr (by decide) (word _),
        priv 15 _ hr (by decide) rfl⟩
  case writes =>
    intro s th a h w sets
    refine ⟨wrc_sets h rfl rfl ?fcsr h.single rfl, fun hm => ?byMachine, fun hm => ?privileged⟩
    case fcsr => exact congrArg (fun f => { th with fcsr := f }) (fcsr_ofWord_eq w)
    case byMachine =>
      have hw : (th.status.mode == .machine) = true := beq_iff_eq.2 hm
      refine ⟨wrc_sets h hw rfl ?ctx h.single rfl, wrc_sets h hw rfl ?kcnt h.single rfl⟩
      case ctx =>
        show Thread.writeControl th _ .ctx w = _
        rw [Thread.writeControl, ofNat_wfld w (by rfl), ofNat_wfld w (by rfl)]
      case kcnt =>
        show Thread.writeControl th _ .kcnt w = _
        rw [Thread.writeControl, ofNat_wfld w (by rfl), ofNat_wfld w (by rfl), ofNat_wfld w (by rfl)]
    case privileged =>
      have hw : (th.status.mode != .user) = true := bne_iff_ne.2 hm
      refine ⟨wrc_completes h hw ?rot rfl ?rotThread h.single rfl, wrc_sets h hw rfl ?status h.single rfl,
        wrc_sets h hw rfl rfl h.single rfl, wrc_sets h hw rfl rfl h.single rfl, wrc_sets h hw rfl rfl h.single rfl,
        wrc_sets h hw rfl rfl h.single rfl, wrc_sets h hw rfl rfl h.single rfl,
        wrc_completes h hw ?mcur rfl h.created h.single rfl, wrc_sets h hw rfl ?dbgctl (.inr hm) rfl⟩
      case rot =>
        refine congrArg (fun v => s.modCore s.cur.core (fun k => { k with rotNext := some v })) (?_ : BitVec.ofNat 2 w.toNat = _)
        apply BitVec.eq_of_toNat_eq
        rw [BitVec.toNat_ofNat, BitVec.extractLsb'_toNat, Nat.shiftRight_zero]
      case rotThread => exact (State.threadAt_modCore _ _ _ (fun k => by rfl) _).trans h.created
      case status => exact congrArg (fun v => { th with status := v }) (status_write_eq th.status w hm)
      case mcur =>
        exact congrArg (s.modStation (s.cur.core / 8))
          (funext fun k => congrArg (fun m => { k with mcur := m }) (requestAbort_eq k.mcur w))
      case dbgctl => exact congrArg (fun v => { th with dbg := v }) (dbgCtl_write_eq th.dbg w)

end Sys2Proof
end

section
/-! Invalidations of instruction lines, fetch registers and translations (O13). -/

namespace Sys2Proof

open Sys2Proof.Machine

/-- A run of less than 2^15 bytes shares a byte with the line at a base, modulo 2^64. -/
theorem lineOverlaps_iff (base : Nat) (a n : Word) (hn : n.toNat < 32768) : lineOverlaps base a n = true ↔
    ∃ i < n.toNat, ∃ j < 64, a + BitVec.ofNat 64 i = BitVec.ofNat 64 (base + j) := by
  simp only [BitVec.ofNat_add, lineOverlaps, Bool.and_eq_true, Bool.or_eq_true, decide_eq_true_iff, bne_iff_ne]
  generalize BitVec.ofNat 64 base = b
  constructor
  · rintro ⟨h0, h | h⟩
    · exact ⟨(b - a).toNat, h, 0, by decide, by bv_omega⟩
    · exact ⟨0, by bv_omega, (a - b).toNat, h, by bv_omega⟩
  · rintro ⟨i, hi, j, hj, h⟩
    rcases Nat.le_total j i with hij | hij
    · exact ⟨by bv_omega, .inl (by bv_omega)⟩
    · refine ⟨by bv_omega, .inr (by bv_omega)⟩

/-- The lines that iinv of a run keeps (R140). -/
def keptLine (a n : Word) (l : ICacheLine) : Bool := decide (n.toNat < 32768) && !lineOverlaps l.base a n

theorem keptLine_iff (a n : Word) (l : ICacheLine) : keptLine a n l = true ↔
    n.toNat < 32768 ∧ ∀ i < n.toNat, ∀ j < 64, a + BitVec.ofNat 64 i ≠ BitVec.ofNat 64 (l.base + j) := by
  rw [keptLine, Bool.and_eq_true, decide_eq_true_iff, Bool.not_eq_true', ← Bool.not_eq_true]
  refine and_congr_right fun hn => ?_
  rw [lineOverlaps_iff _ _ _ hn]
  push Not
  rfl

theorem filter_keptLine (a n : Word) (l : List ICacheLine) :
    (if 32768 ≤ n.toNat then [] else l.filter (fun x => !lineOverlaps x.base a n)) = l.filter (keptLine a n) := by
  split
  case isTrue h =>
    rw [eq_comm, List.filter_eq_nil_iff]
    intro x _ hx
    exact Nat.not_lt.2 h ((keptLine_iff a n x).1 hx).1
  case isFalse h =>
    refine List.filter_congr fun x _ => ?_
    rw [keptLine, decide_eq_true (Nat.not_le.1 h), Bool.true_and]

section
variable {s : State} {th : Thread}

theorem iinv_eq {a b : Reg} (h : Executes s th [a, b] [a, b]) : exec (.iinv a b) s =
    .next ((s.modCore s.cur.core (fun k => { k with icache := k.icache.filter (keptLine (s.g a) (s.g b)) })).finish s.cur 4) := by
  rw [Laws.exec_iinv, execIinv, h.onThread, h.gate]
  simp only [filter_keptLine]

/-- xinv removes the translations, and then waits for what was translated through them (R142). -/
theorem xinv_eq {a b : Reg} (h : Executes s th [a, b] [a, b]) (hm : th.status.mode ≠ .user) :
    let ids := s.translatedThrough th.ctxId.toNat ((s.g a).toNat / 65536) (s.g b).toNat
    let t := s.invalidate th.ctxId.toNat ((s.g a).toNat / 65536 * 65536) (s.g b).toNat
    exec (.xinv a b) s = .next (if ids = [] then t.finish s.cur 4 else t.waitFor s.cur (.xlat ids)) := by
  rw [Laws.exec_xinv, execXinv, h.onThread, State.privGate, if_pos (bne_iff_ne.2 hm), h.gate]

theorem endWait_xlat {t : ThreadId} {ids : List Nat} (hw : th.wait = some (.xlat ids)) :
    s.endWait t th = if s.anyPending ids then none else some (s.finish t 4) := by
  simp only [State.endWait, hw]

end

/-- Settles O13: the lines by their bytes, the translations and the accesses through them by the laws of an invalidation. -/
theorem codeAndTranslationInvalidation : Obligations.CodeAndTranslationInvalidation := by
  intro s th
  refine ⟨fun a b h => ?iinv, fun h => ?ifence, fun a b h hm => ?xinv, fun t ids _ hw => ?waiting⟩
  case iinv =>
    refine ⟨keptLine (s.g a) (s.g b), keptLine_iff _ _, .of_finish h (iinv_eq h) rfl ?_ rfl rfl rfl⟩
    exact (State.threadAt_modCore _ _ _ (fun k => by rfl) _).trans h.created
  case ifence =>
    refine .of_finish h ?_ rfl (State.threadAt_setThread_self ..) rfl rfl rfl
    rw [Laws.exec_ifence, execIfence, h.onThread]
  case xinv =>
    intro ctx page pages
    have hmem (id : Nat) := mem_translatedThrough s ctx page pages id
    refine ⟨_, invalidate_removed s ctx page pages, fun hnone => ?_, fun ⟨id, hid⟩ => ⟨_, hmem, ?_⟩⟩
    · have hnil := List.eq_nil_iff_forall_not_mem.2 fun id => mt (hmem id).1 (hnone id)
      exact .of_finish h ((xinv_eq h hm).trans (congrArg _ (if_pos hnil))) rfl h.created rfl rfl rfl
    · have hne := List.ne_nil_of_mem ((hmem id).2 hid)
      exact (xinv_eq h hm).trans (congrArg _ (if_neg hne))
  case waiting =>
    rw [endWait_xlat hw]
    exact ⟨fun hi => if_pos ((anyPending_iff s ids).2 hi), fun hi => if_neg (mt (anyPending_iff s ids).1 hi)⟩

end Sys2Proof
end

section
/-! Single stepping: what becomes of an instruction whose thread is stepped (O10). -/

namespace Sys2Proof

open Sys2Proof.Machine

/-! ### Trap entry (R215) -/

theorem entered_enterTrap {th : Thread} (hl : th.stepsLeft = none) (c : TrapCause) :
    Entered th (th.enterTrap c) (if c.completed then th.pc + 4 else th.pc)
      ((if c.intr then 2 ^ 63 else 0) + (if c.delivered then 2 ^ 8 else 0) + c.code % 2 ^ 8) c.tval
      (BitVec.ofNat 64 (c.sub % 256 * 2 ^ 56 + c.info % 2 ^ 56)) where
  goes := rfl
  saves := by
    obtain ⟨code, tval, sub, info, delivered, intr, completed⟩ := c
    cases intr <;> cases delivered <;> simp [Thread.enterTrap, TrapCause.regs, b2n, tpcMask]
  mode := rfl
  waits := by simp only [Thread.enterTrap, Thread.owedWait, Bool.and_eq_true, List.isEmpty_iff]
  rest := by simp [Thread.enterTrap, hl, b2n]

/-- Writes to memory of a trace leave the cores as they are. -/
theorem sendTrace_cores (core ctx tag va : Nat) (l : List Word) (s : State) : (s.sendTrace core ctx tag va l).cores = s.cores := by
  induction l generalizing s va with
  | nil => rfl
  | cons w r ih => exact ih ..

theorem emitTrace_cores (s : State) (core ctx : Nat) (r : List Word) : (s.emitTrace core ctx r).cores = s.cores := by
  unfold State.emitTrace
  split
  · rfl
  · split
    · rfl
    · dsimp only
      split
      · rfl
      · split
        · rfl
        · exact sendTrace_cores ..

theorem traceEvent_threadAt (s : State) (t : ThreadId) (kind info : Nat) (pc : Word) (u : ThreadId) :
    (s.traceEvent t kind info pc).threadAt u = s.threadAt u := by
  have hcores : (s.traceEvent t kind info pc).cores = s.cores := by
    unfold State.traceEvent
    split
    · rfl
    · split
      · rfl
      · exact emitTrace_cores ..
  simp only [State.threadAt, State.coreAt, hcores]

theorem leaveQueues_threadAt (s : State) (t u : ThreadId) : (s.leaveQueues t).threadAt u = s.threadAt u := by
  unfold State.leaveQueues
  split
  · split <;> rfl
  · rfl

/-- The thread behind a trap that ends no debug step. -/
theorem takeTrap_threadAt {s : State} {t : ThreadId} {th : Thread} (h : s.threadAt t = some th) (hl : th.stepsLeft = none)
    (c : TrapCause) : (s.takeTrap t c).threadAt t = some (th.enterTrap c) := by
  rw [State.takeTrap, leaveQueues_threadAt, h]
  simp only [hl, Option.isSome_none, Bool.false_eq_true, if_false, traceEvent_threadAt, State.threadAt_setThread_self]

/-! ### What follows a completed instruction (R311, R312) -/

theorem complete_stepped {s : State} {t : ThreadId} {th : Thread} {next : Word} (h : s.threadAt t = some th)
    (hss : th.dbg.ss = true) (hl : th.stepsLeft = none) (hu : th.status.mode = .user) :
    s.complete t next = if th.dbg.dbg then (s.setThread t (Thread.goTo th next)).halt t 2
      else (s.setThread t (Thread.goTo th next)).takeTrap t (precise 14 th.pc 2 0) := by
  have hat : (s.setThread t { th with pc := next, wait := none }).threadAt t = some (Thread.goTo th next) :=
    State.threadAt_setThread_self ..
  rw [State.complete, h]
  dsimp only
  rw [State.afterInstr, hat]
  simp [Thread.goTo, hss, hl, hu]

/-! ### A machine whose executing thread is stepped -/

/-- A thread with dbgctl.ss. -/
def stepped (v : Thread) : Thread := { v with dbg := { v.dbg with ss := true } }

/-- The machine of an executing thread, with dbgctl.ss. -/
def underStep (s : State) (th : Thread) : State := s.setThread s.cur (stepped th)

/-- b' is b with dbgctl.ss in the executing thread of s, which has in b the pc, the mode and the debug controls of th. -/
structure Follows (s : State) (th : Thread) (b b' : State) (v : Thread) : Prop where
  cur : b.cur = s.cur
  thread : b.threadAt s.cur = some v
  pc : v.pc = th.pc
  dbg : v.dbg = th.dbg
  status : v.status = th.status
  steps : v.stepsLeft = th.stepsLeft
  under : b' = b.setThread s.cur (stepped v)

/-- How an instruction ends in s, and with dbgctl.ss: with a trap or a wait, or completed behind the same change of the machine. -/
inductive Ends (s : State) (th : Thread) : State → State → Prop where
  | traps (c : TrapCause) (r' : State) : Ends s th (s.takeTrap s.cur c) r'
  | waits (w : Wait) (r' : State) : Ends s th (s.waitFor s.cur w) r'
  | completes {b b' : State} {v : Thread} (next : Word) (hb : Follows s th b b' v) :
    Ends s th (b.complete s.cur next) (b'.complete s.cur next)

/-- An instruction ends in s and with dbgctl.ss alike. -/
def Steps (i : Instr) (s : State) (th : Thread) : Prop :=
  ∃ r r', exec i s = .next r ∧ exec i (underStep s th) = .next r' ∧ Ends s th r r'

/-! ### What the stepped machine reads -/

theorem coreAt_setThread (s : State) (t : ThreadId) (a : Thread) (c : Nat) :
    (s.setThread t a).coreAt c = { s.coreAt c with threads := ((s.setThread t a).coreAt c).threads } := by
  by_cases hc : c = t.core
  · subst hc; simp [State.setThread]
  · simp [State.setThread, State.coreAt_modCore_ne _ _ hc]

theorem regFault_setThread (s : State) (u t : ThreadId) (a w : Thread) (uses reads : List Reg) :
    (s.setThread u a).regFault t w uses reads = s.regFault t w uses reads := by
  have hbad : ((s.setThread u a).coreAt t.core).rfBad = (s.coreAt t.core).rfBad := by rw [coreAt_setThread]
  simp only [State.regFault, hbad]
  rfl

theorem modCore_setThread (s : State) (t : ThreadId) (a : Thread) (c : Nat) {f : Core → Core}
    (hf : ∀ k ts, f { k with threads := ts } = { f k with threads := ts }) :
    (s.setThread t a).modCore c f = (s.modCore c f).setThread t a := by
  have hthreads (k : Core) : (f k).threads = k.threads := by have := hf k k.threads; rw [this]
  by_cases hc : c = t.core
  · subst hc
    simp only [State.setThread, State.modCore, State.setCore, State.coreAt, agetD_aset_self, aset_aset]
    rw [hf, hthreads]
  · simp [State.setThread, State.modCore, State.setCore, State.coreAt, agetD_aset_ne _ _ _ hc, agetD_aset_ne _ _ _ (Ne.symm hc),
      aset_comm _ _ _ hc]

section
variable {s : State} {th : Thread} (h : s.threadAt s.cur = some th)

theorem threadAt_underStep (s : State) (th : Thread) : (underStep s th).threadAt s.cur = some (stepped th) :=
  State.threadAt_setThread_self ..

theorem threadAt_underStep_ne {t : ThreadId} (ht : t ≠ s.cur) : (underStep s th).threadAt t = s.threadAt t :=
  State.threadAt_setThread_ne _ _ ht

theorem idle_underStep {t : ThreadId} (ht : t ≠ s.cur) : (underStep s th).idle t = s.idle t := by
  have hrot : ((underStep s th).coreAt t.core).rotLen = (s.coreAt t.core).rotLen := by rw [underStep, coreAt_setThread]
  rw [State.idle, threadAt_underStep_ne ht, State.idle]
  simp only [State.inRotation, hrot]
  rfl

theorem heldFault_underStep (hne : th.win.bslot ≠ s.cur.slot) (j : Reg) :
    (underStep s th).heldFault s.cur (stepped th) j = s.heldFault s.cur th j := by
  have hlend : (⟨s.cur.core, th.win.bslot⟩ : ThreadId) ≠ s.cur := fun e => hne (congrArg ThreadId.slot e)
  simp only [State.heldFault, show (stepped th).win = th.win from rfl, threadAt_underStep_ne hlend]

/-- Every control register but dbgctl reads the same. -/
theorem readControl_underStep {c : ControlReg} (hc : c ≠ .dbgctl) :
    (underStep s th).readControl s.cur (stepped th) c = s.readControl s.cur th c := by
  have hrot : ((underStep s th).coreAt s.cur.core).rotLen = (s.coreAt s.cur.core).rotLen := by rw [underStep, coreAt_setThread]
  cases c with
  | rot => simp only [State.readControl, hrot]
  | dbgctl => exact absurd rfl hc
  | _ => rfl

theorem underStep_cur (s : State) (th : Thread) : (underStep s th).cur = s.cur := rfl

include h

theorem reg_underStep (t : ThreadId) (r : Reg) : (underStep s th).reg t r = s.reg t r := by
  have hrf : ((underStep s th).coreAt t.core).rf = (s.coreAt t.core).rf := by rw [underStep, coreAt_setThread]
  by_cases ht : t = s.cur
  · subst ht
    simp only [State.reg, threadAt_underStep, h, hrf]
    rfl
  · simp only [State.reg, underStep, State.threadAt_setThread_ne _ _ ht]
    rw [← underStep, hrf]
    rfl

theorem g_underStep (r : Reg) : (underStep s th).g r = s.g r := reg_underStep h s.cur r

theorem follows_refl : Follows s th s (underStep s th) th := ⟨rfl, h, rfl, rfl, rfl, rfl, rfl⟩

end

section
variable {s b b' : State} {th v : Thread}

theorem Follows.threadAt (hb : Follows s th b b' v) : b'.threadAt s.cur = some (stepped v) := by
  rw [hb.under, State.threadAt_setThread_self]

theorem Follows.cur' (hb : Follows s th b b' v) : b'.cur = s.cur := by rw [hb.under]; exact hb.cur

/-- A change of the thread that keeps its pc, its mode and its debug controls. -/
theorem Follows.setThread (hb : Follows s th b b' v) {w : Thread} (hpc : w.pc = v.pc := by rfl) (hd : w.dbg = v.dbg := by rfl)
    (hs : w.status = v.status := by rfl) (hl : w.stepsLeft = v.stepsLeft := by rfl) :
    Follows s th (b.setThread s.cur w) (b'.setThread s.cur (stepped w)) w where
  cur := hb.cur
  thread := State.threadAt_setThread_self ..
  pc := hpc.trans hb.pc
  dbg := hd.trans hb.dbg
  status := hs.trans hb.status
  steps := hl.trans hb.steps
  under := by rw [hb.under, setThread_setThread, setThread_setThread]

/-- A change of another thread. -/
theorem Follows.modThread (hb : Follows s th b b' v) {t : ThreadId} (ht : t ≠ s.cur) (f : Thread → Thread) :
    Follows s th (b.modThread t f) (b'.modThread t f) v where
  cur := (State.modThread_cur ..).trans hb.cur
  thread := (State.threadAt_modThread_ne _ _ ht.symm).trans hb.thread
  pc := hb.pc
  dbg := hb.dbg
  status := hb.status
  steps := hb.steps
  under := by
    rw [hb.under, State.modThread, State.threadAt_setThread_ne _ _ ht, State.modThread]
    split
    · rfl
    · exact setThread_comm _ _ _ ht.symm

/-- A change of a core that does not look at its threads. -/
theorem Follows.modCore (hb : Follows s th b b' v) (c : Nat) {f : Core → Core}
    (hf : ∀ k ts, f { k with threads := ts } = { f k with threads := ts }) : Follows s th (b.modCore c f) (b'.modCore c f) v where
  cur := hb.cur
  thread := (State.threadAt_modCore _ _ _ (fun k => by have := hf k k.threads; rw [this]) _).trans hb.thread
  pc := hb.pc
  dbg := hb.dbg
  status := hb.status
  steps := hb.steps
  under := by rw [hb.under, modCore_setThread _ _ _ _ hf]

theorem Follows.modStation (hb : Follows s th b b' v) (n : Nat) (f : Station → Station) :
    Follows s th (b.modStation n f) (b'.modStation n f) v where
  cur := hb.cur
  thread := hb.thread
  pc := hb.pc
  dbg := hb.dbg
  status := hb.status
  steps := hb.steps
  under := by rw [hb.under]; rfl

/-- A write of a register of the thread. -/
theorem Follows.setReg (hb : Follows s th b b' v) (d : Reg) (x : Word) :
    Follows s th (b.setReg s.cur d x) (b'.setReg s.cur d x) (Thread.wrote v d) := by
  by_cases hd : d = 0
  · subst hd; rwa [setReg_zero, setReg_zero, wrote_zero]
  · rw [setReg_eq hb.thread hd, setReg_eq hb.threadAt hd, Thread.wrote, if_neg hd]
    exact (hb.modCore s.cur.core (fun _ _ => by rfl)).setThread

/-- A write of a register of another thread. -/
theorem Follows.setReg_ne (hb : Follows s th b b' v) {t : ThreadId} (ht : t ≠ s.cur) (d : Reg) (x : Word) :
    Follows s th (b.setReg t d x) (b'.setReg t d x) v := by
  have hat : b'.threadAt t = b.threadAt t := by rw [hb.under, State.threadAt_setThread_ne _ _ ht]
  by_cases hd : d = 0
  · subst hd; rwa [setReg_zero, setReg_zero]
  · cases hw : b.threadAt t with
    | none => rw [State.setReg, State.setReg, if_neg hd, if_neg hd, hat, hw]; exact hb
    | some w =>
      rw [setReg_eq hw hd, setReg_eq (hat.trans hw) hd]
      have hcore := hb.modCore t.core (f := fun k => k.setEntry (w.rfEntry d.toNat) x) (fun _ _ => by rfl)
      have hmod := hcore.modThread ht (fun _ => w.spoil d)
      have hw1 : (b.modCore t.core (fun k => k.setEntry (w.rfEntry d.toNat) x)).threadAt t = some w :=
        (State.threadAt_modCore b _ (fun k => k.setEntry _ x) (fun _ => rfl) _).trans hw
      have hw2 : (b'.modCore t.core (fun k => k.setEntry (w.rfEntry d.toNat) x)).threadAt t = some w :=
        (State.threadAt_modCore b' _ (fun k => k.setEntry _ x) (fun _ => rfl) _).trans (hat.trans hw)
      rwa [modThread_eq hw1, modThread_eq hw2] at hmod

theorem Ends.finish (hb : Follows s th b b' v) (n : Nat) : Ends s th (b.finish s.cur n) (b'.finish s.cur n) := by
  rw [State.finish, hb.thread, State.finish, hb.threadAt]
  exact .completes _ hb

theorem Ends.finishWith (hb : Follows s th b b' v) (n : Nat) (d : Reg) {x y : Word} (hx : y = x) :
    Ends s th (b.finishWith n d x) (b'.finishWith n d y) := by
  subst hx
  rw [State.finishWith, State.finishWith, hb.cur, hb.cur']
  exact .finish (hb.setReg d y) n

/-- A check that says the same in both, before two ends. -/
theorem Ends.orTrap {r r' : State} {c c' : Option TrapCause} (hc : c' = c) (hr : Ends s th r r') :
    Ends s th (s.orTrap c r) ((underStep s th).orTrap c' r') := by
  subst hc
  cases c' with
  | some c => exact .traps c _
  | none => exact hr

/-- The mode check says the same in both. -/
theorem Ends.privGate {r r' : State} (ok : Bool) (i : Instr) (hr : ok = true → Ends s th r r') :
    Ends s th (s.privGate ok i r) ((underStep s th).privGate ok i r') := by
  cases ok with
  | true => exact hr rfl
  | false => exact .traps _ _

theorem Ends.gate {r r' : State} (uses reads : List Reg) (hr : Ends s th r r') :
    Ends s th (s.gate th uses reads r) ((underStep s th).gate (stepped th) uses reads r') := by
  have hf : (underStep s th).regFault s.cur (stepped th) uses reads = s.regFault s.cur th uses reads :=
    regFault_setThread ..
  cases hc : s.regFault s.cur th uses reads with
  | some c => rw [gate_traps hc]; exact .traps c _
  | none =>
    simp only [State.gate, hc, underStep_cur, hf]
    exact hr

/-- Where an instruction completes and leaves its thread in user mode, dbgctl.ss adds BREAK, or with dbgctl.dbg a halt. -/
theorem Ends.stepped {r r' : State} {u : Thread} (he : Ends s th r r') (h : s.threadAt s.cur = some th)
    (hm : th.status.mode = .user) (hl : th.stepsLeft = none) (hss : th.dbg.ss = false) (hr : r.threadAt s.cur = some u)
    (hu : u.status.mode = .user) (hw : u.wait = none) :
    r' = if th.dbg.dbg then (r.setThread s.cur (stepped u)).halt s.cur 2
      else (r.setThread s.cur (stepped u)).takeTrap s.cur (precise 14 th.pc 2 0) := by
  cases he with
  | traps c =>
    obtain rfl := Option.some.inj ((takeTrap_threadAt h hl c).symm.trans hr)
    simp [Thread.enterTrap, Status.enter, hm] at hu
  | waits w =>
    rw [State.waitFor, State.threadAt_modThread_self, h] at hr
    obtain rfl := Option.some.inj hr
    exact absurd hw (by simp)
  | completes next hb =>
    rename_i b b' v
    have hv : v.dbg.ss = false := by rw [hb.dbg, hss]
    rw [complete_eq hb.thread (.inl hv) (hb.steps.trans hl)] at hr ⊢
    obtain rfl := Option.some.inj ((State.threadAt_setThread_self ..).symm.trans hr)
    rw [complete_stepped hb.threadAt rfl (hb.steps.trans hl) ((congrArg Status.mode hb.status).trans hm), hb.under,
      setThread_setThread, setThread_setThread, ← hb.pc, show (Sys2Proof.stepped v).dbg.dbg = th.dbg.dbg from (congrArg DbgCtl.dbg hb.dbg :)]
    rfl

end

/-! ### The instructions on registers -/

section
variable {s : State} {th : Thread} (h : s.threadAt s.cur = some th)
include h

/-- A meaning for the executing thread. -/
theorem Steps.of_onThread {i : Instr} {rest : State → Thread → State} (hx : ∀ u, exec i u = u.onThread (rest u))
    (he : Ends s th (rest s th) (rest (underStep s th) (stepped th))) : Steps i s th :=
  ⟨_, _, (hx s).trans (onThread_eq h _), (hx _).trans (onThread_eq (threadAt_underStep s th) _), he⟩

/-- A meaning behind register checks. -/
theorem Steps.of_gate {i : Instr} {uses reads : List Reg} {rest : State → Thread → State}
    (hx : ∀ u, exec i u = u.onThread fun w => u.gate w uses reads (rest u w))
    (he : Ends s th (rest s th) (rest (underStep s th) (stepped th))) : Steps i s th :=
  .of_onThread h hx (.gate uses reads he)

/-- A result of registers, behind register checks. -/
theorem Steps.of_result {i : Instr} {uses reads : List Reg} {n : Nat} {d : Reg} {value : State → Thread → Word}
    (hx : ∀ u, exec i u = u.onThread fun w => u.gate w uses reads (u.finishWith n d (value u w)))
    (hv : value (underStep s th) (stepped th) = value s th) : Steps i s th :=
  .of_gate h hx (.finishWith (follows_refl h) n d hv)

theorem Steps.of_alu3 {i : Instr} {r : R3} {f : Word → Word → Word} (hx : ∀ u, exec i u = alu3 u r f) : Steps i s th :=
  .of_result h hx (by rw [g_underStep h, g_underStep h])

theorem Steps.of_alu3c {i : Instr} {r : R3} {f : Word → Word → Word → Word} (hx : ∀ u, exec i u = alu3c u r f) : Steps i s th :=
  .of_result h hx (by rw [g_underStep h, g_underStep h, g_underStep h])

theorem Steps.of_alu2 {i : Instr} {r : R2} {f : Word → Word} (hx : ∀ u, exec i u = alu2 u r f) : Steps i s th :=
  .of_result h hx (by rw [g_underStep h])

theorem Steps.of_aluI {i : Instr} {r : RI} {f : Word → Word → Word} (hx : ∀ u, exec i u = aluI u r f) : Steps i s th :=
  .of_result h hx (by rw [g_underStep h])

theorem Steps.of_aluL {i : Instr} {r : RL} {f : Word → Word → Word} (hx : ∀ u, exec i u = aluL u r f) : Steps i s th :=
  .of_result h hx (by rw [g_underStep h])

theorem Steps.of_aluS {i : Instr} {r : RS} {f : Word → Nat → Word} (hx : ∀ u, exec i u = aluS u r f) : Steps i s th :=
  .of_result h hx (by rw [g_underStep h])

theorem Steps.of_bitField {i : Instr} {r : RF} {b : Bool} {f : Nat → Nat → Word → Word → Word}
    (hx : ∀ u, exec i u = bitFieldOp u r b f) : Steps i s th :=
  .of_result h hx (by rw [g_underStep h, g_underStep h])

/-- A floating-point result and its flags, behind the checks of registers and rounding code. -/
theorem Steps.of_fpGate {i : Instr} {uses reads : List Reg} {rm : Option (BitVec 3)} {d : Reg} {value : State → Thread → Word}
    {flags : State → Thread → FpFlags}
    (hx : ∀ u, exec i u = u.onThread fun w => u.fpGate w i uses reads rm (u.fpFinish d (value u w) (flags u w)))
    (hv : value (underStep s th) (stepped th) = value s th) (hf : flags (underStep s th) (stepped th) = flags s th) :
    Steps i s th := by
  have hflags (f : FpFlags) := (follows_refl h).setThread (w := { th with fcsr := th.fcsr.raise f })
  refine .of_gate h (fun u => (hx u).trans (congrArg _ (funext fun w => fpGate_eq ..))) ?_
  rw [show roundingBad (stepped th).fcsr = roundingBad th.fcsr from rfl]
  split
  · exact .traps _ _
  · refine .gate uses reads ?_
    rw [State.fpFinish, State.fpFinish, modThread_eq h, underStep_cur, modThread_eq (threadAt_underStep s th), hf]
    exact .finishWith (hflags _) 4 d hv

theorem Steps.of_fpOp3 {i : Instr} {r : F3} {op : Fmt → Nat → Nat → Nat → FRes} (hx : ∀ u, exec i u = fpOp3 u i r op) :
    Steps i s th := by
  refine .of_fpGate h hx ?_ ?_ <;> rw [g_underStep h, g_underStep h] <;> rfl

theorem Steps.of_fpOp2 {i : Instr} {r : F2} {op : Fmt → Nat → Nat → FRes} (hx : ∀ u, exec i u = fpOp2 u i r op) :
    Steps i s th := by
  refine .of_fpGate h hx ?_ ?_ <;> rw [g_underStep h] <;> rfl

theorem Steps.of_fpCmp {i : Instr} {r : FC} {op : Fmt → Nat → Nat → Nat × FpFlags} (hx : ∀ u, exec i u = fpCmpOp u i r op) :
    Steps i s th := by
  refine .of_fpGate h hx ?_ ?_ <;> rw [g_underStep h, g_underStep h]

theorem Steps.fma (r : F3) : Steps (.fma r) s th := by
  refine .of_fpGate h (Laws.exec_fma r) ?_ ?_ <;> rw [g_underStep h, g_underStep h, g_underStep h] <;> rfl

theorem Steps.fcvt (r : FV) : Steps (.fcvt r) s th := by
  refine .of_fpGate h (Laws.exec_fcvt r) ?_ ?_ <;> rw [g_underStep h] <;> rfl

theorem Steps.of_branch {i : Instr} {r : RB} {cond : Word → Word → Bool} (hx : ∀ u, exec i u = branch u r cond) : Steps i s th := by
  refine .of_gate h hx ?_
  rw [g_underStep h, g_underStep h]
  exact .completes _ (follows_refl h)

theorem Steps.bl (r : RJ) : Steps (.bl r) s th :=
  .of_gate h (Laws.exec_bl r) (.completes _ ((follows_refl h).setReg r.d _))

theorem Steps.jr (a : Reg) : Steps (.jr a) s th := by
  refine .of_gate h (Laws.exec_jr a) (.orTrap (by rw [g_underStep h]) ?_)
  rw [g_underStep h]
  exact .completes _ (follows_refl h)

theorem Steps.jlr (r : R2) : Steps (.jlr r) s th := by
  refine .of_gate h (Laws.exec_jlr r) (.orTrap (by rw [g_underStep h]) ?_)
  rw [g_underStep h]
  exact .completes _ ((follows_refl h).setReg r.d _)

theorem Steps.trapc (a : Reg) : Steps (.trapc a) s th := by
  refine .of_gate h (Laws.exec_trapc a) ?_
  rw [g_underStep h]
  split
  · exact .finish (follows_refl h) 4
  · exact .traps _ _

theorem Steps.attime (a : Reg) : Steps (.attime a) s th := by
  refine .of_gate h (Laws.exec_attime a) ?_
  rw [g_underStep h, show (underStep s th).time = s.time from rfl]
  split
  · exact .finish (follows_refl h) 4
  · exact .waits _ _

theorem Steps.evclr (a : Reg) : Steps (.evclr a) s th := by
  refine .of_gate h (Laws.exec_evclr a) ?_
  rw [g_underStep h]
  exact .finish ((follows_refl h).setThread) 4

theorem Steps.ifence : Steps .ifence s th :=
  .of_onThread h Laws.exec_ifence (.finish ((follows_refl h).setThread) 4)

theorem Steps.iinv (a b : Reg) : Steps (.iinv a b) s th := by
  refine .of_gate h (Laws.exec_iinv a b) ?_
  rw [g_underStep h, g_underStep h]
  exact .finish ((follows_refl h).modCore _ (fun _ _ => by rfl)) 4

/-! ### Windows -/

theorem Steps.xborrow (r : R2) : Steps (.xborrow r) s th := by
  refine .of_gate h (Laws.exec_xborrow r) ?_
  rw [g_underStep h]
  dsimp only
  by_cases hslot : (s.g r.a).toNat = s.cur.slot
  · simp only [underStep_cur, hslot, true_or, or_true, if_true]
    exact .finishWith (follows_refl h) 4 r.d rfl
  · have hne : (⟨s.cur.core, (s.g r.a).toNat⟩ : ThreadId) ≠ s.cur := fun e => hslot (congrArg ThreadId.slot e)
    rw [underStep_cur, idle_underStep hne, show (stepped th).win = th.win from rfl]
    split
    · exact .finishWith (follows_refl h) 4 r.d rfl
    · exact .finishWith (((follows_refl h).modThread hne _).setThread) 4 r.d rfl

theorem Steps.xreturn (hne : th.win.bslot ≠ s.cur.slot) : Steps .xreturn s th := by
  have hlend : (⟨s.cur.core, th.win.bslot⟩ : ThreadId) ≠ s.cur := fun e => hne (congrArg ThreadId.slot e)
  refine .of_onThread h Laws.exec_xreturn ?_
  rw [State.returnWindow, State.returnWindow, show (stepped th).win = th.win from rfl]
  split
  · exact .finish (((follows_refl h).modThread hlend _).setThread) 4
  · exact .finish (follows_refl h) 4

theorem Steps.xget (hne : th.win.bslot ≠ s.cur.slot) (r : R2) : Steps (.xget r) s th := by
  have hlend : (⟨s.cur.core, th.win.bslot⟩ : ThreadId) ≠ s.cur := fun e => hne (congrArg ThreadId.slot e)
  refine .of_gate h (Laws.exec_xget r) (.orTrap (heldFault_underStep hne r.a) (.orTrap ?_ (.finishWith (follows_refl h) 4 r.d ?_)))
  · rw [underStep_cur, show (stepped th).win = th.win from rfl, threadAt_underStep_ne hlend]
    simp only [underStep, regFault_setThread]
  · exact reg_underStep h _ r.a

theorem Steps.xput (hne : th.win.bslot ≠ s.cur.slot) (j a : Reg) : Steps (.xput j a) s th := by
  have hlend : (⟨s.cur.core, th.win.bslot⟩ : ThreadId) ≠ s.cur := fun e => hne (congrArg ThreadId.slot e)
  refine .of_gate h (Laws.exec_xput j a) (.orTrap (heldFault_underStep hne j) (.gate _ _ ?_))
  rw [g_underStep h]
  exact .finish ((follows_refl h).setReg_ne hlend j _) 4

/-! ### Control registers -/

theorem Steps.rdc (hm : th.status.mode = .user) (d : Reg) (n : BitVec 4) : Steps (.rdc d n) s th := by
  refine .of_onThread h (Laws.exec_rdc d n) (.privGate _ _ fun hr => .gate _ _ ?_)
  have hc : ControlReg.ofNumber n ≠ .dbgctl := by
    intro hc
    rw [hc, hm] at hr
    exact absurd hr (by decide)
  have hv := readControl_underStep (s := s) (th := th) hc
  rw [State.viewMcur, State.viewMcur]
  split
  · exact .finishWith ((follows_refl h).modStation _ _) 4 d hv
  · exact .finishWith (follows_refl h) 4 d hv

theorem Steps.wrc (hm : th.status.mode = .user) (a : Reg) (n : BitVec 4) : Steps (.wrc a n) s th := by
  refine .of_onThread h (Laws.exec_wrc a n) (.privGate _ _ fun hw => .gate _ _ ?_)
  obtain rfl : n = 7 := by
    have := (writable_iff n _).1 hw
    simpa [hm] using this
  have hwrite {u : State} {v : Thread} (hv : u.threadAt s.cur = some v) (m : Mode) (w : Word) :
      u.writeControl s.cur m (ControlReg.ofNumber 7) w = u.setThread s.cur { v with fcsr := .ofWord w } := modThread_eq hv _
  rw [g_underStep h, underStep_cur, hwrite h, hwrite (threadAt_underStep s th)]
  exact .finish (follows_refl h).setThread 4

end

/-! ### The statement -/

theorem trapsWith_of_takeTrap {i : Instr} {s : State} {th : Thread} {c : TrapCause} (h : s.threadAt s.cur = some th)
    (hl : th.stepsLeft = none) (htr : th.dbg.tr = false) (hq : ∀ n, th.wait ≠ some (.semp n))
    (hx : exec i s = .next (s.takeTrap s.cur c)) :
    TrapsWith i s th (if c.completed then th.pc + 4 else th.pc)
      ((if c.intr then 2 ^ 63 else 0) + (if c.delivered then 2 ^ 8 else 0) + c.code % 2 ^ 8) c.tval
      (BitVec.ofNat 64 (c.sub % 256 * 2 ^ 56 + c.info % 2 ^ 56)) :=
  ⟨_, hx.trans (congrArg _ (takeTrap_eq h htr hl hq c)), entered_enterTrap hl c⟩

/-- BREAK of an instruction, with no more than a value. -/
theorem trapsWith_break {i : Instr} {s : State} {th : Thread} {tval : Word} (h : s.threadAt s.cur = some th)
    (hl : th.stepsLeft = none) (htr : th.dbg.tr = false) (hq : ∀ n, th.wait ≠ some (.semp n))
    (hx : exec i s = .next (s.takeTrap s.cur (precise 14 tval 0 0))) : TrapsWith i s th th.pc 14 tval 0 := by
  simpa [precise] using trapsWith_of_takeTrap h hl htr hq hx

theorem trapc_eq {s : State} {th : Thread} {a : Reg} (h : Executes s th [a] [a]) :
    exec (.trapc a) s = .next (if s.g a = 0 then s.finish s.cur 4 else s.takeTrap s.cur (precise 14 (s.g a) 0 0)) := by
  rw [Laws.exec_trapc, execTrapc, h.onThread, h.gate]
  rfl

theorem eret_eq {s : State} {th : Thread} (h : s.threadAt s.cur = some th) (hm : th.status.mode ≠ .user) :
    exec .eret s = .next (s.orTrap (targetFault th.trap.tpc) (s.returnFromTrap s.cur th)) := by
  rw [Laws.exec_eret, execEret, onThread_eq h, State.privGate, if_pos (bne_iff_ne.2 hm)]

theorem wfi_eq {s : State} {th : Thread} (h : s.threadAt s.cur = some th) (hm : th.status.mode = .machine) :
    exec .wfi s = .next (if s.pending s.cur th = 0 then s.waitFor s.cur .interrupt else s.finish s.cur 4) := by
  rw [Laws.exec_wfi, execWfi, onThread_eq h, State.privGate, if_pos (beq_iff_eq.2 hm)]

/-- An addition to g0, which only goes on. -/
theorem addZero_eq {s : State} {th : Thread} (h : s.threadAt s.cur = some th) (hw : th.win.wsize ≠ 0) :
    exec (.add ⟨0, 0, 0⟩) s = .next (s.complete s.cur (th.pc + 4)) := by
  have hin : ∀ r ∈ [(0 : Reg), 0, 0], r.toNat < 8 * th.win.wsize := by
    intro r hr
    obtain rfl : r = 0 := by simpa using hr
    exact Nat.mul_pos (by decide) (Nat.pos_of_ne_zero hw)
  have hp : ∀ r ∈ [(0 : Reg), 0], r ≠ 0 → th.rfEntry r.toNat ∉ (s.coreAt s.cur.core).rfBad := by
    intro r hr h0
    exact absurd (by simpa using hr) h0
  rw [Laws.exec_add, execAdd, alu3, onThread_eq h, State.gate, regFault_none hin hp]
  simp only [State.finishWith, setReg_zero, State.finish, h]
  rfl

/-- Settles O10: the traps by their entry, eret and wfi by their equations, and single stepping by what each instruction on
registers makes of a machine whose thread is stepped. -/
theorem systemInstructions : Obligations.SystemInstructions := by
  refine ⟨?traps, ?returns, ?addition, ?registers⟩
  case traps =>
    intro s th htr hq
    refine ⟨fun h => ⟨?ecall, ?brk⟩, fun a h => ⟨fun h0 => ?zero, fun h0 => ?nonzero⟩⟩
    case ecall =>
      simpa [precise] using trapsWith_of_takeTrap h.created h.stepped htr hq ((Laws.exec_ecall s).trans (h.onThread _))
    case brk => exact trapsWith_break h.created h.stepped htr hq ((Laws.exec_brk s).trans (h.onThread _))
    case zero =>
      exact ⟨_, (trapc_eq h).trans (congrArg _ (if_pos h0)), finish_ran h.created h.single h.stepped 4 0⟩
    case nonzero =>
      exact trapsWith_break h.created h.stepped htr hq ((trapc_eq h).trans (congrArg _ (if_neg h0)))
  case returns =>
    intro s th h
    refine ⟨fun hm h4 => ?aligned, fun hm h4 => ?misaligned, fun hm hp => ?pending, fun hm hp => ?none⟩
    case aligned =>
      rw [eret_eq h.created hm, targetFault_none h4, orTrap_none]
      exact congrArg _ (afterInstr_eq (th := th.leaveTrap) (State.threadAt_setThread_self ..) h.single h.stepped)
    case misaligned =>
      rw [Traps, eret_eq h.created hm, targetFault_some h4]
      rfl
    case pending =>
      exact ⟨_, (wfi_eq h.created hm).trans (congrArg _ (if_neg hp)), finish_ran h.created h.single h.stepped 4 0⟩
    case none => rw [wfi_eq h.created hm, if_pos hp]
  case addition =>
    intro s th h hl hss hw after
    refine ⟨fun hu hd => ?_, fun hu hd => ?_, fun hm => ?_⟩
    · rw [addZero_eq h hw, complete_stepped h hss hl hu, hd]; rfl
    · rw [addZero_eq h hw, complete_stepped h hss hl hu, hd]; rfl
    · rw [addZero_eq h hw, complete_eq h (.inr hm) hl]; rfl
  case registers =>
    intro s t th u r q ri rl rs rj rb rf f fq fc fk fv a d imm cond n i hi h hm hl hss hne hx hu hum huw put after
    have hsteps : Steps i s th := by
      refine (?_ : ∀ i ∈ _, Steps i s th) i hi
      simp only [List.forall_mem_cons]
      exact ⟨.of_alu3 h (Laws.exec_add r), .of_alu3 h (Laws.exec_sub r), .of_alu3 h (Laws.exec_mul r),
        .of_alu3 h (Laws.exec_mulh r), .of_alu3 h (Laws.exec_mulhu r), .of_alu3 h (Laws.exec_mulhsu r),
        .of_alu3c h (Laws.exec_madd r), .of_alu3 h (Laws.exec_div r), .of_alu3 h (Laws.exec_divu r), .of_alu3 h (Laws.exec_rem r),
        .of_alu3 h (Laws.exec_remu r), .of_alu3 h (Laws.exec_and r), .of_alu3 h (Laws.exec_or r), .of_alu3 h (Laws.exec_xor r),
        .of_alu3 h (Laws.exec_andn r), .of_alu3 h (Laws.exec_orn r), .of_alu3 h (Laws.exec_shl r), .of_alu3 h (Laws.exec_shr r),
        .of_alu3 h (Laws.exec_sar r), .of_alu3 h (Laws.exec_rotl r), .of_alu3 h (Laws.exec_min r), .of_alu3 h (Laws.exec_max r),
        .of_alu3 h (Laws.exec_minu r), .of_alu3 h (Laws.exec_maxu r), .of_alu3 h (Laws.exec_slt r), .of_alu3 h (Laws.exec_sltu r),
        .of_alu3c h (Laws.exec_sel r), .of_alu2 h (Laws.exec_clz q), .of_alu2 h (Laws.exec_ctz q), .of_alu2 h (Laws.exec_popc q),
        .of_alu2 h (Laws.exec_bswap q), .of_alu2 h (Laws.exec_sextB q), .of_alu2 h (Laws.exec_sextH q),
        .of_alu2 h (Laws.exec_sextW q), .of_alu2 h (Laws.exec_zextB q), .of_alu2 h (Laws.exec_zextH q),
        .of_alu2 h (Laws.exec_zextW q), .of_alu3 h (Laws.exec_hashm r), .of_aluI h (Laws.exec_addi ri),
        .of_aluI h (Laws.exec_andi ri), .of_aluI h (Laws.exec_ori ri), .of_aluI h (Laws.exec_xori ri),
        .of_aluI h (Laws.exec_slti ri), .of_aluI h (Laws.exec_sltiu ri), .of_aluL h (Laws.exec_addiLong rl),
        .of_aluL h (Laws.exec_andiLong rl), .of_aluL h (Laws.exec_oriLong rl), .of_aluL h (Laws.exec_xoriLong rl),
        .of_aluL h (Laws.exec_sltiLong rl), .of_aluL h (Laws.exec_sltiuLong rl), .of_result h (Laws.exec_luiH d imm) rfl,
        .of_aluS h (Laws.exec_shli rs), .of_aluS h (Laws.exec_shri rs), .of_aluS h (Laws.exec_sari rs),
        .of_aluS h (Laws.exec_rotli rs), .of_result h (Laws.exec_lui rj) rfl, .of_result h (Laws.exec_addpc rj) rfl,
        .of_bitField h (Laws.exec_bfx rf), .of_bitField h (Laws.exec_bfxu rf), .of_bitField h (Laws.exec_bfi rf),
        .of_fpOp3 h (Laws.exec_fadd f), .of_fpOp3 h (Laws.exec_fsub f), .of_fpOp3 h (Laws.exec_fmul f), .fma h f,
        .of_fpOp3 h (Laws.exec_fdiv f), .of_fpOp2 h (Laws.exec_fsqrt fq), .of_fpCmp h (Laws.exec_fmin fc),
        .of_fpCmp h (Laws.exec_fmax fc), .of_fpCmp h (Laws.exec_fsgn fc), .of_fpCmp h (Laws.exec_fcmp fc cond),
        .of_result h (Laws.exec_fclass fk) (by rw [g_underStep h]), .fcvt h fv, .of_fpOp2 h (Laws.exec_fround fq), .bl h rj,
        .jr h a, .jlr h q, .of_branch h (Laws.exec_beq rb), .of_branch h (Laws.exec_bne rb), .of_branch h (Laws.exec_blt rb),
        .of_branch h (Laws.exec_bge rb), .of_branch h (Laws.exec_bltu rb), .of_branch h (Laws.exec_bgeu rb), .trapc h a,
        .xborrow h q, .xreturn h hne, .xget h hne q, .xput h hne d a,
        .of_result h (Laws.exec_scope r) (by rw [g_underStep h, g_underStep h]), .of_result h (Laws.exec_rdtime d) rfl,
        .attime h a, .of_result h (Laws.exec_evpoll q) (by rw [g_underStep h]; rfl), .evclr h a,
        .of_result h (Laws.exec_peekr d) rfl, .rdc h hm d n, .wrc h hm a n, .iinv h a d, .ifence h,
        fun _ hx => absurd hx List.not_mem_nil⟩
    obtain ⟨_, r', hr, hr', he⟩ := hsteps
    obtain rfl := Host.Outcome.next.inj (hr.symm.trans hx)
    have hend := he.stepped h hm hl hss hu hum huw
    exact ⟨fun hd => hr'.trans (congrArg _ (hend.trans (if_neg (by simp [hd])))),
      fun hd => hr'.trans (congrArg _ (hend.trans (if_pos hd)))⟩

end Sys2Proof
end

section
/-! Fills of slices and of instruction lines, refresh windows, and the settling of O24. -/

namespace Sys2Proof

open Sys2Proof.Machine

/-! ### Fills of a slice (R279) -/

/-- A fill that is under way returns, and no access waits for it. -/
theorem sliceFill_alone {s : State} {station line : Nat} (hfill : ∃ l ∈ (s.stationAt station).slice, l.line = line ∧ l.fill = true)
    (hnone : ∀ x ∈ s.accesses, x.stage ≠ .filling) : exec (.sliceFill station line) s = .next (lineReturned s station line) := by
  have hany : (s.stationAt station).slice.any (fun l => l.line == line && l.fill) = true := by
    obtain ⟨l, hl, hline, hf⟩ := hfill
    exact List.any_eq_true.2 ⟨l, hl, by simp [hline, hf]⟩
  rw [Laws.exec_sliceFill, execSliceFill, if_pos hany, afterFill_none _ fun x hx hw => hnone x hx hw.1]
  rfl

/-! ### What reads of page tables and of lines leave of the cores (R225, R230, R231) -/

theorem unmoved_cores : Unmoved State.cores (fun _ => True) where
  station _ _ _ := rfl
  dram _ _ := rfl
  writeBack s x _ := by
    rw [State.writeBack]
    split <;> rfl

theorem cores_findErrors (s : State) (pa n ctx : Nat) (place : BitVec 32) : (s.findErrors pa n ctx place).cores = s.cores :=
  foldl_keeps State.cores (fun s l => logError_cores { s with phys := { s.phys with
    uncorr := s.phys.uncorr.filter (· != l), poison := l :: s.phys.poison } } 10 3 ctx place (l * 64)) _ s

theorem cores_bareTouch (s : State) (pa n ctx : Nat) : (s.bareTouch pa n ctx).cores = s.cores := by
  rw [State.bareTouch]
  split
  · rfl
  · exact (unmoved_cores.sliceTouch trivial ..).trans (cores_findErrors ..)

theorem cores_walkTouch (s : State) (ctx va : Nat) : (s.walkTouch ctx va).cores = s.cores :=
  foldl_keeps State.cores (fun s a => cores_bareTouch s a 8 ctx) _ s

theorem cores_leafFor (s : State) (n ctx va : Nat) : (s.leafFor n ctx va).2.cores = s.cores := by
  unfold State.leafFor
  split
  · rfl
  · split
    · exact cores_walkTouch ..
    · exact cores_walkTouch ..

theorem cores_countAccess (s : State) (ctx pa : Nat) : (s.countAccess ctx pa).cores = s.cores := by
  unfold State.countAccess
  dsimp only
  split
  · rfl
  · split
    · rfl
    · split <;> rfl

theorem cores_locate (s : State) (st ctx va : Nat) (need : Need) (user host : Bool) :
    (s.locate st ctx va need user host).2.cores = s.cores := by
  have hleaf := cores_leafFor s (st / 8) ctx va
  unfold State.locate
  split
  case h_1 hw => rwa [hw] at hleaf
  case h_2 hw => rwa [hw] at hleaf
  case h_3 hw =>
    rw [hw] at hleaf
    split
    · exact hleaf
    · dsimp only
      split <;> exact hleaf

theorem cores_translate (s : State) (st ctx va : Nat) (need : Need) (user host : Bool) :
    (s.translate st ctx va need user host).2.cores = s.cores := by
  have hloc := cores_locate s st ctx va need user host
  unfold State.translate
  split
  case h_1 hw =>
    rw [hw] at hloc
    dsimp only
    split
    · exact hloc
    · exact (cores_countAccess ..).trans hloc
  case h_2 => exact hloc

theorem cores_hold (s : State) (who : HeldBy) (st ctx va : Nat) : (s.hold who st ctx va).cores = s.cores := by
  unfold State.hold
  split <;> rfl

/-- A translation leaves the cores as they are. -/
theorem cores_translateIn (s : State) (who : HeldBy) (st ctx va : Nat) (need : Need) (user host : Bool) :
    (s.translateIn who st ctx va need user host).2.cores = s.cores := by
  have htr := cores_translate s st ctx va need user host
  unfold State.translateIn State.inTurn
  split
  · exact cores_hold ..
  · split
    case h_1 hw =>
      rw [hw] at htr
      exact (cores_hold ..).trans htr
    case h_2 hw =>
      rw [hw] at htr
      exact htr

theorem threadAt_of_cores {s u : State} (h : u.cores = s.cores) (t : ThreadId) : u.threadAt t = s.threadAt t := by
  rw [State.threadAt, State.threadAt, State.coreAt, State.coreAt, h]

/-! ### One aligned line at its home slice (R227, R231, R279, R318) -/

theorem linesOf_line {pa : Nat} (h : pa % 64 = 0) : linesOf pa 64 = [pa / 64] := by
  have hone : (pa + 64 - 1) / 64 - pa / 64 + 1 = 1 := by omega
  rw [linesOf, if_neg (by decide), hone]
  rfl

/-- Where no access waits for a line's fill, an access to the line finds none that arrived earlier. -/
theorem settleFills_line {s : State} {pa : Nat} (hpa : pa % 64 = 0)
    (h : ∀ x ∈ s.accesses, x.stage = .filling → x.loc / 64 ≠ pa / 64) : s.settleFills pa 64 = s := by
  have hany : s.accesses.any (fun x => x.stage == .filling && x.loc / 64 == pa / 64) = false := by
    rw [List.any_eq_false]
    intro x hx hw
    simp only [Bool.and_eq_true, beq_iff_eq] at hw
    exact h x hx hw.1 hw.2
  rw [State.settleFills, linesOf_line hpa, List.foldl_cons, List.foldl_nil, hany, if_neg (by decide)]

/-- A line of the reader's own tag is seen as it is. -/
theorem bytesFor_own {p : Phys} {tag a n : Nat} (h : ∀ z, a ≤ z → z < a + n → p.lineTag (z / 64) = tag) :
    p.bytesFor tag a n = p.ram.readBytes a n := by
  induction n generalizing a with
  | zero => rfl
  | succ n ih =>
    have hbyte : p.byteFor tag a = p.ram.read a := by
      rw [Phys.byteFor, if_neg]
      rw [h a (by omega) (by omega)]
      exact fun hz => hz.1 hz.2
    rw [Phys.bytesFor, Memory.readBytes, hbyte, ih fun z h1 h2 => h z (by omega) (by omega)]

/-- A line of no tag is seen as zeros by a reader that has one. -/
theorem bytesFor_untagged {p : Phys} {tag a n : Nat} (htag : tag ≠ 0) (h : ∀ z, a ≤ z → z < a + n → p.lineTag (z / 64) = 0) :
    p.bytesFor tag a n = List.replicate n 0 := by
  induction n generalizing a with
  | zero => rfl
  | succ n ih =>
    have hbyte : p.byteFor tag a = 0 := if_pos ⟨htag, h a (by omega) (by omega)⟩
    rw [Phys.bytesFor, List.replicate_succ, hbyte, ih fun z h1 h2 => h z (by omega) (by omega)]

section
variable {s : State} {tag pa : Nat} (hpa : pa % 64 = 0)
include hpa

theorem line_of_mem {z : Nat} (h1 : pa ≤ z) (h2 : z < pa + 64) : z / 64 = pa / 64 := by omega

theorem lineRead_otherTag (h : s.phys.lineTag (pa / 64) ≠ tag) (h0 : s.phys.lineTag (pa / 64) ≠ 0) :
    s.tagRead tag pa 64 = .error 11 := by
  rw [State.tagRead, Phys.readFault, linesOf_line hpa, if_pos (by simp [h, h0])]

variable (hown : s.phys.lineTag (pa / 64) = tag ∨ s.phys.lineTag (pa / 64) = 0)
include hown

theorem lineRead_poisoned (h : pa / 64 ∈ s.phys.poison) : s.tagRead tag pa 64 = .error 10 := by
  rw [State.tagRead, Phys.readFault, linesOf_line hpa, if_neg (by simpa using fun hne => hown.resolve_left hne),
    if_pos (by simpa using h)]

theorem lineRead_sound (h : pa / 64 ∉ s.phys.poison) (hd : s.sec.tagState tag ≠ .dead) :
    s.tagRead tag pa 64 = .ok (s.phys.bytesFor tag pa 64) := by
  rw [State.tagRead, Phys.readFault, linesOf_line hpa, if_neg (by simpa using fun hne => hown.resolve_left hne),
    if_neg (by simpa using h)]
  dsimp only
  rw [State.seenBytes, if_neg hd]

end

theorem tagRead_besideHome (s : State) (tag pa n : Nat) : (besideHome s).tagRead tag pa n = s.tagRead tag pa n := by
  have hbytes : (besideHome s).phys.bytesFor tag pa n = s.phys.bytesFor tag pa n := by
    rw [bytesFor_eq, bytesFor_eq]; rfl
  simp only [State.tagRead, State.seenBytes, hbytes]
  rfl

theorem tagRead_of_besideHome {s t : State} (h : besideHome t = besideHome s) (tag pa n : Nat) :
    t.tagRead tag pa n = s.tagRead tag pa n := by
  rw [← tagRead_besideHome t, h, tagRead_besideHome]

/-! ### A line that arrives, and a fetch that faults (R139, R225) -/

/-- A fill of the line that a thread waits for brings its bytes into the thread's fetch register and its core's cache. -/
def LineArrived (s : State) (t : ThreadId) (th : Thread) (base : Nat) (ext : ExtAnswer) (bytes : List Byte) : Prop :=
  ∃ s', exec (.ifetchLineFill t ext) s = .next s' ∧
    s'.threadAt t = some { th with wait := none, fetch := some { base := base, bytes := bytes } } ∧
    ∃ l ∈ (s'.coreAt t.core).icache, l.ctx = th.ctxId.toNat ∧ l.base = base ∧ l.bytes = bytes

/-- A fill of the line that a thread waits for takes a trap at its pc, with the cores otherwise as they were. -/
def FetchTrapped (s : State) (t : ThreadId) (th : Thread) (ext : ExtAnswer) (code sub : Nat) : Prop :=
  ∃ u : State, u.cores = s.cores ∧ exec (.ifetchLineFill t ext) s = .next (u.takeTrap t (precise code th.pc sub 0))

/-- The core's cache with a line that has come in front. -/
def lineCached (u : State) (t : ThreadId) (th : Thread) (base : Nat) (bytes : List Byte) : State :=
  u.modCore t.core (fun k => { k with icache := icacheUse k.icache { ctx := th.ctxId.toNat, base := base, bytes := bytes } })

theorem lineArrives_eq (u : State) (t : ThreadId) (th : Thread) (base : Nat) (bytes : List Byte) :
    u.lineArrives t th base bytes = (lineCached u t th base bytes).modThread t (fun th => { th with
      wait := none
      fetch := if lineBase th.pc.toNat = base then some { base := base, bytes := bytes } else th.fetch }) := rfl

section
variable {s u : State} {t : ThreadId} {th : Thread} {base : Nat} {ext : ExtAnswer} (hth : s.threadAt t = some th)
  (hbase : lineBase th.pc.toNat = base) (hu : u.cores = s.cores)
include hbase hu

theorem fetchTrapped_of {code sub : Nat} (h : exec (.ifetchLineFill t ext) s = .next (u.fetchFault t th base code sub 0)) :
    FetchTrapped s t th ext code sub := by
  refine ⟨u, hu, ?_⟩
  rw [h, State.fetchFault, fetchAddress, if_pos hbase]

include hth

theorem lineArrived_of {bytes : List Byte} (h : exec (.ifetchLineFill t ext) s = .next (u.lineArrives t th base bytes)) :
    LineArrived s t th base ext bytes := by
  have hcached : (lineCached u t th base bytes).threadAt t = some th :=
    (State.threadAt_modCore _ _ _ (fun _ => by rfl) t).trans ((threadAt_of_cores hu t).trans hth)
  rw [lineArrives_eq] at h
  refine ⟨_, h, ?_, { ctx := th.ctxId.toNat, base := base, bytes := bytes }, ?_, rfl, rfl, rfl⟩
  · rw [State.threadAt_modThread_self, hcached, Option.map_some, if_pos hbase]
  · rw [State.modThread, hcached]
    dsimp only
    rw [coreAt_setThread, lineCached, State.coreAt_modCore_self]
    exact List.mem_cons_self

end

/-! ### Lines of another device (R139, R285, R288) -/

section
variable {s : State} {t : ThreadId} {th : Thread} {base d : Nat} {held : Option Nat} {ext : ExtAnswer}
  (hth : s.threadAt t = some th) (hrun : th.halted = false) (hwait : th.wait = some (.line base held))
include hth hrun hwait

theorem fill_remote (hd : s.region base = .remote d) :
    exec (.ifetchLineFill t ext) s = .next (s.lineThere d t th base ext) := by
  rw [Laws.exec_ifetchLineFill, execIfetchLineFill, hth]
  simp only [hrun, Bool.false_eq_true, if_false, hwait, hd]

theorem fill_paged (hp : s.region base = .paged) : exec (.ifetchLineFill t ext) s = .next (s.lineHere t th base held) := by
  rw [Laws.exec_ifetchLineFill, execIfetchLineFill, hth]
  simp only [hrun, Bool.false_eq_true, if_false, hwait, hp]

end

/-- The load by which a thread asks another device for a line. -/
def lineLoad (s : State) (d : Nat) (t : ThreadId) (th : Thread) (base : Nat) : Access :=
  { Access.make t th .load 2 base 64 0 0 0 false false 0 s.time with
    id := s.nextId, issuer := .fetch t, stage := .offDevice, port := s.granulePort d base, sent := s.nextId }

/-- The machine with that load under way, before its packet waits at a port. -/
def lineAsked (s : State) (d : Nat) (t : ThreadId) (th : Thread) (base : Nat) : State :=
  { s with accesses := s.accesses.filter (fun y => y.issuer != .fetch t) ++ [lineLoad s d t th base], nextId := s.nextId + 1 }

theorem askLine_eq (s : State) (d : Nat) (t : ThreadId) (th : Thread) (base : Nat) : s.askLine d t th base =
    (lineAsked s d t th base).sendPacket (s.granulePort d base) (.access d th.ctxId.toNat s.nextId) := rfl

theorem sendPacket_accesses (s : State) (port : Option Nat) (p : OutPacket) : (s.sendPacket port p).accesses = s.accesses := by
  cases port <;> rfl

theorem sendPacket_cores (s : State) (port : Option Nat) (p : OutPacket) : (s.sendPacket port p).cores = s.cores := by
  cases port <;> rfl

theorem portAt_sendPacket (s : State) (q : Nat) (p : OutPacket) : ((s.sendPacket (some q) p).portAt q).out = (s.portAt q).out ++ [p] := by
  rw [State.sendPacket, State.portAt_setPort_self]

theorem lineLoad_mem_askLine (s : State) (d : Nat) (t : ThreadId) (th : Thread) (base : Nat) :
    lineLoad s d t th base ∈ (s.askLine d t th base).accesses := by
  rw [askLine_eq, sendPacket_accesses]
  exact List.mem_append_right _ (List.mem_singleton_self _)

theorem cores_askLine (s : State) (d : Nat) (t : ThreadId) (th : Thread) (base : Nat) :
    (s.askLine d t th base).cores = s.cores := sendPacket_cores ..

/-- The request waits at the port that its address chooses. -/
theorem portAt_askLine {s : State} {d base q : Nat} (t : ThreadId) (th : Thread) (hq : s.granulePort d base = some q) :
    ((s.askLine d t th base).portAt q).out = (s.portAt q).out ++ [.access d th.ctxId.toNat s.nextId] := by
  rw [askLine_eq, hq, portAt_sendPacket]
  rfl

/-- The request for a line of another device: a load of 64 bytes, which waits at its port. -/
theorem askLine_asks {s : State} {t : ThreadId} {th : Thread} (hth : s.threadAt t = some th) (d base : Nat) :
    ∃ x, (s.askLine d t th base).threadAt t = some th ∧ x ∈ (s.askLine d t th base).accesses ∧
    (x.issuer = .fetch t ∧ x.va = base) ∧ x.kind = .load ∧ x.n = 64 ∧ x.stage = .offDevice ∧ x.port = s.granulePort d base ∧
    ∀ q, x.port = some q → ((s.askLine d t th base).portAt q).out = (s.portAt q).out ++ [.access d th.ctxId.toNat x.id] :=
  ⟨lineLoad s d t th base, (threadAt_of_cores (cores_askLine ..) t).trans hth, lineLoad_mem_askLine .., ⟨rfl, rfl⟩, rfl, rfl, rfl,
    rfl, fun _ hq => portAt_askLine t th hq⟩

/-- The answer to the one request that a thread has sent for a line is what the other device gave. -/
theorem answerOf_remote {s : State} {x : Access} (ext : ExtAnswer) (hx : x.stage = .offDevice) (hsent : s.unsent x.id = false) :
    s.answerOf x ext = some { fault := ext.fault, sub := ext.sub, info := 0, value := x.extend ext.data.toNat } := by
  simp only [State.answerOf, hx, hsent, Bool.false_eq_true, if_false]

/-! ### Lines of the own device's memory (R225, R227, R229, R231, R318) -/

/-- A line as its home slice gives it, once the translation of its address has left s. -/
def lineTouched (s : State) (pa : Nat) : State := s.sliceTouch pa 64 false false

theorem tagRead_lineTouched {s : State} (hfolds : s.folds = []) (pa tag : Nat) :
    (lineTouched s pa).tagRead tag pa 64 = s.tagRead tag pa 64 :=
  tagRead_of_besideHome (besideHome_sliceTouch hfolds pa 64 false) tag pa 64

section
variable {s : State} {pa : Nat} (hpa : pa % 64 = 0) (hfolds : s.folds = []) (herr : pa / 64 ∉ s.phys.uncorr)
  (hfill : ∀ x ∈ s.accesses, x.stage = .filling → x.loc / 64 ≠ pa / 64) {t : ThreadId} {th : Thread} (base : Nat)
include hpa hfolds herr hfill

/-- Where nothing is pending on the line, no error is found in it and no access waits for its fill, the home slice has nothing else to
do first. -/
theorem lineTouched_eq (ctx : Nat) (place : BitVec 32) :
    (((s.settleFills pa 64).foldRange pa 64).findErrors pa 64 ctx place).sliceTouch pa 64 false false = lineTouched s pa := by
  rw [settleFills_line hpa hfill, foldRange_none hfolds, findErrors_none (linesOf_line hpa) herr, lineTouched]

/-- What a read under the thread's tag gives arrives. -/
theorem lineFrom_read {bs : List Byte} (h : s.tagRead th.ctxTag.toNat pa 64 = .ok bs) :
    s.lineFrom t th base pa = (lineTouched s pa).lineArrives t th base bs := by
  have hread := (tagRead_lineTouched hfolds pa th.ctxTag.toNat).trans h
  unfold State.lineFrom
  simp only [lineTouched_eq hpa hfolds herr hfill, hread]

theorem lineFrom_fails {code : Nat} (h : s.tagRead th.ctxTag.toNat pa 64 = .error code) :
    s.lineFrom t th base pa =
      if code = 11 then (lineTouched s pa).fetchFault t th base 6 7 0 else (lineTouched s pa).fetchFault t th base 20 3 0 := by
  have hread := (tagRead_lineTouched hfolds pa th.ctxTag.toNat).trans h
  unfold State.lineFrom
  simp only [lineTouched_eq hpa hfolds herr hfill, hread]

end

theorem cores_lineTouched (s : State) (pa : Nat) : (lineTouched s pa).cores = s.cores := unmoved_cores.sliceTouch trivial ..

/-- What has been held since a tick, or has not, is late. -/
theorem late_iff (held : Option Nat) (n time : Nat) : (held.map (fun since => decide (since + n ≤ time))).getD false = true ↔
    ∃ since, held = some since ∧ since + n ≤ time := by
  cases held <;> simp

section
variable {s : State} {t : ThreadId} {th : Thread} {base : Nat} {held : Option Nat}

theorem lineHere_late {since : Nat} (hheld : held = some since) (hlate : since + 76000 ≤ s.time.toNat) :
    s.lineHere t th base held = s.fetchFault t th base 5 3 0 := by
  rw [State.lineHere, if_pos ((late_iff ..).2 ⟨since, hheld, hlate⟩)]

variable (hheld : ∀ since, held = some since → s.time.toNat < since + 76000)
include hheld

theorem held_inTime : (held.map (fun since => decide (since + 76000 ≤ s.time.toNat))).getD false = false := by
  refine Bool.eq_false_iff.2 fun hlate => ?_
  obtain ⟨since, hs, hle⟩ := (late_iff ..).1 hlate
  exact absurd (hheld since hs) (Nat.not_lt.2 hle)

theorem lineHere_shut (hway : s.routeOpen (s.memRoute (t.core / 8) th.ctxId.toNat base) = false) :
    s.lineHere t th base held = s := by
  rw [State.lineHere]
  simp only [held_inTime hheld, stationOfCore, hway, Bool.false_eq_true, if_false, Bool.not_false, if_true]

theorem lineHere_found {pa : Nat} {s1 : State} (hway : s.routeOpen (s.memRoute (t.core / 8) th.ctxId.toNat base) = true)
    (htr : (s.touchRoute (s.memRoute (t.core / 8) th.ctxId.toNat base)).translateIn (.line t) (t.core / 8) th.ctxId.toNat base .fetch
      (th.status.mode == .user) false = (.pa pa, s1)) :
    s.lineHere t th base held = s1.lineFrom t th base pa := by
  rw [State.lineHere]
  simp only [held_inTime hheld, stationOfCore, hway, Bool.false_eq_true, if_false, Bool.not_true, htr]

end

/-! ### The refresh window (R281) -/

theorem dirtyPins_none {s : State} (h : ∀ p ∈ s.stations, ∀ l ∈ p.2.slice, l.pinned = true → l.dirty = false) : s.dirtyPins = [] := by
  rw [State.dirtyPins, List.flatMap_eq_nil_iff]
  intro p hp
  rw [List.filter_eq_nil_iff]
  intro l hl hw
  simp only [Bool.and_eq_true] at hw
  simp [h p hp l hl hw.1] at hw

theorem mem_releasePins {l : List SliceLine} {x : SliceLine} (h : x ∈ releasePins l) : x.pinned = false := by
  obtain ⟨y, -, rfl⟩ := List.mem_map.1 h
  split
  · rfl
  · exact Bool.eq_false_iff.2 ‹_›

/-- The end of a window without a dirty pinned line makes no DRAM request. -/
theorem refreshWindowEnd_clean {s : State} (hdue : s.dram.windowStart + 60800000 ≤ s.time.toNat)
    (h : ∀ p ∈ s.stations, ∀ l ∈ p.2.slice, l.pinned = true → l.dirty = false) :
    exec .refreshWindowEnd s = .next { s with
      stations := s.stations.map (fun p => (p.1, { p.2 with slice := releasePins p.2.slice }))
      dram := { s.dram with activations := [], windowStart := s.time.toNat } } := by
  rw [Laws.exec_refreshWindowEnd, execRefreshWindowEnd, if_neg (by omega), dirtyPins_none h]
  rfl

/-! ### What a fill comes to, case by case -/

section
variable {s : State} {t : ThreadId} {th : Thread} {base : Nat} {held : Option Nat} (ext : ExtAnswer)
  (hth : s.threadAt t = some th) (hrun : th.halted = false) (hwait : th.wait = some (.line base held))
  (hbase : lineBase th.pc.toNat = base)
include hth hrun hwait hbase

/-- A line of another device: LINK without a port, else asked for once; then the answer arrives or faults. -/
theorem remoteLine_fill {d : Nat} (hd : s.region base = .remote d) :
    ((∀ x ∈ s.accesses, ¬ (x.issuer = .fetch t ∧ x.va = base)) →
      (s.linked d = false → FetchTrapped s t th ext 17 0) ∧
      (s.linked d = true → exec (.ifetchLineFill t ext) s = .next (s.askLine d t th base))) ∧
    (∀ x, FirstOf s.accesses (fun x => x.issuer = .fetch t ∧ x.va = base) x → x.stage = .offDevice → s.unsent x.id = false →
      (ext.fault = 0 → ext.bytes.length = 64 → LineArrived s t th base ext ext.bytes) ∧
      (ext.fault ≠ 0 → FetchTrapped s t th ext ext.fault ext.sub)) := by
  have hfilled := fill_remote (ext := ext) hth hrun hwait hd
  have hasked : ∀ x : Access, (x.issuer == .fetch t && x.va == base) = true ↔ (x.issuer = .fetch t ∧ x.va = base) :=
    fun x => by simp only [Bool.and_eq_true, beq_iff_eq]
  refine ⟨fun hnone => ?_, fun x hx hstage hsent => ?_⟩
  · rw [State.lineThere, find?_eq_none_of hnone hasked] at hfilled
    refine ⟨fun hlink => fetchTrapped_of hbase rfl (hfilled.trans ?_), fun hlink => hfilled.trans ?_⟩
    · rw [hlink]; rfl
    · rw [hlink]; rfl
  · rw [State.lineThere, hx.find?_eq hasked] at hfilled
    dsimp only at hfilled
    rw [answerOf_remote ext hstage hsent] at hfilled
    dsimp only at hfilled
    refine ⟨fun hok hlen => ?_, fun hf => ?_⟩
    · have hbytes : (ext.bytes ++ List.replicate 64 0).take 64 = ext.bytes := List.take_left' hlen
      rw [if_neg (not_not.2 hok), hbytes] at hfilled
      exact lineArrived_of hth hbase (State.dropAccess_cores ..) hfilled
    · rw [if_pos hf] at hfilled
      exact fetchTrapped_of hbase (State.dropAccess_cores ..) hfilled

variable (hp : s.region base = .paged)
include hp

/-- A line of the own device's memory, once its address is translated: its bytes, zeros where it has no tag, or the fault. -/
theorem ownLine_fill (hheld : ∀ since, held = some since → s.time.toNat < since + 76000)
    (hway : s.routeOpen (s.memRoute (t.core / 8) th.ctxId.toNat base) = true) {pa : Nat} {s1 : State}
    (htr : (s.touchRoute (s.memRoute (t.core / 8) th.ctxId.toNat base)).translateIn (.line t) (t.core / 8) th.ctxId.toNat base .fetch
      (th.status.mode == .user) false = (.pa pa, s1))
    (hpa : pa % 64 = 0) (hfolds : s1.folds = []) (herr : pa / 64 ∉ s1.phys.uncorr)
    (hfill : ∀ x ∈ s1.accesses, x.stage = .filling → x.loc / 64 ≠ pa / 64) (hdead : s1.sec.tagState th.ctxTag.toNat ≠ .dead) :
    let own := s1.phys.lineTag (pa / 64)
    (own = th.ctxTag.toNat → pa / 64 ∉ s1.phys.poison → LineArrived s t th base ext (s1.phys.ram.readBytes pa 64)) ∧
    (own = 0 → own ≠ th.ctxTag.toNat → pa / 64 ∉ s1.phys.poison → LineArrived s t th base ext (List.replicate 64 0)) ∧
    (own ≠ th.ctxTag.toNat → own ≠ 0 → FetchTrapped s t th ext 6 7) ∧
    (own = th.ctxTag.toNat ∨ own = 0 → pa / 64 ∈ s1.phys.poison → FetchTrapped s t th ext 20 3) := by
  intro own
  have hfilled := fill_paged (ext := ext) hth hrun hwait hp
  rw [lineHere_found hheld hway htr] at hfilled
  have htranslated : s1.cores = s.cores := by
    have h := cores_translateIn (s.touchRoute (s.memRoute (t.core / 8) th.ctxId.toNat base)) (.line t) (t.core / 8) th.ctxId.toNat
      base .fetch (th.status.mode == .user) false
    rw [htr, touchRoute_eq] at h
    exact h
  have hcores : (lineTouched s1 pa).cores = s.cores := (cores_lineTouched s1 pa).trans htranslated
  have hline (z : Nat) (h1 : pa ≤ z) (h2 : z < pa + 64) : s1.phys.lineTag (z / 64) = own := by rw [line_of_mem hpa h1 h2]
  refine ⟨fun hown hsound => ?_, fun hzero hown hsound => ?_, fun hown hzero => ?_, fun hown hpoison => ?_⟩
  · have hread := lineRead_sound hpa (.inl hown) hsound hdead
    rw [bytesFor_own fun z h1 h2 => (hline z h1 h2).trans hown] at hread
    exact lineArrived_of hth hbase hcores (hfilled.trans (by rw [lineFrom_read hpa hfolds herr hfill base hread]))
  · have hread := lineRead_sound hpa (.inr hzero) hsound hdead
    rw [bytesFor_untagged (fun h => hown (hzero.trans h.symm)) fun z h1 h2 => (hline z h1 h2).trans hzero] at hread
    exact lineArrived_of hth hbase hcores (hfilled.trans (by rw [lineFrom_read hpa hfolds herr hfill base hread]))
  · have hread := lineRead_otherTag hpa hown hzero
    exact fetchTrapped_of hbase hcores (hfilled.trans (by rw [lineFrom_fails hpa hfolds herr hfill base hread, if_pos rfl]))
  · have hread := lineRead_poisoned hpa hown hpoison
    exact fetchTrapped_of hbase hcores (hfilled.trans (by rw [lineFrom_fails hpa hfolds herr hfill base hread, if_neg (by decide)]))

end

/-- Settles O24: a slice's fill by the line that returns; an instruction line by where its address lives, what a read under the
thread's tag gives at its home slice, and that translations and slices leave the cores as they are; a window by its pinned lines. -/
theorem fillsAndRefreshWindows : Obligations.FillsAndRefreshWindows := by
  refine ⟨fun s station line hfill hnone => ⟨_, sliceFill_alone hfill hnone, ?slice, rfl⟩, ?lines, fun s hdue hclean => ?window⟩
  case slice => rw [stationAt_lineReturned]
  case window =>
    refine ⟨_, refreshWindowEnd_clean hdue hclean, rfl, rfl, rfl, fun p hp l hl => ?_⟩
    obtain ⟨q, -, rfl⟩ := List.mem_map.1 hp
    exact mem_releasePins hl
  case lines =>
    intro s t th base held ext hth hrun hwait hbase arrives traps
    refine ⟨fun d hd => ?_, fun hp since hheld hlate => ?_, fun hp hheld => ?_⟩
    · obtain ⟨hask, hanswer⟩ := remoteLine_fill ext hth hrun hwait hbase hd
      refine ⟨fun hnone => ⟨(hask hnone).1, fun hlink => ?_⟩, hanswer⟩
      obtain ⟨x, hx⟩ := askLine_asks hth d base
      exact ⟨_, x, (hask hnone).2 hlink, hx⟩
    · refine fetchTrapped_of hbase rfl ?_
      rw [fill_paged hth hrun hwait hp, lineHere_late hheld hlate]
    · intro way
      refine ⟨fun hshut => ?_, fun hopen pa s1 htr hpa hfolds herr hfill hdead => ?_⟩
      · rw [fill_paged hth hrun hwait hp, lineHere_shut hheld hshut]
      · exact ownLine_fill ext hth hrun hwait hbase hp hheld hopen htr hpa hfolds herr hfill hdead

end Sys2Proof
end
